-- ==== Sys2Proof/Word.lean ====
section
/-!
DEFINITION. The word types of the KN1640 and their plainest arithmetic (spec/00_scope.md R8, R9; spec/01_machine_state.md R12).
-/
namespace Sys2Proof

/-- A 64-bit register or memory word (R12). -/
abbrev Word := BitVec 64
/-- One byte of memory. -/
abbrev Byte := BitVec 8
/-- A 32-bit parcel of the instruction stream (R84). -/
abbrev Parcel := BitVec 32
/-- One 32-bit vector lane (R183). -/
abbrev Lane := BitVec 32
/-- An m-tile or accumulator-tile element: 144 bits, the upper 16 of them guard bits (R176). -/
abbrev Acc := BitVec 144
/-- A program counter: an offset into the core's local SRAM (R11). -/
abbrev Pc := BitVec 15
/-- Register numbers of the files g, v, ta, w, o, m and q (R97). -/
abbrev GReg := BitVec 5
abbrev VReg := BitVec 4
abbrev TaReg := BitVec 4
abbrev WReg := BitVec 3
abbrev OReg := BitVec 3
abbrev MReg := BitVec 2
abbrev QReg := BitVec 2

/-- `SignExtend(x, n)` of R9: x read as an n-bit two's-complement value, widened to 64 bits. -/
def sext {n : Nat} (x : BitVec n) : Word := x.signExtend 64
/-- `ZeroExtend(x, n)` of R9. -/
def zext {n : Nat} (x : BitVec n) : Word := x.setWidth 64
/-- The word of a natural number, `Wrap(x, 64)` of R9. -/
def word (n : Nat) : Word := BitVec.ofNat 64 n
/-- Bits hi:lo of a word as a number, written x[hi:lo] in the manual (R8). -/
def bits {n : Nat} (x : BitVec n) (hi lo : Nat) : Nat := (x.toNat >>> lo) % 2 ^ (hi + 1 - lo)
/-- Bit i of a word. -/
def bit {n : Nat} (x : BitVec n) (i : Nat) : Bool := x.getLsbD i
/-- 1 for true, 0 for false. -/
def b2n (b : Bool) : Nat := if b then 1 else 0

end Sys2Proof
end

