-- ==== Sys2Proof/Config.lean ====
section
/-!
DEFINITION. What an implementation fixes and the free values: constants without a body, so that nothing can be proved of
the value they take (notes/assumptions/7.md). Each is applied to the operands it depends on, or to the plain counter
`State.fresh`, which the step that takes a fresh value advances.
-/
namespace Sys2Proof.Config

/-- The CHECK value a slice chooses at the n-th ACLAIM (R228: "Which such value the slice chooses is left open"). -/
opaque aclaimCheck : Nat → BitVec 32
/-- The order of the fields of section n of a CSAVE image, which "belongs to VERSION": which of the section's words stands at offset j
(R255). -/
opaque saveOrder : Nat → Nat → Nat
/-- The 64-bit CHECK of a CSAVE image over its words (R255 gives no formula). -/
opaque saveCheck : List (BitVec 64) → BitVec 64
/-- The firmware VERSION of a save image and of the RESYNC header (R255, R369). -/
opaque firmwareVersion : BitVec 64
/-- What a window exported to another module maps offset `off` of interface v to (R140 leaves the peer's map to the peer). -/
opaque exportAddress : Nat → Nat → Nat
/-- A checksum that OLOAD computes over a plane's bytes, by row (false) or by column (R213, R216 give no formula). -/
opaque planeChecksum : Bool → List (Nat × BitVec 8) → Nat
/-- The number of this module in its torus and the torus's dimensions, which firmware sets (R338). -/
opaque torusSelf : Nat
opaque torusDim : Nat → Nat
/-- What an installed engine routine does in one step (R245, R246): it moves at most 256 bytes, reads or writes an 8-byte word, fails in a
check of its arguments, naming an address, or ends. -/
inductive RoutineAct where
  | move (src dst : Word) (n : BitVec 8)
  | load (src : Word)
  | store (dst val : Word)
  | fail (addr : Word)
  | done
  deriving DecidableEq, Repr, Inhabited

/-- The step of installed routine n from its arguments, words 0–3 and 7 of the descriptor, the number of steps made and the words it has
read (R237, R245: the microcode is firmware's). -/
opaque routine : Nat → List Word → Nat → List Word → RoutineAct
/-- The addresses that routine n writes to with these arguments, as far as they decide whether it is benched or Held (R245, R240). -/
opaque routineTargets : Nat → List Word → List Word
/-- The place of record n of the node pool of interface v, which firmware reserves in pantry SRAM (R313). -/
opaque poolRecord : Nat → Nat → Nat
/-- The input voltage in millivolts and the module's power in watts, as the n-th sample of RESYNC finds them (R369, R370). -/
opaque inputVoltage : Nat → Nat
opaque modulePower : Nat → Nat
/-- Whether firmware dispatches a LAUNCH at a TIME under a power limit below the nominal 4,200 W (R370 says that it delays dispatch, not for how
long). -/
opaque powerAllows : Nat → Nat → Bool
/-- Whether both signatures of an engine-routine image verify, by its bytes (R355, R367). -/
opaque routineAccepted : List (BitVec 8) → Bool
/-- Free 64-bit values for what the manual leaves undefined, taken in order of the counter. -/
opaque freeWord : Nat → BitVec 64

end Sys2Proof.Config
end

