-- ==== Sys2Proof/Syntax.lean ====
section
/-!
DEFINITION. The syntax: one constructor of `Instr` per row of spec/opcode_table.json. The first 232 or so are instructions
(spec/04_formats.md, the encoding tables R158, R189, R236, R260); the others are the steps of the part that have no
encoding (spec/95_what_each_step_holds.md), with the agent they concern as operands (notes/assumptions/1.md).
-/
namespace Sys2Proof

/-- The modifier prefix of R90: each field as encoded, 0 meaning "from MEMDEF". -/
structure Mods where
  ord : BitVec 3
  scope : BitVec 3
  space : BitVec 2
  cache : BitVec 2
  chk : Bool
  deriving DecidableEq, Repr, Inhabited

/-- The widths of LD (R97). -/
inductive LdWidth where
  | s8 | z8 | s16 | z16 | s32 | z32 | d
  deriving DecidableEq, Repr, Inhabited

/-- The widths of ST (R97). -/
inductive StWidth where
  | b | h | w | d
  deriving DecidableEq, Repr, Inhabited

/-- Kinds of FENCE (R137). -/
inductive FenceKind where
  | full | acq | rel | ss
  deriving DecidableEq, Repr, Inhabited

/-- Vector load widths (R191). -/
inductive VLdWidth where
  | w | z16 | s16 | z8 | s8
  deriving DecidableEq, Repr, Inhabited

/-- Vector store widths (R191). -/
inductive VStWidth where
  | w | h | b
  deriving DecidableEq, Repr, Inhabited

/-- The operations of FAMO (R142). -/
inductive FamoOp where
  | add | and | or | xor | min | max | fadd
  deriving DecidableEq, Repr, Inhabited

/-- VNARROW modes (R199). -/
inductive NarrowMode where
  | s32 | f32 | sh | i2f
  deriving DecidableEq, Repr, Inhabited

/-- Register formats of VCVT (R203). -/
inductive VFmt where
  | f32 | f16 | bf16 | s32 | s16 | s8
  deriving DecidableEq, Repr, Inhabited

/-- VCMP conditions (R195). -/
inductive VCond where
  | eq | ne | lt | ge | ltZ | geZ | feq | flt | fle | fun_
  deriving DecidableEq, Repr, Inhabited

/-- Operations of VRED and VSCAN: integer 0–7, floating 0–2 (R208). -/
inductive RedOp where
  | add | min | max | minZ | maxZ | and | or | xor | fadd | fmin | fmax
  deriving DecidableEq, Repr, Inhabited

/-- Operations of VNRED other than `.mx` (R211). -/
inductive NredOp where
  | add | min | max | fadd | fmin | fmax
  deriving DecidableEq, Repr, Inhabited

/-- A vector second operand: a v register, or with `.g` a g register used in every lane (R190). -/
inductive VSrc where
  | v (r : VReg)
  | g (r : GReg)
  deriving DecidableEq, Repr, Inhabited

/-- What happens to a plane pass: nothing, a checksum mismatch on one execution, one on both, differing metadata copies (R216; of slot a, or
of slot b), or a mismatch of the guard bits after its addition (R177). -/
inductive PassEvent where
  | ok | checksumOnce | checksumTwice (second : Bool) | metadata (second : Bool) | guardBad
  deriving DecidableEq, Repr, Inhabited

/-- The class of a torus flit (R338). -/
inductive FlitClass where
  | r | p | ack
  deriving DecidableEq, Repr, Inhabited

/-- What an R or P flit asks for (R141–R143), and the units of XGET and XPUT (R241): `get` asks for bytes, `put` carries them. -/
inductive FlitOp where
  | read | store | amo (op : FamoOp) | mcast | get (n : Nat) | put (bytes : List (BitVec 8))
  deriving DecidableEq, Repr, Inhabited

/-- A flit of the scale-up torus (R338). -/
structure Flit where
  dest : Nat
  src : Nat
  core : Nat
  ctx : Nat
  vif : Nat
  cls : FlitClass
  op : FlitOp
  ticket : Nat
  offset : Nat
  data : Word
  failed : Word
  age : Nat
  members : Word
  /-- Of a multicast: the sequence number for each member module (R341, R342). -/
  seqs : List (Nat × Nat)
  /-- Of a multicast, the module whose entry its acknowledgement answers; of the acknowledgement, the issuing module (R342). -/
  via : Nat
  deriving DecidableEq, Repr, Inhabited

/-- What an error was met by: the value for TVAL and the order number of the access (R33, R352). -/
structure ErrorMet where
  tval : Word
  at_ : Nat
  deriving DecidableEq, Repr, Inhabited

/-- What firmware found in a maintenance window: the sites that fail, and the dies it has to spare (R358). -/
structure WindowSites where
  off : List Nat
  spare : List Nat
  deriving DecidableEq, Repr, Inhabited

/-- Which signatures of the firmware image verify (R355). -/
structure Signed where
  ecdsa : Bool
  lms : Bool
  deriving DecidableEq, Repr, Inhabited

/-- An entry of the register storage of R346: a g, v, w, ta or control register, the head of a queue or of a port. -/
inductive Cell where
  | g (r : GReg) | v (r : VReg) | w (r : WReg) | ta (t : TaReg) | creg (sel : BitVec 8) | q (q : QReg) | n (n : BitVec 3)
  deriving DecidableEq, Repr, Inhabited

/-- A storage kind of R346, for the scrubber and for errors hardware finds. -/
inductive Storage where
  | sram | dramLine | operandMem (slot : Nat) | mTile (k : Nat) | accTile
  | cell (ctx : Nat) (c : Cell) | staging (n : Nat) | l1 (line : Nat) | tlb (n : Nat)
  deriving DecidableEq, Repr, Inhabited

/-- A copy command's instruction (R241, R245). -/
inductive CopyKind where
  | copy | code | twoD | deal | gather | put | get | kick (n : BitVec 8)
  deriving DecidableEq, Repr, Inhabited

/-- The address a host access names (R359): a mailbox word, a doorbell word, or a byte of MEM(v). -/
inductive HostAddr where
  | mgmt (off : Nat)
  | bell (queue word : Nat)
  | mem (vif : Nat) (va : Nat)
  deriving DecidableEq, Repr, Inhabited

inductive Instr where
  -- scalar, 32-bit T format (R93, R103–R107)
  | nop
  | add (d a b : GReg) | addSat (d a b : GReg) | addZSat (d a b : GReg)
  | sub (d a b : GReg) | subSat (d a b : GReg) | subZSat (d a b : GReg)
  | and (d a b : GReg) | or (d a b : GReg) | xor (d a b : GReg) | andn (d a b : GReg)
  | sll (d a b : GReg) | srl (d a b : GReg) | sra (d a b : GReg) | rol (d a b : GReg) | ror (d a b : GReg)
  | min (d a b : GReg) | max (d a b : GReg) | minZ (d a b : GReg) | maxZ (d a b : GReg)
  | slt (d a b : GReg) | sltZ (d a b : GReg)
  | mul (d a b : GReg) | mulh (d a b : GReg) | mulhZ (d a b : GReg)
  | div (d a b : GReg) | divZ (d a b : GReg) | rem (d a b : GReg) | remZ (d a b : GReg)
  | sel (d a b c : GReg)
  | addx (d a b : GReg) (sh : BitVec 3)
  | clz (d a : GReg) | ctz (d a : GReg) | popc (d a : GReg) | brev (d a : GReg)
  -- immediates (R108, R109)
  | addi (d a : GReg) (imm : BitVec 14) | andi (d a : GReg) (imm : BitVec 14)
  | ori (d a : GReg) (imm : BitVec 14) | xori (d a : GReg) (imm : BitVec 14)
  | slli (d a : GReg) (sh : BitVec 6) | srli (d a : GReg) (sh : BitVec 6) | srai (d a : GReg) (sh : BitVec 6)
  | slti (d a : GReg) (imm : BitVec 14)
  | li (d : GReg) (lit : BitVec 32) | lih (d : GReg) (lit : BitVec 32)
  | adpc (d : GReg) (lit : BitVec 32) | adpcLoc (d : GReg) (lit : BitVec 32)
  -- branches, jumps, calls (R110–R114)
  | beq (a b : GReg) (disp : BitVec 14) | bne (a b : GReg) (disp : BitVec 14)
  | blt (a b : GReg) (disp : BitVec 14) | bge (a b : GReg) (disp : BitVec 14)
  | bltZ (a b : GReg) (disp : BitVec 14) | bgeZ (a b : GReg) (disp : BitVec 14)
  | bbs (a : GReg) (bit : BitVec 5) (disp : BitVec 14) | bbsHi (a : GReg) (bit : BitVec 5) (disp : BitVec 14)
  | bbc (a : GReg) (bit : BitVec 5) (disp : BitVec 14) | bbcHi (a : GReg) (bit : BitVec 5) (disp : BitVec 14)
  | loop (a : GReg) (disp : BitVec 14)
  | jmp (disp : BitVec 24) | call (disp : BitVec 24)
  | jmpx (a : GReg) | callx (a : GReg) | ret
  | btempo (t : TaReg) (disp : BitVec 14) | bntempo (t : TaReg) (disp : BitVec 14)
  -- M format (R133, R134)
  | ld (p : Option Mods) (w : LdWidth) (d a : GReg) (disp : BitVec 11)
  | st (p : Option Mods) (w : StWidth) (d a : GReg) (disp : BitVec 11)
  | ldp (p : Option Mods) (d a : GReg) (disp : BitVec 11)
  | stp (p : Option Mods) (d a : GReg) (disp : BitVec 11)
  -- queues, ports, tempo, contexts (R117–R127)
  | qput (a : GReg) (q : QReg) | qget (d : GReg) (q : QReg) | qpeek (d : GReg) (q : QReg) | qcnt (d : GReg) (q : QReg)
  | nput (a : GReg) (n : BitVec 3) | nget (d : GReg) (n : BitVec 3) | ntry (d : GReg) (n : BitVec 3)
  | tbind (t : TaReg) (a : GReg) | trd (d : GReg) (t : TaReg)
  | hstart (d a b : GReg) | hjoin (d a : GReg) | hexit (a : GReg) | yield | pause
  -- control registers (R115) and their write effects
  | crd (d : GReg) (sel : BitVec 8)
  | cwr (d a : GReg) (sel : BitVec 8) | cset (d a : GReg) (sel : BitVec 8) | cclr (d a : GReg) (sel : BitVec 8)
  -- atomics (R135): `w32` is the width flag F3
  | amoAdd (p : Option Mods) (w32 : Bool) (d b a : GReg) (disp : BitVec 24)
  | amoAnd (p : Option Mods) (w32 : Bool) (d b a : GReg) (disp : BitVec 24)
  | amoOr (p : Option Mods) (w32 : Bool) (d b a : GReg) (disp : BitVec 24)
  | amoXor (p : Option Mods) (w32 : Bool) (d b a : GReg) (disp : BitVec 24)
  | amoMin (p : Option Mods) (w32 : Bool) (d b a : GReg) (disp : BitVec 24)
  | amoMax (p : Option Mods) (w32 : Bool) (d b a : GReg) (disp : BitVec 24)
  | amoMinZ (p : Option Mods) (w32 : Bool) (d b a : GReg) (disp : BitVec 24)
  | amoMaxZ (p : Option Mods) (w32 : Bool) (d b a : GReg) (disp : BitVec 24)
  | amoSwp (p : Option Mods) (w32 : Bool) (d b a : GReg) (disp : BitVec 24)
  | amoCas (p : Option Mods) (w32 : Bool) (d b c a : GReg) (disp : BitVec 24)
  | amoFadd (p : Option Mods) (d b a : GReg) (disp : BitVec 24)
  -- fences, check, watch (R137–R139)
  | fence (kind : FenceKind) (scope : BitVec 3)
  | echk
  | waita (d b c a : GReg) (disp : BitVec 24)
  -- fabric (R141–R144)
  | fld (acq : Bool) (d a : GReg) (disp : BitVec 24)
  | fwait (d a : GReg)
  | fst (rel : Bool) (d a : GReg) (disp : BitVec 24)
  | famo (op : FamoOp) (d a : GReg) (disp : BitVec 24)
  | fmcast (d b c a : GReg) (disp : BitVec 24)
  | ffence (d a : GReg) (disp : BitVec 24)
  -- barriers (R145–R148, R327)
  | bset (k : BitVec 2) (a : GReg) | barrive (k : BitVec 2) | bwait (k : BitVec 2) | bar (k : BitVec 2)
  | bstat (d : GReg) (k : BitVec 2)
  -- phases, wires, phalanxes (R150–R153)
  | dphase (t : BitVec 2)
  | xmit (w : BitVec 2) (s : BitVec 22) (a : GReg) | xmitR (w : BitVec 2) (s : BitVec 22)
  | xsel (d : GReg) (w : BitVec 2) (s : BitVec 22)
  | phlx (a : GReg) | split
  -- work queues (R154–R156)
  | wpop (nb : Bool) (d a : GReg)
  | wpush (a : GReg) | wpushClose (a : GReg) | ndone (a : GReg) | nabort (a : GReg)
  -- lanes (R184–R186)
  | vclaim (t : Bool) (d a : GReg)
  | vyield (d : GReg) | vsetl (d a : GReg)
  -- vector memory (R191)
  | vld (p : Option Mods) (w : VLdWidth) (d : VReg) (a : GReg) (disp : BitVec 24)
  | vst (p : Option Mods) (w : VStWidth) (d : VReg) (a : GReg) (disp : BitVec 24)
  | vlds (p : Option Mods) (w : VLdWidth) (d : VReg) (b a : GReg) (disp : BitVec 24)
  | vsts (p : Option Mods) (w : VStWidth) (d : VReg) (b a : GReg) (disp : BitVec 24)
  | vgath (p : Option Mods) (w : VLdWidth) (d : VReg) (b : VReg) (a : GReg) (disp : BitVec 24)
  | vscat (p : Option Mods) (w : VStWidth) (d : VReg) (b : VReg) (a : GReg) (disp : BitVec 24)
  -- vector moves and arithmetic (R193–R202)
  | vbcast (d : VReg) (a : GReg) | vmovg (d : GReg) (a : VReg) (b : GReg) | vmovgSet (d : VReg) (a b : GReg)
  | vadd (sat z : Bool) (d a : VReg) (b : VSrc) | vsub (sat z : Bool) (d a : VReg) (b : VSrc)
  | vmul (d a : VReg) (b : VSrc) | vmulh (z : Bool) (d a : VReg) (b : VSrc)
  | vmin (z : Bool) (d a : VReg) (b : VSrc) | vmax (z : Bool) (d a : VReg) (b : VSrc)
  | vand (d a : VReg) (b : VSrc) | vor (d a : VReg) (b : VSrc) | vxor (d a : VReg) (b : VSrc)
  | vshl (d a : VReg) (b : VSrc) | vshr (d a : VReg) (b : VSrc) | vsra (d a : VReg) (b : VSrc)
  | vcmp (cc : VCond) (d a : VReg) (b : VSrc) | vsel (d a b c : VReg)
  | vfadd (d a : VReg) (b : VSrc) | vfsub (d a : VReg) (b : VSrc) | vfmul (d a : VReg) (b : VSrc)
  | vfma (d a : VReg) (b : VSrc) (c : VReg)
  | vfmin (d a : VReg) (b : VSrc) | vfmax (d a : VReg) (b : VSrc)
  | vrcp (d a : VReg) | vrsq (d a : VReg) | vexp2 (d a : VReg) | vlog2 (d a : VReg) | vsig (d a : VReg)
  | vmacw (sat z : Bool) (d : WReg) (a b : VReg) | vfmacw (d : WReg) (a b : VReg)
  | vnarrow (m : NarrowMode) (d : VReg) (a : WReg) (sh : BitVec 6) | vwclr (d : WReg)
  | vidot (sat z : Bool) (d a b c : VReg)
  | vfdot (h16 : Bool) (d a b c : VReg) | vfdotC (h16 : Bool) (d a b : VReg)
  | vdotr (d : GReg) (a b : VReg) (c : GReg)
  -- conversions (R203–R207)
  | vcvt (amax : Bool) (y x : VFmt) (d a : VReg)
  | vcvtMx (amax : Bool) (d : VReg) (a : GReg) (t : BitVec 8) | vcvtMxd (d : VReg) (a : GReg) (t : BitVec 8)
  | vbniScan (amax : Bool) (d : VReg) (a : GReg) (t : BitVec 8) | vbni (amax : Bool) (d : VReg) (a : GReg) (t : BitVec 8)
  | vamax (d : GReg) (a : VReg)
  -- reductions and permutes (R193, R208–R212)
  | vred (op : RedOp) (d : GReg) (a : VReg) | vscan (op : RedOp) (d a : VReg)
  | vnred (op : NredOp) (d a : VReg) | vnredMx (e5m2 : Bool) (d a b c : VReg)
  | vperm (d a b : VReg) | vslide (g : Option GReg) (d a : VReg) (n : BitVec 8)
  -- operand memory, matrix engine (R214–R227)
  | oclaim (d : GReg) (k : OReg) | orel (k : OReg)
  | oload (k : OReg) (a : GReg) (t : BitVec 8) (p : BitVec 4) | ozero (k : OReg) (t : BitVec 8)
  | mclr (k : MReg)
  | mmp (acc : Bool) (k : MReg) (a b : OReg) (kb : BitVec 8) (ke : BitVec 9) (pa pb : BitVec 3)
  | mbin (xor acc : Bool) (k : MReg) (a b : OReg) (kb : BitVec 8) (ke : BitVec 9)
  | msp (acc : Bool) (k : MReg) (a b : OReg) (kb : BitVec 8) (ke : BitVec 9) (pa pb : BitVec 3)
  | mstat (d : GReg) (k : MReg) | mrd (w : Bool) (k : MReg) (a : GReg) (t : BitVec 8) | mchk (k : MReg)
  | tdef (t : BitVec 8) (a : GReg) | tqry (d : GReg) (t : BitVec 8) (j : BitVec 2)
  -- accumulator tiles (R229–R235)
  | aclaim (d a b c : GReg) | acontrib (k : MReg) (a b c : GReg)
  | ardy (d a : GReg) | ard (w : Bool) (d a b c : GReg) (t : BitVec 8) | ardv (s : Bool) (d : VReg) (a b c : GReg)
  | aknock (d a : GReg) | astat (j : Option (BitVec 3)) (d a : GReg) | arel (d a : GReg)
  -- copy engine (R241–R249)
  | xcopy (d a : GReg) | xcopyCode (d a : GReg) | x2d (d a : GReg) | xdeal (d a : GReg) | xgath (d a : GReg)
  | xput (d a : GReg) | xget (d a : GReg) | xkick (d a : GReg) (n : BitVec 8)
  | xcancel (d a : GReg) | xstat (d a : GReg)
  -- queries, traps, system (R250–R259)
  | dhops (d a b : GReg) | dwho (d a : GReg)
  | trap (n : BitVec 24) | brk (n : BitVec 24) | eret | halt
  | csave (d a b : GReg) | cload (d a b : GReg)
  | tlbgen (d a : GReg)
  | migr (d a b : GReg)
  | xbset (a b : GReg)
  | cstart (a b c : GReg)
  -- steps without an encoding (spec/95_what_each_step_holds.md), each by the agent it concerns
  | pauseExpiry (core ctx : Nat)
  | controlRegisterWrite (core ctx : Nat) (sel : BitVec 8) (v : Word)
  | xboundWrite (core ctx : Nat) (v : Word)
  | vsetlWrite (core ctx : Nat) (v : Word)
  | domainWrite (core ctx : Nat) (v : Word)
  | bregWrite (core ctx : Nat) (k : BitVec 2) (v : Word)
  | errpendClear (core ctx : Nat)
  | waitaWake (core ctx : Nat) | waitaTimeout (core ctx : Nat)
  | barrierArrivalSend (core ctx which : Nat) | barrierCommit (episode : Nat) | barrierRelease (episode core : Nat)
  | barrierTimeout (core ctx which : Nat) | barrierWithdrawAccept (episode core : Nat)
  | xmitDrive (core : Nat) (w : BitVec 2) | xselLatch (core : Nat)
  | wpopWake (queue : Nat)
  | recallTimeout (core : Nat) | reservationLapse (core : Nat)
  | vnredCombine (core : Nat) | vnredTimeout (core : Nat)
  | matrixPass (core : Nat) (e : PassEvent) | matrixComplete (core : Nat)
  | contributionEvaluate (item : Nat) (guardFails : Bool)
  | tileRequestServe (item : Nat)
  | engineStep (core tag : Nat) | commandComplete (core tag : Nat)
  | tlbgenAck (asid core : Nat)
  | pageMove (asid va newPa : Nat) | pageWalk (core ctx : Nat)
  | xbsetApply (item : Nat)
  | start (item : Nat)
  | drain (core item : Nat) | forward (core ctx el : Nat) | hit (core ctx el : Nat)
  | read (core ctx el : Nat) (fill : Bool) | evict (core line : Nat) | apply (item : Nat)
  | reply (core ctx el : Nat) | take (core tag : Nat) | appliedVectorBroadcast (die : Nat)
  | resultWriteback (core ctx : Nat) | routedMessageDeliver (item : Nat) | neighbourWordArrive (core port : Nat)
  | rcycle (cores : List Nat) | creditReturn (lender core words : Nat)
  | packetMerge (into from_ : Nat) | mergeBufferFlush (item : Nat)
  | errorPost (core ctx code sub source : Nat) (met : ErrorMet)
  | scrub (where_ : Storage) (addr : Nat) (bad : Bool)
  | marginSample (slack : List Nat)
  | contextShip (core landing : Nat) | shipLanding (item : Nat)
  | doorbellWrite (queue : Nat) (v : Word) | bindRound | dispatchCycle | jobCompletionWrite (job : Nat)
  | corePreemptHalt (core : Nat) | traySave (vif tray : Nat) | coreResume (core : Nat)
  | resync | resyncSample | vifcfg | qcreate | qdestroy | preempt | resume | window
  | maintenanceWindow (slack : List Nat) (watts : Nat) (sites : WindowSites)
  | hostWrite (a : HostAddr) (v : Word) | hostRead (a : HostAddr)
  | timeBroadcast
  | torusHop (arriving : List (Nat × Flit)) | multicastAck (entry : Nat) | multicastTimeout (core ctx ticket : Nat)
  | peerTimeout (peer : Nat)
  | debugHalt (core : Nat) | debugResume | debugStep (n : Nat)
  | holdLink (src dst : Nat) | releaseLink (src dst : Nat)
  | bringUp (signed : Signed) (dies : List Bool) (stackIds : List Bool) (fused : List Nat)
  | brownoutReset
  | contextEndByFirmware (core ctx : Nat)
  | peerLinksDown (peer : Nat) | peerLinksRecover (peer : Nat)
  | corePowerGate (core : Nat) (on : Bool)
  | jdbRun (arg : Word) (cores : List Nat)
  | breakpointSet (loc : Nat) (cores : List Nat) | breakpointDelete (loc : Nat)
  deriving DecidableEq, Repr, Inhabited

end Sys2Proof
end

