-- ==== Sys2Proof/WellFormed.lean ====
section
/-!
DEFINITION. Well-formed instructions: the operand limits that the types of `Instr` do not already carry (spec/04_formats.md
R87–R97 and the encoding tables), and the ranges of the agents a step without encoding names.
-/
namespace Sys2Proof

/-- Core sites of the module: 16 dies of 80 × 80 (R1). -/
def nCores : Nat := 102400
/-- Contexts of a core (R35). -/
def nContexts : Nat := 11

/-- The fields of a modifier prefix that R90 accepts: ORD 7 and SCOPE 6–7 raise ILLEGAL. -/
def Mods.wf (m : Mods) : Bool := m.ord != 7 && decide (m.scope.toNat < 6)
/-- An absent prefix is well-formed. -/
def modsWf (p : Option Mods) : Bool := match p with | none => true | some m => m.wf

/-- An encoded FENCE scope: 0 takes MEMDEF.SCOPE, 1–5 are R20's codes (R137). -/
def fenceScopeWf (s : BitVec 3) : Bool := decide (s.toNat < 6)
/-- A core and one of its contexts exist. -/
def ctxWf (c k : Nat) : Bool := decide (c < nCores) && decide (k < nContexts)

namespace Instr

/-- The prefix an instruction carries (R90). -/
def mods : Instr → Option Mods
  | ld p .. | st p .. | ldp p .. | stp p .. | amoAdd p .. | amoAnd p .. | amoOr p .. | amoXor p .. | amoMin p .. | amoMax p ..
  | amoMinZ p .. | amoMaxZ p .. | amoSwp p .. | amoCas p .. | amoFadd p .. | vld p .. | vst p .. | vlds p .. | vsts p ..
  | vgath p .. | vscat p .. => p
  | _ => none

/-- The operand fields other than the prefix are ones the encoding admits, and every agent of a step exists. -/
def operandsWf : Instr → Bool
  | add d a b => !(d == 0 && a == 0 && b == 0)          -- that word is NOP (R94)
  | loop a _ => a != 0                                   -- R111
  | ldp _ d _ _ | stp _ d _ _ => !(bit d 0)              -- R97: an odd D is ILLEGAL
  | nput _ n => decide (n.toNat ≤ 4)                     -- R119
  | nget _ n | ntry _ n => decide (n.toNat ≤ 3) || n == 5
  | fence _ s => fenceScopeWf s
  | dphase t => t != 3                                   -- R150
  | vadd sat z .. | vsub sat z .. => sat || !z           -- R194: `.z` only with `.sat`
  | vnarrow m _ _ sh => m == .sh || sh == 0              -- R199
  | vfdotC _ d _ _ => !(bit d 0)                         -- R201: an odd D is ILLEGAL
  | vcvt _ y x _ _ => y != x                             -- R203
  | vnredMx _ d _ _ c => d != c                          -- R211
  | pauseExpiry c k | controlRegisterWrite c k _ _ | xboundWrite c k _ | vsetlWrite c k _ | domainWrite c k _ | bregWrite c k _ _
  | errpendClear c k | waitaWake c k | waitaTimeout c k => ctxWf c k
  | barrierArrivalSend c k w | barrierTimeout c k w => ctxWf c k && decide (w < 6)
  | barrierRelease _ c | barrierWithdrawAccept _ c => decide (c < nCores)
  | ard w _ _ _ c _ => w || c == 0                       -- R236: C is 0 without `.w`
  | holdLink a b | releaseLink a b => decide (a < 16) && decide (b < 16)
  | wpopWake q => decide (q < 4096)
  | peerTimeout p | peerLinksDown p | peerLinksRecover p => decide (p < 512)
  | doorbellWrite q _ => decide (q < 65536)
  | jdbRun _ cs | rcycle cs => cs.all (· < nCores)
  | _ => true

/-- Whether every operand of an instruction is one its encoding admits, and every agent of a step exists. -/
def wf (i : Instr) : Bool := modsWf i.mods && i.operandsWf

end Instr
end Sys2Proof
end

