-- ==== Sys2Proof/Decode.lean ====
section
/-!
DEFINITION. Decoding of parcels (spec/04_formats.md R84–R99) and, after it, an encoder written from the same tables
(R87–R95, R158, R189, R236, R260). Decoding is total; what is not an instruction is rejected by name.
-/
namespace Sys2Proof

/-- Why parcels are no instruction, in the order of R99. -/
inductive DecodeError where
  /-- Too few parcels were given (the fetch unit never gives too few; R84). -/
  | truncated
  /-- A prefix with a reserved bit, ORD 7 or SCOPE 6–7 (R90): ILLEGAL, TVAL the prefix. -/
  | modsReserved
  /-- A second prefix (R91): ILLEGAL, TVAL the first. -/
  | secondMods
  /-- No instruction has this major and minor or F6, or its length differs from L (R89, R92–R95): ILLEGAL. -/
  | unknownOpcode
  /-- A prefix before an instruction that accepts none (R91): ILLEGAL, TVAL the prefix. -/
  | modsNotAccepted
  /-- A field the form does not define (R87–R97): ILLEGAL. -/
  | fieldsBad
  deriving DecidableEq, Repr

/-! ## Layouts (R87, R89, R90) -/

/-- The fields of a 32-bit parcel in T format; the other 32-bit formats are read from the same places (R87). -/
structure TF where
  op : BitVec 6
  d : BitVec 5
  a : BitVec 5
  b : BitVec 5
  f3 : BitVec 3
  f6 : BitVec 6
  deriving DecidableEq, Repr

/-- The fields of the X layout (R89). -/
structure XF where
  maj : BitVec 6
  min : BitVec 8
  d : BitVec 5
  a : BitVec 5
  b : BitVec 5
  c : BitVec 5
  f3 : BitVec 3
  imm : BitVec 24
  deriving DecidableEq, Repr

/-- T format, low to high: L 0, OP, D, A, B, F3, F6. -/
def TF.pack (t : TF) : Parcel := t.f6 ++ t.f3 ++ t.b ++ t.a ++ t.d ++ t.op ++ (0 : BitVec 2)
def TF.unpack (p : Parcel) : TF :=
  ⟨p.extractLsb' 2 6, p.extractLsb' 8 5, p.extractLsb' 13 5, p.extractLsb' 18 5, p.extractLsb' 23 3, p.extractLsb' 26 6⟩
/-- The 14-bit immediate of the I and B formats: bits 31:18, which are B, F3 and F6 of the T format. -/
def TF.imm14 (t : TF) : BitVec 14 := t.f6 ++ t.f3 ++ t.b
/-- The 24-bit displacement of the J format: bits 31:8. -/
def TF.disp24 (t : TF) : BitVec 24 := t.f6 ++ t.f3 ++ t.b ++ t.a ++ t.d
/-- The M format's W (bits 20:18) and DISP11 (bits 31:21). -/
def TF.w3 (t : TF) : BitVec 3 := t.b.extractLsb' 0 3
def TF.disp11 (t : TF) : BitVec 11 := t.f6 ++ t.f3 ++ t.b.extractLsb' 3 2

def TF.ofI (op : BitVec 6) (d a : BitVec 5) (imm : BitVec 14) : TF :=
  ⟨op, d, a, imm.extractLsb' 0 5, imm.extractLsb' 5 3, imm.extractLsb' 8 6⟩
def TF.ofJ (op : BitVec 6) (disp : BitVec 24) : TF :=
  ⟨op, disp.extractLsb' 0 5, disp.extractLsb' 5 5, disp.extractLsb' 10 5, disp.extractLsb' 15 3, disp.extractLsb' 18 6⟩
def TF.ofM (op : BitVec 6) (d a : BitVec 5) (w : BitVec 3) (disp : BitVec 11) : TF :=
  ⟨op, d, a, disp.extractLsb' 0 2 ++ w, disp.extractLsb' 2 3, disp.extractLsb' 5 6⟩

/-- X layout, first parcel (L given) and second parcel. -/
def XF.pack0 (x : XF) (l : BitVec 2) : Parcel := (0 : BitVec 1) ++ x.b ++ x.a ++ x.d ++ x.min ++ x.maj ++ l
def XF.pack1 (x : XF) : Parcel := x.imm ++ x.f3 ++ x.c
def XF.unpack (p0 p1 : Parcel) : XF :=
  ⟨p0.extractLsb' 2 6, p0.extractLsb' 8 8, p0.extractLsb' 16 5, p0.extractLsb' 21 5, p0.extractLsb' 26 5,
   p1.extractLsb' 0 5, p1.extractLsb' 5 3, p1.extractLsb' 8 24⟩

/-- The prefix parcel of R90. -/
def Mods.pack (m : Mods) : Parcel :=
  (0 : BitVec 19) ++ BitVec.ofBool m.chk ++ m.cache ++ m.space ++ m.scope ++ m.ord ++ (3 : BitVec 2)
def Mods.unpack (p : Parcel) : Mods :=
  ⟨p.extractLsb' 2 3, p.extractLsb' 5 3, p.extractLsb' 8 2, p.extractLsb' 10 2, p.getLsbD 12⟩
/-- The reserved bits of a prefix are zero and its ORD and SCOPE are defined (R90, R99). -/
def Mods.parcelOk (p : Parcel) : Bool := p.extractLsb' 13 19 == 0 && (Mods.unpack p).wf

/-- L, bits 1:0 of a parcel (R84). -/
def parcelL (p : Parcel) : BitVec 2 := p.extractLsb' 0 2

/-! ## Which opcodes exist (R92–R95) -/

/-- `Lookup32`: whether the 32-bit major, with F6 where R93 uses it, is assigned. -/
def known32 (op f6 : Nat) : Bool :=
  match op with
  | 0x00 => f6 ≤ 16
  | 0x01 => f6 ≤ 6
  | 0x02 => true
  | 0x03 => f6 == 0
  | 0x04 => f6 ≤ 3
  | 0x1D => f6 ≤ 2
  | 0x24 => f6 ≤ 3
  | 0x25 => f6 ≤ 2
  | 0x26 => f6 ≤ 1
  | 0x27 => f6 ≤ 4
  | _ => (0x08 ≤ op && op ≤ 0x1F) || (0x20 ≤ op && op ≤ 0x23)

/-- `Lookup64`: the parcels of the instruction with this major and minor (R95), 0 where none is assigned. -/
def len64 (maj min : Nat) : Nat :=
  match maj with
  | 0x00 => if min ≤ 2 then 3 else 0
  | 0x01 => if min ≤ 3 then 2 else 0
  | 0x10 => if min ≤ 2 then 2 else 0
  | 0x11 => if min ≤ 10 then 2 else 0
  | 0x12 => if min ≤ 5 then 2 else 0
  | 0x13 => if min ≤ 4 then 2 else 0
  | 0x14 => if min ≤ 4 then 2 else 0
  | 0x15 => if min ≤ 3 then 2 else 0
  | 0x20 => if min ≤ 2 || (8 ≤ min && min ≤ 15) then 2 else 0
  | 0x21 => if min ≤ 13 then 2 else 0
  | 0x22 => if min ≤ 5 then 2 else 0
  | 0x23 => if min ≤ 4 then 2 else 0
  | 0x24 => if min ≤ 3 then 2 else 0
  | 0x25 => if min ≤ 2 then 2 else 0
  | 0x26 => if min ≤ 2 then 2 else 0
  | 0x27 => if min ≤ 2 then 2 else 0
  | 0x28 => if min ≤ 1 then 2 else 0
  | 0x30 => if min ≤ 3 then 2 else 0
  | 0x31 => if min ≤ 6 then 2 else 0
  | 0x32 => if min ≤ 1 then 2 else 0
  | 0x33 => if min ≤ 7 then 2 else 0
  | 0x38 => if min ≤ 8 then 2 else 0
  | 0x39 => if min ≤ 1 then 2 else 0
  | 0x3A => if min ≤ 3 then 2 else 0
  | 0x3B => if min ≤ 1 then 2 else 0
  | 0x3C => if min ≤ 3 then 2 else 0
  | _ => 0

/-- Whether the opcode of a first parcel is assigned with the length its L gives (R89, R99). -/
def opcodeKnown (p : Parcel) : Bool :=
  match (parcelL p).toNat with
  | 0 => known32 (TF.unpack p).op.toNat (TF.unpack p).f6.toNat
  | 1 => len64 (bits p 7 2) (bits p 15 8) == 2
  | 2 => len64 (bits p 7 2) (bits p 15 8) == 3
  | _ => false

/-- Whether the instruction of a first parcel accepts a prefix (R91). -/
def acceptsMods (p : Parcel) : Bool :=
  if parcelL p == 0 then 0x20 ≤ bits p 7 2 && bits p 7 2 ≤ 0x23
  else bits p 7 2 == 0x11 || (bits p 7 2 == 0x20 && 8 ≤ bits p 15 8 && bits p 15 8 ≤ 13)

/-- Parcels an instruction takes by its L, without its prefix (R84). -/
def parcelCount (p : Parcel) : Nat := (parcelL p).toNat + 1

/-! ## Fields to instructions -/

/-- An instruction when its fields are as the entry demands. -/
def req (c : Bool) (i : Instr) : Option Instr := if c then some i else none

def ldWidth? (w : BitVec 3) : Option LdWidth :=
  match w.toNat with
  | 0 => some .s8 | 1 => some .z8 | 2 => some .s16 | 3 => some .z16 | 4 => some .s32 | 5 => some .z32 | 6 => some .d | _ => none
def stWidth? (w : BitVec 3) : Option StWidth :=
  match w.toNat with | 0 => some .b | 1 => some .h | 2 => some .w | 3 => some .d | _ => none

/-- The T-format ALU major (R93, R103): F3 is 0 but for the saturating forms of ADD and SUB. -/
def decodeAlu (t : TF) : Option Instr :=
  match t.f6.toNat, t.f3.toNat with
  | 0, 0 => if t.d == 0 && t.a == 0 && t.b == 0 then some .nop else some (.add t.d t.a t.b)
  | 0, 1 => some (.addSat t.d t.a t.b)
  | 0, 2 => some (.addZSat t.d t.a t.b)
  | 1, 0 => some (.sub t.d t.a t.b)
  | 1, 1 => some (.subSat t.d t.a t.b)
  | 1, 2 => some (.subZSat t.d t.a t.b)
  | 2, 0 => some (.and t.d t.a t.b)
  | 3, 0 => some (.or t.d t.a t.b)
  | 4, 0 => some (.xor t.d t.a t.b)
  | 5, 0 => some (.andn t.d t.a t.b)
  | 6, 0 => some (.sll t.d t.a t.b)
  | 7, 0 => some (.srl t.d t.a t.b)
  | 8, 0 => some (.sra t.d t.a t.b)
  | 9, 0 => some (.rol t.d t.a t.b)
  | 10, 0 => some (.ror t.d t.a t.b)
  | 11, 0 => some (.min t.d t.a t.b)
  | 12, 0 => some (.max t.d t.a t.b)
  | 13, 0 => some (.minZ t.d t.a t.b)
  | 14, 0 => some (.maxZ t.d t.a t.b)
  | 15, 0 => some (.slt t.d t.a t.b)
  | 16, 0 => some (.sltZ t.d t.a t.b)
  | _, _ => none

def decodeMulDiv (t : TF) : Option Instr :=
  match t.f6.toNat, t.f3.toNat with
  | 0, 0 => some (.mul t.d t.a t.b)
  | 1, 0 => some (.mulh t.d t.a t.b)
  | 2, 0 => some (.mulhZ t.d t.a t.b)
  | 3, 0 => some (.div t.d t.a t.b)
  | 4, 0 => some (.divZ t.d t.a t.b)
  | 5, 0 => some (.rem t.d t.a t.b)
  | 6, 0 => some (.remZ t.d t.a t.b)
  | _, _ => none

def decodeBits (t : TF) : Option Instr :=
  if t.b == 0 && t.f3 == 0 then
    match t.f6.toNat with
    | 0 => some (.clz t.d t.a) | 1 => some (.ctz t.d t.a) | 2 => some (.popc t.d t.a) | 3 => some (.brev t.d t.a)
    | _ => none
  else none

def decodeIndirect (t : TF) : Option Instr :=
  if t.d == 0 && t.b == 0 && t.f3 == 0 then
    match t.f6.toNat with
    | 0 => some (.jmpx t.a) | 1 => some (.callx t.a) | 2 => req (t.a == 0) .ret | _ => none
  else none

def decodeQueue (t : TF) : Option Instr :=
  if t.f3 == 0 && t.b.toNat < 4 then
    match t.f6.toNat with
    | 0 => req (t.d == 0) (.qput t.a (t.b.setWidth 2))
    | 1 => req (t.a == 0) (.qget t.d (t.b.setWidth 2))
    | 2 => req (t.a == 0) (.qpeek t.d (t.b.setWidth 2))
    | 3 => req (t.a == 0) (.qcnt t.d (t.b.setWidth 2))
    | _ => none
  else none

def decodePort (t : TF) : Option Instr :=
  if t.f3 == 0 && t.b.toNat < 6 then
    match t.f6.toNat with
    | 0 => req (t.d == 0 && t.b.toNat ≤ 4) (.nput t.a (t.b.setWidth 3))
    | 1 => req (t.a == 0 && t.b != 4) (.nget t.d (t.b.setWidth 3))
    | 2 => req (t.a == 0 && t.b != 4) (.ntry t.d (t.b.setWidth 3))
    | _ => none
  else none

def decodeTempo (t : TF) : Option Instr :=
  match t.f6.toNat with
  | 0 => req (t.f3 == 0 && t.b == 0 && t.d.toNat < 16) (.tbind (t.d.setWidth 4) t.a)
  | 1 => req (t.f3 == 0 && t.a == 0 && t.b.toNat < 16) (.trd t.d (t.b.setWidth 4))
  | _ => none

def decodeContext (t : TF) : Option Instr :=
  if t.f3 == 0 then
    match t.f6.toNat with
    | 0 => some (.hstart t.d t.a t.b)
    | 1 => req (t.b == 0) (.hjoin t.d t.a)
    | 2 => req (t.d == 0 && t.b == 0) (.hexit t.a)
    | 3 => req (t.d == 0 && t.a == 0 && t.b == 0) .yield
    | 4 => req (t.d == 0 && t.a == 0 && t.b == 0) .pause
    | _ => none
  else none

/-- The 32-bit majors (R92). -/
def decode32 (p : Option Mods) (t : TF) : Option Instr :=
  match t.op.toNat with
  | 0x00 => decodeAlu t
  | 0x01 => decodeMulDiv t
  | 0x02 => req (t.f3 == 0 && t.f6.toNat < 32) (.sel t.d t.a t.b (t.f6.setWidth 5))
  | 0x03 => req (t.f6 == 0) (.addx t.d t.a t.b t.f3)
  | 0x04 => decodeBits t
  | 0x08 => some (.addi t.d t.a t.imm14)
  | 0x09 => some (.andi t.d t.a t.imm14)
  | 0x0A => some (.ori t.d t.a t.imm14)
  | 0x0B => some (.xori t.d t.a t.imm14)
  | 0x0C => req (t.imm14.toNat < 64) (.slli t.d t.a (t.imm14.setWidth 6))
  | 0x0D => req (t.imm14.toNat < 64) (.srli t.d t.a (t.imm14.setWidth 6))
  | 0x0E => req (t.imm14.toNat < 64) (.srai t.d t.a (t.imm14.setWidth 6))
  | 0x0F => some (.slti t.d t.a t.imm14)
  | 0x10 => some (.beq t.d t.a t.imm14)
  | 0x11 => some (.bne t.d t.a t.imm14)
  | 0x12 => some (.blt t.d t.a t.imm14)
  | 0x13 => some (.bge t.d t.a t.imm14)
  | 0x14 => some (.bltZ t.d t.a t.imm14)
  | 0x15 => some (.bgeZ t.d t.a t.imm14)
  | 0x16 => some (.bbs t.d t.a t.imm14)
  | 0x17 => some (.bbsHi t.d t.a t.imm14)
  | 0x18 => some (.bbc t.d t.a t.imm14)
  | 0x19 => some (.bbcHi t.d t.a t.imm14)
  | 0x1A => req (t.a == 0 && t.d != 0) (.loop t.d t.imm14)
  | 0x1B => some (.jmp t.disp24)
  | 0x1C => some (.call t.disp24)
  | 0x1D => decodeIndirect t
  | 0x1E => req (t.a == 0 && t.d.toNat < 16) (.btempo (t.d.setWidth 4) t.imm14)
  | 0x1F => req (t.a == 0 && t.d.toNat < 16) (.bntempo (t.d.setWidth 4) t.imm14)
  | 0x20 => (ldWidth? t.w3).map fun w => .ld p w t.d t.a t.disp11
  | 0x21 => (stWidth? t.w3).map fun w => .st p w t.d t.a t.disp11
  | 0x22 => req (t.w3 == 0 && !(bit t.d 0)) (.ldp p t.d t.a t.disp11)
  | 0x23 => req (t.w3 == 0 && !(bit t.d 0)) (.stp p t.d t.a t.disp11)
  | 0x24 => decodeQueue t
  | 0x25 => decodePort t
  | 0x26 => decodeTempo t
  | 0x27 => decodeContext t
  | _ => none

/-! ### X layout -/

/-- A v register field: numbers 16–31 are beyond the file (R97). -/
def isV (r : BitVec 5) : Bool := r.toNat < 16
def toV (r : BitVec 5) : VReg := r.setWidth 4
def isW (r : BitVec 5) : Bool := r.toNat < 8
def toW (r : BitVec 5) : WReg := r.setWidth 3
def isM (r : BitVec 5) : Bool := r.toNat < 4
def toM (r : BitVec 5) : MReg := r.setWidth 2
/-- The second operand of a vector form whose F3 bit 2 selects `.g` (R190). -/
def vsrcOk (f3 : BitVec 3) (b : BitVec 5) : Bool := bit f3 2 || isV b
def toVSrc (f3 : BitVec 3) (b : BitVec 5) : VSrc := if bit f3 2 then .g b else .v (toV b)

def vldWidth? (f3 : BitVec 3) : Option VLdWidth :=
  match f3.toNat with | 0 => some .w | 1 => some .z16 | 2 => some .s16 | 3 => some .z8 | 4 => some .s8 | _ => none
def vstWidth? (f3 : BitVec 3) : Option VStWidth :=
  match f3.toNat with | 0 => some .w | 1 => some .h | 2 => some .b | _ => none
def famoOp? (f3 : BitVec 3) : Option FamoOp :=
  match f3.toNat with
  | 0 => some .add | 1 => some .and | 2 => some .or | 3 => some .xor | 4 => some .min | 5 => some .max | 6 => some .fadd | _ => none
def fenceKind? (f3 : BitVec 3) : Option FenceKind :=
  match f3.toNat with | 0 => some .full | 1 => some .acq | 2 => some .rel | 3 => some .ss | _ => none
def vfmt? (n : Nat) : Option VFmt :=
  match n with | 0 => some .f32 | 1 => some .f16 | 2 => some .bf16 | 3 => some .s32 | 4 => some .s16 | 5 => some .s8 | _ => none
def vcond? (n : Nat) : Option VCond :=
  match n with
  | 0 => some .eq | 1 => some .ne | 2 => some .lt | 3 => some .ge | 4 => some .ltZ | 5 => some .geZ
  | 6 => some .feq | 7 => some .flt | 8 => some .fle | 9 => some .fun_ | _ => none
def redOp? (fl : Bool) (f3 : BitVec 3) : Option RedOp :=
  match fl, f3.toNat with
  | false, 0 => some .add | false, 1 => some .min | false, 2 => some .max | false, 3 => some .minZ
  | false, 4 => some .maxZ | false, 5 => some .and | false, 6 => some .or | false, 7 => some .xor
  | true, 0 => some .fadd | true, 1 => some .fmin | true, 2 => some .fmax | _, _ => none
def nredOp? (f3 : BitVec 3) : Option NredOp :=
  match f3.toNat with
  | 0 => some .add | 1 => some .min | 2 => some .max | 3 => some .fadd | 4 => some .fmin | 5 => some .fmax | _ => none
def narrowMode? (f3 : BitVec 3) : Option NarrowMode :=
  match f3.toNat with | 0 => some .s32 | 1 => some .f32 | 2 => some .sh | 3 => some .i2f | _ => none

/-- Majors 0x01 and 0x10: control registers, fences, check and watch (R115, R137–R139, R158). -/
def decodeX01 (x : XF) : Option Instr :=
  let sel := x.imm.setWidth 8
  if x.b == 0 && x.c == 0 && x.f3 == 0 && x.imm.toNat < 256 then
    match x.min.toNat with
    | 0 => req (x.a == 0) (.crd x.d sel)
    | 1 => some (.cwr x.d x.a sel)
    | 2 => some (.cset x.d x.a sel)
    | 3 => some (.cclr x.d x.a sel)
    | _ => none
  else none

def decodeX10 (x : XF) : Option Instr :=
  match x.min.toNat with
  | 0 => if x.d == 0 && x.a == 0 && x.b == 0 && x.c == 0 && x.imm.toNat < 6 then
      (fenceKind? x.f3).map fun k => .fence k (x.imm.setWidth 3) else none
  | 1 => req (x.d == 0 && x.a == 0 && x.b == 0 && x.c == 0 && x.f3 == 0 && x.imm == 0) .echk
  | 2 => req (x.f3 == 0) (.waita x.d x.b x.c x.a x.imm)
  | _ => none

/-- Major 0x11: the AMO forms (R95, R135). F3 is the width; AMO.FADD exists only with F3 = 1; C is 0 but for CAS. -/
def decodeX11 (p : Option Mods) (x : XF) : Option Instr :=
  let w := bit x.f3 0
  if x.f3.toNat < 2 then
    match x.min.toNat with
    | 0 => req (x.c == 0) (.amoAdd p w x.d x.b x.a x.imm)
    | 1 => req (x.c == 0) (.amoAnd p w x.d x.b x.a x.imm)
    | 2 => req (x.c == 0) (.amoOr p w x.d x.b x.a x.imm)
    | 3 => req (x.c == 0) (.amoXor p w x.d x.b x.a x.imm)
    | 4 => req (x.c == 0) (.amoMin p w x.d x.b x.a x.imm)
    | 5 => req (x.c == 0) (.amoMax p w x.d x.b x.a x.imm)
    | 6 => req (x.c == 0) (.amoMinZ p w x.d x.b x.a x.imm)
    | 7 => req (x.c == 0) (.amoMaxZ p w x.d x.b x.a x.imm)
    | 8 => req (x.c == 0) (.amoSwp p w x.d x.b x.a x.imm)
    | 9 => some (.amoCas p w x.d x.b x.c x.a x.imm)
    | 10 => req (x.c == 0 && w) (.amoFadd p x.d x.b x.a x.imm)
    | _ => none
  else none

/-- Major 0x12: the fabric instructions (R141–R144). -/
def decodeX12 (x : XF) : Option Instr :=
  match x.min.toNat with
  | 0 => req (x.b == 0 && x.c == 0 && x.f3.toNat < 2) (.fld (bit x.f3 0) x.d x.a x.imm)
  | 1 => req (x.b == 0 && x.c == 0 && x.f3 == 0 && x.imm == 0) (.fwait x.d x.a)
  | 2 => req (x.b == 0 && x.c == 0 && x.f3.toNat < 2) (.fst (bit x.f3 0) x.d x.a x.imm)
  | 3 => if x.b == 0 && x.c == 0 then (famoOp? x.f3).map fun o => .famo o x.d x.a x.imm else none
  | 4 => req (x.f3 == 0) (.fmcast x.d x.b x.c x.a x.imm)
  | 5 => req (x.b == 0 && x.c == 0 && x.f3 == 0) (.ffence x.d x.a x.imm)
  | _ => none

/-- Majors 0x13, 0x14, 0x15: barriers, phases and wires, work queues (R145–R156, R158). -/
def decodeX13 (x : XF) : Option Instr :=
  let k := x.imm.setWidth 2
  if x.b == 0 && x.c == 0 && x.f3 == 0 && x.imm.toNat < 4 then
    match x.min.toNat with
    | 0 => req (x.d == 0) (.bset k x.a)
    | 1 => req (x.d == 0 && x.a == 0) (.barrive k)
    | 2 => req (x.d == 0 && x.a == 0) (.bwait k)
    | 3 => req (x.d == 0 && x.a == 0) (.bar k)
    | 4 => req (x.a == 0) (.bstat x.d k)
    | _ => none
  else none

def decodeX14 (x : XF) : Option Instr :=
  if x.b == 0 && x.c == 0 then
    match x.min.toNat with
    | 0 => req (x.d == 0 && x.a == 0 && x.f3 == 0 && x.imm.toNat < 3) (.dphase (x.imm.setWidth 2))
    | 1 => if x.d == 0 then
        if x.f3 == 0 then some (.xmit (x.imm.extractLsb' 22 2) (x.imm.setWidth 22) x.a)
        else req (x.f3 == 1 && x.a == 0) (.xmitR (x.imm.extractLsb' 22 2) (x.imm.setWidth 22))
      else none
    | 2 => req (x.a == 0 && x.f3 == 0) (.xsel x.d (x.imm.extractLsb' 22 2) (x.imm.setWidth 22))
    | 3 => req (x.d == 0 && x.f3 == 0 && x.imm == 0) (.phlx x.a)
    | 4 => req (x.d == 0 && x.a == 0 && x.f3 == 0 && x.imm == 0) .split
    | _ => none
  else none

def decodeX15 (x : XF) : Option Instr :=
  if x.b == 0 && x.c == 0 && x.imm == 0 then
    match x.min.toNat with
    | 0 => req (x.f3.toNat < 2) (.wpop (bit x.f3 0) x.d x.a)
    | 1 => if x.d == 0 then
        if x.f3 == 0 then some (.wpush x.a) else req (x.f3 == 1) (.wpushClose x.a)
      else none
    | 2 => req (x.d == 0 && x.f3 == 0) (.ndone x.a)
    | 3 => req (x.d == 0 && x.f3 == 0) (.nabort x.a)
    | _ => none
  else none

/-- Major 0x20: lanes, vector memory, moves (R189). -/
def decodeX20 (p : Option Mods) (x : XF) : Option Instr :=
  match x.min.toNat with
  | 0 => req (x.b == 0 && x.c == 0 && x.f3.toNat < 2 && x.imm == 0) (.vclaim (bit x.f3 0) x.d x.a)
  | 1 => req (x.a == 0 && x.b == 0 && x.c == 0 && x.f3 == 0 && x.imm == 0) (.vyield x.d)
  | 2 => req (x.b == 0 && x.c == 0 && x.f3 == 0 && x.imm == 0) (.vsetl x.d x.a)
  | 8 => if x.b == 0 && x.c == 0 && isV x.d then (vldWidth? x.f3).map fun w => .vld p w (toV x.d) x.a x.imm else none
  | 9 => if x.b == 0 && x.c == 0 && isV x.d then (vstWidth? x.f3).map fun w => .vst p w (toV x.d) x.a x.imm else none
  | 10 => if x.c == 0 && isV x.d then (vldWidth? x.f3).map fun w => .vlds p w (toV x.d) x.b x.a x.imm else none
  | 11 => if x.c == 0 && isV x.d then (vstWidth? x.f3).map fun w => .vsts p w (toV x.d) x.b x.a x.imm else none
  | 12 => if x.c == 0 && isV x.d && isV x.b then
      (vldWidth? x.f3).map fun w => .vgath p w (toV x.d) (toV x.b) x.a x.imm else none
  | 13 => if x.c == 0 && isV x.d && isV x.b then
      (vstWidth? x.f3).map fun w => .vscat p w (toV x.d) (toV x.b) x.a x.imm else none
  | 14 => req (x.b == 0 && x.c == 0 && x.f3 == 0 && x.imm == 0 && isV x.d) (.vbcast (toV x.d) x.a)
  | 15 => if x.c == 0 && x.imm == 0 then
      if x.f3 == 0 then req (isV x.a) (.vmovg x.d (toV x.a) x.b)
      else req (x.f3 == 1 && isV x.d) (.vmovgSet (toV x.d) x.a x.b)
    else none
  | _ => none

/-- Major 0x21: integer element operations (R194, R195): F3 bit 0 `.sat`, bit 1 `.z`, bit 2 `.g`. -/
def decodeX21 (x : XF) : Option Instr :=
  let sat := bit x.f3 0
  let z := bit x.f3 1
  let b := toVSrc x.f3 x.b
  let ok := isV x.d && isV x.a && x.c == 0 && x.imm == 0 && vsrcOk x.f3 x.b
  match x.min.toNat with
  | 0 => req (ok && (sat || !z)) (.vadd sat z (toV x.d) (toV x.a) b)
  | 1 => req (ok && (sat || !z)) (.vsub sat z (toV x.d) (toV x.a) b)
  | 2 => req (ok && !sat && !z) (.vmul (toV x.d) (toV x.a) b)
  | 3 => req (ok && !sat) (.vmulh z (toV x.d) (toV x.a) b)
  | 4 => req (ok && !sat) (.vmin z (toV x.d) (toV x.a) b)
  | 5 => req (ok && !sat) (.vmax z (toV x.d) (toV x.a) b)
  | 6 => req (ok && !sat && !z) (.vand (toV x.d) (toV x.a) b)
  | 7 => req (ok && !sat && !z) (.vor (toV x.d) (toV x.a) b)
  | 8 => req (ok && !sat && !z) (.vxor (toV x.d) (toV x.a) b)
  | 9 => req (ok && !sat && !z) (.vshl (toV x.d) (toV x.a) b)
  | 10 => req (ok && !sat && !z) (.vshr (toV x.d) (toV x.a) b)
  | 11 => req (ok && !sat && !z) (.vsra (toV x.d) (toV x.a) b)
  | 12 => if isV x.d && isV x.a && x.c == 0 && x.imm.toNat < 16 && !sat && !z && vsrcOk x.f3 x.b then
      (vcond? x.imm.toNat).map fun cc => .vcmp cc (toV x.d) (toV x.a) b else none
  | 13 => req (isV x.d && isV x.a && isV x.b && isV x.c && x.f3 == 0 && x.imm == 0)
      (.vsel (toV x.d) (toV x.a) (toV x.b) (toV x.c))
  | _ => none

/-- Majors 0x22 and 0x23: floating element operations (R196, R197). -/
def decodeX22 (x : XF) : Option Instr :=
  let b := toVSrc x.f3 x.b
  let ok := isV x.d && isV x.a && x.imm == 0 && vsrcOk x.f3 x.b && !(bit x.f3 0) && !(bit x.f3 1)
  match x.min.toNat with
  | 0 => req (ok && x.c == 0) (.vfadd (toV x.d) (toV x.a) b)
  | 1 => req (ok && x.c == 0) (.vfsub (toV x.d) (toV x.a) b)
  | 2 => req (ok && x.c == 0) (.vfmul (toV x.d) (toV x.a) b)
  | 3 => req (ok && isV x.c) (.vfma (toV x.d) (toV x.a) b (toV x.c))
  | 4 => req (ok && x.c == 0) (.vfmin (toV x.d) (toV x.a) b)
  | 5 => req (ok && x.c == 0) (.vfmax (toV x.d) (toV x.a) b)
  | _ => none

def decodeX23 (x : XF) : Option Instr :=
  if isV x.d && isV x.a && x.b == 0 && x.c == 0 && x.f3 == 0 && x.imm == 0 then
    match x.min.toNat with
    | 0 => some (.vrcp (toV x.d) (toV x.a))
    | 1 => some (.vrsq (toV x.d) (toV x.a))
    | 2 => some (.vexp2 (toV x.d) (toV x.a))
    | 3 => some (.vlog2 (toV x.d) (toV x.a))
    | 4 => some (.vsig (toV x.d) (toV x.a))
    | _ => none
  else none

/-- Majors 0x24 and 0x25: wide accumulators and dot products (R198–R202). -/
def decodeX24 (x : XF) : Option Instr :=
  match x.min.toNat with
  | 0 => req (isW x.d && isV x.a && isV x.b && x.c == 0 && !(bit x.f3 2) && x.imm == 0)
      (.vmacw (bit x.f3 0) (bit x.f3 1) (toW x.d) (toV x.a) (toV x.b))
  | 1 => req (isW x.d && isV x.a && isV x.b && x.c == 0 && x.f3 == 0 && x.imm == 0) (.vfmacw (toW x.d) (toV x.a) (toV x.b))
  | 2 => if isV x.d && isW x.a && x.b == 0 && x.c == 0 && x.imm.toNat < 64 then
      (narrowMode? x.f3).bind fun m =>
        req (m == .sh || x.imm == 0) (.vnarrow m (toV x.d) (toW x.a) (x.imm.setWidth 6))
    else none
  | 3 => req (isW x.d && x.a == 0 && x.b == 0 && x.c == 0 && x.f3 == 0 && x.imm == 0) (.vwclr (toW x.d))
  | _ => none

def decodeX25 (x : XF) : Option Instr :=
  if x.imm == 0 && isV x.a && isV x.b then
    match x.min.toNat with
    | 0 => req (isV x.d && isV x.c && !(bit x.f3 2))
        (.vidot (bit x.f3 0) (bit x.f3 1) (toV x.d) (toV x.a) (toV x.b) (toV x.c))
    | 1 => if bit x.f3 2 then none
      else if bit x.f3 1 then req (isV x.d && x.c == 0 && !(bit x.d 0)) (.vfdotC (bit x.f3 0) (toV x.d) (toV x.a) (toV x.b))
      else req (isV x.d && isV x.c) (.vfdot (bit x.f3 0) (toV x.d) (toV x.a) (toV x.b) (toV x.c))
    | 2 => req (x.f3 == 0) (.vdotr x.d (toV x.a) (toV x.b) x.c)
    | _ => none
  else none

/-- Major 0x26: conversions (R203–R207). -/
def decodeX26 (x : XF) : Option Instr :=
  if x.b == 0 && x.c == 0 && x.imm.toNat < 256 then
    let t := x.imm.setWidth 8
    match x.min.toNat, x.f3.toNat with
    | 0, 0 | 0, 1 => if isV x.d && isV x.a then
        (vfmt? (x.imm.toNat % 16)).bind fun y => (vfmt? (x.imm.toNat / 16)).bind fun s =>
          req (y != s) (.vcvt (bit x.f3 0) y s (toV x.d) (toV x.a))
      else none
    | 0, 2 | 0, 3 => req (isV x.d) (.vcvtMx (bit x.f3 0) (toV x.d) x.a t)
    | 0, 4 => req (isV x.d) (.vcvtMxd (toV x.d) x.a t)
    | 1, 0 | 1, 1 => req (isV x.d) (.vbniScan (bit x.f3 0) (toV x.d) x.a t)
    | 1, 2 | 1, 3 => req (isV x.d) (.vbni (bit x.f3 0) (toV x.d) x.a t)
    | 2, 0 => req (isV x.a && x.imm == 0) (.vamax x.d (toV x.a))
    | _, _ => none
  else none

/-- Majors 0x27 and 0x28: reductions and permutes (R193, R208–R211). -/
def decodeX27 (x : XF) : Option Instr :=
  match x.min.toNat with
  | 0 => if isV x.a && x.b == 0 && x.c == 0 && x.imm.toNat < 2 then
      (redOp? (bit x.imm 0) x.f3).map fun o => .vred o x.d (toV x.a) else none
  | 1 => if isV x.d && isV x.a && x.b == 0 && x.c == 0 && x.imm.toNat < 2 then
      (redOp? (bit x.imm 0) x.f3).map fun o => .vscan o (toV x.d) (toV x.a) else none
  | 2 => if isV x.d && isV x.a then
      if x.f3 == 6 then
        req (isV x.b && isV x.c && x.imm.toNat < 2 && x.d != x.c)
          (.vnredMx (bit x.imm 0) (toV x.d) (toV x.a) (toV x.b) (toV x.c))
      else if x.b == 0 && x.c == 0 && x.imm == 0 then (nredOp? x.f3).map fun o => .vnred o (toV x.d) (toV x.a)
      else none
    else none
  | _ => none

def decodeX28 (x : XF) : Option Instr :=
  match x.min.toNat with
  | 0 => req (isV x.d && isV x.a && isV x.b && x.c == 0 && x.f3 == 0 && x.imm == 0) (.vperm (toV x.d) (toV x.a) (toV x.b))
  | 1 => if isV x.d && isV x.a && x.c == 0 && x.imm.toNat < 256 then
      if x.f3 == 0 then req (x.b == 0) (.vslide none (toV x.d) (toV x.a) (x.imm.setWidth 8))
      else req (x.f3 == 1) (.vslide (some x.b) (toV x.d) (toV x.a) (x.imm.setWidth 8))
    else none
  | _ => none

/-- Majors 0x30–0x33: operand memory, matrix engine, tensor identifiers, accumulator tiles (R236). -/
def decodeX30 (x : XF) : Option Instr :=
  if x.b == 0 && x.c == 0 && x.f3 == 0 then
    match x.min.toNat with
    | 0 => req (isW x.a && x.imm == 0) (.oclaim x.d (toW x.a))
    | 1 => req (isW x.d && x.a == 0 && x.imm == 0) (.orel (toW x.d))
    | 2 => req (isW x.d && x.imm.toNat < 4096) (.oload (toW x.d) x.a (x.imm.setWidth 8) (x.imm.extractLsb' 8 4))
    | 3 => req (isW x.d && x.a == 0 && x.imm.toNat < 256) (.ozero (toW x.d) (x.imm.setWidth 8))
    | _ => none
  else none

def decodeX31 (x : XF) : Option Instr :=
  if x.c == 0 then
    let kb := x.imm.setWidth 8
    let ke := x.imm.extractLsb' 8 9
    let pa := x.imm.extractLsb' 17 3
    let pb := x.imm.extractLsb' 20 3
    match x.min.toNat with
    | 0 => req (isM x.d && x.a == 0 && x.b == 0 && x.f3 == 0 && x.imm == 0) (.mclr (toM x.d))
    | 1 => req (isM x.d && isW x.a && isW x.b && x.f3.toNat < 2 && !(bit x.imm 23))
        (.mmp (bit x.f3 0) (toM x.d) (toW x.a) (toW x.b) kb ke pa pb)
    | 2 => req (isM x.d && isW x.a && isW x.b && x.f3.toNat < 4 && x.imm.toNat < 131072)
        (.mbin (bit x.f3 1) (bit x.f3 0) (toM x.d) (toW x.a) (toW x.b) kb ke)
    | 3 => req (isM x.d && isW x.a && isW x.b && x.f3.toNat < 2 && !(bit x.imm 23))
        (.msp (bit x.f3 0) (toM x.d) (toW x.a) (toW x.b) kb ke pa pb)
    | 4 => req (isM x.a && x.b == 0 && x.f3 == 0 && x.imm == 0) (.mstat x.d (toM x.a))
    | 5 => req (isM x.d && x.b == 0 && x.f3.toNat < 2 && x.imm.toNat < 256)
        (.mrd (bit x.f3 0) (toM x.d) x.a (x.imm.setWidth 8))
    | 6 => req (isM x.d && x.a == 0 && x.b == 0 && x.f3 == 0 && x.imm == 0) (.mchk (toM x.d))
    | _ => none
  else none

def decodeX32 (x : XF) : Option Instr :=
  if x.b == 0 && x.c == 0 && x.f3 == 0 then
    match x.min.toNat with
    | 0 => req (x.d == 0 && x.imm.toNat < 256) (.tdef (x.imm.setWidth 8) x.a)
    | 1 => req (x.a == 0 && x.imm.toNat < 1024) (.tqry x.d (x.imm.setWidth 8) (x.imm.extractLsb' 8 2))
    | _ => none
  else none

def decodeX33 (x : XF) : Option Instr :=
  match x.min.toNat with
  | 0 => req (x.f3 == 0 && x.imm == 0) (.aclaim x.d x.a x.b x.c)
  | 1 => req (isM x.d && x.f3 == 0 && x.imm == 0) (.acontrib (toM x.d) x.a x.b x.c)
  | 2 => req (x.b == 0 && x.c == 0 && x.f3 == 0 && x.imm == 0) (.ardy x.d x.a)
  | 3 => req (x.f3.toNat < 2 && x.imm.toNat < 256 && (bit x.f3 0 || x.c == 0))
      (.ard (bit x.f3 0) x.d x.a x.b x.c (x.imm.setWidth 8))
  | 4 => req (isV x.d && x.f3.toNat < 2 && x.imm == 0) (.ardv (bit x.f3 0) (toV x.d) x.a x.b x.c)
  | 5 => req (x.b == 0 && x.c == 0 && x.f3 == 0 && x.imm == 0) (.aknock x.d x.a)
  | 6 => if x.b == 0 && x.c == 0 then
      if x.f3 == 0 then req (x.imm == 0) (.astat none x.d x.a)
      else req (x.f3 == 1 && x.imm.toNat < 8) (.astat (some (x.imm.setWidth 3)) x.d x.a)
    else none
  | 7 => req (x.b == 0 && x.c == 0 && x.f3 == 0 && x.imm == 0) (.arel x.d x.a)
  | _ => none

/-- Majors 0x38–0x3C: engine, queries, traps, supervisor and loader (R260). -/
def decodeX38 (x : XF) : Option Instr :=
  if x.b == 0 && x.c == 0 then
    match x.min.toNat with
    | 0 => if x.imm == 0 then
        if x.f3 == 0 then some (.xcopy x.d x.a) else req (x.f3 == 1) (.xcopyCode x.d x.a)
      else none
    | 1 => req (x.f3 == 0 && x.imm == 0) (.x2d x.d x.a)
    | 2 => req (x.f3 == 0 && x.imm == 0) (.xdeal x.d x.a)
    | 3 => req (x.f3 == 0 && x.imm == 0) (.xgath x.d x.a)
    | 4 => req (x.f3 == 0 && x.imm == 0) (.xput x.d x.a)
    | 5 => req (x.f3 == 0 && x.imm == 0) (.xget x.d x.a)
    | 6 => req (x.f3 == 0 && x.imm.toNat < 256) (.xkick x.d x.a (x.imm.setWidth 8))
    | 7 => req (x.f3 == 0 && x.imm == 0) (.xcancel x.d x.a)
    | 8 => req (x.f3 == 0 && x.imm == 0) (.xstat x.d x.a)
    | _ => none
  else none

def decodeX39 (x : XF) : Option Instr :=
  if x.c == 0 && x.f3 == 0 && x.imm == 0 then
    match x.min.toNat with
    | 0 => some (.dhops x.d x.a x.b)
    | 1 => req (x.b == 0) (.dwho x.d x.a)
    | _ => none
  else none

def decodeX3A (x : XF) : Option Instr :=
  if x.d == 0 && x.a == 0 && x.b == 0 && x.c == 0 && x.f3 == 0 then
    match x.min.toNat with
    | 0 => some (.trap x.imm)
    | 1 => req (x.imm == 0) .eret
    | 2 => some (.brk x.imm)
    | 3 => req (x.imm == 0) .halt
    | _ => none
  else none

def decodeX3B (x : XF) : Option Instr :=
  if x.c == 0 && x.f3 == 0 && x.imm == 0 then
    match x.min.toNat with
    | 0 => some (.csave x.d x.a x.b) | 1 => some (.cload x.d x.a x.b) | _ => none
  else none

def decodeX3C (x : XF) : Option Instr :=
  if x.f3 == 0 && x.imm == 0 then
    match x.min.toNat with
    | 0 => req (x.b == 0 && x.c == 0) (.tlbgen x.d x.a)
    | 1 => req (x.c == 0) (.migr x.d x.a x.b)
    | 2 => req (x.d == 0 && x.c == 0) (.xbset x.a x.b)
    | 3 => req (x.d == 0) (.cstart x.a x.b x.c)
    | _ => none
  else none

/-- The 64-bit majors (R95). -/
def decodeX (p : Option Mods) (x : XF) : Option Instr :=
  match x.maj.toNat with
  | 0x01 => decodeX01 x
  | 0x10 => decodeX10 x
  | 0x11 => decodeX11 p x
  | 0x12 => decodeX12 x
  | 0x13 => decodeX13 x
  | 0x14 => decodeX14 x
  | 0x15 => decodeX15 x
  | 0x20 => decodeX20 p x
  | 0x21 => decodeX21 x
  | 0x22 => decodeX22 x
  | 0x23 => decodeX23 x
  | 0x24 => decodeX24 x
  | 0x25 => decodeX25 x
  | 0x26 => decodeX26 x
  | 0x27 => decodeX27 x
  | 0x28 => decodeX28 x
  | 0x30 => decodeX30 x
  | 0x31 => decodeX31 x
  | 0x32 => decodeX32 x
  | 0x33 => decodeX33 x
  | 0x38 => decodeX38 x
  | 0x39 => decodeX39 x
  | 0x3A => decodeX3A x
  | 0x3B => decodeX3B x
  | 0x3C => decodeX3C x
  | _ => none

/-- The 96-bit forms (R109): A, B, C and IMM24 are 0. -/
def decodeLit (x : XF) (lit : Parcel) : Option Instr :=
  if x.maj == 0 && x.a == 0 && x.b == 0 && x.c == 0 && x.imm == 0 then
    match x.min.toNat, x.f3.toNat with
    | 0, 0 => some (.li x.d lit)
    | 1, 0 => some (.lih x.d lit)
    | 2, 0 => some (.adpc x.d lit)
    | 2, 1 => some (.adpcLoc x.d lit)
    | _, _ => none
  else none

/-- The instruction of whole parcels, given the prefix; none where a field is bad (`FieldsBad` of R99). -/
def decodeBody (p : Option Mods) (ps : List Parcel) : Option Instr :=
  match ps with
  | [p0] => if parcelL p0 == 0 then decode32 p (TF.unpack p0) else none
  | [p0, p1] => if parcelL p0 == 1 && !(bit p0 31) then decodeX p (XF.unpack p0 p1) else none
  | [p0, p1, p2] => if parcelL p0 == 2 && !(bit p0 31) then decodeLit (XF.unpack p0 p1) p2 else none
  | _ => none

/-- Decoding of an instruction that follows the prefix `p`, from its first parcel on. -/
def decodeAfter (p : Option Mods) (ps : List Parcel) : Except DecodeError Instr :=
  match ps with
  | [] => .error .truncated
  | p0 :: _ =>
    if parcelL p0 == 3 then .error .secondMods
    else if !(opcodeKnown p0) then .error .unknownOpcode
    else if p.isSome && !(acceptsMods p0) then .error .modsNotAccepted
    else if ps.length < parcelCount p0 then .error .truncated
    else match decodeBody p (ps.take (parcelCount p0)) with
      | some i => .ok i
      | none => .error .fieldsBad

/-- Decoding of the parcels at a PC, prefix included, in the order of R99. -/
def decode (ps : List Parcel) : Except DecodeError Instr :=
  match ps with
  | [] => .error .truncated
  | p0 :: rest =>
    if parcelL p0 == 3 then
      if Mods.parcelOk p0 then decodeAfter (some (Mods.unpack p0)) rest else .error .modsReserved
    else decodeAfter none ps

/-! ## Bytes -/

/-- Little-endian parcels of bytes (R8, R84); a last incomplete parcel is dropped. -/
def parcelsOfBytes : List Byte → List Parcel
  | b0 :: b1 :: b2 :: b3 :: rest => (b3 ++ b2 ++ b1 ++ b0) :: parcelsOfBytes rest
  | _ => []

/-- The four bytes of a parcel, lowest address first. -/
def bytesOfParcel (p : Parcel) : List Byte :=
  [p.extractLsb' 0 8, p.extractLsb' 8 8, p.extractLsb' 16 8, p.extractLsb' 24 8]

/-- The instruction whose bits are `w` as spec/opcode_table.json numbers them: four parcels are laid out (a prefix and the
longest form), the bits above `nbits` zero, and given to the decoder. -/
def tableBytes (nbits w : Nat) : List Byte :=
  let v := w % 2 ^ nbits
  (List.range 16).map fun i => BitVec.ofNat 8 (v / 2 ^ (8 * i))

def decodeTableWord (nbits w : Nat) : Option Instr :=
  match decode (parcelsOfBytes (tableBytes nbits w)) with
  | .ok i => some i
  | .error _ => none

/-! ## The encoder -/

def LdWidth.code : LdWidth → BitVec 3
  | .s8 => 0 | .z8 => 1 | .s16 => 2 | .z16 => 3 | .s32 => 4 | .z32 => 5 | .d => 6
def StWidth.code : StWidth → BitVec 3
  | .b => 0 | .h => 1 | .w => 2 | .d => 3
def VLdWidth.code : VLdWidth → BitVec 3
  | .w => 0 | .z16 => 1 | .s16 => 2 | .z8 => 3 | .s8 => 4
def VStWidth.code : VStWidth → BitVec 3
  | .w => 0 | .h => 1 | .b => 2
def FamoOp.code : FamoOp → BitVec 3
  | .add => 0 | .and => 1 | .or => 2 | .xor => 3 | .min => 4 | .max => 5 | .fadd => 6
def FenceKind.code : FenceKind → BitVec 3
  | .full => 0 | .acq => 1 | .rel => 2 | .ss => 3
def NarrowMode.code : NarrowMode → BitVec 3
  | .s32 => 0 | .f32 => 1 | .sh => 2 | .i2f => 3
def VFmt.code : VFmt → BitVec 4
  | .f32 => 0 | .f16 => 1 | .bf16 => 2 | .s32 => 3 | .s16 => 4 | .s8 => 5
def VCond.code : VCond → BitVec 4
  | .eq => 0 | .ne => 1 | .lt => 2 | .ge => 3 | .ltZ => 4 | .geZ => 5 | .feq => 6 | .flt => 7 | .fle => 8 | .fun_ => 9
def RedOp.code : RedOp → BitVec 3
  | .add => 0 | .min => 1 | .max => 2 | .minZ => 3 | .maxZ => 4 | .and => 5 | .or => 6 | .xor => 7
  | .fadd => 0 | .fmin => 1 | .fmax => 2
def RedOp.isFloat : RedOp → Bool
  | .fadd => true | .fmin => true | .fmax => true | _ => false
def NredOp.code : NredOp → BitVec 3
  | .add => 0 | .min => 1 | .max => 2 | .fadd => 3 | .fmin => 4 | .fmax => 5
def VSrc.code : VSrc → BitVec 5
  | .v r => r.setWidth 5 | .g r => r
def VSrc.flag : VSrc → BitVec 3
  | .v _ => 0 | .g _ => 4

/-- F3 of three flags, bit 0 first. -/
def f3Of (b0 b1 b2 : Bool) : BitVec 3 := BitVec.ofBool b2 ++ BitVec.ofBool b1 ++ BitVec.ofBool b0
def r5 {n : Nat} (r : BitVec n) : BitVec 5 := r.setWidth 5

/-- The fields of an instruction without a literal: a 32-bit form or an X form. -/
inductive Fields where
  | t (f : TF)
  | x (f : XF)
  | lit (f : XF) (l : BitVec 32)
  deriving DecidableEq, Repr

def tri (op f6 : Nat) (f3 : Nat) (d a b : BitVec 5) : Option Fields := some (.t ⟨BitVec.ofNat 6 op, d, a, b, BitVec.ofNat 3 f3, BitVec.ofNat 6 f6⟩)
def immF (op : Nat) (d a : BitVec 5) (imm : BitVec 14) : Option Fields := some (.t (TF.ofI (BitVec.ofNat 6 op) d a imm))
def jmpF (op : Nat) (disp : BitVec 24) : Option Fields := some (.t (TF.ofJ (BitVec.ofNat 6 op) disp))
def memF (op : Nat) (d a : BitVec 5) (w : BitVec 3) (disp : BitVec 11) : Option Fields :=
  some (.t (TF.ofM (BitVec.ofNat 6 op) d a w disp))
def xF (maj min : Nat) (d a b c : BitVec 5) (f3 : BitVec 3) (imm : BitVec 24) : Option Fields :=
  some (.x ⟨BitVec.ofNat 6 maj, BitVec.ofNat 8 min, d, a, b, c, f3, imm⟩)
def litF (min : Nat) (f3 : BitVec 3) (d : BitVec 5) (l : BitVec 32) : Option Fields :=
  some (.lit ⟨0, BitVec.ofNat 8 min, d, 0, 0, 0, f3, 0⟩ l)

/-- A wire and a slot in IMM24 (R152). -/
def wireImm (w : BitVec 2) (s : BitVec 22) : BitVec 24 := w ++ s
/-- kb, ke, pa − 1 and pb − 1 in IMM24 (R236). -/
def mulImm (kb : BitVec 8) (ke : BitVec 9) (pa pb : BitVec 3) : BitVec 24 := (0 : BitVec 1) ++ pb ++ pa ++ ke ++ kb

namespace Instr

/-- The fields of an instruction, from the encoding tables; none for a step without an encoding. -/
def fields : Instr → Option Fields
  | nop => tri 0 0 0 0 0 0
  | add d a b => tri 0 0 0 d a b
  | addSat d a b => tri 0 0 1 d a b
  | addZSat d a b => tri 0 0 2 d a b
  | sub d a b => tri 0 1 0 d a b
  | subSat d a b => tri 0 1 1 d a b
  | subZSat d a b => tri 0 1 2 d a b
  | and d a b => tri 0 2 0 d a b
  | or d a b => tri 0 3 0 d a b
  | xor d a b => tri 0 4 0 d a b
  | andn d a b => tri 0 5 0 d a b
  | sll d a b => tri 0 6 0 d a b
  | srl d a b => tri 0 7 0 d a b
  | sra d a b => tri 0 8 0 d a b
  | rol d a b => tri 0 9 0 d a b
  | ror d a b => tri 0 10 0 d a b
  | min d a b => tri 0 11 0 d a b
  | max d a b => tri 0 12 0 d a b
  | minZ d a b => tri 0 13 0 d a b
  | maxZ d a b => tri 0 14 0 d a b
  | slt d a b => tri 0 15 0 d a b
  | sltZ d a b => tri 0 16 0 d a b
  | mul d a b => tri 1 0 0 d a b
  | mulh d a b => tri 1 1 0 d a b
  | mulhZ d a b => tri 1 2 0 d a b
  | div d a b => tri 1 3 0 d a b
  | divZ d a b => tri 1 4 0 d a b
  | rem d a b => tri 1 5 0 d a b
  | remZ d a b => tri 1 6 0 d a b
  | sel d a b c => tri 2 c.toNat 0 d a b
  | addx d a b sh => tri 3 0 sh.toNat d a b
  | clz d a => tri 4 0 0 d a 0
  | ctz d a => tri 4 1 0 d a 0
  | popc d a => tri 4 2 0 d a 0
  | brev d a => tri 4 3 0 d a 0
  | addi d a i => immF 0x08 d a i
  | andi d a i => immF 0x09 d a i
  | ori d a i => immF 0x0A d a i
  | xori d a i => immF 0x0B d a i
  | slli d a s => immF 0x0C d a (s.setWidth 14)
  | srli d a s => immF 0x0D d a (s.setWidth 14)
  | srai d a s => immF 0x0E d a (s.setWidth 14)
  | slti d a i => immF 0x0F d a i
  | li d l => litF 0 0 d l
  | lih d l => litF 1 0 d l
  | adpc d l => litF 2 0 d l
  | adpcLoc d l => litF 2 1 d l
  | beq a b t => immF 0x10 a b t
  | bne a b t => immF 0x11 a b t
  | blt a b t => immF 0x12 a b t
  | bge a b t => immF 0x13 a b t
  | bltZ a b t => immF 0x14 a b t
  | bgeZ a b t => immF 0x15 a b t
  | bbs a b t => immF 0x16 a b t
  | bbsHi a b t => immF 0x17 a b t
  | bbc a b t => immF 0x18 a b t
  | bbcHi a b t => immF 0x19 a b t
  | loop a t => immF 0x1A a 0 t
  | jmp t => jmpF 0x1B t
  | call t => jmpF 0x1C t
  | jmpx a => tri 0x1D 0 0 0 a 0
  | callx a => tri 0x1D 1 0 0 a 0
  | ret => tri 0x1D 2 0 0 0 0
  | btempo k t => immF 0x1E (r5 k) 0 t
  | bntempo k t => immF 0x1F (r5 k) 0 t
  | ld _ w d a t => memF 0x20 d a w.code t
  | st _ w d a t => memF 0x21 d a w.code t
  | ldp _ d a t => memF 0x22 d a 0 t
  | stp _ d a t => memF 0x23 d a 0 t
  | qput a q => tri 0x24 0 0 0 a (r5 q)
  | qget d q => tri 0x24 1 0 d 0 (r5 q)
  | qpeek d q => tri 0x24 2 0 d 0 (r5 q)
  | qcnt d q => tri 0x24 3 0 d 0 (r5 q)
  | nput a n => tri 0x25 0 0 0 a (r5 n)
  | nget d n => tri 0x25 1 0 d 0 (r5 n)
  | ntry d n => tri 0x25 2 0 d 0 (r5 n)
  | tbind k a => tri 0x26 0 0 (r5 k) a 0
  | trd d k => tri 0x26 1 0 d 0 (r5 k)
  | hstart d a b => tri 0x27 0 0 d a b
  | hjoin d a => tri 0x27 1 0 d a 0
  | hexit a => tri 0x27 2 0 0 a 0
  | yield => tri 0x27 3 0 0 0 0
  | pause => tri 0x27 4 0 0 0 0
  | crd d s => xF 1 0 d 0 0 0 0 (s.setWidth 24)
  | cwr d a s => xF 1 1 d a 0 0 0 (s.setWidth 24)
  | cset d a s => xF 1 2 d a 0 0 0 (s.setWidth 24)
  | cclr d a s => xF 1 3 d a 0 0 0 (s.setWidth 24)
  | amoAdd _ w d b a i => xF 0x11 0 d a b 0 (f3Of w false false) i
  | amoAnd _ w d b a i => xF 0x11 1 d a b 0 (f3Of w false false) i
  | amoOr _ w d b a i => xF 0x11 2 d a b 0 (f3Of w false false) i
  | amoXor _ w d b a i => xF 0x11 3 d a b 0 (f3Of w false false) i
  | amoMin _ w d b a i => xF 0x11 4 d a b 0 (f3Of w false false) i
  | amoMax _ w d b a i => xF 0x11 5 d a b 0 (f3Of w false false) i
  | amoMinZ _ w d b a i => xF 0x11 6 d a b 0 (f3Of w false false) i
  | amoMaxZ _ w d b a i => xF 0x11 7 d a b 0 (f3Of w false false) i
  | amoSwp _ w d b a i => xF 0x11 8 d a b 0 (f3Of w false false) i
  | amoCas _ w d b c a i => xF 0x11 9 d a b c (f3Of w false false) i
  | amoFadd _ d b a i => xF 0x11 10 d a b 0 1 i
  | fence k s => xF 0x10 0 0 0 0 0 k.code (s.setWidth 24)
  | echk => xF 0x10 1 0 0 0 0 0 0
  | waita d b c a i => xF 0x10 2 d a b c 0 i
  | fld q d a i => xF 0x12 0 d a 0 0 (f3Of q false false) i
  | fwait d a => xF 0x12 1 d a 0 0 0 0
  | fst q d a i => xF 0x12 2 d a 0 0 (f3Of q false false) i
  | famo o d a i => xF 0x12 3 d a 0 0 o.code i
  | fmcast d b c a i => xF 0x12 4 d a b c 0 i
  | ffence d a i => xF 0x12 5 d a 0 0 0 i
  | bset k a => xF 0x13 0 0 a 0 0 0 (k.setWidth 24)
  | barrive k => xF 0x13 1 0 0 0 0 0 (k.setWidth 24)
  | bwait k => xF 0x13 2 0 0 0 0 0 (k.setWidth 24)
  | bar k => xF 0x13 3 0 0 0 0 0 (k.setWidth 24)
  | bstat d k => xF 0x13 4 d 0 0 0 0 (k.setWidth 24)
  | dphase t => xF 0x14 0 0 0 0 0 0 (t.setWidth 24)
  | xmit w s a => xF 0x14 1 0 a 0 0 0 (wireImm w s)
  | xmitR w s => xF 0x14 1 0 0 0 0 1 (wireImm w s)
  | xsel d w s => xF 0x14 2 d 0 0 0 0 (wireImm w s)
  | phlx a => xF 0x14 3 0 a 0 0 0 0
  | split => xF 0x14 4 0 0 0 0 0 0
  | wpop nb d a => xF 0x15 0 d a 0 0 (f3Of nb false false) 0
  | wpush a => xF 0x15 1 0 a 0 0 0 0
  | wpushClose a => xF 0x15 1 0 a 0 0 1 0
  | ndone a => xF 0x15 2 0 a 0 0 0 0
  | nabort a => xF 0x15 3 0 a 0 0 0 0
  | vclaim t d a => xF 0x20 0 d a 0 0 (f3Of t false false) 0
  | vyield d => xF 0x20 1 d 0 0 0 0 0
  | vsetl d a => xF 0x20 2 d a 0 0 0 0
  | vld _ w d a i => xF 0x20 8 (r5 d) a 0 0 w.code i
  | vst _ w d a i => xF 0x20 9 (r5 d) a 0 0 w.code i
  | vlds _ w d b a i => xF 0x20 10 (r5 d) a b 0 w.code i
  | vsts _ w d b a i => xF 0x20 11 (r5 d) a b 0 w.code i
  | vgath _ w d b a i => xF 0x20 12 (r5 d) a (r5 b) 0 w.code i
  | vscat _ w d b a i => xF 0x20 13 (r5 d) a (r5 b) 0 w.code i
  | vbcast d a => xF 0x20 14 (r5 d) a 0 0 0 0
  | vmovg d a b => xF 0x20 15 d (r5 a) b 0 0 0
  | vmovgSet d a b => xF 0x20 15 (r5 d) a b 0 1 0
  | vadd s z d a b => xF 0x21 0 (r5 d) (r5 a) b.code 0 (b.flag ||| f3Of s z false) 0
  | vsub s z d a b => xF 0x21 1 (r5 d) (r5 a) b.code 0 (b.flag ||| f3Of s z false) 0
  | vmul d a b => xF 0x21 2 (r5 d) (r5 a) b.code 0 b.flag 0
  | vmulh z d a b => xF 0x21 3 (r5 d) (r5 a) b.code 0 (b.flag ||| f3Of false z false) 0
  | vmin z d a b => xF 0x21 4 (r5 d) (r5 a) b.code 0 (b.flag ||| f3Of false z false) 0
  | vmax z d a b => xF 0x21 5 (r5 d) (r5 a) b.code 0 (b.flag ||| f3Of false z false) 0
  | vand d a b => xF 0x21 6 (r5 d) (r5 a) b.code 0 b.flag 0
  | vor d a b => xF 0x21 7 (r5 d) (r5 a) b.code 0 b.flag 0
  | vxor d a b => xF 0x21 8 (r5 d) (r5 a) b.code 0 b.flag 0
  | vshl d a b => xF 0x21 9 (r5 d) (r5 a) b.code 0 b.flag 0
  | vshr d a b => xF 0x21 10 (r5 d) (r5 a) b.code 0 b.flag 0
  | vsra d a b => xF 0x21 11 (r5 d) (r5 a) b.code 0 b.flag 0
  | vcmp cc d a b => xF 0x21 12 (r5 d) (r5 a) b.code 0 b.flag (cc.code.setWidth 24)
  | vsel d a b c => xF 0x21 13 (r5 d) (r5 a) (r5 b) (r5 c) 0 0
  | vfadd d a b => xF 0x22 0 (r5 d) (r5 a) b.code 0 b.flag 0
  | vfsub d a b => xF 0x22 1 (r5 d) (r5 a) b.code 0 b.flag 0
  | vfmul d a b => xF 0x22 2 (r5 d) (r5 a) b.code 0 b.flag 0
  | vfma d a b c => xF 0x22 3 (r5 d) (r5 a) b.code (r5 c) b.flag 0
  | vfmin d a b => xF 0x22 4 (r5 d) (r5 a) b.code 0 b.flag 0
  | vfmax d a b => xF 0x22 5 (r5 d) (r5 a) b.code 0 b.flag 0
  | vrcp d a => xF 0x23 0 (r5 d) (r5 a) 0 0 0 0
  | vrsq d a => xF 0x23 1 (r5 d) (r5 a) 0 0 0 0
  | vexp2 d a => xF 0x23 2 (r5 d) (r5 a) 0 0 0 0
  | vlog2 d a => xF 0x23 3 (r5 d) (r5 a) 0 0 0 0
  | vsig d a => xF 0x23 4 (r5 d) (r5 a) 0 0 0 0
  | vmacw s z d a b => xF 0x24 0 (r5 d) (r5 a) (r5 b) 0 (f3Of s z false) 0
  | vfmacw d a b => xF 0x24 1 (r5 d) (r5 a) (r5 b) 0 0 0
  | vnarrow m d a sh => xF 0x24 2 (r5 d) (r5 a) 0 0 m.code (sh.setWidth 24)
  | vwclr d => xF 0x24 3 (r5 d) 0 0 0 0 0
  | vidot s z d a b c => xF 0x25 0 (r5 d) (r5 a) (r5 b) (r5 c) (f3Of s z false) 0
  | vfdot h d a b c => xF 0x25 1 (r5 d) (r5 a) (r5 b) (r5 c) (f3Of h false false) 0
  | vfdotC h d a b => xF 0x25 1 (r5 d) (r5 a) (r5 b) 0 (f3Of h true false) 0
  | vdotr d a b c => xF 0x25 2 d (r5 a) (r5 b) c 0 0
  | vcvt m y x d a => xF 0x26 0 (r5 d) (r5 a) 0 0 (f3Of m false false) ((0 : BitVec 16) ++ x.code ++ y.code)
  | vcvtMx m d a t => xF 0x26 0 (r5 d) a 0 0 (f3Of m true false) (t.setWidth 24)
  | vcvtMxd d a t => xF 0x26 0 (r5 d) a 0 0 4 (t.setWidth 24)
  | vbniScan m d a t => xF 0x26 1 (r5 d) a 0 0 (f3Of m false false) (t.setWidth 24)
  | vbni m d a t => xF 0x26 1 (r5 d) a 0 0 (f3Of m true false) (t.setWidth 24)
  | vamax d a => xF 0x26 2 d (r5 a) 0 0 0 0
  | vred o d a => xF 0x27 0 d (r5 a) 0 0 o.code (if o.isFloat then 1 else 0)
  | vscan o d a => xF 0x27 1 (r5 d) (r5 a) 0 0 o.code (if o.isFloat then 1 else 0)
  | vnred o d a => xF 0x27 2 (r5 d) (r5 a) 0 0 o.code 0
  | vnredMx e d a b c => xF 0x27 2 (r5 d) (r5 a) (r5 b) (r5 c) 6 (if e then 1 else 0)
  | vperm d a b => xF 0x28 0 (r5 d) (r5 a) (r5 b) 0 0 0
  | vslide g d a n => xF 0x28 1 (r5 d) (r5 a) (g.getD 0) 0 (if g.isSome then 1 else 0) (n.setWidth 24)
  | oclaim d k => xF 0x30 0 d (r5 k) 0 0 0 0
  | orel k => xF 0x30 1 (r5 k) 0 0 0 0 0
  | oload k a t p => xF 0x30 2 (r5 k) a 0 0 0 ((0 : BitVec 12) ++ p ++ t)
  | ozero k t => xF 0x30 3 (r5 k) 0 0 0 0 (t.setWidth 24)
  | mclr k => xF 0x31 0 (r5 k) 0 0 0 0 0
  | mmp c k a b kb ke pa pb => xF 0x31 1 (r5 k) (r5 a) (r5 b) 0 (f3Of c false false) (mulImm kb ke pa pb)
  | mbin x c k a b kb ke => xF 0x31 2 (r5 k) (r5 a) (r5 b) 0 (f3Of c x false) ((0 : BitVec 7) ++ ke ++ kb)
  | msp c k a b kb ke pa pb => xF 0x31 3 (r5 k) (r5 a) (r5 b) 0 (f3Of c false false) (mulImm kb ke pa pb)
  | mstat d k => xF 0x31 4 d (r5 k) 0 0 0 0
  | mrd w k a t => xF 0x31 5 (r5 k) a 0 0 (f3Of w false false) (t.setWidth 24)
  | mchk k => xF 0x31 6 (r5 k) 0 0 0 0 0
  | tdef t a => xF 0x32 0 0 a 0 0 0 (t.setWidth 24)
  | tqry d t j => xF 0x32 1 d 0 0 0 0 ((0 : BitVec 14) ++ j ++ t)
  | aclaim d a b c => xF 0x33 0 d a b c 0 0
  | acontrib k a b c => xF 0x33 1 (r5 k) a b c 0 0
  | ardy d a => xF 0x33 2 d a 0 0 0 0
  | ard w d a b c t => xF 0x33 3 d a b c (f3Of w false false) (t.setWidth 24)
  | ardv s d a b c => xF 0x33 4 (r5 d) a b c (f3Of s false false) 0
  | aknock d a => xF 0x33 5 d a 0 0 0 0
  | astat j d a => xF 0x33 6 d a 0 0 (if j.isSome then 1 else 0) ((j.getD 0).setWidth 24)
  | arel d a => xF 0x33 7 d a 0 0 0 0
  | xcopy d a => xF 0x38 0 d a 0 0 0 0
  | xcopyCode d a => xF 0x38 0 d a 0 0 1 0
  | x2d d a => xF 0x38 1 d a 0 0 0 0
  | xdeal d a => xF 0x38 2 d a 0 0 0 0
  | xgath d a => xF 0x38 3 d a 0 0 0 0
  | xput d a => xF 0x38 4 d a 0 0 0 0
  | xget d a => xF 0x38 5 d a 0 0 0 0
  | xkick d a n => xF 0x38 6 d a 0 0 0 (n.setWidth 24)
  | xcancel d a => xF 0x38 7 d a 0 0 0 0
  | xstat d a => xF 0x38 8 d a 0 0 0 0
  | dhops d a b => xF 0x39 0 d a b 0 0 0
  | dwho d a => xF 0x39 1 d a 0 0 0 0
  | trap n => xF 0x3A 0 0 0 0 0 0 n
  | eret => xF 0x3A 1 0 0 0 0 0 0
  | brk n => xF 0x3A 2 0 0 0 0 0 n
  | halt => xF 0x3A 3 0 0 0 0 0 0
  | csave d a b => xF 0x3B 0 d a b 0 0 0
  | cload d a b => xF 0x3B 1 d a b 0 0 0
  | tlbgen d a => xF 0x3C 0 d a 0 0 0 0
  | migr d a b => xF 0x3C 1 d a b 0 0 0
  | xbset a b => xF 0x3C 2 0 a b 0 0 0
  | cstart a b c => xF 0x3C 3 0 a b c 0 0
  | _ => none

/-- Whether the row is an instruction of the encodings, not a step without one. -/
def encodable (i : Instr) : Bool := i.fields.isSome

end Instr

/-- The parcels of fields, without a prefix (R84). -/
def Fields.parcels : Fields → List Parcel
  | .t f => [f.pack]
  | .x f => [f.pack0 1, f.pack1]
  | .lit f l => [f.pack0 2, f.pack1, l]

/-- The parcels of an instruction, prefix first; none for a step without an encoding. -/
def encode (i : Instr) : List Parcel :=
  match i.fields with
  | none => []
  | some f => (match i.mods with | some m => [m.pack] | none => []) ++ f.parcels

/-- The first parcel of an instruction: its prefix where it has one (R33, R53). -/
def Instr.first (i : Instr) : Parcel := (encode i).headD 0
/-- The first parcel of the instruction that follows any prefix. -/
def Instr.own (i : Instr) : Parcel := match i.fields with | some f => f.parcels.headD 0 | none => 0
/-- Bytes of an instruction with its prefix (R84). -/
def Instr.size (i : Instr) : Nat := 4 * (encode i).length
/-- The bytes of an instruction, lowest address first. -/
def Instr.bytes (i : Instr) : List Byte := (encode i).flatMap bytesOfParcel

end Sys2Proof
end

