-- ==== Sys2Proof/Machine/State.lean ====
section
/-!
DEFINITION. The state of one KN1640 module, as plain data: everything spec/ gives the machine, with the module right
after power-good as `State.reset` (spec/21_host_bringup.md R368, spec/01_machine_state.md R12 and R17).

The state is held as seen from ONE context: `cx` is the context that the next meaning acts on, `core` the rest of its
core, `others` every other core. `State.focus` (Machine/Ops.lean) moves that view and changes nothing else.

Sites are numbered pdie·6400 + row·80 + col, slices pdie·160 + (80 for the bottom edge) + col, octets as R49 plus
pdie·800. Memory keys are main-memory physical addresses, 2^52 + site·2^15 + offset for local SRAM and
2^53 + slice·2^21 + offset for pantry SRAM (R28, R29, R261, R290).
-/
namespace Sys2Proof.Machine

/-- The model's own faults. -/
inductive Fault where
  /-- Raised by translation when a valid leaf names a frame at or beyond 96 GiB of a stack, which R290 says never appears, or on the stack of an
  excluded die, which is not in the address map (R356). Safe. -/
  | frameBeyondStack
  deriving DecidableEq, Repr, Inhabited

/-- The model's own refusals. -/
inductive Refusal where
  /-- Raised by an arm of `exec` whose instruction has no meaning yet. Safe. -/
  | notModelled (mnemonic : String)
  deriving DecidableEq, Repr, Inhabited

/-- A vector clock: entry d counts the writes of physical die d (R261). Missing entries are 0. -/
abbrev Clock := List Nat

/-- One tagged clock of a stamp: its entries, the scope of its write and the writer's core (R263). -/
structure Tag where
  clock : Clock
  scope : Nat
  writer : Nat
  deriving DecidableEq, Repr, Inhabited

/-- A stamp (R263): the clocks joined into it. The empty list is the empty stamp. -/
abbrev Stamp := List Tag

/-- What a context waits for (R38). -/
inductive Wait where
  | operand | queue | port | watch | reply | barrier | join | work | engine
  deriving DecidableEq, Repr, Inhabited

/-- The states of a context (R35). -/
inductive Run where
  | stopped | free | ready | waiting (w : Wait) | benched | halted | exited
  deriving DecidableEq, Repr, Inhabited

/-- A register, or the SBASE of a TID, that an unfinished multi-cycle instruction still writes (R101, R190). -/
inductive Dest where
  | g (r : GReg) | v (r : VReg) | w (r : WReg) | tid (t : Nat)
  deriving DecidableEq, Repr, Inhabited

/-- A result on its way: the register, its lanes (one word for a g register) and the cycle it is due. -/
structure Pending where
  dest : Dest
  vals : List Word
  due : Nat
  deriving DecidableEq, Repr, Inhabited

/-- How the value of one element of an unfinished access stands (R265, R267). -/
inductive ElState where
  | asked | served (val : Nat) (ws ls : Stamp) (bad : Bool) | done (val : Nat) (bad : Bool)
  deriving DecidableEq, Repr, Inhabited

/-- One element access of an unfinished instruction: key, size in bytes, write-acknowledgement or read. -/
structure El where
  key : Nat
  va : Word
  size : Nat
  st : ElState
  deriving DecidableEq, Repr, Inhabited

/-- What an instruction does when its last reply arrives. -/
inductive Finish where
  /-- LD: destination, size in bytes, signed (R133). -/
  | load (d : GReg) (size : Nat) (signed : Bool)
  /-- LDP (R134). -/
  | pair (d : GReg)
  /-- An AMO whose context waits (R135): destination, width in bytes, sign-extended. -/
  | amo (d : GReg) (size : Nat) (signed : Bool)
  /-- A store under CHK: nothing but the acknowledgement (R130). -/
  | ack
  /-- A vector load: destination, lanes as (lane, size, signed) (R191). -/
  | vload (d : VReg) (size : Nat) (signed : Bool)
  /-- Stores of a conversion under CHK, or a conversion whose result is there: at the end its flags are merged (R190, R170), and AMAX
  takes the value the instruction gives it (R175). -/
  | ackFl (flags : Nat) (amax : Option Word)
  /-- RET: the return address is compared and jumped to (R114). -/
  | ret
  /-- CALL under CHK: the rest of the call (R113). -/
  | call (target : Pc) (sp : Word)
  /-- TDEF (R217). -/
  | tdef (t : Nat)
  /-- OLOAD into slot k (R215): TID words, row and K origins, planes; the element list is planes, indices, scales. -/
  | oload (k : Nat) (w0 w1 : Word) (row0 k0 planes nIdx : Nat)
  /-- VCVT.MXD (R204): destination, TID words, row, k0, VL; element count of the data part. -/
  | mxd (d : VReg) (w0 w1 : Word) (row k0 vl nData : Nat)
  deriving DecidableEq, Repr, Inhabited

/-- An issued instruction that waits for replies. -/
structure Await where
  els : List El
  fin : Finish
  ord : Nat
  cache : Nat
  chk : Bool
  /-- First parcel and byte size of the instruction, for traps at its end and for its retirement. -/
  first : Word
  len : Nat
  /-- First cycle in which it may end (R133, R215). -/
  due : Nat
  deriving DecidableEq, Repr, Inhabited

/-- A WAITA in progress (R139). -/
structure Watch where
  key : Nat
  va : Word
  val : Word
  timeout : Word
  t0 : Nat
  hit : Bool
  deriving DecidableEq, Repr, Inhabited

/-- A reply ticket (R141, R143): outstanding since `t0`, or answered. -/
structure Ticket where
  num : Nat
  t0 : Nat
  acq : Bool
  multi : Bool
  peer : Option Nat
  /-- Key and address of an FLD of this module, and the value or the acknowledgement bitmap received. -/
  key : Nat
  va : Word
  answer : Option Word
  /-- Order number of the FLD (R264, R265). -/
  at_ : Nat
  deriving DecidableEq, Repr, Inhabited

/-- The barrier state of a member for one of k = 0–3, DPHASE (4) and PHLX (5) (R146–R148). -/
structure Bar where
  pend : Bool
  reld : Bool
  tmo : Bool
  /-- BARTIME still owed (R147). -/
  owed : Bool
  missing : Option (Nat × Nat)
  /-- Cycle of the arriving instruction's issue (R147), frozen while the tray is pre-empted (R149). -/
  t0 : Nat
  /-- The arrival has entered the sweep. -/
  sent : Bool
  /-- A withdrawal is on its way to the corner. -/
  leaving : Bool
  /-- DPHASE target, or the PHLX rectangle. -/
  arg : Word
  /-- Order number of the arriving instruction: accesses before it are earlier (R273). -/
  from_ : Nat
  deriving DecidableEq, Repr, Inhabited

/-- A translation a context or command waits for (R297, R298). -/
structure Walk where
  va : Word
  /-- 0 load, 1 store, 2 AMO. -/
  kind : Nat
  asid : Nat
  gen : Nat
  /-- Cause code of a failed walk. -/
  fault : Option Nat
  /-- Order number of the request: a miss beyond the four walks of the octet waits its turn (R298). -/
  at_ : Nat
  deriving DecidableEq, Repr, Inhabited

/-- The state a context owns (R10, R12, R17). -/
structure Context where
  st : Run
  /-- Order number of the present wait or benching (R38, R316). -/
  since : Nat
  /-- What the wait is for: 0–3 QGET, 4–7 QPUT, 8–13 NGET, 16–20 NPUT, 32–38 the barriers of TVAL 0–6. -/
  want : Nat
  g : Vector Word 32
  pc : Pc
  /-- STATUS without HELPERS (R18). -/
  status : Word
  epc : Word
  cause : Word
  tval : Word
  trapvec : Word
  ovlhand : Word
  memdef : Word
  arith : Word
  fflags : Word
  amax : Word
  domain : Word
  btimeout : Word
  slotmask : Word
  breg : Vector Word 4
  hmapsel : Word
  ssp : Word
  sslim : Word
  pattern : Word
  errpend : Word
  /-- TVAL and SOURCE recorded with the pending error (R138, R33). -/
  errTval : Word
  errSource : Nat
  asid : Word
  gen : Word
  trapdeleg : Word
  /-- Tempo images without ALLOW (R14). -/
  ta : Vector Word 16
  /-- Valid tensor identifier entries: TID, words 0–3 (R31). -/
  tid : List (Nat × Word × Word × Word × Word)
  tickets : List Ticket
  /-- Peers that failed since the last FFENCE (R144). -/
  failedPeers : List Nat
  bars : Vector Bar 6
  /-- Armed XMITs: wire, slot, value (none for the relay form) (R152). -/
  arms : List (Nat × Nat × Option Word)
  /-- Armed XSEL: wire, slot, destination (R152). -/
  selArm : Option (Nat × Nat × GReg)
  /-- Clock K and pending join J (R261). -/
  clk : Clock
  joinJ : Clock
  /-- Time of the last acquire point, and whether it still waits to be Covered (R267, R272). -/
  acqTime : Nat
  acqOpen : Bool
  pend : List Pending
  await : Option Await
  watch : Option Watch
  walk : Option Walk
  /-- Cycle at which a PAUSE ends (R127). -/
  pauseEnd : Nat
  /-- Contexts that YIELD lets issue first (R127). -/
  yielding : List Nat
  exitValue : Word
  /-- Stream position in the phalanx (R42). -/
  pos : Nat
  /-- Reply of a slice or firmware to the request in progress (R234, R257, R258). -/
  reply : Option Word
  /-- The request in progress has been sent (R234). -/
  asked : Bool
  /-- Instructions a `jdb` step still allows (R83). -/
  budget : Option Nat
  /-- The BRK or breakpoint at this PC has been reported; a resume continues past it (R252). -/
  passBrk : Bool
  /-- The instruction that waits at a barrier has arrived (R146, R212). -/
  arrived : Bool
  /-- A node popped for this waiting WPOP (R315). -/
  popped : Option Word
  /-- The pending error is taken as a trap at the next boundary (R353). -/
  trapNext : Bool
  /-- The instruction that waits: it is held and completes without being fetched again (R38). -/
  held : Option Instr
  /-- Cycle in which the present wait began (R48), and the count a halt has suspended: what was waited for, and the cycles waited (R319). -/
  waitAt : Nat
  waited : Option (Nat × Nat)
  /-- What hardware has recorded in cycle `lateCy`, which comes after a register write of the same cycle: errors posted, with ERRPEND, TVAL
  and SOURCE as they stood before (R25), and flags merged, with FFLAGS as it stood before (R170). -/
  lateCy : Nat
  lateErr : List (Nat × Nat × Nat × Word)
  lateOld : Word × Word × Nat
  lateFl : Word
  lateFlOld : Word
  /-- Place in the coherence order of the newest write of a word (key / 8) the context has observed or made, and buffered stores of the
  core it has read by FORWARD (R268). -/
  seen : List (Nat × Nat)
  saw : List Nat
  /-- The latest instruction the context issued (R277), and the generation its TLBGEN has raised to (R257). -/
  last : Option Instr
  raised : Option Nat
  deriving DecidableEq, Repr, Inhabited

/-- An m tile (R15, R225): elements that are not 0 as (row·16 + col, value), NaN-marked elements. -/
structure MTile where
  acc : List (Nat × Acc)
  marks : List Nat
  anchor : Option Int
  count : Nat
  poison : Bool
  /-- Read out by an ACONTRIB until this cycle (R230). -/
  readUntil : Nat
  /-- It holds sums of an MBIN (R222). -/
  bin : Bool
  deriving DecidableEq, Repr, Inhabited

/-- An operand-memory slot (R213): plane bytes that are not 0, scale bytes of row·8 + block, index bytes, each twice. -/
structure OSlot where
  holder : Option Nat
  loaded : Bool
  fmt : Nat
  sparse : Bool
  planes : Nat
  sbase : Nat
  bytes : List (Nat × Byte)
  scales : List (Nat × Byte)
  index : List (Nat × Byte)
  scales2 : List (Nat × Byte)
  index2 : List (Nat × Byte)
  poison : Bool
  /-- Error SUB that goes with POISON at the next pass: 5, or 6 for storage errors (R346). -/
  poisonSub : Nat
  /-- Row and column checksum of each plane. -/
  sums : List (Nat × Nat)
  /-- Positions of the block that lie below KEXT (R215). -/
  kEnd : Nat
  deriving DecidableEq, Repr, Inhabited

/-- An accepted matrix instruction (R218). -/
structure MCmd where
  /-- 0 MCLR, 1 MMP, 2 MSP, 3 MBIN.AND, 4 MBIN.XOR. -/
  op : Nat
  m : Nat
  a : Nat
  b : Nat
  kb : Nat
  ke : Nat
  pa : Nat
  pb : Nat
  acc : Bool
  ctx : Nat
  /-- Executing, and passes completed (STEP). -/
  running : Bool
  step : Nat
  /-- An error ended its remaining passes (R216). -/
  abandoned : Bool
  /-- Order number of its acceptance (R352). -/
  at_ : Nat
  deriving DecidableEq, Repr, Inhabited

/-- The states of a copy command (R249). -/
inductive CmdSt where
  | queued | held | running | done | failed | cancelled
  deriving DecidableEq, Repr, Inhabited

/-- A copy command and its engine thread (R237–R249, R275). -/
structure Cmd where
  tag : Nat
  seq : Nat
  ctx : Nat
  kind : CopyKind
  /-- The descriptor's eight words, captured at issue. -/
  desc : List Word
  pattern : Word
  memdef : Word
  asid : Nat
  gen : Nat
  /-- User level of the issuer (R23). -/
  user : Bool
  st : CmdSt
  /-- The command word has been taken (R275) and the steps completed. -/
  taken : Bool
  step : Nat
  cancel : Bool
  code : Nat
  sub : Nat
  errAddr : Word
  doneb : Nat
  /-- Clock K, pending join J and time of the last acquire point of the engine thread (R261). -/
  clk : Clock
  joinJ : Clock
  acqTime : Nat
  acqOpen : Bool
  walk : Option Walk
  /-- Read requests of an XGET step not yet answered: number, and the pieces (key, address, size) its bytes go to. -/
  awaits : List (Nat × List (Nat × Word × Nat))
  /-- Words an installed routine has read (R245). -/
  got : List Word
  /-- Cycle of its latest step. -/
  stepAt : Nat
  /-- Order number and cycle of the acceptance. -/
  at_ : Nat
  t0 : Nat
  deriving DecidableEq, Repr, Inhabited

/-- Where a message comes from: a context, or an engine thread by its tag (R262). -/
inductive Src where
  | ctx (core ctx : Nat) | engine (core tag : Nat) | node (core : Nat) | host (vif : Nat)
  deriving DecidableEq, Repr, Inhabited

/-- A home unit (R261). -/
inductive Home where
  | core (id : Nat) | slice (id : Nat) | die (id : Nat) | peer (idx : Nat)
  deriving DecidableEq, Repr, Inhabited

/-- The route classes (R262). -/
inductive Cls where
  | w | r | a | t | m | p
  deriving DecidableEq, Repr, Inhabited

/-- An AMO operation (R135). -/
inductive AmoOp where
  | add | and | or | xor | min | max | minZ | maxZ | swp | cas | fadd
  deriving DecidableEq, Repr, Inhabited

/-- A contribution packet (R230–R232): contributors are (core, context). -/
structure Packet where
  handle : Word
  anchor : Option Int
  spans : List (Nat × Nat)
  n : Nat
  acc : List (Nat × Acc)
  marks : List Nat
  replay : Bool
  from_ : List (Nat × Nat)
  deriving DecidableEq, Repr, Inhabited

/-- A request to an accumulator tile (R229, R234, R235). -/
inductive TileReq where
  | aclaim (k : Nat) (anchor : Int) (vd row col : Nat) (near : Bool)
  | ardy (h : Word)
  /-- ARD (R234): handles, the TID's words, the position, the keys of its writes, ORD and SCOPE of its stores. -/
  | ard (hs : List Word) (w0 w1 w2 w3 : Word) (pos : Word) (keys : List (Word × Nat × Nat)) (ord scope : Nat)
  /-- ARDV: handle, row, to s32 or binary32, destination. -/
  | ardv (h : Word) (row : Nat) (toInt : Bool) (d : VReg)
  | aknock (h : Word)
  | astat (h : Word) (j : Option Nat)
  | arel (h : Word)
  deriving DecidableEq, Repr, Inhabited

/-- What a message carries. -/
inductive Body where
  /-- A store of `size` bytes of `val` at `key`. -/
  | store (key size val : Nat)
  /-- An AMO: `more` holds operands combined into it (R136); `issuers` the contexts it answers, with D ≠ 0. -/
  | amo (op : AmoOp) (key size : Nat) (x e : Nat) (more : List Nat) (result : Bool) (detred : Bool)
  /-- The bits `mask` of `size` bytes at `key`, where a narrowing read writes a unit in part (R226). -/
  | bits (key size val mask : Nat)
  /-- A DEPS decrement of NDONE (R58). -/
  | deps (key : Nat)
  /-- The REL write to STATE of the record at `key`, by which WPUSH pushes it on queue `wq` (R273). -/
  | push (key wq : Nat)
  | cstart (target : Nat) (pc : Pc) (g3 : Word) (addr : Word)
  | xbset (target : Nat) (v : Word) (addr : Word)
  | contrib (slice : Nat) (p : Packet)
  | tile (slice : Nat) (q : TileReq)
  | routed (target : Nat) (words : List Word)
  /-- A flit for a peer module (R141–R143). -/
  | flit (f : Flit)
  /-- A shipped context on its way to its landing core (R307). -/
  | ship (landing : Nat) (c : Context)
  deriving DecidableEq, Repr, Inhabited

/-- One issuer of a merged message (R333): its source, and the order number, ORD, address and level of what it sent. -/
structure Part where
  src : Src
  id : Nat
  ord : Nat
  va : Word
  user : Bool
  /-- The context waits for its answer (R130). -/
  chk : Bool
  deriving DecidableEq, Repr, Inhabited

/-- Where a message on its way stands: on its sender's die, in a die-link merge buffer (R333), in the apply queue of its home's die (R335), or on
the home's die with nothing but its route before it. -/
inductive Stage where
  | own | buffer | arrived | home
  deriving DecidableEq, Repr, Inhabited

/-- A message that has left its core and is not yet applied. -/
structure Msg where
  id : Nat
  src : Src
  dest : Home
  cls : Cls
  /-- Core that sent it, and user level of the sender (R23). -/
  core : Nat
  user : Bool
  /-- Identities (die, N) of the writes it carries (R263). -/
  ident : List (Nat × Nat)
  stamp : Stamp
  ord : Nat
  va : Word
  body : Body
  /-- The context waits for its acknowledgement (R130). -/
  chk : Bool
  /-- Issuers merged into it besides `src` (R333). -/
  also : List Part
  /-- Cycle it was sent or entered a merge buffer, and where it stands (R333, R335). -/
  t0 : Nat
  stage : Stage
  deriving DecidableEq, Repr, Inhabited

/-- A message in a queue of the fabric (R330): the queue, the place of it on the route of the message, and whether the message has taken part in
a merge there. The spots of a queue stand in the order of arrival. -/
structure Spot where
  item : Nat
  queue : Nat × Nat
  hop : Nat
  joined : Bool
  deriving DecidableEq, Repr, Inhabited

/-- An entry of a store buffer (R264): the message it becomes. -/
structure Entry where
  id : Nat
  src : Src
  dest : Home
  cls : Cls
  user : Bool
  ord : Nat
  scope : Nat
  va : Word
  body : Body
  chk : Bool
  deriving DecidableEq, Repr, Inhabited

/-- A staged operation of a Running node (R351). -/
structure Staged where
  ctx : Nat
  e : Entry
  /-- Entries of the buffer it takes. -/
  cost : Nat
  deriving DecidableEq, Repr, Inhabited

/-- A reply to an AMO without a result (R267): the issuer, the AMO's order number and the word (key / 8). -/
structure Ack where
  src : Src
  id : Nat
  word : Nat
  amo : Bool
  ord : Nat
  ws : Stamp
  ls : Stamp
  deriving DecidableEq, Repr, Inhabited

/-- An L1 line (R272, R293): line address (PA / 64), its 64 bytes, the time of its fill; the place of each word's copy in its coherence
order, the core's own stores written into it and not yet applied (word in the line, entry), and the poisoned words. -/
structure Line where
  addr : Nat
  bytes : List Byte
  time : Nat
  place : List Nat
  own : List (Nat × Nat)
  bad : List Nat
  deriving DecidableEq, Repr, Inhabited

/-- A TLB entry (R298). -/
structure Tlb where
  asid : Nat
  gen : Nat
  /-- log2 of the page size. -/
  size : Nat
  vpn : Nat
  ppn : Nat
  r : Bool
  w : Bool
  d : Bool
  deriving DecidableEq, Repr, Inhabited

/-- A word of q0–q3 with the clock it carries (R47, R118, R273). -/
structure QWord where
  val : Word
  clk : Clock
  deriving DecidableEq, Repr, Inhabited

/-- A neighbour word on its wire (R326, R43): receive port, word, sending cycle, stream time of the sender in a phalanx. -/
structure WireWord where
  port : Nat
  val : Word
  t0 : Nat
  tau : Option Nat
  deriving DecidableEq, Repr, Inhabited

/-- The send port n4 (R119–R121): owner and payload words still to come, the words in its four places with the context that put them, and
the words of the message at its head that the fabric has taken. -/
structure SendPort where
  owner : Option Nat
  left : Nat
  fifo : List (Nat × Word)
  words : List Word
  deriving DecidableEq, Repr, Inhabited

/-- A destination whose credits a core holds (R14, R372). -/
inductive Lender where
  | core (id : Nat) | slice (id : Nat) | link (pdie : Nat) | peer (idx : Nat)
  deriving DecidableEq, Repr, Inhabited

/-- Words of the allowance of core `core` with a lender that message `item` has used; they are the lender's again once the message is gone, or
has crossed the link (R372). -/
structure Paid where
  item : Nat
  core : Nat
  lender : Lender
  words : Nat
  deriving DecidableEq, Repr, Inhabited

/-- A partial of VNRED at a member (R210): lanes, scales (`.mx`), the op fields, VL, flags. -/
structure Partial where
  lanes : List Word
  scales : List Word
  op : Nat
  imm : Nat
  vl : Nat
  flags : Nat
  deriving DecidableEq, Repr, Inhabited

/-- VNRED in progress at a core (R210–R212). -/
structure Vnred where
  own : Partial
  t0 : Nat
  d : VReg
  c : VReg
  sat : Bool
  gotEast : Bool
  gotSouth : Bool
  deriving DecidableEq, Repr, Inhabited

/-- A barrier signal held at a core (R328): its k (4 DPHASE, 5 PHLX), the word that gives its rectangle, its sender, and whether a context of the core
has set BREGk to the rectangle since. -/
structure Signal where
  k : Nat
  rect : Word
  core : Nat
  ctx : Nat
  met : Bool
  deriving DecidableEq, Repr, Inhabited

/-- The state a core owns besides its contexts (R10). -/
structure Core where
  /-- Number of the context in view, and the other contexts that are not at their reset values. -/
  k : Nat
  parked : List (Nat × Context)
  xbound : Word
  sbound : Word
  skew : Word
  vsetl : Word
  q : Vector (List QWord) 4
  nIn : Vector (List Word) 4
  nFly : List WireWord
  n4 : SendPort
  n5 : List Word
  latch : Word
  /-- Lane grant: lanes, holder, lanes last requested, pending request (W, L'), order number, cycle, reservation (R183–R186). -/
  lanes : Nat
  holder : Option Nat
  lastReq : Nat
  claim : Option (Nat × Nat)
  claimSeq : Nat
  /-- Cycle in which the pending request was first refused (R187). -/
  claimAt : Nat
  reserved : Nat
  /-- Cycle at which the reservation first reached its full size. -/
  reservedAt : Option Nat
  /-- Cycle of a posted recall not yet applied. -/
  recallAt : Option Nat
  v : Vector (List Lane) 16
  w : Vector (List Word) 8
  m : Vector MTile 4
  o : Vector OSlot 8
  mq : List MCmd
  cmds : List Cmd
  /-- Sequence number of each used tag and the tags in the order they were freed (R238). -/
  seqs : List (Nat × Nat)
  freeTags : List Nat
  frozen : Bool
  sbuf : List Entry
  staging : List Staged
  acks : List Ack
  l1 : List Line
  tlb : List Tlb
  /-- Running node: the key of its record and whether it has run before (R57, R230); the first error recorded against it. -/
  node : Option (Nat × Bool)
  /-- WPUSH (false, record) and WPUSH.CLOSE (true, queue) held until NDONE (R157). -/
  pushes : List (Bool × Nat)
  nodeErr : Option (Nat × Nat × Nat × Word)
  /-- Order number at which the core took its Running node: what is issued from there on counts for the node (R352). -/
  nodeFrom : Nat
  /-- Issue pointer (R38) and cycle of the last issue. -/
  ptr : Nat
  issued : Option Nat
  /-- Contexts benched, with the destination, oldest first (R316). -/
  benched : List (Lender × Nat)
  /-- Credits lent to this core and not used; those that a send being issued uses; those used by the messages in n4 (R372). -/
  credits : List (Lender × Nat)
  paying : List (Lender × Nat)
  n4Paid : List (List (Lender × Nat))
  /-- Barrier signals held for a rectangle with no member here (R328). -/
  signals : List Signal
  vnred : Option Vnred
  /-- Received partials not yet combined: from the east child (true) or the south child. -/
  early : List (Bool × Partial)
  /-- CoreFault has stopped the core (R251); it is power-gated (R370); the latest cycle in which one of its contexts ended (R48). -/
  faulted : Bool
  gated : Bool
  liveAt : Nat
  /-- Halted by `jdb` (R46). -/
  debugged : Bool
  breakpoints : List Nat
  /-- Virtual interface and tray the core is granted to (R50, R363). -/
  tray : Option (Nat × Nat)
  /-- SSLIM that firmware holds for each slot (R37). -/
  limits : List (Nat × Word)
  /-- Pre-emption: halt time asked for (R317), resume time Q (R321), and the cycle of the present or latest halt (R319). -/
  haltAt : Option Nat
  resumeAt : Option Nat
  haltCy : Nat
  /-- A generation raise this core still has to acknowledge (R300). -/
  genDue : List Nat
  /-- Address spaces whose generation has wrapped: their entries are swept before the acknowledgement (R302). -/
  sweepDue : List Nat
  deriving DecidableEq, Repr, Inhabited

/-- The image a loader writes (R80): bytes by LOC offset, XBOUND and entry offset, the SSLIM firmware sets for each slot when it loads a
core (R37), the bytes of `.pantry` and `.main` sections by address, and the `.tray` declarations in the order of virtual dies: height,
width and least number of enabled sites (R75). -/
structure Image where
  bytes : List (Nat × Byte)
  xbound : Word
  entry : Pc
  limits : List (Nat × Word)
  sections : List (Word × Byte)
  need : List (Nat × Nat × Nat)
  deriving DecidableEq, Repr, Inhabited

/-- The image at power-good: no bytes and no declarations. -/
def Image.empty : Image := ⟨[], 0x4000, 0x0800, [], [], []⟩

/-- A rectangle of a tray on one virtual die (R50). -/
structure Rect where
  top : Nat
  left : Nat
  height : Nat
  width : Nat
  deriving DecidableEq, Repr, Inhabited

/-- The state of a tray under R317–R322; `window` for a halt that a maintenance window asked for (R358). -/
inductive TraySt where
  | running | halting (window : Bool) | saved (window : Bool)
  deriving DecidableEq, Repr, Inhabited

/-- One instruction of a phalanx's stream: its PC, the instruction and the leader's next PC (R42, R44). -/
structure StreamItem where
  pc : Pc
  instr : Instr
  deriving DecidableEq, Repr, Inhabited

/-- A phalanx (R41–R45), with an order number of its own. -/
structure Phalanx where
  no : Nat
  leader : Nat
  vd : Nat
  rect : Rect
  skew : Nat
  tau : Nat
  /-- Number of stream instructions dropped, and those some member still needs. -/
  base : Nat
  stream : List StreamItem
  members : List Nat
  deriving DecidableEq, Repr, Inhabited

/-- A tray (R50, R322): rectangle on each virtual die, sites left out, what firmware holds for its contexts. -/
structure Tray where
  rects : List (Option Rect)
  off : List (Nat × Nat × Nat)
  asid : Nat
  trapdeleg : Word
  st : TraySt
  /-- The cores as saved (R320), by site, with the bytes of their local SRAM. -/
  image : List (Nat × Core × Context × List Byte)
  /-- The phalanxes of a saved tray (R320). -/
  phalanxes : List Phalanx
  /-- The image its cores run (R80, R313). -/
  program : Image
  deriving DecidableEq, Repr, Inhabited

/-- A virtual interface (R362, R367). -/
structure Vif where
  dies : List (Nat × Nat)
  trays : List Tray
  asids : List Nat
  wqs : List Nat
  /-- The node pool (R313): records returned to it, and the number never yet used. -/
  pool : List Nat
  poolSize : Nat
  dltime : Nat
  fltime : Nat
  ship : Bool
  debug : Bool
  peers : List (Nat × Nat × Nat)
  groups : List (Nat × List Nat)
  routines : List (Nat × Nat × Nat)
  /-- `jdb` is attached (R252). -/
  attached : Bool
  /-- The stack granted: physical die and the GiB of it that are held (R363, R367). -/
  regions : List (Nat × List Nat)
  deriving DecidableEq, Repr, Inhabited

/-- A work queue (R55): items and waiting WPOPs in order. -/
structure WorkQueue where
  closed : Bool
  items : List Nat
  waiters : List (Nat × Nat)
  deriving DecidableEq, Repr, Inhabited

/-- What hardware keeps of a node beside its record (R56 words 5–7). -/
structure Node where
  owner : Option Nat
  ran : Bool
  /-- The record belongs to the node pool of its interface (R313). -/
  host : Bool
  deriving DecidableEq, Repr, Inhabited

/-- A barrier episode at its corner (R146, R327): k (4 DPHASE, 5 PHLX), virtual interface, tray, virtual die, rectangle. -/
structure Episode where
  k : Nat
  vif : Nat
  tray : Nat
  vd : Nat
  rect : Rect
  /-- Arrived members (core, context), with the argument each named. -/
  arrived : List (Nat × Nat × Word)
  clk : Clock
  committed : Bool
  released : List Nat
  /-- Members whose arrival had reached the corner and has been withdrawn (R147, R148). -/
  left : List Nat
  deriving DecidableEq, Repr, Inhabited

/-- A synchronisation domain (R52): phase 0 compute, 1 communication, 2 transfer. -/
structure Domain where
  vif : Nat
  tray : Nat
  name : Word
  phase : Nat
  /-- Cycle of slot 0 of the transfer phase, and SLOT as kept outside it. -/
  start : Nat
  slot : Nat
  sstep : Nat
  /-- Members that have issued in the present slot. -/
  issued : List Nat
  /-- Words driven in the previous slot: receiving core, wire there, word; and in the present one. -/
  wires : List (Nat × Nat × Word)
  drives : List (Nat × Nat × Word)
  latched : List Nat
  deriving DecidableEq, Repr, Inhabited

/-- An accumulator tile (R228): 0 Free, 1 Open or Proofed. -/
structure AccTile where
  claimed : Bool
  acc : List (Nat × Acc)
  marks : List Nat
  poison : Bool
  k : Nat
  anchor : Int
  count : Nat
  record : List (Nat × Nat)
  gen : Nat
  check : BitVec 32
  last : Nat
  ndup : Nat
  nstale : Nat
  deriving DecidableEq, Repr, Inhabited

/-- A user queue (R308). -/
structure UserQueue where
  vif : Nat
  ring : Nat
  logN : Nat
  prio : Nat
  asid : Nat
  tail : Nat
  head : Nat
  skips : Nat
  discards : Nat
  /-- TIME at which it last became pending; slot it is bound to. -/
  pendingAt : Option Nat
  slot : Option Nat
  /-- The head entry was read with a stale PHASE (R310). -/
  stale : Bool
  deriving DecidableEq, Repr, Inhabited

/-- A bound hardware slot (R311): queue, TIME bound, TIME last used, TIME its head became eligible (R312). -/
structure Slot where
  queue : Nat
  boundAt : Nat
  usedAt : Nat
  eligibleAt : Option Nat
  deriving DecidableEq, Repr, Inhabited

/-- A dispatched job (R313, R314). -/
structure Job where
  /-- 1 NODE, 2 LAUNCH, 3 CLOSE. -/
  kind : Nat
  vif : Nat
  caddr : Nat
  cval : Word
  fval : Word
  /-- Node address, tray or work queue. -/
  obj : Nat
  failed : Bool
  done : Bool
  /-- A LAUNCH whose control contexts have all stopped by HALT, with the writes that its completion follows (R314, R361). -/
  ended : Option Clock
  deriving DecidableEq, Repr, Inhabited

/-- The management mailbox (R364–R366). -/
structure Mailbox where
  op : Nat
  vif : Nat
  go : Bool
  status : Nat
  args : List (Nat × Byte)
  resp0 : Word
  resp1 : Word
  /-- RESYNC has been accepted and waits for its sample (R369); VIFCFG has been accepted and waits for the raises of its ASIDs (R300, R367). -/
  sampling : Option Nat
  config : Option Vif
  deriving DecidableEq, Repr, Inhabited

/-- Power states (R370). -/
inductive Power where
  | off | boot | run | window
  deriving DecidableEq, Repr, Inhabited

/-- A Denlon die (R1, R356–R358). -/
structure Die where
  excluded : Bool
  millivolts : Nat
  slack : Nat
  window : Nat
  /-- Why it is excluded: 1 authentication (R356), 2 its stack (R368); and whether firmware takes it out of service (R322). -/
  why : Nat
  leaving : Bool
  deriving DecidableEq, Repr, Inhabited

/-- An error-log record (R350). -/
structure LogRec where
  time : Word
  w1 : Word
  addr : Word
  w3 : Word
  deriving DecidableEq, Repr, Inhabited

/-- A page move in progress (R303). -/
structure Move where
  asid : Nat
  va : Nat
  newPa : Nat
  leaf : Nat
  step : Nat
  core : Nat
  ctx : Nat
  deriving DecidableEq, Repr, Inhabited

/-- A torus operation that awaits its peer's acknowledgement (R144, R343): the core, the context (or 16 + a command's tag), the peer, the
cycle it was sent, its write identity (R263), the address it names, the order number of its access (R352), the number its acknowledgement
carries (R341), and of an FMCAST the ticket. -/
structure Owed where
  core : Nat
  ctx : Nat
  peer : Nat
  t0 : Nat
  ident : List (Nat × Nat)
  va : Word
  at_ : Nat
  num : Nat
  multi : Option Nat
  deriving DecidableEq, Repr, Inhabited

/-- A multicast acknowledgement entry (R342). -/
structure McastEntry where
  /-- The module the entry answers to: this one for a root entry. -/
  src : Nat
  /-- The issuing module. -/
  origin : Nat
  core : Nat
  ctx : Nat
  ticket : Nat
  /-- The members the entry answers for, those of them not yet answered, and those that failed. -/
  members : Word
  owed : Word
  failed : Word
  deriving DecidableEq, Repr, Inhabited

/-- One element of the order in which agents act. -/
inductive Act where
  /-- The core issues (R38). -/
  | issue (core : Nat)
  /-- A step without an encoding takes place. -/
  | event (i : Instr)
  /-- The fabric takes the next word of the core's n4 (R120). -/
  | send (core : Nat)
  /-- A message enters the queue at a place of its route on the die it is on (R330), or crosses to its home's die (R332, R335). -/
  | enter (item place : Nat)
  | cross (item : Nat)
  /-- `jdb` selects a context (R283), prints a word, of main memory below 0x8000 with `main` (R83, R277), or a tile whose handle is a word or,
  with `reg`, a register of the selected context, and one of its elements (R279). -/
  | select (core ctx : Nat)
  | examine (main : Bool) (a : Word)
  | proof (reg : Bool) (h : Word) (el : Option (Nat × Nat))
  /-- The word (key / 8) has come to hold an error that its code cannot correct; the next read of it finds that (R346, R347). -/
  | upset (w : Nat)
  /-- The host driver sets the power limit in watts (R370); the input voltage is good again (R368, R370); firmware begins to take a die out of
  service (R322). -/
  | powerLimit (watts : Nat)
  | powerGood
  | dieLeaves (die : Nat)
  deriving DecidableEq, Repr, Inhabited

/-- Cycles that pass, then the act. -/
structure Turn where
  dt : Nat
  act : Act
  deriving DecidableEq, Repr, Inhabited

/-- A saved core image (R255): its number, core state and contexts, the phalanx and the domain of the core, and its site. -/
structure Saved where
  num : Nat
  core : Core
  cx : Context
  phalanx : Option Phalanx
  domain : Option Domain
  site : Nat
  deriving DecidableEq, Repr, Inhabited

/-- The hub die and firmware (R308–R314, R336, R350, R357–R370). -/
structure Hub where
  queues : List (Nat × UserQueue)
  slots : List (Nat × Slot)
  dispatchPtr : Nat
  bindq : Nat
  ageq : Nat
  /-- TIME of the last dispatch cycle and of the last bind round (R311, R312). -/
  lastDispatch : Nat
  lastBind : Nat
  jobs : List Job
  mailbox : Mailbox
  hostMem : List Host.Cell
  /-- The value the host's latest read over the link returned (R360). -/
  hostSeen : Word
  power : Power
  /-- Module power limit in watts, as the host driver sets it (R370). -/
  limit : Nat
  /-- The error logs of the dies in one list, oldest first, and each die's overflow count (R350); the errors recorded, by 8 · die + CLASS. -/
  errlog : List LogRec
  logLost : List Nat
  logCount : List Nat
  /-- Cores and causes reported to hub firmware and the host (R251, R307, R57). -/
  reports : List (Nat × Nat × Word)
  /-- A maintenance window asked for: TIME, dies (R358, R366). -/
  windowAt : Option (Nat × Nat)
  /-- TIME copies of the dies: hub count at the last broadcast (R337). -/
  timeBase : List Nat
  image : Image
  saved : List Saved
  /-- The core and context `jdb` has selected (R83, R277). -/
  selected : Nat × Nat
  /-- A firmware image has been accepted before; which image booted: 0 none, 1 the new one, 2 the previous one; an image has failed its check
  since (R355); the latest reset was a brown-out (R370); TIME of the latest sample of the path monitors (R357). -/
  accepted : Bool
  booted : Nat
  imageFailed : Bool
  brownout : Bool
  sampledAt : Nat
  deriving DecidableEq, Repr, Inhabited

/-- The torus switch and the peers as this module sees them (R338–R343). -/
structure Torus where
  /-- Injection queues by core, flits the switch ejected out of order, next sequence numbers (R338–R341). -/
  inject : List (Nat × Flit)
  reorder : List Flit
  nextSeq : List (Nat × Nat × Nat)
  sentSeq : List (Nat × Nat × Nat)
  leaving : List (Nat × Flit)
  mcast : List McastEntry
  owedAcks : List Owed
  /-- Credits of this module's interfaces towards their peers: 512 · interface + peer (R340). -/
  peerCredits : List (Nat × Nat)
  downPeers : List Nat
  /-- The core whose turn it is to inject (R339). -/
  turn : Nat
  deriving DecidableEq, Repr, Inhabited

/-- The module. -/
structure State where
  /-- The site in view, its context in view and the rest of its core. -/
  id : Nat
  cx : Context
  core : Core
  /-- Every other core that is not at its reset state, with its context in view. -/
  others : List (Nat × Core × Context)
  /-- The order of the next steps (the model's own: notes/assumptions/1.md). -/
  sched : List Turn
  /-- Cycles of the 940 MHz clock since power-on; the counter of free values; order numbers and message numbers. -/
  cy : Nat
  fresh : Nat
  seq : Nat
  /-- Offsets of the dies' CYCLE counters (R27). -/
  cycleBase : List Nat
  mem : List Host.Cell
  /-- Poisoned 8-byte words (key / 8) (R346), and those of them whose error nothing has found yet (R347). -/
  poison : List Nat
  unseen : List Nat
  /-- Write and release stamps of words (key / 8) that are not both empty, and how many writes stand in the coherence order of a word
(R261). -/
  stamps : List (Nat × Stamp × Stamp)
  order : List (Nat × Nat)
  flight : List Msg
  /-- The queues of the fabric (R330, R333, R335). -/
  spots : List Spot
  /-- Words of allowance that messages on their way have used (R372). -/
  paid : List Paid
  /-- The core each lender has served last (R372). -/
  lendTurn : List (Nat × Nat)
  /-- Counter N of each die (R263), the clock C and applied vector V of each die (R334). -/
  dieN : List Nat
  dieC : List Clock
  dieV : List Clock
  /-- Held apply queues: sending and receiving physical die (R83). -/
  holds : List (Nat × Nat)
  fused : List Nat
  disabled : List Nat
  dies : List Die
  vifs : List (Nat × Vif)
  wqueues : List (Nat × WorkQueue)
  nodes : List (Nat × Node)
  episodes : List Episode
  domains : List Domain
  phalanxes : List Phalanx
  tiles : List (Nat × AccTile)
  /-- GEN and CHECK each slice keeps for tiles that are Free (R228). -/
  tileGens : List (Nat × Nat × BitVec 32)
  /-- ASID table: PA of the root table and the generation (R295). -/
  asids : List (Nat × Nat × Nat)
  tlb2 : List (Nat × List Tlb)
  moves : List Move
  hub : Hub
  torus : Torus
  deriving DecidableEq, Repr, Inhabited

/-- A barrier state with nothing outstanding (R148). -/
def Bar.clear : Bar := ⟨false, false, false, false, none, 0, false, false, 0, 0⟩

/-- A context as core reset leaves it: the register bank at the values of R17; a control context Stopped, a helper Free (R35). -/
def Context.reset (k : Nat) : Context where
  st := if k = 0 then .stopped else .free
  since := 0
  want := 0
  g := Vector.replicate 32 0
  pc := 0
  status := 0
  epc := 0
  cause := 0
  tval := 0
  trapvec := 0
  ovlhand := 0
  memdef := 0x0122
  arith := 0
  fflags := 0
  amax := 0
  domain := 0
  btimeout := 0x00100000
  slotmask := 0
  breg := Vector.replicate 4 0
  hmapsel := 0
  ssp := 0
  sslim := 0
  pattern := 0
  errpend := 0
  errTval := 0
  errSource := 0
  asid := 0
  gen := 0
  trapdeleg := 0x01F9CC3E
  ta := Vector.replicate 16 0
  tid := []
  tickets := []
  failedPeers := []
  bars := Vector.replicate 6 Bar.clear
  arms := []
  selArm := none
  clk := []
  joinJ := []
  acqTime := 0
  acqOpen := false
  pend := []
  await := none
  watch := none
  walk := none
  pauseEnd := 0
  yielding := []
  exitValue := 0
  pos := 0
  reply := none
  asked := false
  budget := none
  passBrk := false
  arrived := false
  popped := none
  trapNext := false
  held := none
  waitAt := 0
  waited := none
  lateCy := 0
  lateErr := []
  lateOld := (0, 0, 0)
  lateFl := 0
  lateFlOld := 0
  seen := []
  saw := []
  last := none
  raised := none

/-- A cleared m tile (R15). -/
def MTile.clear : MTile := ⟨[], [], none, 0, false, 0, false⟩

/-- A Free operand-memory slot (R12). -/
def OSlot.free : OSlot := ⟨none, false, 0, false, 0, 0, [], [], [], [], [], false, 5, [], 256⟩

/-- A core as reset leaves it (R12, R17). -/
def Core.reset : Core where
  k := 0
  parked := []
  xbound := 0x4000
  sbound := 0x0800
  skew := 2
  vsetl := 0
  q := Vector.replicate 4 []
  nIn := Vector.replicate 4 []
  nFly := []
  n4 := ⟨none, 0, [], []⟩
  n5 := []
  latch := 0
  lanes := 0
  holder := none
  lastReq := 0
  claim := none
  claimSeq := 0
  claimAt := 0
  reserved := 0
  reservedAt := none
  recallAt := none
  v := Vector.replicate 16 []
  w := Vector.replicate 8 []
  m := Vector.replicate 4 MTile.clear
  o := Vector.replicate 8 OSlot.free
  mq := []
  cmds := []
  seqs := []
  freeTags := []
  frozen := false
  sbuf := []
  staging := []
  acks := []
  l1 := []
  tlb := []
  node := none
  pushes := []
  nodeErr := none
  nodeFrom := 0
  ptr := 0
  issued := none
  benched := []
  credits := []
  paying := []
  n4Paid := []
  signals := []
  vnred := none
  early := []
  faulted := false
  gated := false
  liveAt := 0
  debugged := false
  breakpoints := []
  tray := none
  limits := []
  haltAt := none
  resumeAt := none
  haltCy := 0
  genDue := []
  sweepDue := []

/-- The hub at power-good. -/
def Hub.reset : Hub where
  queues := []
  slots := []
  dispatchPtr := 0
  bindq := 20000
  ageq := 50000
  lastDispatch := 0
  lastBind := 0
  jobs := []
  mailbox := ⟨0, 0, false, 0, [], 0, 0, none, none⟩
  hostMem := []
  hostSeen := 0
  power := .boot
  limit := 4200
  errlog := []
  logLost := List.replicate 16 0
  logCount := List.replicate 128 0
  reports := []
  windowAt := none
  timeBase := []
  image := Image.empty
  saved := []
  selected := (0, 0)
  accepted := false
  booted := 0
  imageFailed := false
  brownout := false
  sampledAt := 0

/-- The torus switch at power-good. -/
def Torus.reset : Torus where
  inject := []
  reorder := []
  nextSeq := []
  sentSeq := []
  leaving := []
  mcast := []
  owedAcks := []
  peerCredits := []
  downPeers := []
  turn := 0

/-- The module at power-good, before bring-up (R368): firmware not yet run, no interface configured, every memory clear. -/
def State.reset : State where
  id := 0
  cx := Context.reset 0
  core := Core.reset
  others := []
  sched := []
  cy := 0
  fresh := 0
  seq := 0
  cycleBase := []
  mem := []
  poison := []
  unseen := []
  stamps := []
  order := []
  flight := []
  spots := []
  paid := []
  lendTurn := []
  dieN := []
  dieC := []
  dieV := []
  holds := []
  fused := []
  disabled := []
  dies := List.replicate 16 ⟨false, 700, 0, 0, 0, false⟩
  vifs := []
  wqueues := []
  nodes := []
  episodes := []
  domains := []
  phalanxes := []
  tiles := []
  tileGens := []
  asids := []
  tlb2 := []
  moves := []
  hub := Hub.reset
  torus := Torus.reset

end Sys2Proof.Machine
end

