-- ==== Sys2Proof/Machine/Ops.lean ====
section
/-!
DEFINITION. The named operations every meaning is written with: memory bytes, sparse tables, the view of a core and a
context, registers and control-register fields, the place of a site, posted errors, and taking an exception
(spec/01_machine_state.md, spec/10_engines_system.md R251–R253).
-/
namespace Sys2Proof.Machine

/-- What a meaning answers. -/
abbrev Result := Host.Outcome State Fault Refusal

/-! ## Memory (sorted cells, nothing listed that is 0) -/

/-- The byte at `a`; an unlisted byte reads 0 (R368: SRAM is cleared; notes/assumptions/3.md). -/
def Memory.get : List Host.Cell → Nat → Byte
  | [], _ => 0
  | (k, b) :: m, a => if a = k then b else Memory.get m a

/-- The cells with `b` listed at `a`, kept in rising order. -/
def Memory.list : List Host.Cell → Nat → Byte → List Host.Cell
  | [], a, b => [(a, b)]
  | (k, c) :: m, a, b => if a < k then (a, b) :: (k, c) :: m else if a = k then (a, b) :: m else (k, c) :: Memory.list m a b

/-- The cells after one byte is written: a 0 takes the cell away, any other byte is listed in its place. -/
def Memory.put (m : List Host.Cell) (a : Nat) (b : Byte) : List Host.Cell := if b = 0 then m.filter fun c => c.1 != a else Memory.list m a b

/-- Whether cells stand in rising order above `lo` and none is 0. -/
def Memory.okFrom : Nat → List Host.Cell → Bool
  | _, [] => true
  | lo, (k, b) :: m => decide (lo ≤ k) && b != 0 && Memory.okFrom (k + 1) m

/-- The canonical form of a memory. -/
def Memory.wf (m : List Host.Cell) : Bool := Memory.okFrom 0 m

/-- `n` bytes from `a` as a little-endian number (R8). -/
def Memory.getN (m : List Host.Cell) (a : Nat) : Nat → Nat
  | 0 => 0
  | n + 1 => (Memory.get m a).toNat + 256 * Memory.getN m (a + 1) n

/-- The memory after `n` little-endian bytes of `v` are written from `a`. -/
def Memory.putN (m : List Host.Cell) (a : Nat) : Nat → Nat → List Host.Cell
  | 0, _ => m
  | n + 1, v => Memory.putN (Memory.put m a (BitVec.ofNat 8 v)) (a + 1) n (v / 256)

/-- The memory after a list of bytes is written from `a`. -/
def Memory.putBytes (m : List Host.Cell) (a : Nat) : List Byte → List Host.Cell
  | [] => m
  | b :: bs => Memory.putBytes (Memory.put m a b) (a + 1) bs

/-- `n` bytes from `a` as a list. -/
def Memory.getBytes (m : List Host.Cell) (a : Nat) : Nat → List Byte
  | 0 => []
  | n + 1 => Memory.get m a :: Memory.getBytes m (a + 1) n

/-! ## Sparse tables -/

/-- The entry of a table at a key. -/
def Table.find {α : Type} : List (Nat × α) → Nat → Option α
  | [], _ => none
  | (k, v) :: l, a => if a = k then some v else Table.find l a

/-- The table without its entry at a key. -/
def Table.del {α : Type} : List (Nat × α) → Nat → List (Nat × α)
  | [], _ => []
  | (k, v) :: l, a => if a = k then l else (k, v) :: Table.del l a

/-- The table with an entry at a key, kept in rising order. -/
def Table.set {α : Type} : List (Nat × α) → Nat → α → List (Nat × α)
  | [], a, x => [(a, x)]
  | (k, v) :: l, a, x => if a < k then (a, x) :: (k, v) :: l else if a = k then (a, x) :: l else (k, v) :: Table.set l a x

/-- The list with entry `i` replaced. -/
def setAt {α : Type} (l : List α) (i : Nat) (x : α) : List α := l.set i x

/-- A vector with every entry changed. -/
def mapVec {α β : Type} {n : Nat} (f : α → β) (v : Vector α n) : Vector β n := ⟨⟨v.toList.map f⟩, by simp⟩

/-- An entry put into a list sorted by `le`, behind its equals. -/
def insertBy {α : Type} (le : α → α → Bool) (x : α) : List α → List α
  | [] => [x]
  | y :: l => if le y x then y :: insertBy le x l else x :: y :: l

/-- The list sorted by `le`, equals in their order. -/
def sortBy {α : Type} (le : α → α → Bool) (l : List α) : List α := l.foldl (fun a x => insertBy le x a) []

/-- The list without entry `i`. -/
def dropAt {α : Type} (l : List α) (i : Nat) : List α := l.take i ++ l.drop (i + 1)

/-- The list grown with `z` so that entry `i` exists, and that entry replaced. -/
def putGrow {α : Type} (z : α) (l : List α) (i : Nat) (x : α) : List α := (l ++ List.replicate (i + 1 - l.length) z).set i x

/-! ## Clocks and stamps (R261–R267) -/

/-- `∨`: the larger value of each entry. -/
def Clock.join : Clock → Clock → Clock
  | [], b => b
  | a, [] => a
  | x :: a, y :: b => max x y :: Clock.join a b

/-- Entry e of a clock. -/
def Clock.at (c : Clock) (e : Nat) : Nat := c.getD e 0

/-- Whether every entry of `a` is at most that of `b`. -/
def Clock.le : Clock → Clock → Bool
  | [], _ => true
  | x :: a, [] => x == 0 && Clock.le a []
  | x :: a, y :: b => decide (x ≤ y) && Clock.le a b

/-- The clock that names write (d, n) and no other. -/
def Clock.single (d n : Nat) : Clock := List.replicate d 0 ++ [n]

/-- The clocks of a stamp together. -/
def Stamp.clock (s : Stamp) : Clock := s.foldl (fun c t => Clock.join c t.clock) []

/-! ## Bits of registers -/

/-- The word with bit i set or cleared. -/
def setBit (w : Word) (i : Nat) (b : Bool) : Word :=
  if b then w ||| (1#64 <<< i) else w &&& ~~~(1#64 <<< i)

/-- The word with bits hi:lo replaced. -/
def setBits (w : Word) (hi lo v : Nat) : Word :=
  (w &&& ~~~(BitVec.ofNat 64 ((2 ^ (hi + 1 - lo) - 1) <<< lo))) ||| BitVec.ofNat 64 ((v % 2 ^ (hi + 1 - lo)) <<< lo)

/-- STATUS.LEVEL = S (R18). -/
def Context.super (c : Context) : Bool := bit c.status 0
def Context.inTrap (c : Context) : Bool := bit c.status 2
/-- STATUS.SSE: shadow-stack checking. -/
def Context.sse (c : Context) : Bool := bit c.status 3
def Context.inPhlx (c : Context) : Bool := bit c.status 4
def Context.leader (c : Context) : Bool := bit c.status 5

/-- Whether a context counts as live: neither Stopped, Free nor Exited (R23, R35). -/
def Run.live : Run → Bool
  | .stopped => false
  | .free => false
  | .exited => false
  | _ => true

/-! ## The view of a core and a context -/

/-- Context k of a core. -/
def Core.ctx (c : Core) (cur : Context) (k : Nat) : Context :=
  if k = c.k then cur else (Table.find c.parked k).getD (Context.reset k)

/-- The contexts of a core, 0 to 10. -/
def Core.ctxs (c : Core) (cur : Context) : List Context := (List.range 11).map (c.ctx cur)

/-- The state seen from context k of the core in view. -/
def State.toCtx (s : State) (k : Nat) : State :=
  if k = s.core.k then s
  else
    { s with
      cx := s.core.ctx s.cx k
      core := { s.core with k := k, parked := Table.set (Table.del s.core.parked k) s.core.k s.cx } }

/-- The state seen from core `id`. -/
def State.toCore (s : State) (id : Nat) : State :=
  if id = s.id then s
  else
    let p := (Table.find s.others id).getD (Core.reset, Context.reset 0)
    { s with id := id, core := p.1, cx := p.2, others := Table.set (Table.del s.others id) s.id (s.core, s.cx) }

/-- The state seen from context k of core `id`. -/
def State.focus (s : State) (id k : Nat) : State := (s.toCore id).toCtx k

/-- Core `id`. -/
def State.coreAt (s : State) (id : Nat) : Core :=
  if id = s.id then s.core else ((Table.find s.others id).getD (Core.reset, Context.reset 0)).1

/-- Context k of core `id`. -/
def State.cxAt (s : State) (id k : Nat) : Context :=
  if id = s.id then s.core.ctx s.cx k
  else
    let p := (Table.find s.others id).getD (Core.reset, Context.reset 0)
    p.1.ctx p.2 k

/-- The state with core `id` changed. -/
def State.modCore (s : State) (id : Nat) (f : Core → Core) : State :=
  if id = s.id then { s with core := f s.core }
  else
    let p := (Table.find s.others id).getD (Core.reset, Context.reset 0)
    { s with others := Table.set s.others id (f p.1, p.2) }

/-- A core with context k of it changed: the core and its context in view. -/
def Core.modCtx (p : Core × Context) (k : Nat) (f : Context → Context) : Core × Context :=
  if k = p.1.k then (p.1, f p.2)
  else ({ p.1 with parked := Table.set p.1.parked k (f (p.1.ctx p.2 k)) }, p.2)

/-- The state with context k of core `id` changed. -/
def State.modCx (s : State) (id k : Nat) (f : Context → Context) : State :=
  if id = s.id then
    let q := Core.modCtx (s.core, s.cx) k f
    { s with core := q.1, cx := q.2 }
  else
    let p := (Table.find s.others id).getD (Core.reset, Context.reset 0)
    { s with others := Table.set s.others id (Core.modCtx p k f) }

/-- The state with every context of core `id` changed. -/
def State.modAll (s : State) (id : Nat) (f : Nat → Context → Context) : State :=
  (List.range 11).foldl (fun s k => s.modCx id k (f k)) s

/-- A change made from the view of context k of core `id`, the view then given back. -/
def State.within (s : State) (id k : Nat) (f : State → State) : State :=
  let t := f (s.focus id k)
  (t.toCore id).toCtx k |>.toCore s.id |>.toCtx s.core.k

/-- The core in view with its context in view. -/
def State.here (s : State) : Nat × Nat := (s.id, s.core.k)

/-- The sites that are not at their reset state, the one in view among them. -/
def State.sites (s : State) : List Nat := s.id :: s.others.map (·.1)

/-- The state with the context in view changed. -/
def State.setCx (s : State) (c : Context) : State := { s with cx := c }
/-- The state with the core in view changed. -/
def State.setCore (s : State) (c : Core) : State := { s with core := c }

/-! ## Registers -/

/-- g(r): g0 reads 0 (R12). -/
def State.g (s : State) (r : GReg) : Word := if r = 0 then 0 else s.cx.g[r.toFin]

/-- g(r) := v in a context; a write to g0 is discarded (R12). -/
def Context.putG (c : Context) (r : GReg) (v : Word) : Context :=
  if r = 0 then c else { c with g := c.g.set r.toFin v }

/-- g(r) := v. -/
def State.setG (s : State) (r : GReg) (v : Word) : State := s.setCx (s.cx.putG r v)

/-- The PC moved past an instruction, or to a target (R11). -/
def State.setPc (s : State) (p : Pc) : State := s.setCx { s.cx with pc := p }

/-- The context Ready at the next instruction, with nothing of this one left in progress; a phalanx member is one further in its stream
(R42). -/
def Context.retire (c : Context) (p : Pc) : Context :=
  { c with pc := p, st := .ready, await := none, watch := none, walk := none, reply := none, asked := false, arrived := false,
           popped := none, held := none, waited := none, pos := if c.inPhlx then c.pos + 1 else c.pos }

/-- The PC of the instruction after one of `n` bytes. -/
def Context.next (c : Context) (n : Nat) : Pc := c.pc + BitVec.ofNat 15 n

/-- The instruction retired: the context goes on behind it. -/
def State.retire (s : State) (i : Instr) : State := s.setCx (s.cx.retire (s.cx.next i.size))

/-- The instruction retired with a jump. -/
def State.jump (s : State) (p : Pc) : State := s.setCx (s.cx.retire p)

/-- Done: the instruction takes its effect and retires. -/
def State.done (s : State) (i : Instr) : Result := .next (s.retire i)

/-- Done with a result in g(d), visible to the next instruction (R101). -/
def State.doneG (s : State) (i : Instr) (d : GReg) (v : Word) : Result := .next ((s.setG d v).retire i)

/-- A result that a multi-cycle instruction writes `n` cycles after issue (R101, R190). -/
def State.later (s : State) (d : Dest) (vals : List Word) (n : Nat) : State :=
  s.setCx { s.cx with pend := s.cx.pend ++ [⟨d, vals, s.cy + n⟩] }

/-- Whether a register of the context is still being written (R101). -/
def Context.busy (c : Context) (d : Dest) : Bool := c.pend.any (fun p => p.dest == d)

/-- The cycle from which a wait that begins at `now` counts: cycles waited before a halt at the same instruction count on (R319). -/
def Context.waitFrom (c : Context) (now : Nat) : Nat :=
  match c.waited with
  | some p => if p.1 = c.pc.toNat then now - p.2 else now
  | none => now

/-- The instruction waits: the context keeps its PC and its place in the order of waits (R38). -/
def State.waitOn (s : State) (w : Wait) : State :=
  if s.cx.st = .waiting w then s
  else { s with cx := { s.cx with st := .waiting w, since := s.seq, waitAt := s.cx.waitFrom s.cy }, seq := s.seq + 1 }

/-- The instruction waits with a kind of R38. -/
def State.wait (s : State) (w : Wait) : Result := .next (s.waitOn w)

/-- A free value, and the state that has used it up (notes/assumptions/7.md). -/
def State.freeWord (s : State) : Word × State := (Config.freeWord s.fresh, { s with fresh := s.fresh + 1 })

/-! ## Sites, trays and virtual dies (R1, R24, R29, R49–R51) -/

def pdieOf (id : Nat) : Nat := id / 6400
def rowOf (id : Nat) : Nat := id % 6400 / 80
def colOf (id : Nat) : Nat := id % 80
def siteId (pdie row col : Nat) : Nat := pdie * 6400 + row * 80 + col
/-- The octet of a site (R49). -/
def octetOf (id : Nat) : Nat := pdieOf id * 800 + rowOf id / 2 * 20 + colOf id / 4
/-- A slice: ROW 126 is the top edge, 127 the bottom (R29). -/
def sliceId (pdie row col : Nat) : Nat := pdie * 160 + (if row = 127 then 80 else 0) + col

def sramKey (id off : Nat) : Nat := 2 ^ 52 + id * 2 ^ 15 + off
def sliceKey (id off : Nat) : Nat := 2 ^ 53 + id * 2 ^ 21 + off

/-- The home of a key (R261, R291). -/
def homeOf (key : Nat) : Home :=
  if key < 2 ^ 52 then .die (key / 2 ^ 40)
  else if key < 2 ^ 53 then .core ((key - 2 ^ 52) / 2 ^ 15)
  else .slice ((key - 2 ^ 53) / 2 ^ 21)

/-- The physical die of a home; a peer is reached through the hub and counts as no die. -/
def Home.pdie : Home → Nat
  | .core id => pdieOf id
  | .slice id => id / 160
  | .die d => d
  | .peer _ => 16

/-- A virtual interface nothing is granted to. -/
def Vif.empty : Vif := ⟨[], [], [], [], [], 0, 65536, 50000, false, false, [], [], [], false, []⟩
/-- A tray of no core. -/
def Tray.empty : Tray := ⟨[], [], 0, 0x01F9CC3E, .running, [], [], Image.empty⟩

/-- The virtual interface of a core: 0 while it is granted to none (notes/assumptions/6.md). -/
def State.vifOf (s : State) (id : Nat) : Nat := match (s.coreAt id).tray with | some p => p.1 | none => 0

def State.vif (s : State) (v : Nat) : Vif := (Table.find s.vifs v).getD Vif.empty

/-- The configuration of the core in view's virtual interface. -/
def State.myVif (s : State) : Vif := match s.core.tray with | some p => s.vif p.1 | none => Vif.empty

/-- The tray of the core in view. -/
def State.myTray (s : State) : Tray :=
  match s.core.tray with | some p => (s.vif p.1).trays.getD p.2 Tray.empty | none => Tray.empty

/-- The tray of core `id`. -/
def State.trayAt (s : State) (id : Nat) : Tray :=
  match (s.coreAt id).tray with | some p => (s.vif p.1).trays.getD p.2 Tray.empty | none => Tray.empty

/-- Whether a die is excluded (R356). -/
def State.excluded (s : State) (d : Nat) : Bool := match s.dies[d]? with | some x => x.excluded | none => true

/-- VDCOUNT (R17, R50). -/
def State.vdCount (s : State) : Nat := s.myTray.rects.length

/-- The virtual die of a physical die in an interface. -/
def Vif.vdOf (v : Vif) (pdie : Nat) : Nat := (v.dies.findIdx? (fun p => p.1 == pdie)).getD 0

def Rect.has (r : Rect) (row col : Nat) : Bool :=
  decide (r.top ≤ row) && decide (row < r.top + r.height) && decide (r.left ≤ col) && decide (col < r.left + r.width)

/-- The physical die bound to virtual die vd. -/
def Vif.pdie (v : Vif) (vd : Nat) : Nat := (v.dies.getD vd (0, 0)).1

/-- The rectangle of a tray on a virtual die. -/
def Tray.rect (t : Tray) (vd : Nat) : Option Rect := t.rects.getD vd none

/-- Whether a site of an interface's tray is enabled: inside the rectangle, not fused off, not left out (R24, R50, R322). -/
def State.enabled (s : State) (v : Vif) (t : Tray) (vd row col : Nat) : Bool :=
  (match t.rect vd with | some r => r.has row col | none => false)
  && !(s.fused.contains (siteId (v.pdie vd) row col)) && !(t.off.contains (vd, row, col))

/-- The core at a virtual coordinate of the caller's tray, when enabled. -/
def State.siteAt (s : State) (vd row col : Nat) : Option Nat :=
  if decide (vd < s.vdCount) && decide (row < 80) && decide (col < 80) && s.enabled s.myVif s.myTray vd row col
  then some (siteId (s.myVif.pdie vd) row col) else none

/-- The slice at a virtual coordinate, when its column is one of the tray's (R29). -/
def State.sliceAt (s : State) (vd row col : Nat) : Option Nat :=
  if decide (vd < s.vdCount) && (row == 126 || row == 127) && decide (col < 80)
    && (match s.myTray.rect vd with | some r => decide (r.left ≤ col) && decide (col < r.left + r.width) | none => false)
  then some (sliceId (s.myVif.pdie vd) row col) else none

/-- The sites of a rectangle, row-major. -/
def Rect.sites (r : Rect) : List (Nat × Nat) :=
  (List.range r.height).flatMap fun a => (List.range r.width).map fun b => (r.top + a, r.left + b)

/-- The enabled sites of a tray in the order of logical indices, as (vd, row, col) (R24). -/
def State.logical (s : State) (v : Vif) (t : Tray) : List (Nat × Nat × Nat) :=
  (List.range t.rects.length).flatMap fun vd =>
    match t.rect vd with
    | some r => (r.sites.filter fun p => s.enabled v t vd p.1 p.2).map fun p => (vd, p.1, p.2)
    | none => []

/-- The virtual die of the core in view. -/
def State.myVd (s : State) : Nat := s.myVif.vdOf (pdieOf s.id)

/-- The core with a logical index (R24). -/
def State.lidxCore (s : State) (n : Nat) : Option Nat :=
  ((s.logical s.myVif s.myTray)[n]?).map fun p => siteId (s.myVif.pdie p.1) p.2.1 p.2.2

/-- The neighbour north, east, south or west of a core in its tray (R13): none when absent, fused off or outside. -/
def State.neighbour (s : State) (id w : Nat) : Option Nat :=
  let row := rowOf id
  let col := colOf id
  let q : Option (Nat × Nat) :=
    match w with
    | 0 => if row = 0 then none else some (row - 1, col)
    | 1 => if col = 79 then none else some (row, col + 1)
    | 2 => if row = 79 then none else some (row + 1, col)
    | _ => if col = 0 then none else some (row, col - 1)
  match q with
  | none => none
  | some p =>
    match (s.coreAt id).tray with
    | none => none
    | some tr =>
      let v := s.vif tr.1
      let t := v.trays.getD tr.2 Tray.empty
      if s.enabled v t (v.vdOf (pdieOf id)) p.1 p.2 then some (siteId (pdieOf id) p.1 p.2) else none

/-- The enabled sites of an octet (R183): those not fused off. -/
def State.octetCores (s : State) (oct : Nat) : List Nat :=
  let d := oct / 800
  let r := oct % 800 / 20 * 2
  let c := oct % 20 * 4
  ((List.range 8).map fun n => siteId d (r + n / 4) (c + n % 4)).filter fun id => !(s.fused.contains id)

/-! ## Time (R4, R27, R337) -/

/-- TIME in nanoseconds: 1,000 ns are 940 cycles (notes/assumptions/5.md). -/
def State.time (s : State) : Nat := s.cy * 50 / 47

/-- CYCLE of a die. -/
def State.cycle (s : State) (pdie : Nat) : Nat := s.cy + s.cycleBase.getD pdie 0

/-- The first cycle whose TIME is at least t. -/
def cycleOfTime (t : Nat) : Nat := (t * 47 + 49) / 50

/-! ## The error log (R350) -/

/-- The die whose log holds a record: its PDIE. -/
def LogRec.die (r : LogRec) : Nat := bits r.w1 41 38

/-- A log without the oldest `n` records of a die. -/
def dropOldest (d : Nat) : Nat → List LogRec → List LogRec
  | 0, l => l
  | _, [] => []
  | n + 1, r :: l => if r.die = d then dropOldest d n l else r :: dropOldest d (n + 1) l

/-- ROW, COL and PDIE of a record as one number: of a site, and of the storage a key names, a slice being in row 126 or 127 (R29, R350). -/
def sitePlace (id : Nat) : Nat := rowOf id + colOf id * 2 ^ 7 + pdieOf id * 2 ^ 14
def keyPlace (key : Nat) : Nat :=
  match homeOf key with
  | .core id => sitePlace id
  | .slice n => (if n % 160 ≥ 80 then 127 else 126) + n % 80 * 2 ^ 7 + n / 160 * 2 ^ 14
  | .die d => d * 2 ^ 14
  | .peer _ => 0

/-- ADDR of a record: the PA, LOC offset or slice offset of a key (R350). -/
def keyAddr (key : Nat) : Nat := if key < 2 ^ 52 then key else if key < 2 ^ 53 then (key - 2 ^ 52) % 2 ^ 15 else (key - 2 ^ 53) % 2 ^ 21

/-- A record added to the log of its die: beyond 4,096 the oldest of that die goes and its overflow count rises. The
errors of each class are counted. -/
def State.logErr (s : State) (cls unit code sub place : Nat) (addr : Nat) (vif ctx node : Nat) : State :=
  let w1 := cls + unit % 32 * 8 + code % 256 * 256 + sub % 256 * 65536 + place * 2 ^ 24
  let r : LogRec := ⟨word s.time, word w1, word addr, word (vif + ctx * 64 + node % 2 ^ 52 / 1024 * 1024)⟩
  let overBy := (s.hub.errlog.filter fun x => x.die == r.die).length + 1 - 4096
  { s with hub := { s.hub with
      errlog := dropOldest r.die overBy s.hub.errlog ++ [r]
      logLost := s.hub.logLost.set r.die (s.hub.logLost.getD r.die 0 + overBy)
      logCount := s.hub.logCount.set (8 * r.die + cls % 8) (s.hub.logCount.getD (8 * r.die + cls % 8) 0 + 1) } }

/-- CLASS of the record of a posted error: 4 where a checker's repeat has failed (R345, R348), else 2. -/
def errClass (code sub : Nat) : Nat := if code = 0x11 ∧ sub = 3 ∨ code = 0x12 ∧ (sub = 1 ∨ sub = 4) then 4 else 2

/-- UNIT of that record: the row of R345 of a failed repeat, else the row of R346 of the storage (notes/assumptions/86.md). -/
def errUnit (code sub : Nat) : Nat :=
  if code = 0x11 then (if sub = 3 then 1 else 0)
  else if code = 0x12 then (if sub = 1 ∨ sub = 4 then 3 else if sub = 6 then 5 else if sub = 2 then 4 else 0)
  else if code = 0x13 ∧ sub = 10 then 6 else 0

/-- A coordinate-window address (R29). -/
def coordAddr (vd row col off : Nat) : Word := word (0xE000000000000 + vd * 2 ^ 44 + row * 2 ^ 37 + col * 2 ^ 30 + off)

/-- The coordinate address of a node record in the frame of core `id` (R56): records lie in pantry slices. -/
def State.nodeAddr (s : State) (id key : Nat) : Word :=
  let sl := (key - 2 ^ 53) / 2 ^ 21
  coordAddr ((s.vif (s.vifOf id)).vdOf (sl / 160)) (if sl % 160 ≥ 80 then 127 else 126) (sl % 80) ((key - 2 ^ 53) % 2 ^ 21)

/-! ## Posted errors (R25, R33, R349, R352) -/

/-- ERRPEND after an error is posted: the first is recorded, a further one sets MORE. -/
def Context.post (c : Context) (code sub source : Nat) (tval : Word) : Context :=
  if bit c.errpend 0 then { c with errpend := c.errpend ||| 2 }
  else { c with errpend := word (1 + code % 256 * 256 + sub % 256 * 65536), errTval := tval, errSource := source }

/-- A posted error is noted with its cycle, and with ERRPEND as it stood before the errors of that cycle (R25). -/
def Context.postAt (c : Context) (now code sub source : Nat) (tval : Word) : Context :=
  let same := c.lateCy == now
  let d := { c with
    lateCy := now
    lateErr := (if same then c.lateErr else []) ++ [(code, sub, source, tval)]
    lateOld := if same && !c.lateErr.isEmpty then c.lateOld else (c.errpend, c.errTval, c.errSource)
    lateFl := if same then c.lateFl else 0
    lateFlOld := if same then c.lateFlOld else c.fflags }
  d.post code sub source tval

/-- Flags merged by hardware after the instruction that gives them (R170), noted with their cycle. -/
def Context.mergeAt (c : Context) (now : Nat) (fl : Word) : Context :=
  let same := c.lateCy == now
  { c with
    fflags := c.fflags ||| fl
    lateCy := now
    lateErr := if same then c.lateErr else []
    lateFl := (if same then c.lateFl else 0) ||| fl
    lateFlOld := if same && c.lateFl != 0 then c.lateFlOld else c.fflags }

/-- A register write is followed by what hardware has recorded in its cycle (R25, R170): `f` writes the context. -/
def Context.writeBefore (c : Context) (now : Nat) (f : Context → Context) : Context :=
  if c.lateCy = now then
    let old := if c.lateErr.isEmpty then c else { c with errpend := c.lateOld.1, errTval := c.lateOld.2.1, errSource := c.lateOld.2.2 }
    let d := c.lateErr.foldl (fun x e => x.post e.1 e.2.1 e.2.2.1 e.2.2.2) (f old)
    { d with fflags := d.fflags ||| c.lateFl }
  else f c

/-- An order number counts for the Running node of a core: it is that of what was issued or accepted since the core took it, or none for
what issues now (R352). -/
def Core.forNode (c : Core) (at_ : Option Nat) : Bool := c.node.isSome && (match at_ with | some n => decide (c.nodeFrom ≤ n) | none => true)

/-- An error posted to context k of core `id` for what has order number `at_`, found in a unit, at a place and an address: logged. While the context is
neither Stopped, Free nor Exited it is also recorded against the Running node, when MEMERR or MATERR of what was issued or accepted while it
is Running (R352), and pending in ERRPEND (R349). -/
def State.postWith (s : State) (id k code sub source : Nat) (tval : Word) (at_ : Option Nat) (unit place addr : Nat) : State :=
  let c := s.coreAt id
  let s1 := s.logErr (errClass code sub) unit code sub place addr (s.vifOf id) k (match c.node with | some n => (s.nodeAddr id n.1).toNat | none => 0)
  if (s.cxAt id k).st.live then
    let s2 :=
      if c.forNode at_ && c.nodeErr.isNone && (code == 0x11 || code == 0x12)
      then s1.modCore id fun c => { c with nodeErr := some (code, sub, source, tval) } else s1
    s2.modCx id k fun x => x.postAt s.cy code sub source tval
  else s1

/-- An error posted that no address goes with: the place is the core's, ADDR 0 (R350). -/
def State.post (s : State) (id k code sub source : Nat) (tval : Word) (at_ : Option Nat) : State :=
  s.postWith id k code sub source tval at_ (errUnit code sub) (sitePlace id) 0

/-- An error posted to a source, when it is a context or an engine thread's issuer; `key` names the storage (R350). -/
def State.postSrc (s : State) (src : Src) (code sub source : Nat) (tval : Word) (at_ : Option Nat) (key : Nat) : State :=
  match src with
  | .ctx id k => s.postWith id k code sub source tval at_ (errUnit code sub) (keyPlace key) (keyAddr key)
  | .engine id tag =>
    match (s.coreAt id).cmds.find? (fun c => c.tag == tag) with
    | some c => s.postWith id c.ctx code sub 2 tval (some c.at_) (errUnit code sub) (keyPlace key) (keyAddr key)
    | none => s
  | .node id => s.postWith id 0 code sub source tval at_ (errUnit code sub) (keyPlace key) (keyAddr key)
  | .host _ => s

/-! ## Phalanx membership (R44, R45) -/

/-- The phalanx a core belongs to. -/
def State.phalanxOf (s : State) (id : Nat) : Option Phalanx := s.phalanxes.find? fun p => p.members.contains id

/-- A member leaves: STATUS.INPHLX and LEADER clear. -/
def Context.leavePhlx (c : Context) : Context := { c with status := setBit (setBit c.status 4 false) 5 false, pos := 0 }

/-- A follower departs; the others go on (R44). -/
def State.depart (s : State) (id : Nat) : State :=
  { s.modCx id 0 Context.leavePhlx with
    phalanxes := (s.phalanxes.map fun p => { p with members := p.members.filter (· != id) }).filter (fun p => !p.members.isEmpty) }

/-- The phalanx of `id` is dissolved: every member goes on by itself at the first stream instruction it has not issued (R45). -/
def State.dissolve (s : State) (id : Nat) : State :=
  match s.phalanxOf id with
  | none => s
  | some p =>
    let t := p.members.foldl (fun s m => s.modCx m 0 Context.leavePhlx) s
    { t with phalanxes := s.phalanxes.filter (fun q => !q.members.contains id) }

/-- The phalanx effect of a precise trap (R45). -/
def State.trapPhlx (s : State) : State :=
  if s.cx.inPhlx then (if s.cx.leader then s.dissolve s.id else s.depart s.id) else s

/-! ## Taking an exception and returning (R32, R33, R251, R253) -/

/-- CoreFault: every context of the core halts, its engines freeze, hub firmware is told (R251). -/
def State.coreFault (s : State) (code : Nat) (tval : Word) : State :=
  let t := s.modAll s.id fun _ c => if c.st.live then { c with st := .halted } else c
  { t with core := { t.core with faulted := true, frozen := true }, hub := { t.hub with reports := t.hub.reports ++ [(s.id, code, tval)] } }

/-- Delegated(code): TRAPDELEG bit code, with CTLINT, PRIV and PIPE fixed at 0 (R32). -/
def Context.delegates (c : Context) (code : Nat) : Bool :=
  bit c.trapdeleg code && code != 0x09 && code != 0x0C && code != 0x0D

/-- The saved registers of a trap entry (R251): EPC, CAUSE and TVAL. -/
def Context.saveTrap (c : Context) (code source : Nat) (imprecise : Bool) (tval : Word) : Context :=
  { c with epc := zext c.pc, cause := word (code + (if imprecise then 256 else 0) + source * 512), tval := tval }

/-- Where the trap goes: the user handler when delegated and none is running, else the supervisor at 0 (R32, R251). -/
def Context.enterTrap (c : Context) (code : Nat) : Context :=
  if c.delegates code && !c.inTrap then
    ({ c with status := setBit (setBit c.status 1 false) 2 true }).retire
      (BitVec.ofNat 15 (bits (if code = 0x03 then c.ovlhand else c.trapvec) 14 2 * 4))
  else
    ({ c with status := setBit (setBit c.status 1 false) 0 true }).retire 0

/-- The context in view is no longer benched (R316). -/
def State.unbench (s : State) : State := s.setCore { s.core with benched := s.core.benched.filter fun b => b.2 != s.core.k }

/-- Taking an exception (R251): the saved registers, then CoreFault at supervisor level, else the handler. -/
def State.trapEntry (s : State) (code source : Nat) (imprecise : Bool) (tval : Word) : State :=
  let t := s.trapPhlx.unbench
  let c := t.cx.saveTrap code source imprecise tval
  if c.super then (t.setCx c).coreFault code tval
  else t.setCx (c.enterTrap code)

/-- Trap(code, tval): a precise trap of the instruction at the PC. -/
def State.trap (s : State) (code : Nat) (tval : Word) : Result := .next (s.trapEntry code 0 false tval)

/-- ILLEGAL with TVAL the first parcel (R33). -/
def State.illegal (s : State) (i : Instr) : Result := s.trap 0x01 (zext i.first)

/-- The trap of the pending error, imprecise (R33, R138). -/
def State.trapPending (s : State) : Result :=
  .next ((s.setCx { s.cx with trapNext := false }).trapEntry (bits s.cx.errpend 15 8) s.cx.errSource true s.cx.errTval)

/-- BTIMEOUT in cycles: 0 stands for 2^32 (R17). -/
def Context.barrierLimit (c : Context) : Nat := if c.btimeout = 0 then 2 ^ 32 else c.btimeout.toNat

/-- ERET's effect on a context that may return (R253). -/
def Context.eret (c : Context) : Context :=
  (if c.super then { c with status := setBit c.status 0 (bit c.status 1) } else { c with status := setBit c.status 2 false }).retire
    (BitVec.ofNat 15 (bits c.epc 14 2 * 4))

end Sys2Proof.Machine
end

