-- ==== Sys2Proof/Machine/Flags.lean ====
section
/-!
DEFINITION. The flags of FFLAGS and the fields of ARITH (spec/01_machine_state.md R21), the OR an instruction merges into
FFLAGS, and FPEXC after it (spec/07_numbers.md R169, R170). A flag set is a number with NV 1, DZ 2, OF 4, UF 8, NX 16, SV 32.
-/
namespace Sys2Proof.Machine

/-- FFLAGS bits (R21). -/
structure Fl where
  nv : Bool
  dz : Bool
  of : Bool
  uf : Bool
  nx : Bool
  sv : Bool
  deriving DecidableEq, Repr, Inhabited

/-- No flag. -/
def Fl.none : Fl := ⟨false, false, false, false, false, false⟩
def Fl.invalid : Fl := { Fl.none with nv := true }
def Fl.divZero : Fl := { Fl.none with dz := true }
def Fl.saturated : Fl := { Fl.none with sv := true }

/-- The flags of two results together (R169). -/
def Fl.or (a b : Fl) : Fl := ⟨a.nv || b.nv, a.dz || b.dz, a.of || b.of, a.uf || b.uf, a.nx || b.nx, a.sv || b.sv⟩

/-- The bits as FFLAGS holds them. -/
def Fl.bits (f : Fl) : Word :=
  word (b2n f.nv + 2 * b2n f.dz + 4 * b2n f.of + 8 * b2n f.uf + 16 * b2n f.nx + 32 * b2n f.sv)

def Fl.ofBits (n : Nat) : Fl :=
  ⟨n.testBit 0, n.testBit 1, n.testBit 2, n.testBit 3, n.testBit 4, n.testBit 5⟩

/-- Rounding modes (R21). -/
inductive Rm where
  | rne | rtz | rup | rdn
  deriving DecidableEq, Repr, Inhabited

def Context.rm (c : Context) : Rm :=
  match bits c.arith 1 0 with
  | 0 => .rne
  | 1 => .rtz
  | 2 => .rup
  | _ => .rdn

/-- ARITH.SAT, FPORD, AMAXNAN, DETRED (R21). -/
def Context.sat (c : Context) : Bool := bit c.arith 2
def Context.fpord (c : Context) : Bool := bit c.arith 3
def Context.amaxnan (c : Context) : Bool := bit c.arith 4
def Context.detred (c : Context) : Bool := bit c.arith 11

/-- FFLAGS with flags merged in (R170): no trap. -/
def Context.addFlags (c : Context) (f : Fl) : Context := { c with fflags := c.fflags ||| f.bits }

/-- The bits an instruction newly sets (R21). -/
def Context.newFlags (c : Context) (f : Fl) : Word := f.bits &&& ~~~c.fflags

/-- An instruction that has completed with flags `f`: they are merged, and FPEXC follows when an enabled bit was newly set,
with EPC at the instruction and TVAL every bit newly set (R21, R33). `s` is the state with the instruction's results written and
its PC not yet moved. -/
def State.finishFl (s : State) (i : Instr) (f : Fl) : Result :=
  let n := s.cx.newFlags f
  let s1 := s.setCx (s.cx.addFlags f)
  if n &&& word (bits s.cx.arith 10 5) ≠ 0 then s1.trap 0x15 n else s1.done i

/-- A signed number clamped to n bits, and whether it was clamped (R102, R159). -/
def clampS (n : Nat) (x : Int) : BitVec n × Bool :=
  if x < -(2 ^ (n - 1) : Nat) then (BitVec.ofInt n (-(2 ^ (n - 1) : Nat)), true)
  else if x ≥ (2 ^ (n - 1) : Nat) then (BitVec.ofInt n ((2 ^ (n - 1) : Nat) - 1), true)
  else (BitVec.ofInt n x, false)

/-- A number clamped to 0 … 2^n − 1. -/
def clampZ (n : Nat) (x : Int) : BitVec n × Bool :=
  if x < 0 then (0, true) else if x ≥ (2 ^ n : Nat) then (BitVec.allOnes n, true) else (BitVec.ofInt n x, false)

/-- SV when a result was clamped. -/
def Fl.clamp (b : Bool) : Fl := if b then Fl.saturated else Fl.none

end Sys2Proof.Machine
end

