-- ==== Sys2Proof/Machine/Numbers.lean ====
section
/-!
DEFINITION. Number formats and arithmetic (spec/07_numbers.md R159–R182): exact values, the one rounding of each operation,
the IEEE formats and BF16, the Microscaling and BNI elements, and the correctly rounded functions of R197.
A finite value is (−1)^neg · m · 2^e, held exactly; every operation rounds it once.
-/
namespace Sys2Proof.Machine

/-! ## Formats (R160) -/

/-- A binary format by its exponent and significand widths. -/
structure Fmt where
  ebits : Nat
  mbits : Nat
  deriving DecidableEq, Repr, Inhabited

def f16 : Fmt := ⟨5, 10⟩
def bf16 : Fmt := ⟨8, 7⟩
def f32 : Fmt := ⟨8, 23⟩
def f64 : Fmt := ⟨11, 52⟩

def Fmt.bias (f : Fmt) : Int := (2 ^ (f.ebits - 1) : Nat) - 1
/-- Exponent of the smallest normal. -/
def Fmt.emin (f : Fmt) : Int := 1 - f.bias
def Fmt.infBits (f : Fmt) : Nat := (2 ^ f.ebits - 1) <<< f.mbits
/-- Default NaN: quiet, sign 0, no payload (R161). -/
def Fmt.nanBits (f : Fmt) : Nat := f.infBits + (1 <<< (f.mbits - 1))
def Fmt.maxBits (f : Fmt) : Nat := f.infBits - 1
def Fmt.signBit (f : Fmt) (neg : Bool) : Nat := if neg then 1 <<< (f.ebits + f.mbits) else 0

/-- A floating value. -/
inductive Fp where
  | nan (signalling : Bool)
  | inf (neg : Bool)
  | fin (neg : Bool) (m : Nat) (e : Int)
  deriving DecidableEq, Repr, Inhabited

/-- The value of a bit pattern (R160, R161). -/
def Fmt.decode (f : Fmt) (x : Nat) : Fp :=
  let neg := x.testBit (f.ebits + f.mbits)
  let e := (x >>> f.mbits) % 2 ^ f.ebits
  let m := x % 2 ^ f.mbits
  if e = 2 ^ f.ebits - 1 then (if m = 0 then .inf neg else .nan (!m.testBit (f.mbits - 1)))
  else if e = 0 then .fin neg m (f.emin - f.mbits)
  else .fin neg (m + 2 ^ f.mbits) (e - f.bias - f.mbits)

/-! ## Rounding (R168) -/

/-- Number of bits of a number. -/
def bitLen (n : Nat) : Nat := if n = 0 then 0 else n.log2 + 1

/-- m·2^e rounded to a multiple of 2^q: the multiple and whether it differs. -/
def roundQ (rm : Rm) (neg : Bool) (m : Nat) (e q : Int) : Nat × Bool :=
  if q ≤ e then (m <<< (e - q).toNat, false)
  else
    let sh := (q - e).toNat
    let n := m >>> sh
    let r := m - (n <<< sh)
    let half := 1 <<< (sh - 1)
    let up :=
      match rm with
      | .rne => decide (half < r) || (r == half && n % 2 == 1)
      | .rtz => false
      | .rup => !neg && r != 0
      | .rdn => neg && r != 0
    (if up then n + 1 else n, r != 0)

/-- A nonzero m·2^e rounded to p significand bits with least exponent emin: the multiple, its exponent, inexact, tiny
after rounding (R161). -/
def roundP (rm : Rm) (mbits : Nat) (emin : Int) (neg : Bool) (m : Nat) (e : Int) : Nat × Int × Bool × Bool :=
  let top : Int := (bitLen m : Int) - 1 + e
  let q0 := top - mbits
  let q := max q0 (emin - mbits)
  let r := roundQ rm neg m e q
  let u := roundQ rm neg m e q0
  let tiny := decide (top < emin) && !(decide (top + 1 = emin) && u.1 == 2 ^ (mbits + 1))
  (r.1, q, r.2, tiny)

/-- A finite value rounded into a format; `sat` is ARITH.SAT for a narrowing (R168, R169, R174). -/
def Fmt.round (f : Fmt) (rm : Rm) (sat : Bool) (neg : Bool) (m : Nat) (e : Int) : Nat × Fl :=
  if m = 0 then (f.signBit neg, Fl.none)
  else
    let r := roundP rm f.mbits f.emin neg m e
    let n := r.1
    let q := r.2.1
    let inexact := r.2.2.1
    let tiny := r.2.2.2
    let biased := q + f.mbits + f.bias
    let code := ((biased - 1).toNat <<< f.mbits) + n
    if code ≥ f.infBits then
      if sat then (f.signBit neg + f.maxBits, ⟨false, false, true, false, true, true⟩)
      else
        let toInf :=
          match rm with
          | .rne => true
          | .rtz => false
          | .rup => !neg
          | .rdn => neg
        (f.signBit neg + (if toInf then f.infBits else f.maxBits), ⟨false, false, true, false, true, false⟩)
    else (f.signBit neg + code, ⟨false, false, false, tiny && inexact, inexact, false⟩)

/-- A value whose exact magnitude lies strictly between m·2^e and (m+1)·2^e, rounded once. -/
def Fmt.roundOpen (f : Fmt) (rm : Rm) (neg : Bool) (m : Nat) (e : Int) : Nat × Fl := f.round rm false neg (2 * m + 1) (e - 1)

/-- A NaN result and NV when an operand signals (R161). -/
def Fmt.nanOf (f : Fmt) (l : List Fp) : Nat × Fl :=
  (f.nanBits, if l.any (fun x => x == .nan true) then Fl.invalid else Fl.none)

def Fp.isNan : Fp → Bool
  | .nan _ => true
  | _ => false

def Fp.signals : Fp → Bool
  | .nan b => b
  | _ => false

def Fp.negate : Fp → Fp
  | .nan s => .nan s
  | .inf n => .inf (!n)
  | .fin n m e => .fin (!n) m e

/-- The signed mantissa of a finite value at exponent q ≤ e. -/
def alignTo (neg : Bool) (m : Nat) (e q : Int) : Int :=
  let x : Int := (m <<< (e - q).toNat : Nat)
  if neg then -x else x

/-- An exact sum of two finite values rounded once; a zero sum is +0, −0 under RDN, or keeps a common sign (R161). -/
def Fmt.addFin (f : Fmt) (rm : Rm) (na : Bool) (ma : Nat) (ea : Int) (nb : Bool) (mb : Nat) (eb : Int) : Nat × Fl :=
  if ma = 0 ∧ mb = 0 then (f.signBit (if na = nb then na else rm == .rdn), Fl.none)
  else
    let q := min ea eb
    let x := alignTo na ma ea q + alignTo nb mb eb q
    if x = 0 then (f.signBit (rm == .rdn), Fl.none) else f.round rm false (decide (x < 0)) x.natAbs q

/-- a + b (R196, R161). -/
def Fmt.addV (f : Fmt) (rm : Rm) (a b : Fp) : Nat × Fl :=
  match a, b with
  | .fin na ma ea, .fin nb mb eb => f.addFin rm na ma ea nb mb eb
  | .inf na, .inf nb => if na = nb then (f.signBit na + f.infBits, Fl.none) else (f.nanBits, Fl.invalid)
  | .inf na, .fin _ _ _ => (f.signBit na + f.infBits, Fl.none)
  | .fin _ _ _, .inf nb => (f.signBit nb + f.infBits, Fl.none)
  | a, b => f.nanOf [a, b]

/-- The exact product of two values; none for 0 · ∞. -/
def mulExact (a b : Fp) : Option Fp :=
  match a, b with
  | .nan s, .nan t => some (.nan (s || t))
  | .nan s, _ => some (.nan s)
  | _, .nan t => some (.nan t)
  | .inf na, .inf nb => some (.inf (na != nb))
  | .inf na, .fin nb mb _ => if mb = 0 then none else some (.inf (na != nb))
  | .fin na ma _, .inf nb => if ma = 0 then none else some (.inf (na != nb))
  | .fin na ma ea, .fin nb mb eb => some (.fin (na != nb) (ma * mb) (ea + eb))

/-- A value rounded into a format. -/
def Fmt.ofFp (f : Fmt) (rm : Rm) (sat : Bool) : Fp → Nat × Fl
  | .nan s => (f.nanBits, if s then Fl.invalid else Fl.none)
  | .inf n => (f.signBit n + f.infBits, Fl.none)
  | .fin n m e => f.round rm sat n m e

/-- a · b (R196). -/
def Fmt.mulV (f : Fmt) (rm : Rm) (a b : Fp) : Nat × Fl :=
  match mulExact a b with
  | none => (f.nanBits, Fl.invalid)
  | some p => f.ofFp rm false p

/-- a · b + c with one rounding (R196). -/
def Fmt.fmaV (f : Fmt) (rm : Rm) (a b c : Fp) : Nat × Fl :=
  match mulExact a b with
  | none => (f.nanBits, Fl.or Fl.invalid (f.nanOf [a, b, c]).2)
  | some p => if a.isNan || b.isNan || c.isNan then f.nanOf [a, b, c] else f.addV rm p c

/-- Order of two values that are not NaN: a < b as reals, −0 equal to +0. -/
def Fp.ltV (a b : Fp) : Bool :=
  match a, b with
  | .inf na, .inf nb => na && !nb
  | .inf na, _ => na
  | _, .inf nb => !nb
  | .fin na ma ea, .fin nb mb eb =>
    let q := min ea eb
    decide (alignTo na ma ea q < alignTo nb mb eb q)
  | _, _ => false

def Fp.eqV (a b : Fp) : Bool := !a.isNan && !b.isNan && !Fp.ltV a b && !Fp.ltV b a

/-- The sign of a value that is not NaN. -/
def Fp.sign : Fp → Bool
  | .nan _ => false
  | .inf n => n
  | .fin n _ _ => n

/-- VFMIN and VFMAX (R196): −0 below +0; a quiet NaN yields the other operand; two NaNs the default NaN. -/
def Fmt.minMax (f : Fmt) (isMax : Bool) (x y : Nat) : Nat × Fl :=
  let a := f.decode x
  let b := f.decode y
  let fl := if a.signals || b.signals then Fl.invalid else Fl.none
  if a.isNan && b.isNan then (f.nanBits, fl)
  else if a.isNan then (y, fl)
  else if b.isNan then (x, fl)
  else
    let less := Fp.ltV a b || (!Fp.ltV b a && a.sign && !b.sign)
    (if less = isMax then y else x, fl)

def Fmt.add (f : Fmt) (rm : Rm) (x y : Nat) : Nat × Fl := f.addV rm (f.decode x) (f.decode y)
def Fmt.sub (f : Fmt) (rm : Rm) (x y : Nat) : Nat × Fl := f.addV rm (f.decode x) (f.decode y).negate
def Fmt.mul (f : Fmt) (rm : Rm) (x y : Nat) : Nat × Fl := f.mulV rm (f.decode x) (f.decode y)
def Fmt.fma (f : Fmt) (rm : Rm) (x y z : Nat) : Nat × Fl := f.fmaV rm (f.decode x) (f.decode y) (f.decode z)

/-! ## Conversions (R159, R174) -/

/-- Between floating formats: exact when widening; a narrowing saturates under SAT (R174). Between binary16 and BF16 both ways count
as narrowing (notes/assumptions/67.md). -/
def cvtFF (src dst : Fmt) (rm : Rm) (sat : Bool) (x : Nat) : Nat × Fl :=
  let narrowing := decide (dst.ebits < src.ebits) || decide (dst.mbits < src.mbits)
  match src.decode x with
  | .nan s => (dst.nanBits, if s then Fl.invalid else Fl.none)
  | .inf n =>
    if sat && narrowing then (dst.signBit n + dst.maxBits, ⟨false, false, false, false, true, true⟩)
    else (dst.signBit n + dst.infBits, Fl.none)
  | .fin n m e => dst.round rm (sat && narrowing) n m e

/-- A finite value rounded to an integer, and whether it was inexact. -/
def roundInt (rm : Rm) (neg : Bool) (m : Nat) (e : Int) : Int × Bool :=
  let r := roundQ rm neg m e 0
  (if neg then -(r.1 : Int) else r.1, r.2)

/-- Floating to an s-bit integer: clamped outside the range, NaN gives 0; either sets NV and SV (R174). -/
def cvtFI (src : Fmt) (n : Nat) (rm : Rm) (x : Nat) : Int × Fl :=
  let hi : Int := (2 ^ (n - 1) : Nat) - 1
  let lo : Int := -(2 ^ (n - 1) : Nat)
  match src.decode x with
  | .nan _ => (0, ⟨true, false, false, false, false, true⟩)
  | .inf s => (if s then lo else hi, ⟨true, false, false, false, true, true⟩)
  | .fin s m e =>
    let r := roundInt rm s m e
    if r.1 > hi then (hi, ⟨true, false, false, false, true, true⟩)
    else if r.1 < lo then (lo, ⟨true, false, false, false, true, true⟩)
    else (r.1, ⟨false, false, false, false, r.2, false⟩)

/-- Integer to floating: rounded by RM, saturating under SAT; only SV is ever set (R159, R169, R174). -/
def cvtIF (dst : Fmt) (rm : Rm) (sat : Bool) (x : Int) : Nat × Fl :=
  let r := dst.round rm sat (decide (x < 0)) x.natAbs 0
  (r.1, Fl.clamp r.2.sv)

/-- An integer narrowing: clamped with SV under SAT, else the low bits (R159). -/
def narrowInt (n : Nat) (sat : Bool) (x : Int) : Int × Fl :=
  if sat then
    let c := clampS n x
    (c.1.toInt, Fl.clamp c.2)
  else ((BitVec.ofInt n x).toInt, Fl.none)

/-! ## Microscaling and BNI elements (R162–R167, R171–R173) -/

/-- Element formats of blocks, by FMT code of a TID. -/
inductive Blk where
  | bni | e4m3 | e5m2 | e2m1 | int8
  deriving DecidableEq, Repr, Inhabited

def Blk.ofFmt : Nat → Option Blk
  | 0 => some .bni
  | 1 => some .e4m3
  | 2 => some .e5m2
  | 3 => some .e2m1
  | 4 => some .int8
  | _ => none

/-- emax of R162. -/
def Blk.emax : Blk → Int
  | .bni => 0
  | .e4m3 => 8
  | .e5m2 => 15
  | .e2m1 => 2
  | .int8 => 0

/-- Whether the element format has a NaN of its own (R162). -/
def Blk.hasNan : Blk → Bool
  | .e4m3 => true
  | .e5m2 => true
  | _ => false

/-- Exponent and significand bits, and bias, of the floating element formats. -/
def Blk.shape : Blk → Nat × Nat × Int
  | .e4m3 => (4, 3, 7)
  | .e5m2 => (5, 2, 15)
  | _ => (2, 1, 1)

/-- Code of the largest finite element. -/
def Blk.maxCode : Blk → Nat
  | .e4m3 => 0x7E
  | .e5m2 => 0x7B
  | .e2m1 => 0x7
  | _ => 127

def Blk.signCode (b : Blk) (neg : Bool) : Nat :=
  if neg then (match b with | .e2m1 => 8 | _ => 128) else 0

/-- The value of an element code without its block scale (R162, R165). -/
def Blk.decode (b : Blk) (x : Nat) : Fp :=
  match b with
  | .bni => let v := (BitVec.ofNat 8 x).toInt; .fin (decide (v < 0)) v.natAbs (-6)
  | .int8 => let v := (BitVec.ofNat 8 x).toInt; .fin (decide (v < 0)) v.natAbs (-6)
  | b =>
    let sh := b.shape
    let w := sh.1 + sh.2.1
    let neg := x.testBit w
    let e := (x >>> sh.2.1) % 2 ^ sh.1
    let m := x % 2 ^ sh.2.1
    if b = .e4m3 ∧ x % 128 = 127 then .nan false
    else if b = .e5m2 ∧ e = 31 then (if m = 0 then .inf neg else .nan false)
    else if e = 0 then .fin neg m (1 - sh.2.2 - sh.2.1)
    else .fin neg (m + 2 ^ sh.2.1) (e - sh.2.2 - sh.2.1)

/-- Finite overflow of an element: E2M1 ±6, E4M3 ±448, E5M2 ±∞ or ±57,344 (R172). -/
def Blk.overflow (b : Blk) (sat neg : Bool) : Nat × Fl :=
  match b, sat with
  | .e5m2, false => (b.signCode neg + 0x7C, ⟨false, false, true, false, true, false⟩)
  | _, _ => (b.signCode neg + b.maxCode, ⟨false, false, false, false, true, true⟩)

/-- A finite value v / 2^scale formed into an element by RNE (R171, R172); an E2M1 magnitude above 6 is clamped, with SV and NX. -/
def Blk.encode (b : Blk) (sat : Bool) (scale : Int) (neg : Bool) (m : Nat) (e : Int) : Nat × Fl :=
  match b with
  | .bni | .int8 =>
    let r := roundQ .rne neg m (e - scale) (-6)
    let x : Int := if neg then -(r.1 : Int) else r.1
    if x > 127 then (127, ⟨false, false, false, false, true, true⟩)
    else if x < -128 then (128, ⟨false, false, false, false, true, true⟩)
    else ((BitVec.ofInt 8 x).toNat, ⟨false, false, false, r.2 && x == 0, r.2, false⟩)
  | b =>
    if m = 0 then (b.signCode neg, Fl.none)
    else
      let sh := b.shape
      let emin := 1 - sh.2.2
      let r := roundP .rne sh.2.1 emin neg m (e - scale)
      let biased := r.2.1 + sh.2.1 + sh.2.2
      let code := ((biased - 1).toNat <<< sh.2.1) + r.1
      if code > b.maxCode ∨ (b = .e2m1 ∧ Fp.ltV (.fin false 6 0) (.fin false m (e - scale))) then b.overflow sat neg
      else (b.signCode neg + code, ⟨false, false, false, r.2.2.2 && r.2.2.1, r.2.2.1, false⟩)

/-- An infinite input under SAT = 1: ±max finite of the target (R172). -/
def Blk.satInf (b : Blk) (neg : Bool) : Nat × Fl :=
  match b with
  | .bni | .int8 => (if neg then 128 else 127, ⟨false, false, false, false, true, true⟩)
  | b => (b.signCode neg + b.maxCode, ⟨false, false, false, false, true, true⟩)

/-- floor(log2 |v|) of a nonzero finite value. -/
def log2V (m : Nat) (e : Int) : Int := (bitLen m : Int) - 1 + e

def clampI (lo hi x : Int) : Int := if x < lo then lo else if x > hi then hi else x

/-- The largest exponent among the finite nonzero inputs of a block: none when amax is 0 (R171). -/
def topExp : List Fp → Option Int
  | [] => none
  | .fin _ m e :: l =>
    if m = 0 then topExp l
    else match topExp l with
      | some t => some (max t (log2V m e))
      | none => some (log2V m e)
  | _ :: l => topExp l

/-- R171: the scale of a block, −127 when amax is 0. -/
def blockScale (emax : Int) (l : List Fp) : Int :=
  match topExp l with
  | none => -127
  | some t => clampI (-127) 127 (t - emax)

/-- Whether the block's scale becomes NaN (R171, R172): a NaN the element format lacks, or an infinity it lacks with SAT = 0. -/
def Blk.nanBlock (b : Blk) (sat : Bool) (l : List Fp) : Bool :=
  !b.hasNan && l.any fun x => match x with | .nan _ => true | .inf _ => !sat | _ => false

/-- Signalling NaN inputs set NV (R161, R169). -/
def sigFl (l : List Fp) : Fl := if l.any Fp.signals then Fl.invalid else Fl.none

/-- One element of a block at a scale (R172). An infinity delivered as E4M3's NaN code sets no flag (notes/assumptions/68.md). -/
def Blk.element (b : Blk) (sat : Bool) (scale : Int) (x : Fp) : Nat × Fl :=
  match x with
  | .nan _ => (match b with | .e4m3 => 0x7F | .e5m2 => 0x7E | _ => 0, Fl.none)
  | .inf n =>
    if sat then b.satInf n
    else match b with
      | .e5m2 => (b.signCode n + 0x7C, Fl.none)
      | .e4m3 => (0x7F, Fl.none)
      | _ => (0, Fl.none)
  | .fin n m e => b.encode sat scale n m e

/-- The elements of a block at a scale and their flags together. -/
def Blk.elements (b : Blk) (sat : Bool) (scale : Int) (l : List Fp) : List Nat × Fl :=
  l.foldr (fun x p => let r := b.element sat scale x; (r.1 :: p.1, Fl.or r.2 p.2)) ([], Fl.none)

/-- A block converted to MXFP8, MXFP4 or MXINT8: scale byte, elements, flags (R171, R172). A block that an infinity makes NaN sets no
flag for it (notes/assumptions/68.md). -/
def Blk.convert (b : Blk) (sat : Bool) (l : List Fp) : Nat × List Nat × Fl :=
  if b.nanBlock sat l then (0xFF, l.map fun _ => 0, sigFl l)
  else
    let sc := blockScale b.emax l
    let r := b.elements sat sc l
    ((sc + 127).toNat, r.1, Fl.or r.2 (sigFl l))

/-- Ej of a BNI block, none for a NaN block (R171, R205). -/
def bniExp (sat : Bool) (l : List Fp) : Option Nat :=
  if Blk.bni.nanBlock sat l then none else some (blockScale 0 l + 127).toNat

/-- A block converted to BNI under a scale base: scale byte, elements, flags (R173, R206). -/
def bniConvert (sat : Bool) (sbase : Nat) (l : List Fp) : Nat × List Nat × Fl :=
  match bniExp sat l with
  | none => (0xFF, l.map fun _ => 0, sigFl l)
  | some ej =>
    let off : Int := (sbase : Int) - ej
    let p : Nat × Int := if off < 0 then (0, (sbase : Int) - 127) else if off > 31 then (31, (sbase : Int) - 31 - 127) else (off.toNat, (ej : Int) - 127)
    let r := Blk.bni.elements sat p.2 l
    (p.1, r.1, Fl.or r.2 (sigFl l))

/-- A finite value scaled by 2^k. -/
def Fp.scale (x : Fp) (k : Int) : Fp :=
  match x with
  | .fin n m e => .fin n m (e + k)
  | x => x

/-- The value of an MX element under its scale byte (R162, R163). -/
def mxValue (b : Blk) (scale code : Nat) : Fp := if scale = 0xFF then .nan false else (b.decode code).scale ((scale : Int) - 127)

/-- The top p planes of a BNI element (R167). -/
def topPlanes (p x : Nat) : Int := (BitVec.ofNat 8 x).toInt / 2 ^ (8 - p) * 2 ^ (8 - p)

/-- The value of a BNI element read with p planes: NaN for scale byte 0xFF or with bits [7:5] set, 0 when Ej < 0 (R165). -/
def bniValue (p sbase scale code : Nat) : Fp :=
  if scale ≥ 32 then .nan false
  else if sbase < scale then .fin false 0 0
  else
    let x := topPlanes p code
    .fin (decide (x < 0)) x.natAbs ((sbase : Int) - scale - 127 - 6)

/-- Two MX blocks combined in a router (R182): scale byte, elements, flags. -/
def mxCombine (b : Blk) (sat : Bool) (sa : Nat) (ea : List Nat) (sb : Nat) (eb : List Nat) : Nat × List Nat × Fl :=
  if sa = 0xFF ∨ sb = 0xFF then (0xFF, ea.map fun _ => 0, Fl.none)
  else
    let sums := (ea.zip eb).map fun p =>
      match mxValue b sa p.1, mxValue b sb p.2 with
      | .fin na ma xa, .fin nb mb xb =>
        let q := min xa xb
        let v := alignTo na ma xa q + alignTo nb mb xb q
        if v = 0 then .fin (na && nb && ma == 0 && mb == 0) 0 q else .fin (decide (v < 0)) v.natAbs q
      | .inf na, .inf nb => if na = nb then Fp.inf na else .nan false
      | .inf na, .fin _ _ _ => .inf na
      | .fin _ _ _, .inf nb => .inf nb
      | _, _ => .nan false
    let fl := if (ea.zip eb).any fun p =>
        (match mxValue b sa p.1, mxValue b sb p.2 with | .inf na, .inf nb => na != nb | _, _ => false) then Fl.invalid else Fl.none
    let sc := blockScale b.emax sums
    let r := b.elements sat sc sums
    ((sc + 127).toNat, r.1, Fl.or r.2 fl)

/-! ## Correctly rounded functions (R197; notes/assumptions/8.md) -/

/-- floor(√n) by bits from 2^k down. -/
def isqrtFrom (n : Nat) : Nat → Nat → Nat
  | 0, r => r
  | k + 1, r => isqrtFrom n k (if (r + (1 <<< k)) * (r + (1 <<< k)) ≤ n then r + (1 <<< k) else r)

def isqrt (n : Nat) : Nat := isqrtFrom n (bitLen n / 2 + 1) 0

/-- Σ x^k / k! in fixed point with p fraction bits, from term k on. -/
def expSum (p x : Nat) : Nat → Nat → Nat → Nat → Nat
  | 0, _, _, acc => acc
  | fuel + 1, k, term, acc =>
    let t := (term * x / k) >>> p
    expSum p x fuel (k + 1) t (acc + t)

/-- e^x for 0 ≤ x < 1 in fixed point. -/
def expFix (p x : Nat) : Nat := expSum p x 140 1 (1 <<< p) (1 <<< p)

/-- Σ 1 / (k·2^k) = ln 2 in fixed point. -/
def ln2Sum (p : Nat) : Nat → Nat → Nat → Nat
  | 0, _, acc => acc
  | fuel + 1, k, acc => ln2Sum p fuel (k + 1) (acc + (1 <<< (p - k)) / k)

def ln2Fix (p : Nat) : Nat := ln2Sum p (p - 1) 1 0

/-- Σ z^(2k+1) / (2k+1) in fixed point. -/
def atanhSum (p z2 : Nat) : Nat → Nat → Nat → Nat → Nat
  | 0, _, _, acc => acc
  | fuel + 1, k, term, acc => atanhSum p z2 fuel (k + 1) ((term * z2) >>> p) (acc + term / (2 * k + 1))

/-- ln y for 1 ≤ y < 2 in fixed point: 2·atanh((y − 1)/(y + 1)). -/
def lnFix (p y : Nat) : Nat :=
  let z := ((y - (1 <<< p)) <<< p) / (y + (1 <<< p))
  2 * atanhSum p ((z * z) >>> p) 200 0 z 0

/-- 1/x (R197). -/
def rcp32 (rm : Rm) (x : Nat) : Nat × Fl :=
  match f32.decode x with
  | .nan s => (f32.nanBits, if s then Fl.invalid else Fl.none)
  | .inf n => (f32.signBit n, Fl.none)
  | .fin n m e =>
    if m = 0 then (f32.signBit n + f32.infBits, Fl.divZero)
    else
      let q := (1 <<< 80) / m
      if q * m = 1 <<< 80 then f32.round rm false n q (-80 - e) else f32.roundOpen rm n q (-80 - e)

/-- 1/√x (R197). -/
def rsq32 (rm : Rm) (x : Nat) : Nat × Fl :=
  match f32.decode x with
  | .nan s => (f32.nanBits, if s then Fl.invalid else Fl.none)
  | .inf n => if n then (f32.nanBits, Fl.invalid) else (0, Fl.none)
  | .fin n m e =>
    if m = 0 then (f32.signBit n + f32.infBits, Fl.divZero)
    else if n then (f32.nanBits, Fl.invalid)
    else
      let m2 := if e % 2 = 0 then m else 2 * m
      let e2 := if e % 2 = 0 then e else e - 1
      let r := isqrt ((1 <<< 160) / m2)
      if r * r * m2 = 1 <<< 160 then f32.round rm false false r (-80 - e2 / 2) else f32.roundOpen rm false r (-80 - e2 / 2)

/-- 2^x (R197). -/
def exp2_32 (rm : Rm) (x : Nat) : Nat × Fl :=
  match f32.decode x with
  | .nan s => (f32.nanBits, if s then Fl.invalid else Fl.none)
  | .inf n => if n then (0, Fl.none) else (f32.infBits, Fl.none)
  | .fin n m e =>
    if m = 0 then f32.round rm false false 1 0
    else if log2V m e ≥ 9 then (if n then f32.roundOpen rm false 1 (-400) else f32.round rm false false 1 400)
    else
      let v := alignTo n m e (-256)
      let whole := v / (1 <<< 256 : Nat)
      let frac := (v % (1 <<< 256 : Nat)).toNat
      if frac = 0 then f32.round rm false false 1 whole
      else f32.roundOpen rm false (expFix 256 ((frac * ln2Fix 256) >>> 256)) (whole - 256)

/-- log2 x (R197). -/
def log2_32 (rm : Rm) (x : Nat) : Nat × Fl :=
  match f32.decode x with
  | .nan s => (f32.nanBits, if s then Fl.invalid else Fl.none)
  | .inf n => if n then (f32.nanBits, Fl.invalid) else (f32.infBits, Fl.none)
  | .fin n m e =>
    if m = 0 then (f32.signBit true + f32.infBits, Fl.divZero)
    else if n then (f32.nanBits, Fl.invalid)
    else
      let top := log2V m e
      let y := m <<< (257 - bitLen m)
      if y = 1 <<< 256 then (if top = 0 then (0, Fl.none) else f32.round rm false (decide (top < 0)) top.natAbs 0)
      else
        let v : Int := top * (1 <<< 256 : Nat) + ((lnFix 256 y <<< 256) / ln2Fix 256 : Nat)
        if v < 0 then f32.roundOpen rm true ((-v).toNat >>> 16) (-240) else f32.roundOpen rm false (v.toNat >>> 16) (-240)

/-- 1/(1 + e^−x) (R197). -/
def sig32 (rm : Rm) (x : Nat) : Nat × Fl :=
  match f32.decode x with
  | .nan s => (f32.nanBits, if s then Fl.invalid else Fl.none)
  | .inf n => if n then (0, Fl.none) else f32.round rm false false 1 0
  | .fin n m e =>
    if m = 0 then f32.round rm false false 1 (-1)
    else if log2V m e ≥ 8 then
      (if n then f32.roundOpen rm false 1 (-360) else f32.roundOpen rm false ((1 <<< 64) - 1) (-64))
    else
      -- |x| / ln 2 = k + r; e^−|x| = 2^−k · 2^−r
      let a := (alignTo false m e (-512)).toNat
      let l2 := ln2Fix 512
      let k := a / l2
      let t := ((1 <<< 1024) / expFix 512 (a % l2)) >>> k     -- e^−|x| with 512 fraction bits
      let den := (1 <<< 512) + t
      let num := if n then t else 1 <<< 512
      f32.roundOpen rm false (((num <<< 512) / den) >>> 16) (-496)

end Sys2Proof.Machine
end

