-- ==== Sys2Proof/Machine/Operands.lean ====
section
/-!
DEFINITION. Operand forms: address formation (spec/04_formats.md R88, R89), the modifiers of an access (spec/06_memory_sync.md
R128–R130), the checks of R132 with translation (spec/17_memory_translation.md R294–R299), and how an access enters the
ordering machine (spec/11_ordering.md R264, R265, R271) or the staging buffer (spec/20_reliability.md R351).
-/
namespace Sys2Proof.Machine

/-! ## Addresses and branch targets (R88, R89) -/

/-- M format: g(A) plus the displacement scaled by the access size. -/
def State.eaM (s : State) (a : GReg) (disp : BitVec 11) (size : Nat) : Word := s.g a + sext disp * word size
/-- X layout: g(A) plus a byte displacement that is not scaled. -/
def State.eaX (s : State) (a : GReg) (disp : BitVec 24) : Word := s.g a + sext disp
/-- The target of a branch, JMP or CALL: (pc + 4·disp) mod 2^15. -/
def State.target {n : Nat} (s : State) (disp : BitVec n) : Pc := s.cx.pc + (sext disp * 4).setWidth 15

/-! ## Modifiers (R90, R128–R130) -/

/-- The modifiers an access runs under. -/
structure Eff where
  ord : Nat
  scope : Nat
  space : Nat
  cache : Nat
  chk : Bool
  deriving DecidableEq, Repr, Inhabited

/-- Kinds of access for ORD, permission and check 8. -/
inductive AccKind where
  | load | store | amo
  deriving DecidableEq, Repr, Inhabited

def AccKind.code : AccKind → Nat
  | .load => 0
  | .store => 1
  | .amo => 2

/-- R129: the ORD an access uses; none when one written in the prefix does not suit it. -/
def ordFor (k : AccKind) (pre md : Nat) : Option Nat :=
  match k with
  | .amo => some (if pre = 0 then md else pre)
  | .load =>
    if pre = 0 then some (if md = 4 then 2 else if md = 5 then 3 else md)
    else if pre = 4 ∨ pre = 5 then none else some pre
  | .store =>
    if pre = 0 then some (if md = 3 then 2 else if md = 5 then 4 else md)
    else if pre = 3 ∨ pre = 5 then none else some pre

/-- A prefix without any field. -/
def Mods.zero : Mods := ⟨0, 0, 0, 0, false⟩

/-- The modifiers of an access with prefix `p` under MEMDEF `md`: every field at 0 takes MEMDEF's (R90). -/
def effOf (k : AccKind) (p : Option Mods) (md : Word) : Option Eff :=
  let m := p.getD Mods.zero
  (ordFor k m.ord.toNat (bits md 2 0)).map fun o =>
    { ord := o
      scope := if m.scope = 0 then bits md 5 3 else m.scope.toNat
      space := if m.space = 0 then bits md 7 6 else m.space.toNat
      cache := if m.cache = 0 then bits md 9 8 else m.cache.toNat
      chk := m.chk || bit md 10 }

/-! ## The address space (R28, R29, R140) -/

/-- The regions of R28. -/
inductive Region where
  | main | coord | loc | peer | bad
  deriving DecidableEq, Repr, Inhabited

def regionOf (ea : Word) : Region :=
  let a := ea.toNat
  if a ≥ 2 ^ 52 then .bad
  else if a < 0xE000000000000 then .main
  else if a < 0xF000000000000 then .coord
  else if a < 0xF000000008000 then .loc
  else if a < 0xF800000000000 then .bad
  else .peer

/-- SPACE accepts a region: 0 any, 1 LOC, 2 the coordinate window, 3 main memory (R128). -/
def spaceOk (space : Nat) (r : Region) : Bool :=
  space = 0 || (space = 1 && r = .loc) || (space = 2 && r = .coord) || (space = 3 && r = .main)

def coordVd (ea : Word) : Nat := bits ea 47 44
def coordRow (ea : Word) : Nat := bits ea 43 37
def coordCol (ea : Word) : Nat := bits ea 36 30
def coordOff (ea : Word) : Nat := bits ea 29 0

/-- The offset in the core's own local SRAM that an address names, through LOC or its own coordinates (R29). -/
def State.ownOff (s : State) (ea : Word) : Option Nat :=
  match regionOf ea with
  | .loc => some (bits ea 14 0)
  | .coord =>
    if coordVd ea = s.myVd ∧ coordRow ea = rowOf s.id ∧ coordCol ea = colOf s.id ∧ s.vdCount ≠ 0 then some (coordOff ea) else none
  | _ => none

/-- The key a coordinate address reaches after the checks of R29. -/
def State.coordKey (s : State) (ea : Word) : Option Nat :=
  let vd := coordVd ea
  let row := coordRow ea
  let col := coordCol ea
  let off := coordOff ea
  if row < 80 then
    if off < 0x8000 then (s.siteAt vd row col).map fun id => sramKey id off else none
  else if off < 0x200000 then (s.sliceAt vd row col).map fun id => sliceKey id off else none

/-- SSLIM of context k of a core: the firmware value of the slot while it is Free (R37). -/
def Core.sslimOf (c : Core) (cur : Context) (k : Nat) : Word :=
  let x := c.ctx cur k
  if x.st = .free then (Table.find c.limits k).getD x.sslim else x.sslim

/-- Whether bytes off … off+size−1 of a core meet the shadow-stack range of one of its contexts (R30). -/
def Core.inShadow (c : Core) (cur : Context) (off size : Nat) : Bool :=
  (List.range 11).any fun k =>
    let l := c.sslimOf cur k
    decide (bits l 15 0 < off + size) && decide (off < bits l 31 16)

/-! ## Translation (R294–R299) -/

/-- The answer of the checks of an access. -/
inductive Chk where
  | ok (key : Nat)
  | trap (code : Nat) (tval : Word)
  | walk (va : Word)
  | badFrame
  deriving DecidableEq, Repr, Inhabited

/-- Whether an entry serves an address of an address space (R299). -/
def Tlb.hits (t : Tlb) (asid gen va : Nat) : Bool := t.asid == asid && t.gen == gen && va >>> t.size == t.vpn

/-- The permission a kind of access needs, and D for a store or AMO (R296, R297). -/
def Tlb.permits (t : Tlb) : AccKind → Bool
  | .load => t.r
  | .store => t.w
  | .amo => t.r && t.w

/-- What an entry gives for an access. The stack of an excluded die has left the address map (R356). -/
def State.tlbResult (s : State) (t : Tlb) (k : AccKind) (ea : Word) : Chk :=
  if !t.permits k then .trap 0x07 ea
  else if k ≠ .load ∧ t.d = false then .walk ea
  else
    let pa := t.ppn * 2 ^ t.size + ea.toNat % 2 ^ t.size
    if pa % 2 ^ 40 < 0x1800000000 ∧ !s.excluded (pa / 2 ^ 40) then .ok pa else .badFrame

/-- The entry of the core's TLBs for an address: first level, then the octet's (R298). -/
def State.tlbFind (s : State) (asid gen va : Nat) : Option Tlb :=
  match s.core.tlb.find? (fun t => t.hits asid gen va) with
  | some t => some t
  | none => ((Table.find s.tlb2 (octetOf s.id)).getD []).find? (fun t => t.hits asid gen va)

/-- The translation of a main-memory access (R297), a failed walk's result included. -/
def State.translate (s : State) (k : AccKind) (ea : Word) : Chk :=
  match s.cx.walk with
  | some w =>
    if w.va.toNat >>> 16 = ea.toNat >>> 16 ∧ w.fault.isSome then .trap (w.fault.getD 0x06) ea
    else
      match s.tlbFind (bits s.cx.asid 11 0) (bits s.cx.gen 19 0) ea.toNat with
      | some t => s.tlbResult t k ea
      | none => .walk ea
  | none =>
    match s.tlbFind (bits s.cx.asid 11 0) (bits s.cx.gen 19 0) ea.toNat with
    | some t => s.tlbResult t k ea
    | none => .walk ea

/-- The walk of an access is asked for, once, in the order of requests (R298). -/
def State.askWalk (s : State) (k : AccKind) (ea : Word) : State :=
  let gen := bits s.cx.gen 19 0
  let ask : State := { s with cx := { s.cx with walk := some ⟨ea, k.code, bits s.cx.asid 11 0, gen, none, s.seq⟩ }, seq := s.seq + 1 }
  match s.cx.walk with
  | some w => if w.va = ea ∧ w.gen = gen ∧ w.fault = none then s else ask
  | none => ask

/-- The context waits for the walk of an access (R298); its result is found when the instruction is tried again. -/
def State.startWalk (s : State) (k : AccKind) (ea : Word) : State := (s.waitOn .reply).askWalk k ea

/-- A first-level miss that hits in the second level copies the entry (R298): at most 384 entries stay. -/
def State.touchTlb (s : State) (ea : Word) : State :=
  let asid := bits s.cx.asid 11 0
  let gen := bits s.cx.gen 19 0
  if regionOf ea ≠ .main ∨ s.core.tlb.any (fun t => t.hits asid gen ea.toNat) then s
  else
    match s.tlbFind asid gen ea.toNat with
    | some t => s.setCore { s.core with tlb := (t :: s.core.tlb).take 384 }
    | none => s

/-! ## The checks of R132 -/

/-- Checks 2 to 9 of R132 for one access of `size` bytes. -/
def State.check (s : State) (k : AccKind) (space : Nat) (ea : Word) (size : Nat) : Chk :=
  let r := regionOf ea
  if r = .bad then .trap 0x07 ea
  else if r = .peer then .trap 0x08 ea
  else if !spaceOk space r then .trap 0x07 ea
  else if ea.toNat % size ≠ 0 then .trap 0x05 ea
  else
    match s.ownOff ea with
    | some off =>
      if !s.cx.super && decide (off < s.core.xbound.toNat) then .trap 0x04 ea
      else if off ≥ 0x8000 then .trap 0x07 ea
      else if k ≠ .load ∧ s.core.inShadow s.cx off size then .trap 0x07 ea
      else .ok (sramKey s.id off)
    | none =>
      if r = .coord then
        match s.coordKey ea with
        | some key => .ok key
        | none => .trap 0x07 ea
      else s.translate k ea

/-! ## Staging (R157, R351) -/

/-- Whether a store is staged: its core owns a Running node and the word lies outside the core's local SRAM. -/
def State.staged (s : State) (key : Nat) : Bool := s.core.node.isSome && homeOf key != .core s.id

/-- Entries of the staging buffer in use. -/
def Core.stageUsed (c : Core) : Nat := (c.staging.map (·.cost)).sum

/-! ## What a store or an AMO makes of a word (R135, R226, R261) -/

/-- The new value of an AMO at a location of `size` bytes (R135). -/
def amoNew (op : AmoOp) (size old x e : Nat) : Nat :=
  let n := 8 * size
  let o := BitVec.ofNat n old
  let v := BitVec.ofNat n x
  match op with
  | .add => (o + v).toNat
  | .and => (o &&& v).toNat
  | .or => (o ||| v).toNat
  | .xor => (o ^^^ v).toNat
  | .min => (if o.slt v then o else v).toNat
  | .max => (if o.slt v then v else o).toNat
  | .minZ => (if o.ult v then o else v).toNat
  | .maxZ => (if o.ult v then v else o).toNat
  | .swp => v.toNat
  | .cas => if o = BitVec.ofNat n e then v.toNat else o.toNat
  | .fadd => (f32.add .rne o.toNat v.toNat).1

/-- The bits of `mask` taken from `val`, the others from `old`. -/
def blend (old val mask : Nat) : Nat := ((old ||| mask) ^^^ mask) ||| (val &&& mask)

/-- `n` bytes from byte `o` of a number replaced by those of `v`. -/
def patch (old o n v : Nat) : Nat := old / 256 ^ (o + n) * 256 ^ (o + n) + v % 256 ^ n * 256 ^ o + old % 256 ^ o

/-- `n` bytes from byte `o` of a number. -/
def slice (v o n : Nat) : Nat := v / 256 ^ o % 256 ^ n

/-- The 8-byte word `w` after a body has written it, where it stood at `old`: a narrower access leaves the other bytes (R261). -/
def Body.onWord (b : Body) (w old : Nat) : Nat :=
  match b with
  | .store key size val =>
    let lo := max key (8 * w)
    let hi := min (key + size) (8 * w + 8)
    if lo < hi then patch old (lo - 8 * w) (hi - lo) (val / 256 ^ (lo - key)) else old
  | .bits key size val mask =>
    if key / 8 = w then patch old (key % 8) size (blend (slice old (key % 8) size) val mask) else old
  | .amo op key size x e _ _ _ =>
    if key / 8 = w then patch old (key % 8) size (amoNew op size (slice old (key % 8) size) x e) else old
  | _ => old

/-- Whether a body writes the whole of byte `a`, whatever it held. -/
def Body.covers (b : Body) (a : Nat) : Bool :=
  match b with
  | .store key size _ => decide (key ≤ a) && decide (a < key + size)
  | .bits key size _ mask => decide (key ≤ a) && decide (a < key + size) && mask / 256 ^ (a - key) % 256 == 255
  | _ => false

/-- Whether a body writes the whole of the 8-byte word `w`. -/
def Body.fills (b : Body) (w : Nat) : Bool := (List.range 8).all fun j => b.covers (8 * w + j)

/-- A body at another key. -/
def Body.atKey (b : Body) (key : Nat) : Body :=
  match b with
  | .store _ n v => .store key n v
  | .bits _ n v m => .bits key n v m
  | .amo op _ n x e more r d => .amo op key n x e more r d
  | b => b

/-- Whether a body is a store. -/
def Body.isStore : Body → Bool
  | .store _ _ _ => true
  | .bits _ _ _ _ => true
  | _ => false

/-- Whether a body is a write that reads nothing: a store, or the REL write of a push. -/
def Body.plain : Body → Bool
  | .push _ _ => true
  | b => b.isStore

/-- Whether a message body writes or updates the 8-byte word `wd`. -/
def Body.touches (b : Body) (wd : Nat) : Bool :=
  match b with
  | .store key size _ => decide (key / 8 ≤ wd) && decide (wd ≤ (key + size - 1) / 8)
  | .bits key _ _ _ => key / 8 == wd
  | .amo _ key _ _ _ _ _ _ => key / 8 == wd
  | .deps key => key / 8 == wd
  | .push key _ => key / 8 == wd
  | _ => false

/-- Whether a body is a write or an AMO that APPLY applies at its home (R266): these wait in an apply queue (R335). -/
def Body.applied : Body → Bool
  | .store _ _ _ => true
  | .bits _ _ _ _ => true
  | .amo _ _ _ _ _ _ _ _ => true
  | .deps _ => true
  | .push _ _ => true
  | _ => false

/-- The 8-byte words of `size` bytes from `key`. -/
def wordsOf (key size : Nat) : List Nat := (List.range ((key + size - 1) / 8 + 1 - key / 8)).map (· + key / 8)

/-! ## Reads of the core: its own stores and the home (R265, R268, R351) -/

/-- The context in view as a source. -/
def State.mine (s : State) : Src := .ctx s.id s.core.k

/-- The issuers of a message, and whether a source made it, alone or merged with others (R333). -/
def Msg.parts (m : Msg) : List Part := ⟨m.src, m.id, m.ord, m.va, m.user, m.chk⟩ :: m.also
def Msg.from? (m : Msg) (src : Src) : Bool := m.parts.any fun p => p.src == src

/-- The operations of the core on a word that have not left it, oldest first: stores in the store buffer, then staged ones (R351). -/
def Core.storesTo (c : Core) (w : Nat) : List Body :=
  ((c.sbuf.map (·.body)).filter fun b => b.isStore && b.touches w) ++ (c.staging.map (·.e.body)).filter fun b => b.touches w

/-- Whether byte `a` stands whole in the core's own buffers. -/
def Core.owns (c : Core) (a : Nat) : Bool := (c.storesTo (a / 8)).any fun b => b.covers a

/-- Whether every byte of an access stands in the core's own buffers: it can be forwarded (R265). -/
def Core.ownsAll (c : Core) (key size : Nat) : Bool := (List.range size).all fun j => c.owns (key + j)

/-- A word as the core's own stores leave it over what its home holds (R265, R351; notes/assumptions/9.md). -/
def State.wordSeen (s : State) (w : Nat) : Nat := (s.core.storesTo w).foldl (fun v b => b.onWord w v) (Memory.getN s.mem (8 * w) 8)

/-- A word as its home holds it, under what the Running node of the core has staged for it (R351). -/
def State.wordHome (s : State) (w : Nat) : Nat :=
  ((s.core.staging.map (·.e.body)).filter fun b => b.touches w).foldl (fun v b => b.onWord w v) (Memory.getN s.mem (8 * w) 8)

/-- `n` bytes from `key`, where `f` gives the words. -/
def bytesBy (f : Nat → Nat) (key n : Nat) : Nat := slice ((wordsOf key n).foldr (fun w v => f w + 2 ^ 64 * v) 0) (key % 8) n

/-- `n` bytes as the core's own stores leave them, as a number. -/
def State.peekN (s : State) (key n : Nat) : Nat := bytesBy s.wordSeen key n

/-- `n` bytes as their home answers a read of the core, as a number. -/
def State.homeN (s : State) (key n : Nat) : Nat := bytesBy s.wordHome key n

/-- Whether a byte of an access lies in a poisoned word and is not overwritten by the core's own stores. -/
def State.poisoned (s : State) (key size : Nat) : Bool :=
  (List.range size).any fun j => s.poison.contains ((key + j) / 8) && !s.core.owns (key + j)

/-- SUB of a poisoned access: 0 when the error of a word is found on this read, 2 when it was poisoned before (R347, R348). -/
def State.errSub (s : State) (key size : Nat) : Nat :=
  if (wordsOf key size).any fun w => s.poison.contains w && s.unseen.contains w then 0 else 2

/-- The errors of some words have been found. -/
def State.foundErrors (s : State) (ws : List Nat) : State := { s with unseen := s.unseen.filter fun w => !ws.contains w }

/-- MEMERR posted to the context in view for a poisoned access at a key (R347, R348). -/
def State.postMem (s : State) (key size source : Nat) (tval : Word) (at_ : Option Nat) : State :=
  (s.postWith s.id s.core.k 0x11 (s.errSub key size) source tval at_ (b2n (decide (key < 2 ^ 52))) (keyPlace key) (keyAddr key)).foundErrors (wordsOf key size)

/-- The store buffer holds a write to the word that source `r` made or has already read (R268). -/
def State.behindOwn (s : State) (r : Src) (saw : List Nat) (w : Nat) : Bool :=
  s.core.sbuf.any fun e => e.body.touches w && (e.src == r || saw.contains e.id)

/-- The second and the first condition of R265 for a READ of word `w` by source `r`, and R268 for the buffer: no store of the core to it is
on its way, and no AMO of the source to it is without its reply. -/
def State.readable (s : State) (r : Src) (saw : List Nat) (w : Nat) : Bool :=
  !(s.behindOwn r saw w)
  && !(s.flight.any fun m => m.body.touches w && ((m.core == s.id && m.body.plain) || m.from? r))
  && !(s.core.acks.any fun a => a.src == r && a.word == w)

/-- An FLD of the context to the word, before order number `n`, is unanswered (R265). -/
def Context.fldOpen (c : Context) (w n : Nat) : Bool :=
  c.tickets.any fun t => t.answer.isNone && t.peer.isNone && !t.multi && t.key / 8 == w && decide (t.at_ < n)

/-- A FORWARD of a word to source `r` keeps R268: what the source has made or read and is not yet applied travels the route of the newest store
in the buffer, and so is applied before it. -/
def State.forwardOk (s : State) (r : Src) (saw : List Nat) (w : Nat) : Bool :=
  match (s.core.sbuf.filter fun e => e.body.isStore && e.body.touches w).getLast? with
  | none => true
  | some x =>
    (s.core.sbuf.all fun e => !(e.body.touches w && (e.src == r || saw.contains e.id)) || (e.src == x.src && e.cls == x.cls))
    && s.flight.all fun m => !(m.body.touches w && (m.from? r || (m.core == s.id && saw.contains m.id))) || (m.src == x.src && m.cls == x.cls)

/-- A FORWARD of an access to the context in view: no FLD to a word of it is unanswered, and R268 is kept. -/
def State.forwards (s : State) (key size : Nat) : Bool :=
  s.core.ownsAll key size && (wordsOf key size).all fun w => s.forwardOk s.mine s.cx.saw w && !(s.cx.fldOpen w s.seq)

/-- A READ of an access by the context in view may be sent (R265). -/
def State.readOk (s : State) (key size : Nat) : Bool :=
  (wordsOf key size).all fun w => s.readable s.mine s.cx.saw w && !(s.cx.fldOpen w s.seq)

/-- A read of the core's own SRAM by the context in view may be served: no store of the core to a word of it is on its way, no AMO or FLD of the
context to it is unanswered, and R268 is kept for what stands in the buffer. -/
def State.readLocal (s : State) (key size : Nat) : Bool :=
  (wordsOf key size).all fun w =>
    s.forwardOk s.mine s.cx.saw w && !(s.flight.any fun m => m.body.touches w && ((m.core == s.id && m.body.plain) || m.from? s.mine))
    && !(s.core.sbuf.any fun e => e.body.touches w && e.cls == .a && e.src == s.mine)
    && !(s.core.acks.any fun a => a.src == s.mine && a.word == w) && !(s.cx.fldOpen w s.seq)

/-- The place of the newest write of a word in its coherence order (R261). -/
def State.orderOf (s : State) (w : Nat) : Nat := (Table.find s.order w).getD 0

/-- A read of the context has returned the write at place `n` of a word (R268); only main memory has copies elsewhere. -/
def Context.noteSeen (c : Context) (w n : Nat) : Context :=
  if 8 * w < 2 ^ 52 then { c with seen := Table.set c.seen w (max n ((Table.find c.seen w).getD 0)) } else c

/-- A read of the context has returned a write not yet applied (R268). -/
def Context.noteSaw (c : Context) (id : Nat) : Context := if c.saw.contains id then c else { c with saw := c.saw ++ [id] }

/-- The newest operation staged for a word, and the newest store to it in the core's buffers. -/
def Core.newestStaged (c : Core) (w : Nat) : Option Nat := (((c.staging.map (·.e)).filter fun e => e.body.touches w).getLast?).map (·.id)
def Core.newestTo (c : Core) (w : Nat) : Option Nat :=
  (c.newestStaged w).or (((c.sbuf.filter fun e => e.body.isStore && e.body.touches w).getLast?).map (·.id))

/-- What a FORWARD of an access has returned (R265, R268). -/
def State.sawOwn (s : State) (key size : Nat) : State :=
  s.setCx (((wordsOf key size).filterMap s.core.newestTo).foldl Context.noteSaw s.cx)

/-- What a READ of an access has returned, with what is staged for it (R265, R268). -/
def State.sawHome (s : State) (key size : Nat) : State :=
  s.setCx ((wordsOf key size).foldl (fun c w =>
    let d := c.noteSeen w (s.orderOf w)
    match s.core.newestStaged w with | some id => d.noteSaw id | none => d) s.cx)

/-! ## Acquire points and joins (R267, R269) -/

/-- Whether core `me` lies in the scope of core `writer`. -/
def scopeHas (scope writer me : Nat) : Bool :=
  match scope with
  | 1 => writer == me
  | 2 => octetOf writer == octetOf me
  | 3 => pdieOf writer == pdieOf me
  | _ => true

/-- The entries of a stamp that core `me` may join. -/
def Stamp.visible (st : Stamp) (me : Nat) : Clock := Stamp.clock (st.filter fun t => scopeHas t.scope t.writer me)

/-- The joins of a read's reply (R267). -/
def Context.joinRead (c : Context) (me now ord : Nat) (ws ls : Stamp) (forwarded : Bool) : Context :=
  let w := if forwarded then [] else Stamp.visible ws me
  let l := if forwarded then [] else Stamp.visible ls me
  if ord = 3 ∨ ord = 5 ∨ ord = 6 then { c with clk := c.clk.join (Clock.join w l), acqOpen := true, acqTime := now }
  else if ord = 1 then { c with joinJ := c.joinJ.join (Clock.join w l) }
  else { c with clk := c.clk.join w, joinJ := c.joinJ.join (Clock.join w l) }

/-- The contexts of a core. -/
def State.ctxsAt (s : State) (id : Nat) : List Context := (List.range 11).map (s.cxAt id)

/-- The stamp clock C of a die, its own entry left aside: the largest values that any context or engine thread of the die has joined (R334). -/
def State.stampClock (s : State) (d : Nat) : Clock :=
  (s.sites.filter fun id => pdieOf id == d).foldl (fun c id =>
    ((s.ctxsAt id).map (·.clk) ++ (s.coreAt id).cmds.map (·.clk)).foldl Clock.join c) (s.dieC.getD d [])

/-- The state with C of a die as it stands, before contexts of core `id` lose their clocks (R334). -/
def State.keepClock (s : State) (id : Nat) : State := { s with dieC := putGrow [] s.dieC (pdieOf id) (s.stampClock (pdieOf id)) }

/-- Covered(c) on die h (R334). -/
def State.covered (s : State) (h : Nat) (c : Clock) : Bool := Clock.le c (s.dieV.getD h [])

/-- The stamps of the word of a key: WS and LS. -/
def State.stampOf (s : State) (w : Nat) : Stamp × Stamp := (Table.find s.stamps w).getD ([], [])

/-- The stamps of every word of an access together. -/
def State.stampsOf (s : State) (key size : Nat) : Stamp × Stamp :=
  (wordsOf key size).foldl (fun p w => (p.1 ++ (s.stampOf w).1, p.2 ++ (s.stampOf w).2)) ([], [])

/-- The clock K ∨ {d ↦ N} a release sends (R263, R273). -/
def State.releaseClk (s : State) (clk : Clock) (id : Nat) : Clock :=
  clk.join (Clock.single (pdieOf id) (Clock.at s.dieN (pdieOf id)))

/-! ## What of a context's earlier accesses is still outstanding (R264, R269, R270) -/

/-- Classes of stores and AMOs (R262). -/
def Cls.isMem : Cls → Bool
  | .w => true
  | .a => true
  | .p => true
  | _ => false

def Home.isPeer : Home → Bool
  | .peer _ => true
  | _ => false

def Home.isCore : Home → Bool
  | .core _ => true
  | _ => false

/-- A write of a source, of the classes of `f` and the order numbers of `old`, is in the buffer or on its way to its home in this module
(R269). -/
def State.onWay (s : State) (src : Src) (f : Cls → Bool) (old : Nat → Bool) : Bool :=
  s.core.sbuf.any (fun e => e.src == src && f e.cls && !e.dest.isPeer && old e.id)
  || s.flight.any fun m => m.parts.any (fun p => p.src == src && old p.id) && f m.cls && !m.dest.isPeer

/-- Any order number. -/
def anyOrder (_ : Nat) : Bool := true

/-- A store or AMO of a source is in the buffer or on its way: not performed at OCT scope or wider (R269). -/
def State.unapplied (s : State) (src : Src) : Bool := s.onWay src Cls.isMem anyOrder

/-- An AMO without result of a source has not had its reply. -/
def State.amoOpen (s : State) (src : Src) (old : Nat → Bool) : Bool :=
  s.core.acks.any (fun a => a.src == src && a.amo && old a.id) || s.onWay src (· == .a) old

/-- A read of the context has not had its reply: an AMO, or an FLD not yet answered. -/
def State.readsOpen (s : State) (old : Nat → Bool) : Bool :=
  s.amoOpen s.mine old || s.cx.tickets.any fun t => t.answer.isNone && !t.multi && old t.at_

/-- A copy command of the context has not been taken; a Held one is taken only at NDONE (R269, R275). -/
def State.cmdsOpen (s : State) (old : Nat → Bool) : Bool :=
  s.core.cmds.any fun c => c.ctx == s.core.k && (c.st == .queued || c.st == .held) && !c.taken && old c.at_

/-- A write of the context stands in the staging buffer: it is not applied before NDONE (R157, R269; notes/assumptions/14.md). -/
def State.stagedOpen (s : State) (f : Cls → Bool) (old : Nat → Bool) : Bool :=
  s.core.staging.any fun x => x.ctx == s.core.k && f x.e.cls && old x.e.id

/-- An FST, FAMO or FMCAST of the context is neither applied nor acknowledged, nor its peer declared failed (R144, R269). -/
def State.peersOpen (s : State) : Bool :=
  s.core.sbuf.any (fun e => e.src == s.mine && e.cls == .p) || s.flight.any (fun m => m.from? s.mine && m.cls == .p)
  || s.torus.owedAcks.any (fun a => a.core == s.id && a.ctx == s.core.k)

/-- Every access of the context with an order number of `old` is performed at a scope (R269); the staged FST and FAMO to peers count at SYS. -/
def State.performedTo (s : State) (scope : Nat) (old : Nat → Bool) : Bool :=
  !s.readsOpen old && !s.cmdsOpen old && (scope == 1 || !s.onWay s.mine Cls.isMem old && !s.stagedOpen (fun c => c == .w || c == .a) old)
    && (scope != 5 || !s.peersOpen && !s.stagedOpen (· == .p) old)

/-- Every earlier access of the context is performed at a scope (R269). -/
def State.performed (s : State) (scope : Nat) : Bool := s.performedTo scope anyOrder

/-- Every earlier access that has left the issuing context, but for FST, FAMO and FMCAST, is performed at a scope: what an SC access waits for. Of
a Running node neither the staged stores nor the Held commands are among them: NDONE applies them in program order (R157, R271;
notes/assumptions/14.md). -/
def State.settled (s : State) (scope : Nat) : Bool :=
  !s.readsOpen anyOrder && !(s.core.cmds.any fun c => c.ctx == s.core.k && c.st == .queued && !c.taken)
    && (scope == 1 || !s.onWay s.mine (fun c => c == .w || c == .a) anyOrder)

/-- Every earlier access that FENCE FULL and REL cover is performed at a scope; FST, FAMO and FMCAST are FFENCE's (R137, R270). -/
def State.fenced (s : State) (scope : Nat) : Bool :=
  s.settled scope && !s.cmdsOpen anyOrder && (scope == 1 || !s.stagedOpen (fun c => c == .w || c == .a) anyOrder)

/-- A store or AMO of ORD SC by the context is not yet performed (R271). -/
def State.scOpen (s : State) : Bool :=
  s.core.sbuf.any (fun e => e.src == s.mine && e.ord == 6) || s.flight.any (fun m => m.parts.any fun p => p.src == s.mine && p.ord == 6)

/-- Reads of order ACQ, AR or SC are acquire points (R267). -/
def ordAcquires (ord : Nat) : Bool := ord == 3 || ord == 5 || ord == 6

/-- An acquiring AMO of a source, earlier than `n` where that is given, has not had its reply. -/
def State.acqAmoOpen (s : State) (src : Src) (n : Option Nat) : Bool :=
  let old (i : Nat) : Bool := match n with | some n => decide (i < n) | none => true
  (s.core.sbuf.any fun e => e.src == src && e.cls == .a && ordAcquires e.ord && old e.id)
  || (s.flight.any fun m => m.cls == .a && m.parts.any fun p => p.src == src && ordAcquires p.ord && old p.id)
  || s.core.acks.any fun a => a.src == src && a.amo && ordAcquires a.ord && old a.id

/-- Earlier acquire points of the context are complete (R267). -/
def State.acquired (s : State) : Bool := !s.acqAmoOpen s.mine none && (!s.cx.acqOpen || s.covered (pdieOf s.id) s.cx.clk)

/-- An access may issue: earlier acquire points are complete and earlier SC accesses performed (R267, R271); one of ORD SC
also needs what FENCE FULL at its scope needs. -/
def State.gate (s : State) (ord scope : Nat) : Bool := s.acquired && !s.scOpen && (ord != 6 || s.settled scope)

/-- The context once its acquire point is complete. -/
def State.passGate (s : State) : State := s.setCx { s.cx with acqOpen := false }

/-! ## An access enters the machine -/

/-- Issue of one memory access: its checks (R129, R132), then the gate, then `f` with the modifiers and the key. -/
def State.access (s : State) (i : Instr) (k : AccKind) (p : Option Mods) (ea : Word) (size : Nat) (f : State → Eff → Nat → Result) :
    Result :=
  match effOf k p s.cx.memdef with
  | none => s.illegal i
  | some e =>
    match s.check k e.space ea size with
    | .trap c v => s.trap c v
    | .walk va => .next (s.startWalk k va)
    | .badFrame => .fault .frameBeyondStack
    | .ok key => if s.gate e.ord e.scope then f ((s.touchTlb ea).passGate) e key else s.wait .reply

/-- The entries of the staging buffer in use with one more access of `size` bytes: one for each 8 bytes or fewer, or what a list of costs says
(R157, R192). -/
def stageNext (used : Option (Nat × List Nat)) (staged : Bool) (size : Nat) : Option (Nat × List Nat) :=
  used.map fun u => (if staged then u.1 + u.2.headD ((size + 7) / 8) else u.1, u.2.tail)

/-- A staged store finds no room when the entries taken with it exceed the 256 of the staging buffer (R351). -/
def State.stageFull (s : State) (key : Nat) (now : Option (Nat × List Nat)) : Bool :=
  match now with
  | some u => s.staged key && decide (256 < u.1)
  | none => false

/-- The checks of a list of accesses, in order; the first that does not pass decides (R192). With `used` entries of the staging buffer taken, a
store that must be staged and finds no room is STAGEFULL, its last check (R132, R351). -/
def State.checkFrom (s : State) (k : AccKind) (space : Nat) : Option (Nat × List Nat) → List (Word × Nat) → Except Chk (List (Word × Nat × Nat))
  | _, [] => .ok []
  | used, (ea, size) :: l =>
    match s.check k space ea size with
    | .ok key =>
      let now := stageNext used (s.staged key) size
      if s.stageFull key now then .error (.trap 0x14 ea)
      else
        match s.checkFrom k space now l with
        | .ok ks => .ok ((ea, size, key) :: ks)
        | .error c => .error c
    | c => .error c

/-- The checks of a list of accesses that are not staged. -/
def State.checkAll (s : State) (k : AccKind) (space : Nat) (l : List (Word × Nat)) : Except Chk (List (Word × Nat × Nat)) :=
  s.checkFrom k space none l

/-- The entries of the staging buffer in use, for the checks of a store whose accesses cost what a list says, or by their size. -/
def State.stagedNow (s : State) (k : AccKind) (costs : List Nat) : Option (Nat × List Nat) := if k = .store then some (s.core.stageUsed, costs) else none

/-- Issue of several accesses of one instruction; `costs` gives the staging entries of those that R192 counts by lanes. -/
def State.accessAll (s : State) (i : Instr) (k : AccKind) (p : Option Mods) (costs : List Nat) (l : List (Word × Nat))
    (f : State → Eff → List (Word × Nat × Nat) → Result) : Result :=
  match effOf k p s.cx.memdef with
  | none => s.illegal i
  | some e =>
    match s.checkFrom k e.space (s.stagedNow k costs) l with
    | .error (.trap c v) => s.trap c v
    | .error (.walk va) => .next (s.startWalk k va)
    | .error .badFrame => .fault .frameBeyondStack
    | .error (.ok _) => s.wait .reply
    | .ok ks => if s.gate e.ord e.scope then f (((l.map (·.1)).foldl State.touchTlb s).passGate) e ks else s.wait .reply

/-- A write enters the store buffer of the core (R264), or the staging buffer (R351). -/
def State.enter (s : State) (src : Src) (key : Nat) (cls : Cls) (e : Eff) (va : Word) (body : Body) (chk : Bool) : State :=
  let en : Entry := ⟨s.seq, src, homeOf key, cls, !s.cx.super, e.ord, e.scope, va, body, chk⟩
  { s with core := { s.core with sbuf := s.core.sbuf ++ [en] }, seq := s.seq + 1 }

/-- A staged operation of the Running node (R157, R351). -/
def State.stage (s : State) (key : Nat) (cls : Cls) (e : Eff) (va : Word) (body : Body) (cost : Nat) : State :=
  let en : Entry := ⟨s.seq, .node s.id, homeOf key, cls, !s.cx.super, e.ord, e.scope, va, body, false⟩
  { s with core := { s.core with staging := s.core.staging ++ [⟨s.core.k, en, cost⟩] }, seq := s.seq + 1 }

/-- A store body of the context, buffered, or staged at `cost` entries. -/
def State.putCost (s : State) (e : Eff) (ea : Word) (key : Nat) (b : Body) (cost : Nat) : State :=
  if s.staged key then s.stage key .w e ea b cost else s.enter s.mine key .w e ea b e.chk

/-- A store of `size` bytes of the context, staged or buffered. -/
def State.putStore (s : State) (e : Eff) (ea : Word) (size key val : Nat) : State := s.putCost e ea key (.store key size val) ((size + 7) / 8)

/-- The instruction waits for replies: it has issued (R38). -/
def State.awaiting (s : State) (i : Instr) (e : Eff) (els : List El) (fin : Finish) : State :=
  let s1 := s.waitOn .reply
  s1.setCx { s1.cx with await := some ⟨els, fin, e.ord, e.cache, e.chk, zext i.first, i.size, 0⟩, walk := none }

/-- A store under CHK waits for its own acknowledgement (R130); any other has completed. -/
def State.afterStore (s : State) (i : Instr) (e : Eff) (els : List El) (fin : Finish) (done : State → State) : State :=
  if e.chk && !els.isEmpty then s.awaiting i e els fin else done s

/-- The value of a poisoned element is 0, and MEMERR is posted, or trapped precisely under CHK (R347, R130). A word of the core's own SRAM
is served once no store or AMO to it is on its way (R265). -/
def State.local? (s : State) (key size : Nat) : Option (Nat × Bool) :=
  if homeOf key = .core s.id ∧ (s.forwards key size || s.readLocal key size) = true then
    some (if s.poisoned key size then 0 else s.peekN key size, s.poisoned key size)
  else none

/-- The joins of an access served by the core itself: words wholly forwarded from its own stores join nothing (R265, R267). -/
def State.localJoin (s : State) (ord key size : Nat) : State :=
  let ws := (wordsOf key size).filter fun w => !(s.core.ownsAll (max key (8 * w)) (min (key + size) (8 * w + 8) - max key (8 * w)))
  let p := ws.foldl (fun p w => (p.1 ++ (s.stampOf w).1, p.2 ++ (s.stampOf w).2)) (([] : Stamp), ([] : Stamp))
  (s.setCx (s.cx.joinRead s.id s.cy ord p.1 p.2 false)).sawOwn key size

end Sys2Proof.Machine
end

