-- ==== Sys2Proof/Machine/Registers.lean ====
section
/-!
DEFINITION. The control registers as numbers: what a read gives (spec/01_machine_state.md R17–R25), their masks, the values
that are acceptable (R20, R22, R23, R26, R145) and what a write does (R115, R116).
-/
namespace Sys2Proof.Machine

/-! ## Domains, phases and the tray registers -/

/-- The domain a context is in (R52): contexts of one tray that hold the same DOMAIN value of level 2 to 7. -/
def State.domainOf (s : State) (id : Nat) (c : Context) : Option Domain :=
  match (s.coreAt id).tray with
  | some t => if bits c.domain 2 0 ≥ 2 then s.domains.find? (fun d => d.vif == t.1 && d.tray == t.2 && d.name == c.domain) else none
  | none => none

/-- SLOT: the cycles since slot 0 in the transfer phase, else the value kept (R22). -/
def Domain.slotNow (d : Domain) (cy : Nat) : Nat := if d.phase = 2 then cy - d.start else d.slot

/-- PHASE (R22). -/
def State.phaseWord (s : State) : Word :=
  match s.domainOf s.id s.cx with
  | some d => word (d.phase + d.slotNow s.cy % 2 ^ 32 * 2 ^ 16 + d.sstep % 2 ^ 16 * 2 ^ 48)
  | none => 0

/-- Whether the context in view is in the transfer phase (R53). -/
def State.inTransfer (s : State) : Bool := match s.domainOf s.id s.cx with | some d => d.phase == 2 | none => false

/-- WHERE (R24). -/
def State.whereWord (s : State) : Word :=
  match s.core.tray with
  | none => 0
  | some _ =>
    let here := (s.myVd, rowOf s.id, colOf s.id)
    let n := ((s.logical s.myVif s.myTray).findIdx? (fun p => p == here)).getD 0
    word (s.myVd + rowOf s.id * 2 ^ 4 + colOf s.id * 2 ^ 11 + n * 2 ^ 18)

/-- TRAYSHAPE for HMAPSEL.VD (R24). -/
def State.trayShape (s : State) : Word :=
  let vd := bits s.cx.hmapsel 3 0
  if vd ≥ s.vdCount then 0
  else
    match s.myTray.rect vd with
    | none => 0
    | some r =>
      let l := s.logical s.myVif s.myTray
      let n := (l.filter fun p => p.1 == vd).length
      let first := (l.filter fun p => decide (p.1 < vd)).length
      word (r.top + r.left * 2 ^ 8 + r.height * 2 ^ 16 + r.width * 2 ^ 24 + n * 2 ^ 32 + first * 2 ^ 47)

/-- HMAPVAL for HMAPSEL (R24). -/
def State.hmapVal (s : State) : Word :=
  let vd := bits s.cx.hmapsel 3 0
  let row := bits s.cx.hmapsel 10 4
  let cw := bits s.cx.hmapsel 11 11
  match s.myTray.rect vd with
  | none => 0
  | some r =>
    if vd ≥ s.vdCount ∨ row ≥ r.height then 0
    else
      (List.range 64).foldl (fun w c =>
        let col := cw * 64 + c
        if decide (col < r.width) && s.enabled s.myVif s.myTray vd (r.top + row) (r.left + col) then setBit w c true else w) 0

/-- LPT for HMAPSEL.LIDX (R24). -/
def State.lptWord (s : State) : Word :=
  match (s.logical s.myVif s.myTray)[bits s.cx.hmapsel 48 32]? with
  | some p => word (p.1 + p.2.1 * 2 ^ 4 + p.2.2 * 2 ^ 11 + 2 ^ 63)
  | none => 0

/-- STATUS with HELPERS: the helpers neither Free nor Exited (R18, R36). -/
def State.statusWord (s : State) : Word :=
  setBits s.cx.status 11 8 (((s.core.ctxs s.cx).tail.filter fun c => c.st != .free && c.st != .exited).length)

/-- VGRANT (R17). -/
def Core.vgrant (c : Core) : Word := word (c.lanes + c.lastReq * 2 ^ 8 + b2n c.claim.isSome * 2 ^ 16)

/-- ORIENT: orientation, physical die, quadrant (R17, R331). -/
def orientWord (pdie : Nat) : Word := word (pdie / 4 + pdie * 2 ^ 4 + pdie / 4 * 2 ^ 8)

/-! ## Reading (R115) -/

/-- CReg(sel); none when the selector is not listed (R17). -/
def State.creg (s : State) (sel : Nat) : Option Word :=
  match sel with
  | 0x00 => some s.statusWord
  | 0x01 => some (word (s.core.k + s.vifOf s.id * 16))
  | 0x02 => some s.cx.epc
  | 0x03 => some s.cx.cause
  | 0x04 => some s.cx.tval
  | 0x05 => some s.cx.trapvec
  | 0x06 => some s.cx.ovlhand
  | 0x08 => some s.core.xbound
  | 0x09 => some s.cx.memdef
  | 0x0C => some s.cx.arith
  | 0x0D => some s.cx.fflags
  | 0x0E => some s.cx.amax
  | 0x10 => some s.core.vgrant
  | 0x11 => some s.core.vsetl
  | 0x14 => some s.cx.domain
  | 0x15 => some s.cx.btimeout
  | 0x16 => some s.core.skew
  | 0x17 => some s.phaseWord
  | 0x18 => some s.cx.slotmask
  | 0x1C => some s.cx.breg[0]
  | 0x1D => some s.cx.breg[1]
  | 0x1E => some s.cx.breg[2]
  | 0x1F => some s.cx.breg[3]
  | 0x20 => some (word s.time)
  | 0x21 => some (word (s.cycle (pdieOf s.id)))
  | 0x24 => some s.whereWord
  | 0x25 => some (word s.vdCount)
  | 0x26 => some s.trayShape
  | 0x27 => some s.cx.hmapsel
  | 0x28 => some s.hmapVal
  | 0x29 => some s.lptWord
  | 0x2C => some s.cx.ssp
  | 0x2D => some s.cx.sslim
  | 0x30 => some s.cx.pattern
  | 0x34 => some s.cx.errpend
  | 0xC0 => some s.cx.asid
  | 0xC1 => some s.cx.gen
  | 0xC2 => some (orientWord (pdieOf s.id))
  | 0xC3 => some s.core.sbound
  | 0xC4 => some s.cx.trapdeleg
  | _ => none

/-! ## Masks (R115) -/

/-- A mask of bits hi:lo. -/
def mask (hi lo : Nat) : Word := BitVec.ofNat 64 ((2 ^ (hi + 1 - lo) - 1) <<< lo)

/-- Registers marked RO (R17). -/
def crReadOnly (sel : Nat) : Bool := [0x01, 0x10, 0x17, 0x20, 0x21, 0x24, 0x25, 0x26, 0x28, 0x29, 0xC2].contains sel

/-- RwMask with the S fields: the bits a write sets. -/
def crRw (sel : Nat) : Word :=
  match sel with
  | 0x00 => mask 3 2
  | 0x02 => mask 14 2
  | 0x03 => mask 11 0
  | 0x04 => mask 63 0
  | 0x05 => mask 14 2
  | 0x06 => mask 14 2
  | 0x08 => mask 15 0
  | 0x09 => mask 10 0
  | 0x0C => mask 11 0
  | 0x0D => mask 5 0
  | 0x0E => mask 31 0
  | 0x11 => mask 7 0
  | 0x14 => mask 2 0 ||| mask 35 4
  | 0x15 => mask 31 0
  | 0x16 => mask 2 0
  | 0x18 => mask 63 0
  | 0x1C => mask 0 0 ||| mask 35 8
  | 0x1D => mask 0 0 ||| mask 35 8
  | 0x1E => mask 0 0 ||| mask 35 8
  | 0x1F => mask 0 0 ||| mask 35 8
  | 0x27 => mask 11 0 ||| mask 48 32
  | 0x2C => mask 15 0
  | 0x2D => mask 31 0
  | 0x30 => mask 59 0
  | 0xC0 => mask 11 0
  | 0xC1 => mask 19 0
  | 0xC3 => mask 14 5
  | 0xC4 => mask 8 1 ||| mask 11 10 ||| mask 25 14
  | _ => 0

/-- RoMask: fields marked RO of a register that has writable fields; TRAPDELEG's bits fixed at 0 (R32). -/
def crRo (sel : Nat) : Word :=
  match sel with
  | 0x00 => mask 1 0 ||| mask 5 4 ||| mask 11 8
  | 0x1C => mask 1 1
  | 0x1D => mask 1 1
  | 0x1E => mask 1 1
  | 0x1F => mask 1 1
  | 0x34 => mask 23 8
  | 0xC4 => mask 9 9 ||| mask 13 12
  | _ => 0

/-- W0cMask: ERRPEND.VALID and MORE (R25). -/
def crW0c (sel : Nat) : Word := if sel = 0x34 then mask 1 0 else 0

/-- Reserved(sel): every bit that is in no field (R17, R26). -/
def crReserved (sel : Nat) : Word := ~~~(crRw sel ||| crRo sel ||| crW0c sel)

/-- SMask: STATUS.SSE (R115). -/
def crS (sel : Nat) : Word := if sel = 0x00 then mask 3 3 else 0

/-! ## Acceptable values -/

/-- The rectangle of DOMAIN, BREGi and PHLX operands: bits [35:8] (R22). -/
def rectOf (w : Word) : Rect := ⟨bits w 14 8, bits w 21 15, bits w 28 22, bits w 35 29⟩

/-- A rectangle lies inside another. -/
def Rect.inside (r o : Rect) : Bool :=
  decide (o.top ≤ r.top) && decide (r.top + r.height ≤ o.top + o.height) && decide (o.left ≤ r.left)
    && decide (r.left + r.width ≤ o.left + o.width)

/-- R22: a rectangle that contains the writing core and lies inside its tray. -/
def State.rectOk (s : State) (vd : Nat) (r : Rect) : Bool :=
  vd == s.myVd && decide (1 ≤ r.height) && decide (r.height ≤ 80) && decide (1 ≤ r.width) && decide (r.width ≤ 80)
    && r.has (rowOf s.id) (colOf s.id)
    && (match s.myTray.rect vd with | some o => r.inside o | none => false)

/-- A value BREGk may take (R22, R145): no arrival outstanding; with EN the rectangle is valid and no other context of the
core has BREGk enabled with it. -/
def State.bregOk (s : State) (k : Fin 4) (v : Word) : Bool :=
  !(s.cx.bars[k.val]'(by omega)).pend
  && (!bit v 0 ||
    (s.rectOk s.myVd (rectOf v)
      && (List.range 11).all fun j =>
        j == s.core.k || !(bit (s.core.ctx s.cx j).breg[k] 0 && rectOf (s.core.ctx s.cx j).breg[k] == rectOf v)))

/-- Acceptable(sel, new) (R115). -/
def State.acceptable (s : State) (sel : Nat) (v : Word) : Bool :=
  match sel with
  | 0x09 =>
    !(bits v 2 0 == 0 || bits v 2 0 == 7) && !(bits v 5 3 == 0 || bits v 5 3 ≥ 6) && bits v 9 8 != 0
  | 0x14 => if bits v 2 0 = 0 then bits v 35 4 == 0 else s.rectOk (bits v 7 4) (rectOf v)
  | 0x1C => s.bregOk 0 v
  | 0x1D => s.bregOk 1 v
  | 0x1E => s.bregOk 2 v
  | 0x1F => s.bregOk 3 v
  | 0x08 =>
    decide (s.core.sbound.toNat ≤ v.toNat) && decide (v.toNat ≤ 0x8000) && bits v 4 0 == 0 && s.core.k == 0
      && (s.core.ctxs s.cx).tail.all fun c => c.st == .free || c.st == .exited
  | 0x16 => decide (1 ≤ v.toNat) && decide (v.toNat ≤ 4) && !(s.core.ctx s.cx 0).inPhlx
  | _ => true

/-! ## Writing -/

/-- BREGk := v: SENSE as held, the rest of the member's barrier state cleared (R145). -/
def Context.putBreg (c : Context) (k : Fin 4) (v : Word) : Context :=
  { c with breg := c.breg.set k v, bars := c.bars.set k.val Bar.clear (by omega) }

/-- Barrier signals held for a rectangle are combined from the moment a context sets BREGk to it (R328). -/
def State.takeSignals (s : State) (k : Nat) (v : Word) : State :=
  if bit v 0 then
    s.setCore { s.core with signals := s.core.signals.map fun p => if p.k = k ∧ rectOf p.rect = rectOf v then { p with met := true } else p } else s

/-- VL for a value written to VSETL: at most the granted count (R26). -/
def Core.clampVl (c : Core) (v : Word) : Word := if v.toNat > c.lanes then word c.lanes else v

/-- CReg(sel) := Adjust(sel, v) (R115): `v` has been formed with the masks. -/
def State.putCreg (s : State) (sel : Nat) (v : Word) : State :=
  match sel with
  | 0x00 => s.setCx { s.cx with status := v &&& ~~~(mask 11 8) }
  | 0x02 => s.setCx { s.cx with epc := v }
  | 0x03 => s.setCx { s.cx with cause := v }
  | 0x04 => s.setCx { s.cx with tval := v }
  | 0x05 => s.setCx { s.cx with trapvec := v }
  | 0x06 => s.setCx { s.cx with ovlhand := v }
  | 0x08 => s.setCore { s.core with xbound := v }
  | 0x09 => s.setCx { s.cx with memdef := v }
  | 0x0C => s.setCx { s.cx with arith := v }
  | 0x0D => s.setCx (s.cx.writeBefore s.cy fun c => { c with fflags := v })
  | 0x0E => s.setCx { s.cx with amax := v }
  | 0x11 => s.setCore { s.core with vsetl := s.core.clampVl v }
  | 0x14 => s.setCx { s.cx with domain := v }
  | 0x15 => s.setCx { s.cx with btimeout := v }
  | 0x16 => s.setCore { s.core with skew := v }
  | 0x18 => s.setCx { s.cx with slotmask := v }
  | 0x1C => (s.setCx (s.cx.putBreg 0 v)).takeSignals 0 v
  | 0x1D => (s.setCx (s.cx.putBreg 1 v)).takeSignals 1 v
  | 0x1E => (s.setCx (s.cx.putBreg 2 v)).takeSignals 2 v
  | 0x1F => (s.setCx (s.cx.putBreg 3 v)).takeSignals 3 v
  | 0x27 => s.setCx { s.cx with hmapsel := v }
  | 0x2C => s.setCx { s.cx with ssp := v }
  | 0x2D => s.setCx { s.cx with sslim := v }
  | 0x30 => s.setCx { s.cx with pattern := v }
  | 0x34 => s.setCx (s.cx.writeBefore s.cy fun c =>
      if bit v 0 then { c with errpend := c.errpend &&& (v ||| ~~~3#64) } else { c with errpend := 0, errTval := 0, errSource := 0 })
  | 0xC0 => s.setCx { s.cx with asid := v }
  | 0xC1 => s.setCx { s.cx with gen := v }
  | 0xC3 => s.setCore { s.core with sbound := v }
  | 0xC4 => s.setCx { s.cx with trapdeleg := v }
  | _ => s

/-- The value a write forms from the old one (R115). -/
def crForm (sel : Nat) (old new : Word) : Word :=
  (old &&& crRo sel) ||| (new &&& crRw sel) ||| (old &&& new &&& crW0c sel)

/-- A write to VSETL by a context that does not hold the grant while another does raises NOLANES (R26). -/
def State.vsetlBlocked (s : State) (sel : Nat) : Bool :=
  sel == 0x11 && (match s.core.holder with | some h => h != s.core.k | none => false)

/-- The trap a write of `new` raises, if any, in the order of R115 after the selector has been found listed. -/
def State.crTrap (s : State) (sel : Nat) (old new : Word) : Option (Nat × Word) :=
  if crReadOnly sel then some (0x01, word sel)
  else if new &&& crReserved sel ≠ 0 then some (0x01, word sel)
  else if !s.cx.super && (new &&& crS sel) != (old &&& crS sel) then some (0x0C, word sel)
  else if s.vsetlBlocked sel then some (0x16, 0)
  else if !s.acceptable sel new then some (0x01, word sel)
  else none

/-- PRIV of a privileged minor (R96). A follower of a phalanx makes no decode check of its own (R100). -/
def State.privBad (s : State) : Bool := !s.cx.super && (!s.cx.inPhlx || s.cx.leader)

/-- PRIV of R96 for a control-register access: a selector of 0xC0 or above, or a write of SSP or SSLIM with SSE set. A follower of a phalanx
makes no decode check of its own (R100). -/
def State.crPriv (s : State) (sel : Nat) (write : Bool) : Bool :=
  s.privBad && (decide (sel ≥ 0xC0) || (write && s.cx.sse && (sel == 0x2C || sel == 0x2D)))

/-- CReg(sel) as it stands before a write of the present cycle: an error posted and flags merged in that cycle come after the write
(R25, R170). -/
def State.cregBefore (s : State) (sel : Nat) : Option Word :=
  if s.cx.lateCy = s.cy then
    match sel with
    | 0x0D => some (if s.cx.lateFl = 0 then s.cx.fflags else s.cx.lateFlOld)
    | 0x34 => some (if s.cx.lateErr.isEmpty then s.cx.errpend else s.cx.lateOld.1)
    | _ => s.creg sel
  else s.creg sel

/-- CWR, CSET and CCLR (R115): `f old` is the value they form. -/
def State.crWrite (s : State) (i : Instr) (d : GReg) (sel : Nat) (f : Word → Word) : Result :=
  if s.crPriv sel true then s.trap 0x0C (word sel)
  else
    match s.cregBefore sel with
    | none => s.trap 0x01 (word sel)
    | some old =>
      match s.crTrap sel old (f old) with
      | some t => s.trap t.1 t.2
      | none => .next (((s.putCreg sel (crForm sel old (f old))).setG d old).retire i)

end Sys2Proof.Machine
end

