-- ==== Sys2Proof/Machine/Lanes.lean ====
section
/-!
DEFINITION. The vector lane pool (spec/08_vector.md R183–R188): grants, recalls, reservations, VCLAIM, VYIELD, VSETL, and the
steps RECALL_TIMEOUT and RESERVATION_LAPSE.
-/
namespace Sys2Proof.Machine

/-- The share S of a core: 8·floor(16 / E) (R183). -/
def State.laneShare (s : State) (id : Nat) : Nat :=
  match (s.octetCores (octetOf id)).length with
  | 0 => 0
  | e => 8 * (16 / e)

/-- Lanes of the octet that are neither granted nor reserved (R186). -/
def State.freeLanes (s : State) (id : Nat) : Nat :=
  128 - ((s.octetCores (octetOf id)).map fun c => (s.coreAt c).lanes + (s.coreAt c).reserved).sum

/-- The first `n` lanes of every register kept, added lanes at 0 (R184). -/
def Core.resize (c : Core) (n : Nat) : Core :=
  { c with
    lanes := n
    v := mapVec (fun l => l.take n ++ List.replicate (n - l.length) 0) c.v
    w := mapVec (fun l => l.take n ++ List.replicate (n - l.length) 0) c.w }

/-- The pending requests of an octet in the order they are served: protected ones (L' ≤ S) first, each kind as refused (R186). -/
def State.claimOrder (s : State) (id : Nat) : List Nat :=
  let l := (s.octetCores (octetOf id)).filter fun c => (s.coreAt c).claim.isSome
  let sorted := sortBy (fun a b => decide ((s.coreAt a).claimSeq ≤ (s.coreAt b).claimSeq)) l
  let prot := fun c => match (s.coreAt c).claim with | some p => decide (p.2 ≤ s.laneShare id) | none => false
  sorted.filter prot ++ sorted.filter fun c => !prot c

/-- One request served from `n` freed lanes: at most L' − G lanes are reserved for it; what is left (R186). -/
def State.reserveFor (p : State × Nat) (c : Nat) : State × Nat :=
  let k := p.1.coreAt c
  match k.claim with
  | none => p
  | some q =>
    let goal := q.2 - k.lanes
    let r := min (goal - k.reserved) p.2
    (p.1.modCore c fun k =>
      { k with reserved := k.reserved + r, reservedAt := if k.reserved + r = goal ∧ k.reservedAt = none then some p.1.cy else k.reservedAt },
     p.2 - r)

/-- Freed lanes reserved for the pending requests, in order; those no request takes are unreserved and free (R186). Lanes that were free
before stay so (notes/assumptions/71.md). Lanes whose reservation a VYIELD cancels, and those a VCLAIM leaves over, count as freed in that
cycle, as R186 says of a lapse (notes/assumptions/73.md). -/
def State.reserve (s : State) (id freed : Nat) : State := ((s.claimOrder id).foldl State.reserveFor (s, freed)).1

/-- The grant of a core cut to `n` lanes, VL with it (R186). -/
def Core.cut (c : Core) (n : Nat) : Core :=
  let d := c.resize n
  { d with vsetl := if d.vsetl.toNat > n then word n else d.vsetl }

/-- Whether a result goes to a v or w register. -/
def Dest.isVector : Dest → Bool
  | .v _ => true
  | .w _ => true
  | _ => false

/-- Results still to be written to lanes, without those of lanes that are removed (R184). -/
def Context.cutPend (c : Context) (n : Nat) : Context :=
  { c with pend := c.pend.map fun p => if p.dest.isVector then { p with vals := p.vals.take n } else p }

/-- A core with its lanes changed by `f`, after which it has `n`: results in progress lose the lanes that are removed. -/
def State.resizeLanes (s : State) (id n : Nat) (f : Core → Core) : State :=
  (match (s.coreAt id).holder with | some k => s.modCx id k fun c => c.cutPend n | none => s).modCore id f

/-- A posted recall applied to a core: G := S, the highest lanes removed (R186). -/
def State.applyRecall (s : State) (id : Nat) : State :=
  let c := s.coreAt id
  if c.recallAt.isSome then
    if c.lanes > s.laneShare id then
      (s.resizeLanes id (s.laneShare id) fun c => { (c.cut (s.laneShare id)) with recallAt := none }).reserve id (c.lanes - s.laneShare id)
    else s.modCore id fun c => { c with recallAt := none }
  else s

/-- A vector instruction of the holder is in progress (R186). -/
def State.vectorBusy (s : State) (id : Nat) : Bool :=
  match (s.coreAt id).holder with
  | some k =>
    ((s.cxAt id k).pend.any fun p => p.dest.isVector) || (s.coreAt id).vnred.isSome
      || match (s.cxAt id k).await with
        | some a => (match a.fin with | .vload _ _ _ => true | .mxd _ _ _ _ _ _ _ => true | .ackFl _ _ => true | _ => false)
        | none => false
  | none => false

/-- A re-negotiation point: a posted recall is applied before the instruction takes effect, once the vector instructions before it have
completed (R186). -/
def State.renegotiate (s : State) (f : State → Result) : Result :=
  if s.core.recallAt.isSome && s.vectorBusy s.id then s.wait .operand else f (s.applyRecall s.id)

/-- A recall posted to every core of the octet whose grant exceeds the share (R186). -/
def State.postRecall (s : State) (id : Nat) : State :=
  (s.octetCores (octetOf id)).foldl (fun t c =>
    if (t.coreAt c).lanes > s.laneShare id ∧ (t.coreAt c).recallAt = none then t.modCore c fun k => { k with recallAt := some s.cy } else t) s

/-- The whole grant of a core given back, with its pending request and reservation (R185, R37, R254). -/
def State.dropLanes (s : State) (id : Nat) : State :=
  let c := s.coreAt id
  (s.resizeLanes id 0 fun c => { (c.cut 0) with holder := none, claim := none, reserved := 0, reservedAt := none, recallAt := none }).reserve id
    (c.lanes + c.reserved)

/-- Whether the issuing context may not use the lanes: another context holds them, or (for `any`) none does (R188). -/
def State.noLanes (s : State) : Bool := s.core.holder != some s.core.k || s.core.lanes == 0

/-- Another context of the core holds the grant (R16). -/
def State.heldByOther (s : State) : Bool := match s.core.holder with | some h => h != s.core.k | none => false

/-- The lanes VCLAIM asks for and the least it accepts, when g(A) is well formed (R184). -/
def claimArgs (a : Word) : Option (Nat × Nat) :=
  let w := bits a 7 0
  let l := bits a 15 8
  if w = 0 ∨ w > 128 ∨ w % 8 ≠ 0 ∨ l % 8 ≠ 0 ∨ l > w ∨ bits a 63 16 ≠ 0 then none else some (w, if l = 0 then w else l)

/-- A pending request is protected: L' ≤ S (R186). -/
def State.protectedAt (s : State) (id : Nat) : Bool := match (s.coreAt id).claim with | some p => decide (p.2 ≤ s.laneShare id) | none => false

/-- Cycle of the first refusal among the protected requests of the other cores of the octet that still lack lanes. -/
def State.claimSince (s : State) (id : Nat) : Option Nat :=
  let l := (s.octetCores (octetOf id)).filter fun c =>
    c != id && s.protectedAt c && match (s.coreAt c).claim with | some p => decide ((s.coreAt c).lanes + (s.coreAt c).reserved < p.2) | none => false
  (l.map fun c => (s.coreAt c).claimAt).min?

/-- The grant of VCLAIM in a state whose recall has been applied (R184): n lanes. A grant that comes to exceed S while a protected request of
the octet stands unserved is recalled with the cores that R184 recalled for it, so that R187 holds (notes/assumptions/71.md). -/
def State.grantLanes (s : State) (n : Nat) : State :=
  let c := s.core
  let newRecall := if n > s.laneShare s.id then s.claimSince s.id else none
  (s.resizeLanes s.id n fun c =>
    { (c.resize n) with holder := some c.k, vsetl := word n, claim := none, reserved := 0, reservedAt := none,
                        recallAt := newRecall.or c.recallAt }).reserve s.id (c.lanes + c.reserved - n)

/-- The same protected request has been refused 4,160 cycles ago or earlier (R187). -/
def State.claimDue (s : State) (w l : Nat) : Bool :=
  s.core.claim == some (w, l) && s.protectedAt s.id && decide (s.core.claimAt + 4160 ≤ s.cy)

/-- A core of the octet has a posted recall that is not yet applied. -/
def State.recallOpen (s : State) (id : Nat) : Bool := (s.octetCores (octetOf id)).any fun c => (s.coreAt c).recallAt.isSome

/-- At most `n` lanes reserved for one request are given up: the lanes still to be given up. -/
def State.unreserve (p : State × Nat) (c : Nat) : State × Nat :=
  let r := min (p.1.coreAt c).reserved p.2
  if r = 0 then p else (p.1.modCore c fun k => { k with reserved := k.reserved - r, reservedAt := none }, p.2 - r)

/-- `n` lanes taken from what is reserved for requests that are not protected, the last in their order first (R187; notes/assumptions/71.md). -/
def State.yieldReserved (s : State) (n : Nat) : State :=
  (((s.claimOrder s.id).reverse.filter fun c => c != s.id && !s.protectedAt c).foldl State.unreserve (s, n)).1

/-- The lanes a VCLAIM of the core in view may count on (R184). -/
def State.lanesAvailable (s : State) : Nat := s.freeLanes s.id + s.core.reserved + s.core.lanes

/-- The lanes a VCLAIM of W lanes may be granted (R184). -/
def State.claimable (s : State) (w : Nat) : Nat := 8 * (min w s.lanesAvailable / 8)

/-- The refusal of VCLAIM: the request is pending, and a recall is posted for a protected one (R184). -/
def State.refuseClaim (s : State) (w l : Nat) : State :=
  let since := if s.core.claim = some (w, l) then s.core.claimAt else s.cy
  let t := { s with core := { s.core with claim := some (w, l), claimSeq := s.seq, claimAt := since, reservedAt := none, lastReq := w }, seq := s.seq + 1 }
  if l ≤ t.laneShare t.id then t.postRecall t.id else t

/-- A VCLAIM that is granted n lanes. -/
def State.claimGranted (s : State) (i : Instr) (d : GReg) (w n : Nat) : Result :=
  ((s.setCore { s.core with lastReq := w }).grantLanes n).doneG i d (word n)

/-- VCLAIM (R184). Its checks come before a posted recall is applied only where the context is not the holder (R186). A refused VCLAIM.T traps
and leaves no request, no lanes requested and no recall behind (R9, R33; notes/assumptions/72.md). A protected request that R187 lets succeed takes
lanes reserved for requests that are not protected, and waits for the recalls still to be applied (notes/assumptions/71.md). -/
def execVclaim (t : Bool) (d a : GReg) (s : State) : Result :=
  let i := Instr.vclaim t d a
  match claimArgs (s.g a) with
  | none => if s.heldByOther then s.illegal i else s.renegotiate fun s1 => s1.illegal i
  | some (w, l) =>
    if s.heldByOther then s.trap 0x16 (word w)
    else
      s.renegotiate fun s1 =>
        if s1.claimable w ≥ l then s1.claimGranted i d w (s1.claimable w)
        else
          let s2 := if s1.claimDue w l then s1.yieldReserved (l - s1.lanesAvailable) else s1
          if s2.claimable w ≥ l then s2.claimGranted i d w (s2.claimable w)
          else if s1.claimDue w l && s1.recallOpen s1.id then s1.wait .operand
          else if t then s1.trap 0x16 (word w)
          else (s1.refuseClaim w l).doneG i d 0

/-- VYIELD: the lowest g(D) lanes are kept (R185). Lanes whose reservation it cancels are served to the other pending requests at once, as those a VCLAIM
leaves over: the model's choice (notes/assumptions/73.md). On a core with no grant a value of 0 only clears the request (R188). -/
def execVyield (d : GReg) (s : State) : Result :=
  let i := Instr.vyield d
  if s.heldByOther then s.trap 0x16 0
  else
    s.renegotiate fun s1 =>
      let n := bits (s1.g d) 7 0
      if n % 8 ≠ 0 ∨ n > s1.core.lanes then s1.illegal i
      else
        let c := s1.core
        let s2 := s1.resizeLanes s1.id n fun c =>
          { (c.cut n) with claim := none, reserved := 0, reservedAt := none, holder := if n = 0 then none else c.holder }
        (s2.reserve s2.id (c.lanes + c.reserved - n)).done i

/-- VSETL: VL := min(g(A), G), written to g(D) (R185, R188). -/
def execVsetl (d a : GReg) (s : State) : Result :=
  let i := Instr.vsetl d a
  if s.heldByOther then s.trap 0x16 0
  else
    s.renegotiate fun s1 =>
      let vl := min (s1.g a).toNat s1.core.lanes
      (s1.setCore { s1.core with vsetl := word vl }).doneG i d (word vl)

/-- RECALL_TIMEOUT: a recall posted 4,096 cycles ago is applied, after the vector instruction in progress (R186). -/
def execRecallTimeout (core : Nat) (s : State) : Result :=
  match (s.coreAt core).recallAt with
  | some t => .next (if s.cy - t ≥ 4096 ∧ !s.vectorBusy core then s.applyRecall core else s)
  | none => .next s

/-- RESERVATION_LAPSE: 8,192 cycles after it first reached L' − G a reservation lapses; its lanes go to the other requests
(R186). The request it was for ends with it: the model's choice (notes/assumptions/73.md). -/
def execReservationLapse (core : Nat) (s : State) : Result :=
  match (s.coreAt core).reservedAt with
  | some t =>
    .next (if s.cy - t ≥ 8192 then (s.modCore core fun c => { c with claim := none, reserved := 0, reservedAt := none }).reserve core (s.coreAt core).reserved else s)
  | none => .next s

end Sys2Proof.Machine
end

