-- ==== Sys2Proof/Machine/Fetch.lean ====
section
/-!
DEFINITION. What comes to issue: fetch with the checks of spec/04_formats.md R99, and the registers an instruction reads or writes
(spec/05_scalar.md R101, spec/08_vector.md R190, spec/20_reliability.md R346).
-/
namespace Sys2Proof.Machine

/-! ## Fetch and decode (R84–R86, R96, R99) -/

/-- The parcel at a LOC offset of the core in view. -/
def State.parcel (s : State) (off : Nat) : Parcel := BitVec.ofNat 32 (Memory.getN s.mem (sramKey s.id (off % 2 ^ 15)) 4)

/-- The parcel is poisoned (R86). -/
def State.parcelBad (s : State) (off : Nat) : Bool := s.poison.contains (sramKey s.id (off % 2 ^ 15) / 8)

/-- What comes to issue: an instruction, or the trap of its fetch or decoding. -/
inductive Fetched where
  | ok (i : Instr)
  | trap (code : Nat) (tval : Word)
  deriving DecidableEq, Repr, Inhabited

/-- PRIV by the opcode at user level (R96): TVAL is the first parcel, or the selector of a control-register access. -/
def State.privTval (s : State) (p0 p1 : Parcel) : Option Word :=
  if s.cx.super || parcelL p0 == 0 then none
  else
    let maj := bits p0 7 2
    let min := bits p0 15 8
    let sel := bits p1 15 8
    if maj = 0x3B ∨ (maj = 0x3C ∧ min = 0) then some (zext p0)
    else if maj = 0x01 ∧ s.crPriv sel (min != 0) then some (word sel)
    else none

/-- R99 from the parcel after any prefix on: `pc` the PC, `ipc` this parcel's offset, `pre` the prefix parcel. -/
def State.fetchAfter (s : State) (pc ipc : Nat) (pre : Option Parcel) : Fetched :=
  if s.parcelBad ipc then .trap 0x19 (word pc)
  else
    let i0 := s.parcel ipc
    let n := parcelCount i0
    let ps := (List.range n).map fun k => s.parcel (ipc + 4 * k)
    if parcelL i0 == 3 then .trap 0x01 (zext (pre.getD i0))
    else if ipc % 32 + 4 * n > 32 then .trap 0x02 (word pc)
    else if (List.range n).any fun k => s.parcelBad (ipc + 4 * k) then .trap 0x19 (word pc)
    else if !(opcodeKnown i0) then .trap 0x01 (zext i0)
    else if pre.isSome && !(acceptsMods i0) then .trap 0x01 (zext (pre.getD i0))
    else
      match s.privTval i0 (ps.getD 1 0) with
      | some v => .trap 0x0C v
      | none =>
        match decode (pre.toList ++ ps) with
        | .ok i => .ok i
        | .error _ => .trap 0x01 (zext i0)

/-- What the PC of the context in view brings to issue (R99). The parcels are read from the store as the instruction comes to issue: that no parcel
fetched ahead is ever issued old is the model's choice (DESIGN CHOICE: R86 and R243 allow either; notes/assumptions/89.md). -/
def State.fetch (s : State) : Fetched :=
  let pc := s.cx.pc.toNat
  if !s.cx.super && decide (pc < s.core.sbound.toNat) then .trap 0x07 (word pc)
  else if pc ≥ s.core.xbound.toNat then .trap 0x03 (word pc)
  else if s.parcelBad pc then .trap 0x19 (word pc)
  else
    let p0 := s.parcel pc
    if parcelL p0 == 3 then
      if pc % 32 = 28 ∨ !(Mods.parcelOk p0) then .trap 0x01 (zext p0) else s.fetchAfter pc (pc + 4) (some p0)
    else s.fetchAfter pc pc none

/-! ## The registers an instruction names (R101, R190) -/

/-- The register a vector second operand names. -/
def srcReg : VSrc → Dest
  | .v r => .v r
  | .g r => .g r

/-- The registers an instruction reads or writes: it waits with kind OPERAND while one of them is still being written. That one which it only
writes makes it wait too is the model's choice (DESIGN CHOICE: R38, R101 and R190 speak of reading; notes/assumptions/88.md). -/
def regsOf : Instr → List Dest
  | .add d a b | .addSat d a b | .addZSat d a b | .sub d a b | .subSat d a b | .subZSat d a b | .and d a b | .or d a b |
    .xor d a b | .andn d a b | .sll d a b | .srl d a b | .sra d a b | .rol d a b | .ror d a b | .min d a b | .max d a b |
    .minZ d a b | .maxZ d a b | .slt d a b | .sltZ d a b | .mul d a b | .mulh d a b | .mulhZ d a b | .div d a b |
    .divZ d a b | .rem d a b | .remZ d a b | .addx d a b .. | .hstart d a b | .dhops d a b | .csave d a b | .cload d a b |
    .migr d a b => [.g d, .g a, .g b]
  | .sel d a b c | .aclaim d a b c => [.g d, .g a, .g b, .g c]
  | .clz d a | .ctz d a | .popc d a | .brev d a | .addi d a .. | .andi d a .. | .ori d a .. | .xori d a .. | .slli d a .. |
    .srli d a .. | .srai d a .. | .slti d a .. | .ld _ _ d a .. | .st _ _ d a .. | .hjoin d a | .cwr d a .. | .cset d a .. |
    .cclr d a .. | .fld _ d a .. | .fwait d a | .fst _ d a .. | .famo _ d a .. | .ffence d a .. | .wpop _ d a |
    .vclaim _ d a | .vsetl d a | .ardy d a | .aknock d a | .astat _ d a | .arel d a | .xcopy d a | .xcopyCode d a |
    .x2d d a | .xdeal d a | .xgath d a | .xput d a | .xget d a | .xkick d a .. | .xcancel d a | .xstat d a | .dwho d a |
    .tlbgen d a => [.g d, .g a]
  | .li d .. | .lih d .. | .adpc d .. | .adpcLoc d .. | .qget d .. | .qpeek d .. | .qcnt d .. | .nget d .. | .ntry d .. |
    .trd d .. | .crd d .. | .bstat d .. | .xsel d .. | .vyield d | .oclaim d .. | .mstat d .. => [.g d]
  | .beq a b .. | .bne a b .. | .blt a b .. | .bge a b .. | .bltZ a b .. | .bgeZ a b .. | .xbset a b => [.g a, .g b]
  | .bbs a .. | .bbsHi a .. | .bbc a .. | .bbcHi a .. | .loop a .. | .jmpx a | .qput a .. | .nput a .. | .tbind _ a |
    .hexit a | .bset _ a | .xmit _ _ a | .phlx a | .wpush a | .wpushClose a | .ndone a | .nabort a => [.g a]
  | .call .. => [.g 1, .g 2]
  | .callx a => [.g a, .g 1, .g 2]
  | .ret => [.g 2]
  | .ldp _ d a .. | .stp _ d a .. => [.g d, .g a, .g (d + 1)]
  | .amoAdd _ _ d b a .. | .amoAnd _ _ d b a .. | .amoOr _ _ d b a .. | .amoXor _ _ d b a .. | .amoMin _ _ d b a .. |
    .amoMax _ _ d b a .. | .amoMinZ _ _ d b a .. | .amoMaxZ _ _ d b a .. | .amoSwp _ _ d b a .. | .amoFadd _ d b a .. => [.g d, .g b, .g a]
  | .amoCas _ _ d b c a .. | .waita d b c a .. | .fmcast d b c a .. => [.g d, .g b, .g c, .g a]
  | .vld _ _ d a .. | .vst _ _ d a .. | .vbcast d a => [.v d, .g a]
  | .vlds _ _ d b a .. | .vsts _ _ d b a .. => [.v d, .g b, .g a]
  | .vgath _ _ d b a .. | .vscat _ _ d b a .. => [.v d, .v b, .g a]
  | .vmovg d a b => [.g d, .v a, .g b]
  | .vmovgSet d a b => [.v d, .g a, .g b]
  | .vadd _ _ d a b | .vsub _ _ d a b | .vmul d a b | .vmulh _ d a b | .vmin _ d a b | .vmax _ d a b | .vand d a b |
    .vor d a b | .vxor d a b | .vshl d a b | .vshr d a b | .vsra d a b | .vcmp _ d a b | .vfadd d a b | .vfsub d a b |
    .vfmul d a b | .vfmin d a b | .vfmax d a b => [.v d, .v a, srcReg b]
  | .vsel d a b c | .vidot _ _ d a b c | .vfdot _ d a b c | .vnredMx _ d a b c => [.v d, .v a, .v b, .v c]
  | .vfma d a b c => [.v d, .v a, srcReg b, .v c]
  | .vrcp d a | .vrsq d a | .vexp2 d a | .vlog2 d a | .vsig d a | .vcvt _ _ _ d a | .vscan _ d a | .vnred _ d a => [.v d, .v a]
  | .vmacw _ _ d a b | .vfmacw d a b => [.w d, .v a, .v b]
  | .vnarrow _ d a .. => [.v d, .w a]
  | .vwclr d => [.w d]
  | .vfdotC _ d a b => [.v d, .v a, .v b, .v (d + 1)]
  | .vdotr d a b c => [.g d, .v a, .v b, .g c]
  | .vcvtMx _ d a t | .vcvtMxd d a t | .vbniScan _ d a t | .vbni _ d a t => [.v d, .g a, .tid t.toNat]
  | .vamax d a | .vred _ d a => [.g d, .v a]
  | .vperm d a b => [.v d, .v a, .v b]
  | .vslide o d a .. => [.g (o.getD 0), .v d, .v a]
  | .oload _ a t .. | .mrd _ _ a t | .tdef t a => [.g a, .tid t.toNat]
  | .tqry d t .. => [.g d, .tid t.toNat]
  | .acontrib _ a b c | .cstart a b c => [.g a, .g b, .g c]
  | .ard _ d a b c t => [.g d, .g a, .g b, .g c, .tid t.toNat]
  | .ardv _ d a b c => [.v d, .g a, .g b, .g c]
  | .ozero _ t => [.tid t.toNat]
  | _ => []

/-- The same with the identifiers that ACLAIM takes from g(B) (R229). -/
def State.usesOf (s : State) (i : Instr) : List Dest :=
  match i with
  | .aclaim _ _ b _ => .tid (bits (s.g b) 7 0) :: .tid (bits (s.g b) 15 8) :: regsOf i
  | i => regsOf i

/-- The registers an instruction reads. -/
def sourcesOf (i : Instr) : List Dest :=
  match i with
  | .st .. | .stp .. | .beq .. | .bne .. | .blt .. | .bge .. | .bltZ .. | .bgeZ .. | .bbs .. | .bbsHi .. | .bbc .. | .bbcHi .. | .loop .. |
    .jmpx .. | .qput .. | .nput .. | .tbind .. | .hexit .. | .bset .. | .xmit .. | .phlx .. | .wpush .. | .wpushClose .. | .ndone .. |
    .nabort .. | .xbset .. | .ret | .lih .. | .vst .. | .vsts .. | .vscat .. | .vmovgSet .. | .vmacw .. | .vfmacw .. | .vfdotC .. |
    .oload .. | .mrd .. | .tdef .. | .acontrib .. | .cstart .. | .ozero .. | .fst .. | .famo .. => regsOf i
  | .ldp _ _ a .. => [.g a]
  | .call .. => [.g 2]
  | .callx a => [.g a, .g 2]
  | .vwclr _ => []
  | i => (regsOf i).tail

/-- Whether an instruction reads an entry of the register storage of R346. -/
def readsCell (i : Instr) (c : Cell) : Bool :=
  match c, i with
  | .g r, i => (sourcesOf i).contains (.g r)
  | .v r, i => (sourcesOf i).contains (.v r)
  | .w r, i => (sourcesOf i).contains (.w r)
  | .ta k, .trd _ j => j == k
  | .ta k, .btempo j .. => j == k
  | .ta k, .bntempo j .. => j == k
  | .creg x, .crd _ y => x == y
  | .creg x, .cwr _ _ y => x == y
  | .creg x, .cset _ _ y => x == y
  | .creg x, .cclr _ _ y => x == y
  | .q k, .qget _ j => j == k
  | .q k, .qpeek _ j => j == k
  | .n k, .nget _ j => j == k
  | .n k, .ntry _ j => j == k
  | _, _ => false

/-- The next instruction of the context in view, where it has one. -/
def State.nextInstr (s : State) : Option Instr :=
  match s.cx.held with
  | some i => some i
  | none => match s.fetch with | .ok i => some i | .trap _ _ => none

end Sys2Proof.Machine
end

