-- ==== Sys2Proof/Machine/Control.lean ====
section
/-!
DEFINITION. Control flow (spec/05_scalar.md R110–R114), control-register instructions (R115, R116) and the instructions that
enter and leave handlers (spec/10_engines_system.md R251–R253).
-/
namespace Sys2Proof.Machine

/-! ## Branches (R110–R112) -/

/-- A branch: to its target when the condition holds, else on (R110). -/
def State.branch {n : Nat} (s : State) (i : Instr) (c : Bool) (disp : BitVec n) : Result :=
  .next (if c then s.jump (s.target disp) else s.retire i)

/-- BEQ (R110). -/
def execBeq (a b : GReg) (disp : BitVec 14) (s : State) : Result := s.branch (.beq a b disp) (s.g a == s.g b) disp

/-- BNE (R110). -/
def execBne (a b : GReg) (disp : BitVec 14) (s : State) : Result := s.branch (.bne a b disp) (s.g a != s.g b) disp

/-- BLT (R110). -/
def execBlt (a b : GReg) (disp : BitVec 14) (s : State) : Result := s.branch (.blt a b disp) ((s.g a).slt (s.g b)) disp

/-- BGE (R110). -/
def execBge (a b : GReg) (disp : BitVec 14) (s : State) : Result := s.branch (.bge a b disp) (!(s.g a).slt (s.g b)) disp

/-- BLTZ (R110). -/
def execBltZ (a b : GReg) (disp : BitVec 14) (s : State) : Result := s.branch (.bltZ a b disp) ((s.g a).ult (s.g b)) disp

/-- BGEZ (R110). -/
def execBgeZ (a b : GReg) (disp : BitVec 14) (s : State) : Result := s.branch (.bgeZ a b disp) (!(s.g a).ult (s.g b)) disp

/-- BBS: bit 0 + B of g(A) is 1 (R110). -/
def execBbs (a : GReg) (n : BitVec 5) (disp : BitVec 14) (s : State) : Result :=
  s.branch (.bbs a n disp) (bit (s.g a) n.toNat) disp

/-- BBSHI: bit 32 + B of g(A) is 1 (R110). -/
def execBbsHi (a : GReg) (n : BitVec 5) (disp : BitVec 14) (s : State) : Result :=
  s.branch (.bbsHi a n disp) (bit (s.g a) (32 + n.toNat)) disp

/-- BBC: bit 0 + B of g(A) is 0 (R110). -/
def execBbc (a : GReg) (n : BitVec 5) (disp : BitVec 14) (s : State) : Result :=
  s.branch (.bbc a n disp) (!bit (s.g a) n.toNat) disp

/-- BBCHI: bit 32 + B of g(A) is 0 (R110). -/
def execBbcHi (a : GReg) (n : BitVec 5) (disp : BitVec 14) (s : State) : Result :=
  s.branch (.bbcHi a n disp) (!bit (s.g a) (32 + n.toNat)) disp

/-- LOOP: g(A) counts down and the branch is taken unless it reaches 0 (R111). -/
def execLoop (a : GReg) (disp : BitVec 14) (s : State) : Result :=
  let c := s.g a - 1
  (s.setG a c).branch (.loop a disp) (c != 0) disp

/-- JMP (R112). -/
def execJmp (disp : BitVec 24) (s : State) : Result := .next (s.jump (s.target disp))

/-- The PC a register names: bits [14:0] (R112). -/
def pcOf (w : Word) : Pc := w.setWidth 15

/-- JMPX: ALIGN unless bits [1:0] are 0 (R112). -/
def execJmpx (a : GReg) (s : State) : Result :=
  if bits (s.g a) 1 0 ≠ 0 then s.trap 0x05 (s.g a) else .next (s.jump (pcOf (s.g a)))

/-! ## Calls and returns (R113, R114) -/

/-- The modifiers of StoreD and LoadD: ORD RLX, SCOPE CORE; `chk` for LoadD. -/
def stackMods (chk : Bool) : Mods := ⟨1, 1, 0, 0, chk⟩

/-- The word of the shadow stack at an offset. -/
def State.shadowKey (s : State) (off : Nat) : Nat := sramKey s.id (off % 0x8000)

/-- The shadow push of CALL under SSE: Shadow(SSP − 8) := ret; SSP := SSP − 8. A word written whole is poisoned no longer (R346). -/
def State.shadowPush (s : State) (ret : Word) : State :=
  if s.cx.sse then
    let key := s.shadowKey (s.cx.ssp.toNat - 8)
    let t := { s with
      mem := Memory.putN s.mem key 8 ret.toNat
      poison := s.poison.filter fun w => !(decide (key ≤ 8 * w) && decide (8 * w + 8 ≤ key + 8)) }
    t.setCx { t.cx with ssp := t.cx.ssp - 8 }
  else s

/-- What CALL does once its store has entered: shadow push, g2, g1, PC (R113). -/
def State.finishCall (s : State) (n : Nat) (tgt : Pc) (sp : Word) : State :=
  let ret : Word := zext (s.cx.next n)
  (((s.shadowPush ret).setG 2 (sp - 8)).setG 1 ret).jump tgt

/-- CALL and CALLX to `tgt` (R113). -/
def State.callTo (s : State) (i : Instr) (tgt : Pc) : Result :=
  let sp := s.g 2
  if bits sp 2 0 ≠ 0 then s.trap 0x05 sp
  else if s.cx.sse && decide (s.cx.ssp.toNat < bits s.cx.sslim 15 0 + 8) then s.trap 0x09 s.cx.ssp
  else
    s.accessAll i .store (some (stackMods false)) [] [(sp - 8, 8)] fun s e ks =>
      match ks with
      | [(ea, _, key)] =>
        let ret : Word := zext (s.cx.next i.size)
        .next ((s.putStore e ea 8 key ret.toNat).afterStore i e (if s.staged key then [] else [⟨key, ea, 8, .asked⟩]) (.call tgt sp)
          fun s => s.finishCall i.size tgt sp)
      | _ => s.wait .reply

/-- CALL (R113). -/
def execCall (disp : BitVec 24) (s : State) : Result := s.callTo (.call disp) (s.target disp)

/-- CALLX: ALIGN unless bits [1:0] of g(A) are 0 (R113). -/
def execCallx (a : GReg) (s : State) : Result :=
  if bits (s.g a) 1 0 ≠ 0 then s.trap 0x05 (s.g a) else s.callTo (.callx a) (pcOf (s.g a))

/-- RET once the return address `a` is there: the shadow compare, its own ALIGN, then the jump (R114). A poisoned shadow word is not
compared: its error is taken precisely, as that of the other word RET reads (R114, R130, R347). -/
def State.finishRet (s : State) (a : Word) : State :=
  let key := s.shadowKey s.cx.ssp.toNat
  let sh : Word := word (Memory.getN s.mem key 8)
  if s.cx.sse && (wordsOf key 8).any s.poison.contains then
    (s.foundErrors (wordsOf key 8)).trapEntry 0x11 0 false (0xF000000000000 + word (s.cx.ssp.toNat % 0x8000))
  else if s.cx.sse && a != sh then s.trapEntry 0x09 0 false sh
  else if bits a 1 0 ≠ 0 ∨ bits a 63 15 ≠ 0 then s.trapEntry 0x05 0 false a
  else
    let s1 := s.setG 2 (s.g 2 + 8)
    let s2 := if s.cx.sse then s1.setCx { s1.cx with ssp := s1.cx.ssp + 8 } else s1
    s2.jump (pcOf a)

/-- RET (R114). -/
def execRet (s : State) : Result :=
  let sp := s.g 2
  if bits sp 2 0 ≠ 0 then s.trap 0x05 sp
  else if s.cx.sse && decide (s.cx.ssp.toNat + 8 > bits s.cx.sslim 31 16) then s.trap 0x09 s.cx.ssp
  else
    s.access .ret .load (some (stackMods true)) sp 8 fun s e key =>
      if homeOf key = .core s.id then
        match s.local? key 8 with
        | none => s.wait .reply
        | some r => if r.2 then s.trap 0x11 sp else .next ((s.localJoin e.ord key 8).finishRet (word r.1))
      else .next (s.awaiting .ret e [⟨key, sp, 8, .asked⟩] .ret)

/-! ## Tempo branches (R124) -/

/-- The destination a tempo image names (R14, R122). -/
def State.lenderOf (s : State) (image : Word) : Option Lender :=
  match bits image 11 9 with
  | 1 => (s.siteAt (bits image 15 12) (bits image 22 16) (bits image 29 23)).map .core
  | 2 => (s.sliceAt (bits image 15 12) (bits image 22 16) (bits image 29 23)).map .slice
  | 3 => some (.link (s.myVif.pdie (bits image 15 12)))
  | 4 => some (.peer (bits image 38 30))
  | _ => none

/-- Credits of the core towards a destination (R372). -/
def Core.creditOf (c : Core) (l : Lender) : Nat := match c.credits.find? (fun p => p.1 == l) with | some p => p.2 | none => 0

/-- Where the credits of a core's interface towards a peer stand: they are shared by the cores of the module (R340). -/
def State.peerSlot (s : State) (id p : Nat) : Nat := s.vifOf id * 512 + p % 512

/-- Credits that a peer's endpoint has granted to a core's interface and that are not used (R340). -/
def State.peerLeft (s : State) (id p : Nat) : Nat := (Table.find s.torus.peerCredits (s.peerSlot id p)).getD 0

/-- Those credits set. -/
def State.setPeerLeft (s : State) (id p n : Nat) : State :=
  { s with torus := { s.torus with peerCredits := Table.set s.torus.peerCredits (s.peerSlot id p) n } }

/-- ALLOW towards a destination: the credits lent and not used, at most 255; towards a peer also 8 times the free injection
entries (R340, R372). -/
def State.allowTo (s : State) (l : Lender) : Nat :=
  match l with
  | .peer p =>
    min (min 255 (8 * (64 - (s.torus.inject.filter fun q => q.1 == s.id).length))) (s.peerLeft s.id p)
  | l => min 255 (s.core.creditOf l)

/-- ta(k) as TRD reads it: the binding with ALLOW (R14). -/
def State.taImage (s : State) (k : TaReg) : Word :=
  let b := s.cx.ta[k.toFin]
  match s.lenderOf b with
  | some l => if bit b 8 then setBits b 7 0 (s.allowTo l) else 0
  | none => b &&& ~~~(mask 7 0)

/-- BTEMPO branches when ALLOW of ta(k) is not 0 (R124). -/
def execBtempo (t : TaReg) (disp : BitVec 14) (s : State) : Result := s.branch (.btempo t disp) (bits (s.taImage t) 7 0 != 0) disp

/-- BNTEMPO branches when it is 0 (R124). -/
def execBntempo (t : TaReg) (disp : BitVec 14) (s : State) : Result := s.branch (.bntempo t disp) (bits (s.taImage t) 7 0 == 0) disp

/-! ## Control registers (R115) -/

/-- CRD: the value current at issue; TIME is delivered 4 cycles later (R101, R116). -/
def execCrd (d : GReg) (sel : BitVec 8) (s : State) : Result :=
  if s.crPriv sel.toNat false then s.trap 0x0C (word sel.toNat)
  else
    match s.creg sel.toNat with
    | none => s.trap 0x01 (word sel.toNat)
    | some v => if sel = 0x20 then .next (((if d = 0 then s else s.later (.g d) [v] 4)).retire (.crd d sel)) else s.doneG (.crd d sel) d v

/-- CWR: new := g(A) (R115). -/
def execCwr (d a : GReg) (sel : BitVec 8) (s : State) : Result := s.crWrite (.cwr d a sel) d sel.toNat fun _ => s.g a
/-- CSET: new := old | g(A) (R115). -/
def execCset (d a : GReg) (sel : BitVec 8) (s : State) : Result := s.crWrite (.cset d a sel) d sel.toNat fun old => old ||| s.g a
/-- CCLR: new := old & ~g(A) (R115). -/
def execCclr (d a : GReg) (sel : BitVec 8) (s : State) : Result := s.crWrite (.cclr d a sel) d sel.toNat fun old => old &&& ~~~(s.g a)

/-! ## Traps and returns (R251–R253) -/

/-- TRAP n: Trap(TRAPI, n) (R252). -/
def execTrap (n : BitVec 24) (s : State) : Result := s.trap 0x0B (zext n)

/-- The cycles the present wait has lasted, which a wait of the same instruction after a halt counts on (R319). -/
def Context.waitedAt (c : Context) (now : Nat) : Option (Nat × Nat) :=
  match c.st with
  | .waiting _ => some (c.pc.toNat, now - c.waitAt)
  | _ => c.waited

/-- A context halts at its boundary (R35, R318): a reply it waits for is kept, also over a second halt, any other waiting instruction issues
again. What a YIELD has still to let pass, and the end of a PAUSE, stay (R127). -/
def Context.haltKeep (c : Context) (now : Nat) : Context :=
  if c.st.live then
    { c with
      st := .halted
      watch := none
      want := 0
      waited := c.waitedAt now
      held := if c.st = .waiting .reply ∨ c.st = .halted then c.held else none }
  else c

/-- The same with an arrival at PHLX withdrawn (R41, R318). -/
def Context.halt (c : Context) (now : Nat) : Context :=
  if (c.bars[5]).pend then { c.haltKeep now with arrived := false, bars := c.bars.set 5 Bar.clear } else c.haltKeep now

/-- The cores without a signal of a member's arrival (R147, R328). -/
def State.dropSignal (s : State) (core ctx which : Nat) : State :=
  s.sites.foldl (fun t id => t.modCore id fun c => { c with signals := c.signals.filter fun g => !(g.k == which && g.core == core && g.ctx == ctx) }) s

/-- A PHLX arrival of a core that has not been committed is withdrawn (R41); after the commit the member goes on (R147). -/
def State.withdrawPhlx (s : State) (id : Nat) : State :=
  let mine (e : Episode) : Bool := e.k == 5 && e.arrived.any fun a => a.1 == id
  if s.episodes.any fun e => mine e && e.committed then s
  else
    let l := s.episodes.map fun e => if mine e then { e with arrived := e.arrived.filter (fun a => a.1 != id) } else e
    State.dropSignal { s with episodes := l.filter (fun e => !e.arrived.isEmpty) } id 0 5

/-- A core halts with its engines (R220, R246, R317, R318). -/
def State.haltCore (s : State) (id : Nat) : State :=
  let committed := s.episodes.any fun e => e.k == 5 && e.committed && e.arrived.any fun a => a.1 == id
  let t := (s.withdrawPhlx id).modAll id fun _ c => if committed then c.haltKeep s.cy else c.halt s.cy
  t.modCore id fun c => { c with frozen := true, benched := [], haltCy := s.cy }

/-- The cores that a debugger halt of a core halts: every member of a domain in its transfer phase, else the core alone (R46). -/
def State.domainCores (s : State) (id : Nat) : List Nat :=
  match s.domainOf id (s.cxAt id 0) with
  | some d => if d.phase = 2 then s.sites.filter fun m => s.domainOf m (s.cxAt m 0) == some d else [id]
  | none => [id]

/-- A halt by `jdb`, a BRK or a breakpoint (R46, R252): a `step` in progress ends with it (R83). -/
def State.debugHalt (s : State) (id : Nat) : State :=
  (s.domainCores id).foldl (fun s m =>
    ((s.haltCore m).modAll m fun _ c => { c with budget := none }).modCore m fun c => { c with debugged := true }) s

/-- BRK n: with `jdb` attached the core halts with the BRK not yet executed and a resume goes on after it; else Trap(BREAK, n)
(R252). -/
def execBrk (n : BitVec 24) (s : State) : Result :=
  if s.cx.passBrk then .next ((s.setCx { s.cx with passBrk := false }).retire (.brk n))
  else if s.myVif.attached then
    let t := (s.setCx { s.cx with passBrk := true }).debugHalt s.id
    .next { t with hub := { t.hub with reports := t.hub.reports ++ [(s.id, 0x0A, zext n)], selected := (s.id, s.core.k) } }
  else s.trap 0x0A (zext n)

/-- ERET: return from the supervisor or the user handler; ILLEGAL in neither (R253). -/
def execEret (s : State) : Result :=
  if s.cx.super || s.cx.inTrap then .next (s.setCx s.cx.eret) else s.illegal .eret

end Sys2Proof.Machine
end

