-- ==== Sys2Proof/Machine/LoadStore.lean ====
section
/-!
DEFINITION. Loads, stores, atomics, fences and the watch (spec/06_memory_sync.md R133–R139), with node rollback at a check
point (spec/20_reliability.md R349, R353).
-/
namespace Sys2Proof.Machine

/-! ## Loads (R133, R134) -/

/-- The register value of a loaded number of `size` bytes (R133). -/
def ldValue (size : Nat) (signed : Bool) (v : Nat) : Word :=
  if signed then
    match size with
    | 1 => sext (BitVec.ofNat 8 v)
    | 2 => sext (BitVec.ofNat 16 v)
    | 4 => sext (BitVec.ofNat 32 v)
    | _ => word v
  else word (v % 256 ^ size)

/-- LDP's two registers: an even g(D) and its successor; with D = 0 only g1 (R134). -/
def State.setPair (s : State) (d : GReg) (v : Nat) : State := (s.setG d (word v)).setG (d + 1) (word (v / 2 ^ 64))

/-- The elements of an access served by the core itself, their values with whether each was poisoned; none when one must wait. -/
def State.serveLocal (s : State) : List (Word × Nat × Nat) → Option (List (Nat × Bool))
  | [] => some []
  | (_, size, key) :: l =>
    match s.local? key size, s.serveLocal l with
    | some v, some vs => some (v :: vs)
    | _, _ => none

/-- MEMERR for each poisoned element served at the core, the further ones setting MORE (R347, R25). -/
def State.postBad (s : State) (source : Nat) (ks : List (Word × Nat × Nat)) (vs : List (Nat × Bool)) : State :=
  (ks.zip vs).foldl (fun s p => if p.2.2 then s.postMem p.1.2.2 p.1.2.1 source p.1.1 none else s) s

/-- The first poisoned element's address. -/
def firstBad : List (Word × Nat × Nat) → List (Nat × Bool) → Option Word
  | (ea, _, _) :: l, (_, b) :: vs => if b then some ea else firstBad l vs
  | _, _ => none

/-- A list of accesses with their keys, as elements not yet served. -/
def asElements (l : List (Word × Nat × Nat)) : List El := l.map fun p => ⟨p.2.2, p.1, p.2.1, .asked⟩

/-- Loads of an instruction: served at once when every element is homed at the core and none waits for the acquire point of another, `now` then
ending it; a poisoned element reads 0 and posts MEMERR, or under CHK traps (R347, R130). Otherwise the context waits for the replies
(R133). -/
def State.loads (s : State) (i : Instr) (e : Eff) (ks : List (Word × Nat × Nat)) (fin : Finish) (now : State → List Nat → Result) : Result :=
  if (ks.all fun p => homeOf p.2.2 == .core s.id) && (!ordAcquires e.ord || decide (ks.length ≤ 1)) then
    match s.serveLocal ks with
    | none => s.wait .reply
    | some vs =>
      let s1 := ks.foldl (fun s p => s.localJoin e.ord p.2.2 p.2.1) s
      match firstBad ks vs with
      | some ea => if e.chk then s.trap 0x11 ea else now (s1.postBad 0 ks vs) (vs.map (·.1))
      | none => now s1 (vs.map (·.1))
  else .next (s.awaiting i e (asElements ks) fin)

/-- An instruction whose reads the core has served at issue, and which ends later, from cycle `due` on: the values with whether each was
poisoned (R190, R215). -/
def State.heldDone (s : State) (i : Instr) (e : Eff) (ks : List (Word × Nat × Nat)) (vs : List (Nat × Bool)) (fin : Finish) (due : Nat) : State :=
  let t := s.awaiting i e (List.zipWith (fun (x : El) (v : Nat × Bool) => { x with st := .done v.1 v.2 }) (asElements ks) vs) fin
  t.setCx { t.cx with await := t.cx.await.map fun a => { a with due := due } }

/-! ### The L1 (R272, R268) -/

/-- The L1 line of a key. -/
def Core.line (c : Core) (key : Nat) : Option Line := c.l1.find? fun l => l.addr == key / 64

/-- A word of a line. -/
def Line.word (l : Line) (w : Nat) : Nat := ((l.bytes.drop (w % 8 * 8)).take 8).foldr (fun b v => b.toNat + 256 * v) 0

/-- The core's own stores to a word that are in the line and not yet applied, oldest first. -/
def Line.ownTo (l : Line) (w : Nat) : List Nat := (l.own.filter fun p => p.1 == w % 8).map (·.2)

/-- The copy of word `w` may serve the context in view: it is not coherence-before a write the context has made or observed (R268). With no
unapplied store of the core in it, the copy stands at a known place of the coherence order; otherwise it is the newest of those
stores. -/
def State.wordHits (s : State) (l : Line) (w : Nat) : Bool :=
  let mine := s.flight.filter fun m => m.body.touches w && (m.from? s.mine || (m.core == s.id && s.cx.saw.contains m.id))
  !(s.behindOwn s.mine s.cx.saw w) && !(s.cx.fldOpen w s.seq)
  && match (l.ownTo w).getLast? with
    | none => mine.isEmpty && decide ((Table.find s.cx.seen w).getD 0 < l.place.getD (w % 8) 0)
    | some id =>
      match s.flight.find? fun m => m.id == id with
      | some m => m.body.fills w && mine.all fun x => x.body.isStore && x.src == m.src
      | none => false

/-- A word of a line under what the Running node of the core has staged for it (R351). -/
def State.wordLine (s : State) (l : Line) (w : Nat) : Nat :=
  ((s.core.staging.map (·.e.body)).filter fun b => b.touches w).foldl (fun v b => b.onWord w v) (l.word w)

/-- HIT: the value a line filled after the last acquire point gives an RLX or CAU load, and whether a word of it is poisoned (R272). -/
def State.hit? (s : State) (ord cache key size : Nat) : Option (Nat × Bool) :=
  match s.core.line key with
  | none => none
  | some l =>
    if (ord = 1 ∨ ord = 2) ∧ cache ≠ 3 ∧ key < 2 ^ 52 ∧ s.cx.acqTime < l.time ∧ ((wordsOf key size).all (s.wordHits l)) = true then
      let bad := (List.range size).any fun j => l.bad.contains ((key + j) / 8 % 8) && !(s.core.staging.any fun x => x.e.body.covers (key + j))
      some (if bad then 0 else bytesBy (s.wordLine l) key size, bad)
    else none

/-- The core with a line moved to the front, as most recently used. -/
def Core.l1Touch (c : Core) (l : Line) : Core := { c with l1 := l :: c.l1.filter fun x => x.addr != l.addr }

/-- What a HIT has returned (R268), and the line as most recently used. -/
def State.sawHit (s : State) (key size : Nat) : State :=
  match s.core.line key with
  | none => s
  | some l =>
    let c := (wordsOf key size).foldl (fun c w =>
      match (s.core.newestStaged w).or (l.ownTo w).getLast? with
      | some id => c.noteSaw id
      | none => c.noteSeen w (l.place.getD (w % 8) 0 - 1)) s.cx
    (s.setCx c).setCore (s.core.l1Touch l)

/-- A load of g registers: a hit of the L1 is delivered 5 cycles after issue, a local word 2, by `now` (R133); any other waits. -/
def State.loadG (s : State) (i : Instr) (e : Eff) (ea : Word) (size key : Nat) (fin : Finish) (now : Nat → State → Nat → Result) : Result :=
  match s.hit? e.ord e.cache key size with
  | some (v, bad) =>
    let t := s.sawHit key size
    if !bad then now 5 t v
    else if e.chk then s.trap 0x11 ea
    else now 5 (t.postMem key size 0 ea none) 0
  | none => s.loads i e [(ea, size, key)] fin fun s vs => now 2 s (vs.headD 0)

/-- The size in bytes of an LD width (R97). -/
def ldBytes : LdWidth → Nat
  | .s8 => 1 | .z8 => 1 | .s16 => 2 | .z16 => 2 | .s32 => 4 | .z32 => 4 | .d => 8
def ldSigned : LdWidth → Bool
  | .s8 => true | .s16 => true | .s32 => true | _ => false
def stBytes : StWidth → Nat
  | .b => 1 | .h => 2 | .w => 4 | .d => 8

/-- LD: delivered 2 cycles after issue from the core's own SRAM, 5 from the L1 (R133). -/
def execLd (p : Option Mods) (w : LdWidth) (d a : GReg) (disp : BitVec 11) (s : State) : Result :=
  let i := Instr.ld p w d a disp
  let ea := s.eaM a disp (ldBytes w)
  s.access i .load p ea (ldBytes w) fun s e key =>
    s.loadG i e ea (ldBytes w) key (.load d (ldBytes w) (ldSigned w)) fun n s v =>
      .next ((if d = 0 then s else s.later (.g d) [ldValue (ldBytes w) (ldSigned w) v] n).retire i)

/-- ST (R133): the store enters the store buffer, or is staged (R157). -/
def execSt (p : Option Mods) (w : StWidth) (d a : GReg) (disp : BitVec 11) (s : State) : Result :=
  let i := Instr.st p w d a disp
  let ea := s.eaM a disp (stBytes w)
  s.accessAll i .store p [] [(ea, stBytes w)] fun s e ks =>
    .next ((ks.foldl (fun t k => t.putStore e k.1 k.2.1 k.2.2 (s.g d).toNat) s).afterStore i e
      (asElements (ks.filter fun k => !s.staged k.2.2)) .ack fun t => t.retire i)

/-- LDP: one access of 16 bytes (R134). -/
def execLdp (p : Option Mods) (d a : GReg) (disp : BitVec 11) (s : State) : Result :=
  let i := Instr.ldp p d a disp
  let ea := s.eaM a disp 16
  s.access i .load p ea 16 fun s e key =>
    s.loadG i e ea 16 key (.pair d) fun n s v =>
      let s1 := if d = 0 then s else s.later (.g d) [word v] n
      .next ((s1.later (.g (d + 1)) [word (v / 2 ^ 64)] n).retire i)

/-- STP: one access of 16 bytes (R134). -/
def execStp (p : Option Mods) (d a : GReg) (disp : BitVec 11) (s : State) : Result :=
  let i := Instr.stp p d a disp
  let ea := s.eaM a disp 16
  s.accessAll i .store p [] [(ea, 16)] fun s e ks =>
    .next ((ks.foldl (fun t k => t.putStore e k.1 k.2.1 k.2.2 ((s.g d).toNat + (s.g (d + 1)).toNat * 2 ^ 64)) s).afterStore i e
      (asElements (ks.filter fun k => !s.staged k.2.2)) .ack fun t => t.retire i)

/-! ## Atomics (R135, R136) -/

/-- Whether g(D) of a 32-bit AMO is sign-extended: all but MIN.Z, MAX.Z and FADD (R135). -/
def amoSigned : AmoOp → Bool
  | .minZ => false
  | .maxZ => false
  | .fadd => false
  | _ => true

/-- An AMO (R135): it enters the store buffer with its operands; with D ≠ 0, an acquiring ORD or CHK the context waits for its
reply, else it goes on (R136). -/
def State.amo (s : State) (i : Instr) (p : Option Mods) (op : AmoOp) (size : Nat) (d b : GReg) (exp : Word) (ea : Word) : Result :=
  s.access i .amo p ea size fun s e key =>
    let x := (s.g b).toNat % 256 ^ size
    let body := Body.amo op key size x (exp.toNat % 256 ^ size) [] (d != 0) s.cx.detred
    let waits := d != 0 || e.chk || e.ord == 3 || e.ord == 5 || e.ord == 6
    let t := s.enter s.mine key .a e ea body waits
    if waits then .next (t.awaiting i e [⟨key, ea, size, .asked⟩] (.amo d size (amoSigned op)))
    else .next (t.retire i)

/-- The width of an AMO in bytes: 4 with `.W` (R95). -/
def amoBytes (w32 : Bool) : Nat := if w32 then 4 else 8

def execAmoAdd (p : Option Mods) (w32 : Bool) (d b a : GReg) (disp : BitVec 24) (s : State) : Result :=
  s.amo (.amoAdd p w32 d b a disp) p .add (amoBytes w32) d b 0 (s.eaX a disp)
def execAmoAnd (p : Option Mods) (w32 : Bool) (d b a : GReg) (disp : BitVec 24) (s : State) : Result :=
  s.amo (.amoAnd p w32 d b a disp) p .and (amoBytes w32) d b 0 (s.eaX a disp)
def execAmoOr (p : Option Mods) (w32 : Bool) (d b a : GReg) (disp : BitVec 24) (s : State) : Result :=
  s.amo (.amoOr p w32 d b a disp) p .or (amoBytes w32) d b 0 (s.eaX a disp)
def execAmoXor (p : Option Mods) (w32 : Bool) (d b a : GReg) (disp : BitVec 24) (s : State) : Result :=
  s.amo (.amoXor p w32 d b a disp) p .xor (amoBytes w32) d b 0 (s.eaX a disp)
def execAmoMin (p : Option Mods) (w32 : Bool) (d b a : GReg) (disp : BitVec 24) (s : State) : Result :=
  s.amo (.amoMin p w32 d b a disp) p .min (amoBytes w32) d b 0 (s.eaX a disp)
def execAmoMax (p : Option Mods) (w32 : Bool) (d b a : GReg) (disp : BitVec 24) (s : State) : Result :=
  s.amo (.amoMax p w32 d b a disp) p .max (amoBytes w32) d b 0 (s.eaX a disp)
def execAmoMinZ (p : Option Mods) (w32 : Bool) (d b a : GReg) (disp : BitVec 24) (s : State) : Result :=
  s.amo (.amoMinZ p w32 d b a disp) p .minZ (amoBytes w32) d b 0 (s.eaX a disp)
def execAmoMaxZ (p : Option Mods) (w32 : Bool) (d b a : GReg) (disp : BitVec 24) (s : State) : Result :=
  s.amo (.amoMaxZ p w32 d b a disp) p .maxZ (amoBytes w32) d b 0 (s.eaX a disp)
def execAmoSwp (p : Option Mods) (w32 : Bool) (d b a : GReg) (disp : BitVec 24) (s : State) : Result :=
  s.amo (.amoSwp p w32 d b a disp) p .swp (amoBytes w32) d b 0 (s.eaX a disp)
def execAmoCas (p : Option Mods) (w32 : Bool) (d b c a : GReg) (disp : BitVec 24) (s : State) : Result :=
  s.amo (.amoCas p w32 d b c a disp) p .cas (amoBytes w32) d b (s.g c) (s.eaX a disp)
def execAmoFadd (p : Option Mods) (d b a : GReg) (disp : BitVec 24) (s : State) : Result :=
  s.amo (.amoFadd p d b a disp) p .fadd 4 d b 0 (s.eaX a disp)

/-! ## Fences (R137, R270) -/

/-- The condition of a fence's kind at a scope (R270); a copy command counts as the store of its command word (R137). -/
def State.fenceReady (s : State) (k : FenceKind) (scope : Nat) : Bool :=
  match k with
  | .full => s.fenced scope
  | .acq => !s.readsOpen anyOrder
  | .rel => s.fenced scope
  | .ss => !s.cmdsOpen anyOrder && (scope == 1 || !s.onWay s.mine (· == .w) anyOrder && !s.stagedOpen (· == .w) anyOrder)

/-- The effect of FENCE FULL and ACQ at completion: K := K ∨ J, J := ∅, an acquire point (R270). -/
def Context.fenceAcquire (c : Context) (now : Nat) : Context :=
  { c with clk := c.clk.join c.joinJ, joinJ := [], acqOpen := true, acqTime := now }

def execFence (kind : FenceKind) (scope : BitVec 3) (s : State) : Result :=
  let sc := if scope = 0 then bits s.cx.memdef 5 3 else scope.toNat
  if s.fenceReady kind sc then
    match kind with
    | .full => (s.setCx (s.cx.fenceAcquire s.cy)).done (.fence kind scope)
    | .acq => (s.setCx (s.cx.fenceAcquire s.cy)).done (.fence kind scope)
    | .rel => s.done (.fence kind scope)
    | .ss => s.done (.fence kind scope)
  else s.wait .reply

/-! ## The check and node rollback (R138, R349, R353) -/

/-- Every earlier load, store and AMO of the context has been checked and acknowledged (R138). An FST or FAMO counts when its home is in this module; one
to a peer, and an FLD without its reply, do not: the model's choice (notes/assumptions/93.md). -/
def State.checked (s : State) : Bool := !s.amoOpen s.mine anyOrder && !s.unapplied s.mine

/-- Field changes of a node record's word 0: STATE and RETRY (R56). -/
def State.putNode (s : State) (key st retry : Nat) : State :=
  let w : Word := word (Memory.getN s.mem key 8)
  { s with mem := Memory.putN s.mem key 8 (setBits (setBits w 2 0 st) 4 3 retry).toNat }

/-- Word j of a record. -/
def State.nodeWord (s : State) (key j : Nat) : Word := word (Memory.getN s.mem (key + 8 * j) 8)

/-- What hardware holds of a node. -/
def State.nodeMeta (s : State) (key : Nat) : Node := (Table.find s.nodes key).getD ⟨none, false, false⟩

def State.wqueue (s : State) (q : Nat) : WorkQueue := (Table.find s.wqueues q).getD ⟨true, [], []⟩

/-- A node put at the tail or the head of its work queue (R57). -/
def State.enqueue (s : State) (q key : Nat) (head : Bool) : State :=
  let w := s.wqueue q
  { s with wqueues := Table.set s.wqueues q { w with items := if head then key :: w.items else w.items ++ [key] } }

/-- The Held commands of a core cancelled (R240, R248). -/
def Core.cancelHeld (c : Core) : Core :=
  { c with cmds := c.cmds.map fun m => if m.st = .held then { m with cancel := true } else m }

/-- A job's node failed: FVAL becomes due (R314). -/
def State.failJob (s : State) (key : Nat) : State :=
  { s with hub := { s.hub with jobs := s.hub.jobs.map fun j => if j.kind == 1 && j.obj == key && !j.done then { j with failed := true } else j } }

/-- The recorded error posted to a live context with SUB[7:6] = act, to be taken at its next boundary (R353). In the context that the error has
been posted to when it was found, that posting is meant. -/
def Context.postNode (c : Context) (code sub source : Nat) (tval : Word) (act : Nat) : Context :=
  let same := bit c.errpend 0 && bits c.errpend 15 8 == code && bits c.errpend 21 16 == sub && c.errTval == tval && c.errSource == source
  let d := if same then c else c.post code sub source tval
  { d with errpend := setBits d.errpend 23 22 act, trapNext := true }

/-- R353: the node is rolled back and queued at the head, or Poisoned when RETRY is 3; every live context traps. -/
def State.rollback (s : State) : State :=
  match s.core.node, s.core.nodeErr with
  | some n, some e =>
    let key := n.1
    let w0 := s.nodeWord key 0
    let retry := bits w0 4 3
    let act := if retry < 3 then 1 else 2
    let s1 := s.setCore { s.core.cancelHeld with staging := [], pushes := [], node := none, nodeErr := none }
    let s2 := { s1 with nodes := Table.set s1.nodes n.1 { s1.nodeMeta n.1 with owner := none, ran := true } }
    let s3 := if retry < 3 then (s2.putNode key 1 (retry + 1)).enqueue (bits w0 19 8) n.1 true
              else
                let t := (s2.putNode key 4 3).failJob n.1
                { t with hub := { t.hub with reports := t.hub.reports ++ [(t.id, 6, t.nodeAddr t.id n.1)] } }
    let s4 := s3.logErr (4 + act) (errUnit e.1 e.2.1) e.1 e.2.1 (sitePlace s3.id) 0 (s3.vifOf s3.id) s3.core.k (s3.nodeAddr s3.id n.1).toNat
    s4.modAll s4.id fun _ c =>
      if c.st.live then
        let d := c.postNode e.1 e.2.1 e.2.2.1 e.2.2.2 act
        match d.st with
        | .waiting .reply => d
        | .waiting _ => { d with st := .ready }
        | _ => d
      else c
  | _, _ => s

/-- A check point (R349): a recorded error of the Running node rolls it back, else a pending error traps, else `f`. -/
def State.checkPoint (s : State) (f : State → Result) : Result :=
  if s.core.node.isSome && s.core.nodeErr.isSome then s.rollback.trapPending
  else if bit s.cx.errpend 0 then s.trapPending
  else f s

/-- ECHK (R138). -/
def execEchk (s : State) : Result := if s.checked then s.checkPoint fun s => s.done .echk else s.wait .reply

/-! ## Watching a word (R139) -/

/-- WAITA: the word is read as an ACQ read at MOD scope until it differs from g(B) or g(C) cycles have passed. A read made for
it (WAITA_WAKE, WAITA_TIMEOUT) leaves its value in `reply`. -/
def execWaita (d b c a : GReg) (disp : BitVec 24) (s : State) : Result :=
  let i := Instr.waita d b c a disp
  match s.cx.watch with
  | some w =>
    match s.cx.reply with
    | some v =>
      if v ≠ w.val ∨ (w.timeout ≠ 0 ∧ s.cy - w.t0 ≥ w.timeout.toNat) then s.doneG i d v
      else ({ s with cx := { s.cx with reply := none } }).wait .watch
    | none => s.wait .watch
  | none =>
    let ea := s.eaX a disp
    s.access i .load (some ⟨3, 4, 0, 3, false⟩) ea 8 fun s _ key =>
      let t := s.waitOn .watch
      .next (t.setCx { t.cx with watch := some ⟨key, ea, s.g b, s.g c, s.cy, false⟩, reply := none })

/-- A read made for a waiting WAITA (R139) at a key, once the conditions of an ACQ read at MOD scope hold (R265, R267): the core's own store, or
the value at the home with the joins of an ACQ read. -/
def State.watchAt (s : State) (w : Watch) : State :=
  let fwd := s.forwards w.key 8
  let here := homeOf w.key == .core s.id
  if !(s.gate 3 4) || !(fwd || (if here then s.readLocal w.key 8 else s.readOk w.key 8)) then s
  else
    let bad := s.poisoned w.key 8
    let v := if bad then 0 else if fwd || here then s.peekN w.key 8 else s.homeN w.key 8
    let j := s.passGate.localJoin 3 w.key 8
    let t := if fwd then j else j.sawHome w.key 8
    if bad && bit s.cx.memdef 10 then t.trapEntry 0x11 0 false w.va
    else
      let u := if bad then t.postMem w.key 8 0 w.va (some t.cx.since) else t
      u.setCx { u.cx with reply := some (word v), watch := some { w with hit := true }, walk := none }

/-- Each read of a WAITA is translated when it is made (R300, R304): a miss asks for a walk, and a failed check traps. -/
def State.watchRead (s : State) (w : Watch) : State :=
  match s.check .load (bits s.cx.memdef 7 6) w.va 8 with
  | .ok key => (s.touchTlb w.va).watchAt { w with key := key }
  | .trap c v => s.trapEntry c 0 false v
  | .walk va => s.askWalk .load va
  | .badFrame => s

/-- WAITA_WAKE: the home reports a write that makes the word differ, or the first read is made (R139). -/
def execWaitaWake (core ctx : Nat) (s : State) : Result :=
  .next (s.within core ctx fun s =>
    match s.cx.watch with
    | some w =>
      if s.cx.st = .waiting .watch ∧ (w.hit = false ∨ word (s.peekN w.key 8) ≠ w.val) ∧ s.cx.reply = none then s.watchRead w else s
    | none => s)

/-- WAITA_TIMEOUT: g(C) cycles have passed; the word is read once more (R139). -/
def execWaitaTimeout (core ctx : Nat) (s : State) : Result :=
  .next (s.within core ctx fun s =>
    match s.cx.watch with
    | some w =>
      if s.cx.st = .waiting .watch ∧ w.timeout ≠ 0 ∧ s.cy - w.t0 ≥ w.timeout.toNat ∧ s.cx.reply = none then s.watchRead w else s
    | none => s)

end Sys2Proof.Machine
end

