-- ==== Sys2Proof/Machine/Routes.lean ====
section
/-!
DEFINITION. The fixed routes of the die fabrics: the package grid and its die links (spec/19_fabric_dies.md R331, R332, R356, R371), the
way across a die's mesh (R324), the router at which a home attaches (R323, R371), and the routers a message passes.
-/
namespace Sys2Proof.Machine

/-! ## The package grid (R331, R332, R356) -/

/-- (pr, pc) of a physical die. -/
def diePos (d : Nat) : Nat × Nat :=
  [(1, 1), (1, 0), (0, 0), (0, 1), (1, 2), (0, 2), (0, 3), (1, 3), (2, 2), (2, 3), (3, 3), (3, 2), (2, 1), (3, 1), (3, 0), (2, 0)].getD d (0, 0)

/-- The die at a position. -/
def dieAt (p : Nat × Nat) : Nat := ((List.range 16).find? fun d => diePos d == p).getD 0

/-- One place from x towards y. -/
def towards (x y : Nat) : Nat := if x < y then x + 1 else if y < x then x - 1 else x

/-- The dies entered on the way from p to q along pc first, then pr; `prFirst` takes the other order. -/
def gridPath (prFirst : Bool) : Nat → Nat × Nat → Nat × Nat → List Nat
  | 0, _, _ => []
  | n + 1, p, q =>
    if p = q then []
    else
      let alongPc := p.2 ≠ q.2 ∧ (!prFirst ∨ p.1 = q.1)
      let r := if alongPc then (p.1, towards p.2 q.2) else (towards p.1 q.1, p.2)
      dieAt r :: gridPath prFirst n r q

/-- The dies next to a die. -/
def dieNear (d : Nat) : List Nat :=
  (List.range 16).filter fun e =>
    let p := diePos d
    let q := diePos e
    (p.1 == q.1 && (p.2 == q.2 + 1 || q.2 == p.2 + 1)) || (p.2 == q.2 && (p.1 == q.1 + 1 || q.1 == p.1 + 1))

/-- The fewest links from the dies `front`, reached in `n` links, to die b around excluded dies. -/
def State.detour (s : State) (b : Nat) : Nat → Nat → List Nat → Nat
  | 0, n, _ => n
  | f + 1, n, front => if front.contains b then n else s.detour b f (n + 1) ((List.range 16).filter fun e => !s.excluded e && (front.contains e || (dieNear e).any front.contains))

/-- The dies entered on a way with the fewest links around excluded dies: of several the one firmware chose at boot, here the lowest-numbered
next die (R356; notes/assumptions/87.md). -/
def State.detourPath (s : State) (b : Nat) : Nat → Nat → List Nat
  | 0, _ => []
  | f + 1, a =>
    if a = b then []
    else
      let n := s.detour b 15 0 [a]
      match (dieNear a).find? fun e => !s.excluded e && s.detour b 15 0 [e] + 1 == n with
      | some e => e :: s.detourPath b f e
      | none => []

/-- The dies entered on the fixed route between two dies (R332, R356). -/
def State.diePath (s : State) (a b : Nat) : List Nat :=
  let pc := gridPath false 6 (diePos a) (diePos b)
  let pr := gridPath true 6 (diePos a) (diePos b)
  if !(pc.any s.excluded) then pc else if !(pr.any s.excluded) then pr else s.detourPath b 15 a

/-- The links of the fixed route between two dies (R250, R332, R356). -/
def State.dieHops (s : State) (a b : Nat) : Nat := (s.diePath a b).length

/-- The first die on the route from one die to another: the outgoing link controller it takes (R332, R372). -/
def State.nextDie (s : State) (a b : Nat) : Nat := (s.diePath a b).headD b

/-! ## Positions in the package frame (R371) -/

/-- Package position (x, y) of a site of a die's own frame, for the die's orientation. -/
def framePos (o row col : Nat) : Nat × Nat :=
  match o with
  | 0 => (col, row)
  | 1 => (79 - row, col)
  | 2 => (79 - col, 79 - row)
  | _ => (row, 79 - col)

/-- The site (row, col) at a package position. -/
def ofFramePos (o x y : Nat) : Nat × Nat :=
  match o with
  | 0 => (y, x)
  | 1 => (79 - x, y)
  | 2 => (79 - y, 79 - x)
  | _ => (x, 79 - y)

/-- The package direction from a die to a neighbour: N 0, E 1, S 2, W 3. -/
def dieDir (a b : Nat) : Nat :=
  let p := diePos a
  let q := diePos b
  if q.1 < p.1 then 0 else if p.2 < q.2 then 1 else if p.1 < q.1 then 2 else 3

/-- The edge router at which a packet leaves a die: on its own port (direction − orientation) mod 4, of its row for an east or west exit, of its
column for a north or south exit (R331, R332). -/
def exitRouter (a dir row col : Nat) : Nat × Nat :=
  match (dir + 4 - a / 4) % 4 with
  | 0 => (0, col)
  | 1 => (row, 79)
  | 2 => (79, col)
  | _ => (row, 0)

/-- The facing edge router of the next die, at the same place along the shared edge (R371). -/
def crossTo (a b : Nat) (p : Nat × Nat) : Nat × Nat :=
  let f := framePos (a / 4) p.1 p.2
  match dieDir a b with
  | 0 => ofFramePos (b / 4) f.1 79
  | 1 => ofFramePos (b / 4) 0 f.2
  | 2 => ofFramePos (b / 4) f.1 0
  | _ => ofFramePos (b / 4) 79 f.2

/-- The router at which a packet from a site of die a enters the last die of its route (R332, R371). -/
def entryRouter : Nat → Nat × Nat → List Nat → Nat × Nat
  | _, p, [] => p
  | a, p, b :: l => entryRouter b (crossTo a b (exitRouter a (dieDir a b) p.1 p.2)) l

/-! ## The mesh of a die (R323, R324) -/

/-- The columns passed along a row from one column to another (R324): a skip channel passes from one multiple of 4 to the next. -/
def rowPath : Nat → Nat → Nat → List Nat
  | 0, _, _ => []
  | n + 1, col, dcol =>
    if col = dcol then []
    else
      let far := if col < dcol then dcol - col else col - dcol
      let step := if col % 4 = 0 ∧ far ≥ 4 then 4 else 1
      let next := if col < dcol then col + step else col - step
      next :: rowPath n next dcol

/-- The rows passed along a column. -/
def colPath (row drow : Nat) : List Nat :=
  if row ≤ drow then (List.range (drow - row)).map fun n => row + n + 1 else (List.range (row - drow)).map fun n => row - n - 1

/-- The sites whose routers a packet passes from one site of a die to another, both among them (R324). -/
def meshPath (d : Nat) (p q : Nat × Nat) : List Nat :=
  siteId d p.1 p.2 :: ((rowPath 80 p.2 q.2).map (siteId d p.1) ++ (colPath p.1 q.1).map fun r => siteId d r q.2)

/-- The DRAM channel of a 256-byte granule: PA[11:8] xor PA[15:12] (R292). -/
def channelOf (pa : Nat) : Nat := (pa / 2 ^ 8 % 16) ^^^ (pa / 2 ^ 12 % 16)

/-- The router at which bank c attaches (R371): row and column. -/
def bankRouter (c : Nat) : Nat × Nat := (39 + c % 2, 10 * (c / 2) + 5)

/-- Hops from a site under R324 to the router at which the bank holding a line attaches, and the one into the bank (R371). -/
def bankHops (id pa : Nat) : Nat := (meshPath (pdieOf id) (rowOf id, colOf id) (bankRouter (channelOf pa))).length

/-- The router at which a home attaches: a core's own, the edge router of a slice's column, or that of the bank of a key (R323, R371). -/
def homeRouter (h : Home) (key : Nat) : Nat × Nat :=
  match h with
  | .core id => (rowOf id, colOf id)
  | .slice n => (if n % 160 ≥ 80 then 79 else 0, n % 80)
  | _ => bankRouter (channelOf key)

/-! ## The routers of a message (R330) -/

/-- The key a message is for. -/
def Body.homeKey : Body → Nat
  | .store key _ _ => key
  | .amo _ key _ _ _ _ _ _ => key
  | .bits key _ _ _ => key
  | .deps key => key
  | .push key _ => key
  | _ => 0

/-- The sites whose routers a message passes on the die it is on: to the edge it leaves its sender's die by, or from where it has entered the
home's die to the home. One to the sender's own SRAM passes none. -/
def State.routers (s : State) (m : Msg) : List Nat :=
  let d := pdieOf m.core
  let h := m.dest.pdie
  let src := (rowOf m.core, colOf m.core)
  let home := homeRouter m.dest m.body.homeKey
  if d = h then (if m.dest = .core m.core then [] else meshPath d src home)
  else
    match m.stage with
    | .own => let e := s.nextDie d h; meshPath d src (exitRouter d (dieDir d e) src.1 src.2)
    | _ => meshPath h (entryRouter d src (s.diePath d h)) home

/-- The queue at place n of those routers: the output queue of router n, and behind the last the input queue of the slice (R330). -/
def State.queueAt (s : State) (m : Msg) (n : Nat) : Option (Nat × Nat) :=
  let l := s.routers m
  match l[n]?, m.dest with
  | some r, _ => some (r, l.getD (n + 1) 102400)
  | none, .slice k => if n = l.length ∧ m.stage = .home then some (102401 + k, 0) else none
  | none, _ => none

/-- The merge buffer of the link controller that a message leaves its die by (R333), among the queues. -/
def State.bufferAt (s : State) (m : Msg) : Nat × Nat := (200000 + pdieOf m.core, s.nextDie (pdieOf m.core) m.dest.pdie)

/-- The apply queue of a message at the link controller of its home's die (R335), among the queues. -/
def Msg.applyQueue (m : Msg) : Nat × Nat := (300000 + pdieOf m.core, m.dest.pdie)

end Sys2Proof.Machine
end

