-- ==== Sys2Proof/Machine/Contexts.lean ====
section
/-!
DEFINITION. Queues, neighbour and routed ports, tempo registers with benching, helper contexts, issue hints and HALT
(spec/05_scalar.md R117–R127, spec/02_execution_model.md R35–R39, R47, R48, spec/18_scheduling.md R316,
spec/10_engines_system.md R254, spec/19_fabric_dies.md R326, R372).
-/
namespace Sys2Proof.Machine

/-! ## Waits for a queue or a port (R38, R117, R119) -/

def Run.isQueue : Run → Bool
  | .waiting .queue => true
  | .waiting .port => true
  | _ => false

/-- Another context waits for the same end of a queue or port and issued its instruction first (R38). -/
def State.behind (s : State) (want : Nat) : Bool :=
  (List.range 11).any fun k =>
    let c := s.core.ctx s.cx k
    k != s.core.k && c.want == want && c.st.isQueue
      && (!(s.cx.st.isQueue && s.cx.want == want) || decide (c.since < s.cx.since))

/-- The instruction waits for one end of a queue or port. -/
def State.waitFor (s : State) (w : Wait) (want : Nat) : Result :=
  let t := s.waitOn w
  .next (t.setCx { t.cx with want := want })

/-- An acquire point that joins a clock (R267, R273). -/
def Context.acquire (c : Context) (now : Nat) (k : Clock) : Context := { c with clk := c.clk.join k, acqOpen := true, acqTime := now }

/-! ## Queues (R117, R118) -/

/-- qk replaced. -/
def State.setQ (s : State) (q : QReg) (l : List QWord) : State := s.setCore { s.core with q := s.core.q.set q.toFin l }

/-- QPUT: the word carries the stamp of R273 once every earlier access is performed at CORE scope (R118). -/
def execQput (a : GReg) (q : QReg) (s : State) : Result :=
  if !s.performed 1 then s.wait .reply
  else
    let l := s.core.q[q.toFin]
    if decide (l.length ≥ 8) || s.behind (4 + q.toNat) then s.waitFor .queue (4 + q.toNat)
    else (s.setQ q (l ++ [⟨s.g a, s.releaseClk s.cx.clk s.id⟩])).done (.qput a q)

/-- QGET: the head leaves the queue (R117). -/
def execQget (d : GReg) (q : QReg) (s : State) : Result :=
  match s.core.q[q.toFin] with
  | [] => s.waitFor .queue q.toNat
  | x :: l =>
    if s.behind q.toNat then s.waitFor .queue q.toNat
    else
      let t := s.setQ q l
      (t.setCx (t.cx.acquire t.cy x.clk)).doneG (.qget d q) d x.val

/-- QPEEK: the head is copied (R117). -/
def execQpeek (d : GReg) (q : QReg) (s : State) : Result :=
  match s.core.q[q.toFin] with
  | [] => s.waitFor .queue q.toNat
  | x :: _ =>
    if s.behind q.toNat then s.waitFor .queue q.toNat
    else (s.setCx (s.cx.acquire s.cy x.clk)).doneG (.qpeek d q) d x.val

/-- QCNT (R117). -/
def execQcnt (d : GReg) (q : QReg) (s : State) : Result := s.doneG (.qcnt d q) d (word s.core.q[q.toFin].length)

/-! ## Neighbour ports (R13, R43, R119, R326) -/

/-- Whether a neighbour word has reached the receive FIFO of a core: 2 cycles after its NPUT, or between members of a phalanx
at stream time τw + SKEW + 1; while a read that came earlier stalls the phalanx, the word keeps moving (R43, R46, R326). -/
def State.wordDue (s : State) (id : Nat) (w : WireWord) : Bool :=
  match w.tau, s.phalanxOf id with
  | some t, some p =>
    decide (p.tau ≥ t + p.skew + 1)
      || ((s.cxAt id 0).st == .waiting .port && (s.cxAt id 0).want == 8 + w.port && decide (s.cy ≥ w.t0 + p.skew + 1))
  | _, _ => decide (s.cy ≥ w.t0 + 2)

/-- The words of one port taken from the wires, in order, while the next has arrived and its FIFO has room (R13). -/
def landWords (due : WireWord → Bool) (port : Nat) : List WireWord → List Word → List WireWord × List Word
  | [], f => ([], f)
  | w :: ws, f =>
    if w.port ≠ port then
      let r := landWords due port ws f
      (w :: r.1, r.2)
    else if due w && decide (f.length < 4) then landWords due port ws (f ++ [w.val])
    else (w :: ws, f)

/-- Receive FIFO `port` of core `id` with every word that has arrived. -/
def State.land (s : State) (id port : Nat) : State :=
  if h : port < 4 then
    let c := s.coreAt id
    let r := landWords (s.wordDue id) port c.nFly c.nIn[port]
    s.modCore id fun c => { c with nFly := r.1, nIn := c.nIn.set port r.2 }
  else s

/-- Places taken in a receive FIFO: words there and words on the wire outside a phalanx. -/
def Core.fifoUsed (c : Core) (port : Nat) : Nat :=
  (c.nIn.getD port []).length + (c.nFly.filter fun w => w.port == port && w.tau.isNone).length

/-- The stream time of a word between two members of one phalanx (R43). -/
def State.sendTau (s : State) (dst : Nat) : Option Nat :=
  match s.phalanxOf s.id with
  | some p => if s.cx.inPhlx && p.members.contains dst then some p.tau else none
  | none => none

/-- NPUT to n0–n3 (R119). -/
def State.putNeighbour (s : State) (i : Instr) (port : Nat) (v : Word) : Result :=
  match s.neighbour s.id port with
  | none => s.trap 0x07 (word port)
  | some n =>
    let p := (port + 2) % 4
    let t := s.land n p
    if decide ((t.coreAt n).fifoUsed p ≥ 4) || t.behind (16 + port) then t.waitFor .port (16 + port)
    else (t.modCore n fun c => { c with nFly := c.nFly ++ [⟨p, v, t.cy, t.sendTau n⟩] }).done i

/-! ## Sends, allowance and benching (R39, R123, R316, R372) -/

/-- The destination of a bound tempo register that a send matches (R123). -/
def State.bindsTo (s : State) (image : Word) (h : Home) : Option Lender :=
  if !(bit image 8) then none
  else
    match s.lenderOf image, h with
    | some (.core a), .core b => if a = b then some (.core a) else none
    | some (.slice a), .slice b => if a = b then some (.slice a) else none
    | some (.link d), h => if d = h.pdie ∧ d ≠ pdieOf s.id then some (.link d) else none
    | some (.peer a), .peer b => if a = b then some (.peer a) else none
    | _, _ => none

/-- The destinations whose allowance a send uses, each once. -/
def State.matching (s : State) (h : Home) : List Lender := (s.cx.ta.toList.filterMap fun b => s.bindsTo b h).eraseDups

/-- Another context was benched on a destination before this one (R316). -/
def Core.aheadOn (c : Core) (l : Lender) (k : Nat) : Bool := (c.benched.takeWhile fun b => b != (l, k)).any fun b => b.1 == l

/-- The allowance towards a destination less the words of a send, no less than 0 (R123). The words subtracted are held for the message that the
send injects (R372). -/
def State.spend (s : State) (l : Lender) (n : Nat) : State :=
  match l with
  | .peer p => s.setPeerLeft s.id p (s.peerLeft s.id p - n)
  | l =>
    let used := min n (s.core.creditOf l)
    s.setCore { s.core with
      credits := s.core.credits.map fun c => if c.1 = l then (c.1, c.2 - n) else c
      paying := if used = 0 then s.core.paying else s.core.paying ++ [(l, used)] }

/-- The words that the present send has subtracted are those of message `item` (R372). -/
def State.payFor (s : State) (item : Nat) : State :=
  if s.core.paying.isEmpty then s
  else
    { s with
      paid := s.paid ++ s.core.paying.map fun p => ⟨item, s.id, p.1, p.2⟩
      core := { s.core with paying := [] } }

/-- A routed send to homes with the words it injects there: benched (R39), or sent with its words subtracted (R123). The order in
which contexts were benched is kept for each destination (R316). -/
def State.send (s : State) (dests : List (Home × Nat)) (f : State → Result) : Result :=
  let ls := dests.flatMap fun d => (s.matching d.1).map fun l => (l, d.2)
  if ls.any fun p => s.allowTo p.1 == 0 || s.core.aheadOn p.1 s.core.k then
    let new := (ls.map fun p => (p.1, s.core.k)).filter fun b => !s.core.benched.contains b
    if s.cx.st = .benched then .next (s.setCore { s.core with benched := s.core.benched ++ new })
    else .next { s with cx := { s.cx with st := .benched, since := s.seq }, core := { s.core with benched := s.core.benched ++ new }, seq := s.seq + 1 }
  else f (ls.foldl (fun t p => t.spend p.1 p.2) s.unbench)

/-! ## Routed messages (R120, R121) -/

/-- Whether a packet passes a die-link merge buffer: classes A, T and FAMO, to another die (R333). -/
def passesMerge (die : Nat) (dest : Home) (cls : Cls) (body : Body) : Bool :=
  dest.pdie != die && dest.pdie < 16 && (match cls, body with | .a, _ => true | .t, _ => true | .p, .amo _ _ _ _ _ _ _ _ => true | _, _ => false)

/-- Where a message from a die starts: one whose home is on another die has its die links before it (R332). -/
def firstStage (die : Nat) (dest : Home) : Stage := if dest.pdie = die ∨ 16 ≤ dest.pdie then .home else .own

/-- A message that enters its route (R262). -/
def State.inject (s : State) (src : Src) (dest : Home) (cls : Cls) (va : Word) (body : Body) : State :=
  { s.payFor s.seq with
    flight := s.flight ++ [⟨s.seq, src, dest, cls, s.id, !s.cx.super, [], [], 1, va, body, false, [], s.cy, firstStage (pdieOf s.id) dest⟩]
    seq := s.seq + 1 }

/-- The header as it is received: the sender's coordinates and LEN (R120). -/
def State.routedHeader (s : State) (len : Nat) : Word := word (s.myVd + rowOf s.id * 2 ^ 4 + colOf s.id * 2 ^ 11 + len * 2 ^ 18)

/-- Places of n4 (R119). -/
def SendPort.full (p : SendPort) : Bool := decide (4 ≤ p.fifo.length)

/-- A word of context k enters n4, after which `left` payload words are to come (R121). -/
def SendPort.put (p : SendPort) (k left : Nat) (v : Word) : SendPort :=
  { p with owner := if left = 0 then none else some k, left := left, fifo := p.fifo ++ [(k, v)] }

/-- The fabric takes the head of the core's n4; with the last payload word the message is on its route (R120, R262). -/
def State.takeWord (s : State) : State :=
  match s.core.n4.fifo with
  | [] => s
  | (k, v) :: rest =>
    let ws := s.core.n4.words ++ [v]
    let h := ws.headD 0
    if ws.length ≤ bits h 21 18 then s.setCore { s.core with n4 := { s.core.n4 with fifo := rest, words := ws } }
    else
      let t := s.setCore { s.core with
        n4 := { s.core.n4 with fifo := rest, words := [] }
        paying := s.core.n4Paid.headD []
        n4Paid := s.core.n4Paid.drop 1 }
      match s.siteAt (bits h 3 0) (bits h 10 4) (bits h 17 11) with
      | some n => t.inject (.ctx t.id k) (.core n) .m 0 (.routed n (t.routedHeader (bits h 21 18) :: ws.drop 1))
      | none => t

/-- NPUT to n4: a header, or the next payload word (R120, R121); it waits while the four places are full (R119). -/
def State.putRouted (s : State) (i : Instr) (v : Word) : Result :=
  match s.core.n4.owner with
  | some o =>
    if o ≠ s.core.k ∨ s.core.n4.full then s.waitFor .port 20
    else (s.setCore { s.core with n4 := s.core.n4.put s.core.k (s.core.n4.left - 1) v }).done i
  | none =>
    let len := bits v 21 18
    if len = 0 ∨ bits v 63 22 ≠ 0 then s.illegal i
    else
      match s.siteAt (bits v 3 0) (bits v 10 4) (bits v 17 11) with
      | none => s.trap 0x07 4
      | some n =>
        if s.behind 20 ∨ s.core.n4.full then s.waitFor .port 20
        else s.send [(.core n, 1 + len)] fun t =>
          (t.setCore { t.core with n4 := t.core.n4.put t.core.k len v, n4Paid := t.core.n4Paid ++ [t.core.paying], paying := [] }).done i

/-- NPUT (R119). -/
def execNput (a : GReg) (n : BitVec 3) (s : State) : Result :=
  let i := Instr.nput a n
  if n.toNat ≤ 3 then s.putNeighbour i n.toNat (s.g a)
  else if n = 4 then s.putRouted i (s.g a)
  else s.illegal i

/-- The words readable at a receive port (R119). -/
def Core.portWords (c : Core) (n : Nat) : List Word := if n = 5 then c.n5 else c.nIn.getD n []

/-- The receive port with its head removed. -/
def Core.portTake (c : Core) (n : Nat) : Core :=
  if n = 5 then { c with n5 := c.n5.drop 1 }
  else if h : n < 4 then { c with nIn := c.nIn.set n (c.nIn[n].drop 1) }
  else c

/-- NGET (R119). -/
def execNget (d : GReg) (n : BitVec 3) (s : State) : Result :=
  let i := Instr.nget d n
  if n = 4 ∨ n.toNat > 5 then s.illegal i
  else
    let t := s.land s.id n.toNat
    match t.core.portWords n.toNat with
    | [] => t.waitFor .port (8 + n.toNat)
    | x :: _ =>
      if t.behind (8 + n.toNat) then t.waitFor .port (8 + n.toNat)
      else (t.setCore (t.core.portTake n.toNat)).doneG i d x

/-- NTRY (R119). -/
def execNtry (d : GReg) (n : BitVec 3) (s : State) : Result :=
  let i := Instr.ntry d n
  if n = 4 ∨ n.toNat > 5 then s.illegal i
  else
    let t := s.land s.id n.toNat
    t.doneG i d (word (t.core.portWords n.toNat).length)

/-- NEIGHBOUR_WORD_ARRIVE: words on the wires of a port that have arrived enter its FIFO (R13, R326). -/
def execNeighbourWordArrive (core port : Nat) (s : State) : Result := .next (s.land core port)

/-! ## Halts and timeouts (R46, R149, R319) -/

/-- Whether some context of a core is Halted. -/
def State.halted (s : State) (id : Nat) : Bool := (List.range 11).any fun k => (s.cxAt id k).st == .halted

/-- The tray of a core is halted by firmware, being halted, or released without the core having resumed (R317, R321). -/
def State.preempted (s : State) (id : Nat) : Bool := (s.trayAt id).st != .running || (s.coreAt id).resumeAt.isSome

/-- No timeout runs against a core whose tray is halted by firmware, nor while another member that is halted stalls its phalanx; a debugger
halt of the core itself stops none (R46, R149, R319). -/
def State.suspended (s : State) (id : Nat) : Bool :=
  (s.halted id && s.preempted id)
  || match s.phalanxOf id with | some p => p.members.any fun m => m != id && s.halted m | none => false

/-- The cycle counts of a core that were suspended for n cycles go on from their values (R149, R212, R319). -/
def State.shiftTimes (s : State) (id n : Nat) : State :=
  let t := s.modAll id fun _ c => { c with bars := mapVec (fun b => { b with t0 := b.t0 + n }) c.bars, waitAt := c.waitAt + n }
  t.modCore id fun c => { c with vnred := c.vnred.map fun v => { v with t0 := v.t0 + n }, liveAt := c.liveAt + n }

/-- A context leaves Halted (R318): it waits for its replies again, or issues its instruction again, behind a PAUSE at the end of that
(R127). -/
def Context.resumed (c : Context) : Context :=
  if c.st = .halted then { c with st := if c.await.isSome then .waiting .reply else if c.pauseEnd ≠ 0 then .waiting .operand else .ready } else c

/-- A core leaves Halted (R321, R83); one that CoreFault stopped stays as it is (R251). -/
def State.resumeCore (s : State) (id : Nat) : State :=
  if (s.coreAt id).faulted then s.modCore id fun c => { c with resumeAt := none }
  else
    let t := s.modAll id fun _ x => x.resumed
    t.modCore id fun c => { c with frozen := false, debugged := false, resumeAt := none }

/-! ## The cycle detector (R48) -/

/-- Whether a context waits with kind PORT or QUEUE other than on n5. -/
def Context.inCycleWait (c : Context) : Bool := c.st.isQueue && c.want != 13

/-- The core a waiting context waits on: its neighbour, the receiver of its routed message, or its own core. -/
def State.waitsOn (s : State) (id : Nat) (c : Context) : Option Nat :=
  if c.want < 8 then some id
  else if c.want < 12 then s.neighbour id (c.want - 8)
  else if 16 ≤ c.want ∧ c.want < 20 then s.neighbour id (c.want - 16)
  else if c.want = 20 then
    let p := (s.coreAt id).n4
    let h := (p.words ++ p.fifo.map (·.2)).headD 0
    (s.toCore id).siteAt (bits h 3 0) (bits h 10 4) (bits h 17 11)
  else none

/-- What the context in view waits for is still not there: its end of a queue or port is empty or full, or another context comes first. -/
def State.blocked (s : State) : Bool :=
  let want := s.cx.want
  s.behind want ||
  (if want < 4 then (s.core.q.toList.getD want []).isEmpty
  else if want < 8 then decide (8 ≤ (s.core.q.toList.getD (want - 4) []).length)
  else if want < 12 then ((s.land s.id (want - 8)).core.portWords (want - 8)).isEmpty
  else if want = 20 then s.core.n4.full || (match s.core.n4.owner with | some o => o != s.core.k | none => false)
  else if 16 ≤ want then
    match s.neighbour s.id (want - 16) with
    | some n => decide (4 ≤ ((s.land n ((want - 14) % 4)).coreAt n).fifoUsed ((want - 14) % 4))
    | none => true
  else true)

/-- A core is stuck when all its contexts that are not Free, Exited or Stopped wait on PORT or QUEUE (R48). -/
def State.stuck (s : State) (id : Nat) : Bool :=
  let l := (List.range 11).filter fun k => (s.cxAt id k).st.live
  !l.isEmpty && l.all fun k => (s.cxAt id k).inCycleWait && (s.focus id k).blocked

/-- The cores that a stuck core waits on. -/
def State.waitTargets (s : State) (id : Nat) : List Nat :=
  if s.stuck id then ((List.range 11).map (s.cxAt id)).filterMap fun c => if c.st.live then s.waitsOn id c else none else []

/-- Whether the listed cores, in order, form a cycle on one die. -/
def State.isCycle (s : State) (cores : List Nat) : Bool :=
  match cores with
  | [] => false
  | a :: _ =>
    (cores.zip (cores.drop 1 ++ [a])).all fun p => pdieOf p.1 == pdieOf a && s.stuck p.1 && (s.waitTargets p.1).contains p.2

/-- The cycle from which a core's live contexts all wait: the latest beginning of their waits, or the end of a context that was live then. -/
def State.stuckSince (s : State) (id : Nat) : Nat :=
  ((List.range 11).map fun k => if (s.cxAt id k).st.live then (s.cxAt id k).waitAt else 0).foldl max (s.coreAt id).liveAt

/-- The cycle from which the listed cores wait on one another (R48). -/
def State.cycleSince (s : State) (cores : List Nat) : Nat := (cores.map s.stuckSince).foldl max 0

/-- RCYCLE's TVAL: the port 0–4, or 8–11 for a queue (R48). -/
def Context.cyclePort (c : Context) : Nat := if c.want < 8 then 8 + c.want % 4 else if c.want < 16 then c.want - 8 else c.want - 16

/-- RCYCLE: a cycle of waits that has lasted DLTIME cycles is broken: every waiting context in it traps at its instruction (R48). -/
def execRcycle (cores : List Nat) (s : State) : Result :=
  if cores.any s.halted ∨ !s.isCycle cores then .next s
  else if decide (s.cy - s.cycleSince cores < (s.vif (s.vifOf (cores.headD 0))).dltime) then .next s
  else
    .next (cores.foldl (fun s id =>
      (List.range 11).foldl (fun s k =>
        s.within id k fun s =>
          if s.cx.inCycleWait then s.trapEntry 0x10 0 false (word s.cx.cyclePort) else s) s) s)

/-! ## Tempo (R122) -/

/-- Whether any context of the core in view binds a destination (R372). -/
def State.bound (s : State) (l : Lender) : Bool :=
  (s.core.ctxs s.cx).any fun c => c.ta.toList.any fun b => bit b 8 && s.lenderOf b == some l

/-- Credits of destinations no longer bound return to their lenders (R372). -/
def State.returnCredits (s : State) : State := s.setCore { s.core with credits := s.core.credits.filter fun p => s.bound p.1 }

/-- The checks of TBIND (R122). -/
def State.bindOk (s : State) (w : Word) : Bool :=
  bits w 8 0 == 0 && bits w 63 39 == 0 &&
  (match bits w 11 9 with
  | 0 => true
  | 1 => decide (bits w 15 12 < s.vdCount) && (s.siteAt (bits w 15 12) (bits w 22 16) (bits w 29 23)).isSome
  | 2 => decide (bits w 15 12 < s.vdCount) && (s.sliceAt (bits w 15 12) (bits w 22 16) (bits w 29 23)).isSome
  | 3 => decide (bits w 15 12 < s.vdCount) && bits w 15 12 != s.myVd
  | 4 => s.myVif.peers.any fun p => p.1 == bits w 38 30
  | _ => false)

/-- TBIND (R122). -/
def execTbind (t : TaReg) (a : GReg) (s : State) : Result :=
  let w := s.g a
  if !s.bindOk w then s.illegal (.tbind t a)
  else
    let b := if bits w 11 9 = 0 then 0 else setBit w 8 true
    ((s.setCx { s.cx with ta := s.cx.ta.set t.toFin b }).returnCredits).done (.tbind t a)

/-- TRD (R122). -/
def execTrd (d : GReg) (t : TaReg) (s : State) : Result := s.doneG (.trd d t) d (s.taImage t)

/-- CREDIT_RETURN: a destination lends words of its free room to a core that binds it and whose ALLOW is below 255 (R372). A
lender is numbered: a core by its site, then slices, links towards a die, and peers. -/
def lenderNo (n : Nat) : Lender :=
  if n < 102400 then .core n
  else if n < 104960 then .slice (n - 102400)
  else if n < 104976 then .link (n - 104960)
  else .peer (n - 104976)

/-- Words a packet occupies at its destination (R123, R230). -/
def Body.words : Body → Nat
  | .store _ size _ => 1 + (size + 7) / 8
  | .amo _ _ _ _ _ more _ _ => 2 + 2 * more.length
  | .bits _ _ _ _ => 2
  | .deps _ => 2
  | .push _ _ => 2
  | .cstart _ _ _ _ => 3
  | .xbset _ _ _ => 2
  | .contrib _ p => 518 * max 1 p.from_.length
  | .tile _ _ => 2
  | .routed _ ws => ws.length
  | .flit _ => 2
  | .ship _ _ => 0

/-- Two cores' lenders are one: of two links, the link controller of one die on one way out (R372). -/
def State.sameLender (s : State) (c1 : Nat) (l1 : Lender) (c2 : Nat) (l2 : Lender) : Bool :=
  match l1, l2 with
  | .link d, .link e => pdieOf c1 == pdieOf c2 && s.nextDie (pdieOf c1) d == s.nextDie (pdieOf c2) e
  | a, b => a == b

/-- Words lent by the lender `l` of core `core` and not used, over every core (R372). -/
def State.lentBy (s : State) (core : Nat) (l : Lender) : Nat :=
  (s.sites.map fun id => ((s.coreAt id).credits.map fun p => if s.sameLender id p.1 core l then p.2 else 0).sum).sum

/-- The words used for a message are not yet the lender's again: it has not left its core, or stands before its home, or before the die link
(R372). -/
def State.owes (s : State) (p : Paid) : Bool :=
  (s.coreAt p.core).sbuf.any (fun e => e.id == p.item) || (s.coreAt p.core).staging.any (fun x => x.e.id == p.item)
  || s.flight.any fun m => m.id == p.item && match p.lender with | .link _ => m.stage == .own || m.stage == .buffer | _ => true

/-- Words of allowance that messages on their way have used with a lender: in n4, in a store buffer, on a route (R372). -/
def State.usedOf (s : State) (core : Nat) (l : Lender) : Nat :=
  (s.paid.map fun p => if s.sameLender p.core p.lender core l && s.owes p then p.words else 0).sum
  + (s.sites.map fun id => ((s.coreAt id).n4Paid.flatten.map fun p => if s.sameLender id p.1 core l then p.2 else 0).sum).sum

/-- The words of allowance a message holds with a lender. -/
def State.paidFor (s : State) (m : Msg) (l : Lender) : Nat :=
  (s.paid.map fun p => if p.item = m.id ∧ s.sameLender p.core p.lender m.core l = true then p.words else 0).sum

/-- The places of a lender, and those of them that stand occupied at it (R372). -/
def State.placesOf (s : State) (l : Lender) : Nat × Nat :=
  match l with
  | .core n => (16, (s.coreAt n).n5.length)
  | .slice _ => (4096, 0)
  | .link _ => (2048, 0)
  | .peer _ => (255, 0)

/-- The room of a lender that is neither occupied, lent nor used by a message on its way (R372). -/
def State.roomOf (s : State) (core : Nat) (l : Lender) : Nat := (s.placesOf l).1 - (s.placesOf l).2 - s.lentBy core l - s.usedOf core l

/-- The words of a message that no allowance covers find room that is not lent (R372). -/
def State.admits (s : State) (m : Msg) (l : Lender) : Bool :=
  let more := m.body.words - s.paidFor m l
  more == 0 || decide (more ≤ s.roomOf m.core l)

/-- The number that keeps a lender's place in its round-robin order: of a link controller, its die and its way out. -/
def State.lenderKey (s : State) (core : Nat) (l : Lender) : Nat :=
  match l with
  | .core n => n
  | .slice n => 102400 + n
  | .link d => 104960 + pdieOf core * 16 + s.nextDie (pdieOf core) d
  | .peer p => 105216 + p

/-- The destinations a core binds (R122). -/
def State.bindings (s : State) (id : Nat) : List Lender :=
  let t := s.focus id (s.coreAt id).k
  ((t.core.ctxs t.cx).flatMap fun c => c.ta.toList.filterMap fun b => if bit b 8 then t.lenderOf b else none).eraseDups

/-- The cores that hold a binding to a lender and whose ALLOW is below 255, in order (R372). -/
def State.borrowers (s : State) (core : Nat) (l : Lender) : List Nat :=
  (sortBy (fun a b => decide (a ≤ b)) s.sites).filter fun id =>
    (s.bindings id).any fun b => s.sameLender id b core l && decide ((s.coreAt id).creditOf b < 255)

/-- The core whose turn it is: the first behind the one served last (R372). -/
def State.nextBorrower (s : State) (core : Nat) (l : Lender) : Option Nat :=
  let ids := s.borrowers core l
  match Table.find s.lendTurn (s.lenderKey core l) with
  | some last => (ids.find? fun id => decide (last < id)).or ids.head?
  | none => ids.head?

/-- One word lent to a core whose turn it is, while its lender has room (R372). -/
def State.lendWord (s : State) (core : Nat) (l : Lender) : Option State :=
  if s.bound l && decide (s.core.creditOf l < 255) && s.nextBorrower core l == some core && decide (1 ≤ s.roomOf core l) then
    some { s with
      core := { s.core with credits := (s.core.credits.filter fun p => p.1 != l) ++ [(l, s.core.creditOf l + 1)] }
      lendTurn := Table.set s.lendTurn (s.lenderKey core l) core }
  else none

/-- Words lent to a core one at a time, as long as its turn comes and there is room (R372). -/
def State.lendWords (s : State) (core : Nat) (l : Lender) : Nat → State
  | 0 => s
  | n + 1 => match s.lendWord core l with | some t => t.lendWords core l n | none => s

/-- CREDIT_RETURN: a lender hands out free room one word at a time, round-robin over the cores bound to it (R372); a peer's endpoint grants
credits to the interface of the core (R340). -/
def execCreditReturn (lender core words : Nat) (s : State) : Result :=
  let l := lenderNo lender
  match l with
  | .peer p =>
    .next (s.setPeerLeft core p (s.peerLeft core p + words))
  | l => .next (s.within core (s.coreAt core).k fun s => s.lendWords core l words)

/-- The whole of a routed message finds places in n5 (R120): those its allowance has kept for it, and for other words places that are not lent
(R372). -/
def State.fitsN5 (s : State) (m : Msg) (n k : Nat) : Bool :=
  let covered := min k (s.paidFor m (.core n))
  decide ((s.coreAt n).n5.length + s.lentBy m.core (.core n) + (s.usedOf m.core (.core n) - covered) + k ≤ 16)

/-- ROUTED_MESSAGE_DELIVER: the whole message enters n5 when its places are free, in the order of its route (R120, R262, R372). -/
def execRoutedMessageDeliver (item : Nat) (s : State) : Result :=
  match s.flight.find? fun m => m.id == item with
  | some m =>
    match m.body with
    | .routed n ws =>
      let earlier := (s.flight.takeWhile fun x => x.id != item).any fun x => x.src == m.src && x.dest == m.dest && x.cls == .m
      if earlier || m.stage != .home || !s.fitsN5 m n ws.length then .next s
      else .next { s.modCore n fun c => { c with n5 := c.n5 ++ ws } with flight := s.flight.filter fun x => x.id != item }
    | _ => .next s
  | none => .next s

/-! ## Helper contexts (R36, R37, R125, R126) -/

/-- The bank of a helper at HSTART (R37), at its PC and with g3 (R36). -/
def Context.helper (ctl : Context) (k : Nat) (sslim : Word) (pc : Pc) (g3 : Word) (clk : Clock) (now : Nat) : Context :=
  { Context.reset k with
    st := .ready
    g := (Vector.replicate 32 0).set 3 g3
    pc := pc
    memdef := ctl.memdef
    arith := ctl.arith
    trapvec := ctl.trapvec
    ovlhand := ctl.ovlhand
    btimeout := ctl.btimeout
    domain := ctl.domain
    slotmask := ctl.slotmask
    pattern := ctl.pattern
    hmapsel := ctl.hmapsel
    asid := ctl.asid
    gen := ctl.gen
    trapdeleg := ctl.trapdeleg
    status := ctl.status &&& mask 3 3
    sslim := sslim
    ssp := word (bits sslim 31 16)
    clk := clk
    acqOpen := true
    acqTime := now }

/-- HSTART: the lowest-numbered Free slot (R36, R125). -/
def execHstart (d a b : GReg) (s : State) : Result :=
  let i := Instr.hstart d a b
  if s.core.k ≠ 0 ∨ s.cx.inPhlx then s.illegal i
  else if bits (s.g a) 1 0 ≠ 0 then s.trap 0x05 (s.g a)
  else if !s.performed 1 then s.wait .reply
  else
    match ((List.range 11).drop 1).find? fun k => (s.core.ctx s.cx k).st = .free with
    | none => s.doneG i d 0
    | some k =>
      let h := s.cx.helper k (s.core.sslimOf s.cx k) (pcOf (s.g a)) (s.g b) (s.releaseClk s.cx.clk s.id) s.cy
      (s.modCx s.id k fun _ => h).doneG i d (word k)

/-- HJOIN (R36, R125). -/
def execHjoin (d a : GReg) (s : State) : Result :=
  let i := Instr.hjoin d a
  let k := (s.g a).toNat
  if s.core.k ≠ 0 ∨ k < 1 ∨ k > 10 then s.illegal i
  else
    let h := s.core.ctx s.cx k
    match h.st with
    | .free => s.illegal i
    | .exited =>
      let t := (s.keepClock s.id).modCx s.id k fun _ => Context.reset k
      (t.setCx (t.cx.acquire t.cy h.clk)).doneG i d h.exitValue
    | _ => s.wait .join

/-- The slots of a context freed as by OREL (R37, R214). -/
def Core.releaseSlots (c : Core) (k : Nat) : Core :=
  { c with o := mapVec (fun x => if x.holder = some k then OSlot.free else x) c.o }

/-- An accepted matrix instruction still reads a slot (R214). -/
def Core.slotRead (c : Core) (o : Nat) : Bool := c.mq.any fun m => m.op != 0 && (m.a == o || m.b == o)

/-- An accepted matrix instruction reads a slot the context holds. -/
def Core.heldSlotRead (c : Core) (k : Nat) : Bool :=
  (List.range 8).any fun o => (c.o.getD o OSlot.free).holder == some k && c.slotRead o

/-- What a context gives back when it ends: its lane grant, its slots and its tempo bindings (R37, R254); it is benched no longer (R316),
and the core may be stuck from now on (R48). -/
def State.giveBack (s : State) : State :=
  let s1 := (if s.core.holder = some s.core.k then s.dropLanes s.id else s).unbench
  let s2 := s1.setCore { (s1.core.releaseSlots s1.core.k) with liveAt := s1.cy }
  (s2.setCx { s2.cx with ta := Vector.replicate 16 0 }).returnCredits

/-- The end of a helper with an exit value (R36, R37). -/
def State.endHelper (s : State) (v : Word) : State :=
  let t := s.giveBack
  t.setCx { (t.cx.retire t.cx.pc) with st := .exited, exitValue := v, clk := t.releaseClk t.cx.clk t.id, pend := [] }

/-- HEXIT (R36, R126, R349). -/
def execHexit (a : GReg) (s : State) : Result :=
  if s.core.k = 0 then s.illegal (.hexit a)
  else if !s.checked ∨ !s.performed 1 ∨ s.core.heldSlotRead s.core.k then s.wait .reply
  else s.checkPoint fun s => .next (s.endHelper (s.g a))

/-- A barrier arrival of the context is pending (R254). -/
def Context.barPending (c : Context) : Bool := c.bars.toList.any fun b => b.pend

/-- HALT (R254, R36, R349). -/
def execHalt (s : State) : Result :=
  if s.core.k ≠ 0 ∨ ((s.core.ctxs s.cx).tail.any fun c => c.st != .free) ∨ s.cx.inPhlx ∨ s.core.node.isSome ∨ s.cx.barPending
  then s.illegal .halt
  else if !s.checked ∨ !s.performed 4 ∨ s.core.heldSlotRead s.core.k then s.wait .reply
  else
    s.checkPoint fun s =>
      let t := s.giveBack
      .next (t.setCx { (t.cx.retire (t.cx.next (Instr.size .halt))) with st := .stopped })

/-! ## Issue hints (R127) -/

/-- YIELD: each other context goes first whenever it is Ready and has not issued since (R127); NOP in a phalanx. -/
def execYield (s : State) : Result :=
  let l := (List.range 11).filter fun k => k != s.core.k
  (s.setCx { s.cx with yielding := if s.cx.inPhlx then [] else l }).done .yield

/-- PAUSE: the next instruction waits with kind OPERAND for 8 cycles (R127). -/
def execPause (s : State) : Result :=
  let t := s.retire .pause
  .next { t with cx := { t.cx with st := .waiting .operand, since := t.seq, pauseEnd := t.cy + 8 }, seq := t.seq + 1 }

/-- PAUSE_EXPIRY (R127). -/
def execPauseExpiry (core ctx : Nat) (s : State) : Result :=
  .next (s.within core ctx fun s =>
    if s.cx.st = .waiting .operand ∧ s.cx.pauseEnd ≠ 0 ∧ s.cx.pauseEnd ≤ s.cy then
      s.setCx { s.cx with st := .ready, pauseEnd := 0 } else s)

end Sys2Proof.Machine
end

