-- ==== Sys2Proof/Machine/Barriers.lean ====
section
/-!
DEFINITION. Hardware barriers and their sweep (spec/06_memory_sync.md R145–R149, spec/19_fabric_dies.md R327, R328), phases and
the transfer fabric (R150–R152, spec/02_execution_model.md R52–R54), and forming and dissolving a phalanx (R41–R45, R153).
-/
namespace Sys2Proof.Machine

/-! ## Members and episodes -/

/-- Barrier state of member kind `which` (0–3 BREG, 4 DPHASE, 5 PHLX). -/
def Context.bar (c : Context) (which : Nat) : Bar := c.bars.getD which Bar.clear
def Context.setBar (c : Context) (which : Nat) (b : Bar) : Context := { c with bars := c.bars.setIfInBounds which b }

/-- The word that gives the rectangle a member of a kind takes part in, and the rectangle. -/
def Context.barWord (c : Context) (which : Nat) : Word := if which < 4 then c.breg.getD which 0 else if which = 4 then c.domain else (c.bar 5).arg
def Context.barRect (c : Context) (which : Nat) : Rect := rectOf (c.barWord which)

/-- An episode of a member: same kind, interface, tray, virtual die and rectangle. -/
def Episode.is (e : Episode) (which vif tray vd : Nat) (r : Rect) : Bool :=
  e.k == which && e.vif == vif && e.tray == tray && e.vd == vd && e.rect == r

/-- Interface and tray of core `id` as numbers. -/
def State.place (s : State) (id : Nat) : Nat × Nat := (s.coreAt id).tray.getD (0, 0)

/-- The virtual die of core `id` in its interface. -/
def State.vdAt (s : State) (id : Nat) : Nat := (s.vif (s.vifOf id)).vdOf (pdieOf id)

/-- The open episode a member's arrival belongs to. -/
def State.openEpisode (s : State) (id which : Nat) (r : Rect) : Option Nat :=
  s.episodes.findIdx? fun e => e.is which (s.place id).1 (s.place id).2 (s.vdAt id) r && !e.committed

/-- An arrival: PEND := 1, RELD := 0, TMO := 0, counted from now (R146–R148). -/
def Context.arrive (c : Context) (which now from_ : Nat) (arg : Word) : Context :=
  c.setBar which
    { (c.bar which) with pend := true, reld := false, tmo := false, missing := none, t0 := now, sent := false, leaving := false, arg := arg, from_ := from_ }

/-- The instruction waits for the release of an arrival of kind `which` (R38, R146). -/
def State.waitBar (s : State) (which : Nat) : Result :=
  let t := s.waitOn .barrier
  .next (t.setCx { t.cx with want := 32 + which })

/-- BARTIME owed is taken: the instruction has no other effect (R147). -/
def State.takeOwed (s : State) (which : Nat) : Result :=
  ((s.setCx (s.cx.setBar which { (s.cx.bar which) with owed := false }))).trap 0x0F (word which)

/-! ## BSET, BARRIVE, BWAIT, BAR, BSTAT (R145–R148) -/

/-- BREGk as a vector index. -/
def bregIdx (k : BitVec 2) : Fin 4 := ⟨k.toNat, by omega⟩

/-- BSET: BREGk := g(A) under the rules of a control-register write (R145, R22, R26). -/
def execBset (k : BitVec 2) (a : GReg) (s : State) : Result :=
  let sel := 0x1C + k.toNat
  let old := s.cx.breg[bregIdx k]
  match s.crTrap sel old (s.g a) with
  | some t => s.trap t.1 t.2
  | none => (s.putCreg sel (crForm sel old (s.g a))).done (.bset k a)

/-- BARRIVE is refused: an arrival is outstanding, or BREGk is not in use (R146). -/
def State.cannotArrive (s : State) (k : BitVec 2) : Bool := (s.cx.bar k.toNat).pend || !(bit s.cx.breg[bregIdx k] 0)

/-- BARRIVE (R146). -/
def execBarrive (k : BitVec 2) (s : State) : Result :=
  if (s.cx.bar k.toNat).owed then s.takeOwed k.toNat
  else if s.cannotArrive k then s.illegal (.barrive k)
  else (s.setCx (s.cx.arrive k.toNat s.cy s.seq 0)).done (.barrive k)

/-- The wait of BWAIT and BAR (R146). -/
def State.barWait (s : State) (i : Instr) (k : Nat) : Result :=
  if (s.cx.bar k).reld then (s.setCx (s.cx.setBar k { (s.cx.bar k) with reld := false })).done i
  else if (s.cx.bar k).pend then s.waitBar k
  else s.illegal i

/-- BWAIT (R146). -/
def execBwait (k : BitVec 2) (s : State) : Result :=
  if (s.cx.bar k.toNat).owed then s.takeOwed k.toNat else s.barWait (.bwait k) k.toNat

/-- BAR: BARRIVE, then BWAIT (R146). -/
def execBar (k : BitVec 2) (s : State) : Result :=
  if (s.cx.bar k.toNat).owed then s.takeOwed k.toNat
  else if s.cx.arrived then s.barWait (.bar k) k.toNat
  else if s.cannotArrive k then s.illegal (.bar k)
  else ({ s with cx := { (s.cx.arrive k.toNat s.cy s.seq 0) with arrived := true } }).waitBar k.toNat

/-- BSTAT (R148). -/
def execBstat (d : GReg) (k : BitVec 2) (s : State) : Result :=
  let b := s.cx.bar k.toNat
  let m := b.missing.getD (0, 0)
  s.doneG (.bstat d k) d
    (word (b2n b.pend + 2 * b2n b.reld + 4 * b2n (bit s.cx.breg[bregIdx k] 1) + 8 * b2n b.tmo + 16 * b2n b.missing.isSome
      + m.1 * 2 ^ 5 + m.2 * 2 ^ 12))

/-! ## The sweep (R146, R147, R327, R328) -/

/-- The sites an arrival passes from a member on: west along the row, then north up the west column (R327). -/
def sweepPath (r : Rect) (row col : Nat) : List (Nat × Nat) :=
  ((List.range (col - r.left)).map fun n => (row, col - 1 - n)) ++ (List.range (row - r.top)).map fun n => (row - 1 - n, r.left)

/-- The first enabled site an arrival passes, as a core. -/
def State.nextOnSweep (s : State) (id : Nat) (r : Rect) : Option Nat :=
  ((sweepPath r (rowOf id) (colOf id)).find? fun p => s.enabled (s.vif (s.vifOf id)) (s.trayAt id) (s.vdAt id) p.1 p.2).map
    fun p => siteId (pdieOf id) p.1 p.2

/-- Whether a core has a member of a kind for a rectangle: a context that names it in BREGk or, for DPHASE, in DOMAIN, or that has come to its PHLX. -/
def State.hasMember (s : State) (id k : Nat) (r : Rect) : Bool :=
  (List.range 11).any fun n =>
    let c := s.cxAt id n
    let w := c.barWord k
    (if k < 4 then bit w 0 else if k = 4 then decide (2 ≤ bits w 2 0) else (c.bar 5).pend) && rectOf w == r

/-- Where an arrival is held: the next site has no member for its rectangle (R328). -/
def State.heldAt (s : State) (id which : Nat) (r : Rect) : Option Nat :=
  match s.nextOnSweep id r with
  | some n => if s.hasMember n which r then none else some n
  | none => none

/-- The signal of a member's arrival where one is held. -/
def State.signalOf (s : State) (core ctx which : Nat) : Option Signal :=
  (s.sites.flatMap fun id => (s.coreAt id).signals).find? fun g => g.k == which && g.core == core && g.ctx == ctx

/-- The arrival of a member joins its episode (R146). -/
def State.joinEpisode (s : State) (id ctx which : Nat) (r : Rect) (arg : Word) (clk : Clock) : State :=
  match s.openEpisode id which r with
  | some n =>
    { s with episodes := s.episodes.modify n fun e => { e with arrived := e.arrived ++ [(id, ctx, arg)], clk := e.clk.join clk, left := e.left.filter (· != id) } }
  | none =>
    { s with episodes := s.episodes ++ [⟨which, (s.place id).1, (s.place id).2, s.vdAt id, r, [(id, ctx, arg)], clk, false, [], []⟩] }

/-- BARRIER_ARRIVAL_SEND: every earlier access of the arriver is performed at DIE scope, and its arrival enters the sweep (R273,
R327); it is held at a core without a member, which holds at most 64 signals, until that core has one (R328). -/
def execBarrierArrivalSend (core ctx which : Nat) (s : State) : Result :=
  .next (s.within core ctx fun s =>
    let b := s.cx.bar which
    if b.pend && !b.sent && s.performedTo 3 (fun n => decide (n < b.from_)) then
      let t := s.setCx (s.cx.setBar which { b with sent := true })
      let r := t.cx.barRect which
      match t.heldAt core which r with
      | some n =>
        if (t.coreAt n).signals.length ≥ 64 then t
        else t.modCore n fun c => { c with signals := c.signals ++ [⟨which, t.cx.barWord which, core, ctx, false⟩] }
      | none => t.joinEpisode core ctx which r b.arg (t.releaseClk t.cx.clk core)
    else
      match s.signalOf core ctx which with
      | some g =>
        if b.pend && (g.met || (s.heldAt core which (rectOf g.rect)).isNone) then
          (s.dropSignal core ctx which).joinEpisode core ctx which (rectOf g.rect) b.arg (s.releaseClk s.cx.clk core)
        else s
      | none => s)

/-- The enabled sites of an episode's rectangle, as cores in row-major order. -/
def State.members (s : State) (e : Episode) : List Nat :=
  let v := s.vif e.vif
  (e.rect.sites.filter fun p => s.enabled v (v.trays.getD e.tray Tray.empty) e.vd p.1 p.2).map fun p => siteId (v.pdie e.vd) p.1 p.2

/-- Whether an episode may commit: every member has arrived; for DPHASE each by its control context with one target and DOMAIN, and
no helper of a member core is in the domain (R52). -/
def State.complete (s : State) (e : Episode) : Bool :=
  let ms := s.members e
  !e.arrived.isEmpty && ms.all (fun m => e.arrived.any fun a => a.1 == m)
    && (e.k != 4 ||
      e.arrived.all fun a =>
        a.2.1 == 0 && a.2.2 == (e.arrived.headD (0, 0, 0)).2.2
          && ((List.range 11).drop 1).all fun k => !((s.cxAt a.1 k).st.live && (s.cxAt a.1 k).domain == (s.cxAt a.1 0).domain))

/-- BARRIER_COMMIT: the corner commits once every member's arrival has reached it (R146). -/
def execBarrierCommit (episode : Nat) (s : State) : Result :=
  match s.episodes[episode]? with
  | some e =>
    .next (if !e.committed && s.complete e then { s with episodes := s.episodes.modify episode fun e => { e with committed := true } } else s)
  | none => .next s

/-- The release at one member in view (R146): PEND := 0, RELD := 1, SENSE inverted, the joined clock; an instruction that
waits for this release completes, also a PHLX of a member that has been halted since the commit (R41). -/
def State.releaseMember (s : State) (which : Nat) (clk : Clock) : State :=
  let b := s.cx.bar which
  let c1 := (s.cx.setBar which { b with pend := false, reld := which < 4, leaving := false }).acquire s.cy clk
  let c2 := if h : which < 4 then { c1 with breg := c1.breg.set which (c1.breg[which] ^^^ 2) } else c1
  let fin := (c2.setBar which { (c2.bar which) with reld := false }).retire (c2.next 8)
  if s.cx.st = .waiting .barrier ∧ s.cx.want = 32 + which then s.setCx fin
  else if which = 5 ∧ s.cx.st = .halted ∧ s.cx.arrived then s.setCx { fin with st := .halted }
  else s.setCx c2

/-- The domain of an episode's members changes phase (R52). -/
def State.changePhase (s : State) (e : Episode) : State :=
  let a := e.arrived.headD (0, 0, 0)
  let name := (s.cxAt a.1 a.2.1).domain
  let dst := bits a.2.2 63 62
  let isIt := fun (d : Domain) => d.vif == e.vif && d.tray == e.tray && d.name == name
  let d := (s.domains.find? isIt).getD ⟨e.vif, e.tray, name, 0, 0, 0, 0, [], [], [], []⟩
  let d2 : Domain :=
    if dst = 2 then { d with phase := 2, start := s.cy + 1, slot := 0, issued := [], wires := [], drives := [], latched := [] }
    else if dst = 0 then { d with phase := 0, sstep := (d.sstep + 1) % 65536 }
    else { d with phase := 1, slot := d.slotNow s.cy }
  { s with domains := (s.domains.filter fun d => !isIt d) ++ [d2] }

/-- The phalanx that a committed PHLX episode forms at its leader (R41). -/
def State.formPhlx (s : State) (e : Episode) (leader : Nat) : State :=
  { s with
    seq := s.seq + 1
    phalanxes := s.phalanxes ++
      [⟨s.seq, leader, e.vd, e.rect, (s.coreAt leader).skew.toNat, 0, 0, [], s.members e⟩] }

/-- The release of one arrival, with what it does for PHLX at the member (R41): INPHLX, and LEADER at the north-west member. -/
def State.releaseArrival (s : State) (e : Episode) (a : Nat × Nat × Word) : State :=
  let first := (s.members e).headD 0
  let s1 := if e.k = 5 ∧ a.1 = first then s.formPhlx e first else s
  s1.within a.1 a.2.1 fun t =>
    let u := t.releaseMember e.k e.clk
    if e.k = 5 then u.setCx { u.cx with status := setBit (setBit u.cx.status 4 true) 5 (a.1 == first), pos := 0 } else u

/-- BARRIER_RELEASE: the release of a committed episode reaches a member (R146, R327). A DPHASE into the transfer phase releases every
member in the same cycle (R52); the leader of a PHLX is released first (R41). The episode ends with its last release. -/
def execBarrierRelease (episode core : Nat) (s : State) : Result :=
  match s.episodes[episode]? with
  | some e =>
    if !e.committed || e.released.contains core || !(e.arrived.any fun a => a.1 == core) then .next s
    else if e.k == 5 && e.released.isEmpty && core != (s.members e).headD 0 then .next s
    else
      let all := e.k == 4 && bits (e.arrived.headD (0, 0, 0)).2.2 63 62 == 2
      let now := e.arrived.filter fun a => all || a.1 == core
      let s1 := if e.k = 4 ∧ e.released = [] then s.changePhase e else s
      let s2 := now.foldl (fun s a => s.releaseArrival e a) s1
      let done := e.released ++ now.map (·.1)
      .next { s2 with
        episodes := if e.arrived.all fun a => done.contains a.1 then dropAt s2.episodes episode
                    else s2.episodes.modify episode fun e => { e with released := done } }
  | none => .next s

/-- The member's episode has ended in withdrawal: PEND := 0, TMO := 1, BARTIME owed (R147). -/
def Context.withdrawn (c : Context) (which : Nat) (missing : Option (Nat × Nat)) : Context :=
  c.setBar which { (c.bar which) with pend := false, tmo := true, owed := true, sent := false, leaving := false, missing := missing }

/-- Whether the arrival of a member is in an open episode. -/
def State.inEpisode (s : State) (id ctx which : Nat) : Bool :=
  s.episodes.any fun e => e.k == which && !e.released.contains id && e.arrived.any fun a => a.1 == id && a.2.1 == ctx

/-- The first member of an episode, in row-major order, whose arrival has not reached the corner; one that has been withdrawn had (R148). -/
def State.missingOf (s : State) (e : Episode) : Option (Nat × Nat) :=
  ((s.members e).find? fun m => !(e.arrived.any fun x => x.1 == m) && !e.left.contains m).map fun m => (rowOf m, colOf m)

/-- The missing member for an arrival of the context in view that is cancelled before it is sent: of the open episode, or of one that
nobody has arrived in (R147, R148). -/
def State.missingNow (s : State) (which : Nat) : Option (Nat × Nat) :=
  let r := s.cx.barRect which
  let fresh : Episode := ⟨which, (s.place s.id).1, (s.place s.id).2, s.myVd, r, [], [], false, [], []⟩
  s.missingOf (match s.openEpisode s.id which r with | some n => s.episodes.getD n fresh | none => fresh)

/-- BARRIER_TIMEOUT: BTIMEOUT cycles after the arriving instruction the member withdraws: at once when its arrival never entered the
sweep, else by a withdrawal (R147). -/
def execBarrierTimeout (core ctx which : Nat) (s : State) : Result :=
  .next (s.within core ctx fun s =>
    let b := s.cx.bar which
    if b.pend && !b.leaving && !s.suspended core && decide (s.cy - b.t0 ≥ s.cx.barrierLimit) then
      if s.inEpisode core ctx which then s.setCx (s.cx.setBar which { b with leaving := true })
      else (s.setCx (s.cx.withdrawn which (s.missingNow which))).dropSignal core ctx which
    else s)

/-- An arrival removed from an episode, with its signal where one is held (R147, R328). -/
def State.removeArrival (s : State) (episode which core ctx : Nat) : State :=
  State.dropSignal { s with
    episodes := (s.episodes.modify episode fun e =>
      { e with arrived := e.arrived.filter (fun a => !(a.1 == core && a.2.1 == ctx)), left := e.left ++ [core] }).filter
      fun e => !e.arrived.isEmpty } core ctx which

/-- BARRIER_WITHDRAW_ACCEPT: the withdrawal reaches the corner: before the commit the arrival is removed and the first missing member
recorded (R148); after it the withdrawal is void (R147). -/
def execBarrierWithdrawAccept (episode core : Nat) (s : State) : Result :=
  match s.episodes[episode]? with
  | some e =>
    match e.arrived.find? fun a => a.1 == core && ((s.cxAt a.1 a.2.1).bar e.k).leaving with
    | some a =>
      if e.committed then .next (s.modCx core a.2.1 fun c => c.setBar e.k { (c.bar e.k) with leaving := false })
      else
        .next ((s.modCx core a.2.1 fun c => c.withdrawn e.k (s.missingOf e)).removeArrival episode e.k core a.2.1)
    | none => .next s
  | none => .next s

/-! ## Phases (R52, R150) -/

/-- The phase of the context's domain: compute before its first DPHASE. -/
def State.phase (s : State) : Nat := match s.domainOf s.id s.cx with | some d => d.phase | none => 0

/-- SLOT now. -/
def State.slot (s : State) : Nat := match s.domainOf s.id s.cx with | some d => d.slotNow s.cy | none => 0

/-- The table of R52: whether DPHASE may take a domain from a phase to a target. -/
def phaseStep (phase target : Nat) : Bool :=
  (phase == 0 && target == 1) || (phase == 1 && (target == 0 || target == 2)) || (phase == 2 && target == 1)

/-- DPHASE out of the transfer phase finds an XMIT or XSEL armed for a later slot (R150). -/
def State.armedLater (s : State) : Bool :=
  s.cx.arms.any (fun a => decide (a.2.1 > s.slot)) || (match s.cx.selArm with | some a => decide (a.2.1 > s.slot) | none => false)

/-- DPHASE (R52, R150). -/
def execDphase (t : BitVec 2) (s : State) : Result :=
  let i := Instr.dphase t
  if bits s.cx.domain 2 0 < 2 then s.illegal i
  else if (s.cx.bar 4).owed then s.takeOwed 4
  else if s.cx.arrived then (if (s.cx.bar 4).pend then s.waitBar 4 else s.done i)
  else if !phaseStep s.phase t.toNat ∨ (s.phase = 2 ∧ s.armedLater) then s.illegal i
  else
    ({ s with cx := { (s.cx.arrive 4 s.cy s.seq (s.cx.domain ||| word (t.toNat * 2 ^ 62))) with arrived := true } }).waitBar 4

/-! ## The transfer fabric (R54, R152) -/

/-- XMIT and XSEL outside a transfer phase are ILLEGAL (R152). -/
def State.transferOk (s : State) : Bool := decide (bits s.cx.domain 2 0 ≥ 2) && s.phase == 2

/-- XMIT and XMIT.R: the traps in their order, then the wire is armed (R152). -/
def State.armWire (s : State) (i : Instr) (w : BitVec 2) (slot : BitVec 22) (v : Option Word) : Result :=
  if !s.transferOk then s.illegal i
  else if slot.toNat < s.slot then s.trap 0x0E (word slot.toNat)
  else if !(bit s.cx.slotmask (slot.toNat % 64)) then s.trap 0x0E (word slot.toNat)
  else if (s.neighbour s.id w.toNat).isNone then s.trap 0x07 (word w.toNat)
  else if s.cx.arms.any fun a => a.1 == w.toNat then s.illegal i
  else (s.setCx { s.cx with arms := s.cx.arms ++ [(w.toNat, slot.toNat, v)] }).done i

/-- XMIT: the value is read at issue (R152). -/
def execXmit (w : BitVec 2) (slot : BitVec 22) (a : GReg) (s : State) : Result := s.armWire (.xmit w slot a) w slot (some (s.g a))
/-- XMIT.R: the value is the latch's in the slot (R152). -/
def execXmitR (w : BitVec 2) (slot : BitVec 22) (s : State) : Result := s.armWire (.xmitR w slot) w slot none

/-- XSEL (R152). -/
def execXsel (d : GReg) (w : BitVec 2) (slot : BitVec 22) (s : State) : Result :=
  let i := Instr.xsel d w slot
  if !s.transferOk then s.illegal i
  else if slot.toNat < s.slot then s.trap 0x0E (word slot.toNat)
  else if s.cx.selArm.isSome then s.illegal i
  else (s.setCx { s.cx with selArm := some (w.toNat, slot.toNat, d) }).done i

/-- A change of the domain of core `id`'s control context. -/
def State.modDomain (s : State) (id : Nat) (f : Domain → Domain) : State :=
  match s.domainOf id (s.cxAt id 0) with
  | some d => { s with domains := s.domains.map fun x => if x.vif = d.vif ∧ x.tray = d.tray ∧ x.name = d.name then f x else x }
  | none => s

/-- The armed drive of wire w in the present slot takes place: the word goes on the wire towards the neighbour (R54, R152). It stands in
the sender's domain: a neighbour of another domain takes 0 (the model's choice, notes/assumptions/95.md). -/
def State.driveOne (s : State) (core w : Nat) : State :=
  let c := s.cxAt core 0
  match (if s.halted core then none else s.domainOf core c) with
  | none => s
  | some d =>
    match c.arms.find? fun a => a.1 == w && a.2.1 == d.slotNow s.cy with
    | none => s
    | some a =>
      if d.phase ≠ 2 then s
      else
        let v := a.2.2.getD (s.coreAt core).latch
        let t := s.modCx core 0 fun c => { c with arms := c.arms.filter fun x => x.1 != w }
        match s.neighbour core w with
        | some n => t.modDomain core fun d => { d with drives := d.drives ++ [(n, (w + 2) % 4, v)] }
        | none => t

/-- The armed latch of the present slot takes the word driven towards the core in the slot before, or 0, and writes g(D) (R152). -/
def State.latchOne (s : State) (core : Nat) : State :=
  let c := s.cxAt core 0
  match (if s.halted core then none else s.domainOf core c), c.selArm with
  | some d, some a =>
    if d.phase = 2 ∧ a.2.1 = d.slotNow s.cy then
      let v := ((d.wires.find? fun x => x.1 == core && x.2.1 == a.1).map (·.2.2)).getD 0
      (s.modCore core fun k => { k with latch := v }).modCx core 0 fun c => { (c.putG a.2.2 v) with selArm := none }
    else s
  | _, _ => s

/-- XMIT_DRIVE (R54): the drive armed for the present slot. -/
def execXmitDrive (core : Nat) (w : BitVec 2) (s : State) : Result := .next (s.driveOne core w.toNat)

/-- XSEL_LATCH (R152): at the end of the slot, after every drive of the core in it and after its instruction of the slot; a member that
issues none latches as the cycle ends (`State.advance`). -/
def execXselLatch (core : Nat) (s : State) : Result :=
  match s.domainOf core (s.cxAt core 0) with
  | some d => .next (if d.issued.contains core then ((List.range 4).foldl (fun s w => s.driveOne core w) s).latchOne core else s)
  | none => .next s

/-! ## Phalanxes (R41, R45, R153) -/

/-- The operand of PHLX names a rectangle of enabled sites of the caller's virtual die and tray that contains it (R41). -/
def State.phlxOk (s : State) (w : Word) : Bool :=
  bits w 7 0 == 0 && bits w 63 36 == 0 && s.rectOk s.myVd (rectOf w)
    && (rectOf w).sites.all fun p => (s.siteAt s.myVd p.1 p.2).isSome

/-- PHLX (R41, R153). -/
def execPhlx (a : GReg) (s : State) : Result :=
  let i := Instr.phlx a
  if (s.cx.bar 5).owed then s.takeOwed 5
  else if s.cx.arrived then (if (s.cx.bar 5).pend then s.waitBar 5 else s.done i)
  else if s.core.k ≠ 0 ∨ !s.phlxOk (s.g a) ∨ s.cx.inPhlx ∨ ((s.core.ctxs s.cx).tail.any fun c => c.st != .free) then s.illegal i
  else ({ s with cx := { (s.cx.arrive 5 s.cy s.seq (s.g a)) with arrived := true } }).waitBar 5

/-- SPLIT: a member leaves and goes on by itself; no effect outside a phalanx (R45). -/
def execSplit (s : State) : Result := (if s.cx.inPhlx then s.depart s.id else s).done .split

end Sys2Proof.Machine
end

