-- ==== Sys2Proof/Machine/WorkQueues.lean ====
section
/-!
DEFINITION. Work queues and task-graph nodes (spec/06_memory_sync.md R154–R157, spec/02_execution_model.md R55–R58,
spec/18_scheduling.md R315). A node is named by the key of its record; words 0–7 of the record lie in memory (R56), and
`nodes` keeps what the record's hardware words stand for.
-/
namespace Sys2Proof.Machine

/-- Fields of a record's word 0 (R56). -/
def State.nodeState (s : State) (key : Nat) : Nat := bits (s.nodeWord key 0) 2 0
def State.nodeRetry (s : State) (key : Nat) : Nat := bits (s.nodeWord key 0) 4 3
def State.nodeWq (s : State) (key : Nat) : Nat := bits (s.nodeWord key 0) 19 8
def State.nodeDeps (s : State) (key : Nat) : Nat := bits (s.nodeWord key 0) 43 20

/-- The Waiting and Running nodes whose WQ names a queue (R55). -/
def State.queueCount (s : State) (q : Nat) : Nat :=
  (s.nodes.filter fun n => s.nodeWq n.1 == q && (s.nodeState n.1 == 0 || s.nodeState n.1 == 2)).length

/-- A body is the push of a record on a queue, as `f` says. -/
def Body.pushes (b : Body) (f : Nat → Nat → Bool) : Bool := match b with | .push key wq => f key wq | _ => false

/-- A WPUSH that `f` names has issued and its REL write is not yet applied (R273). -/
def State.pushOnWay (s : State) (f : Nat → Nat → Bool) : Bool :=
  (s.sites.any fun id => (s.coreAt id).sbuf.any fun e => e.body.pushes f) || s.flight.any fun m => m.body.pushes f

/-- A queue is drained: closed, no Queued node, no Waiting or Running one, none on its way to it (R55). -/
def State.drained (s : State) (q : Nat) : Bool :=
  (s.wqueue q).closed && (s.wqueue q).items.isEmpty && s.queueCount q == 0 && !s.pushOnWay fun _ wq => wq == q

def State.setWq (s : State) (q : Nat) (w : WorkQueue) : State := { s with wqueues := Table.set s.wqueues q w }

/-- A node taken by the context in view: Running, owned by the core, its STATE read with acquire at MOD scope (R57, R58). -/
def State.takeNode (s : State) (key : Nat) : State :=
  let m := s.nodeMeta key
  let t := { (s.putNode key 2 (s.nodeRetry key)) with nodes := Table.set s.nodes key { m with owner := some s.id } }
  let u := { t.setCore { t.core with node := some (key, m.ran), nodeErr := none, nodeFrom := t.seq + 1, staging := [], pushes := [] } with
    seq := t.seq + 1 }
  let st := u.stampOf (key / 8)
  u.setCx (u.cx.acquire u.cy (Clock.join (Stamp.visible st.1 u.id) (Stamp.visible st.2 u.id)))

/-- Context k of core `id` waits in a WPOP on queue q. -/
def State.waitsWork (s : State) (q : Nat) (p : Nat × Nat) : Bool := (s.cxAt p.1 p.2).st == .waiting .work && (s.cxAt p.1 p.2).want == 64 + q

/-- The contexts that wait on queue q, in the order in which they began to wait; one that was halted or trapped waits no longer (R315). -/
def State.waitersOf (s : State) (q : Nat) : List (Nat × Nat) := (s.wqueue q).waiters.filter (s.waitsWork q)

/-- The context in view waits on queue q, at the end of the order unless it waits there already (R315, R318). -/
def State.waitWork (s : State) (q : Nat) : Result :=
  let me := (s.id, s.core.k)
  if s.waitsWork q me then .next s
  else
    let t := (s.setWq q { s.wqueue q with waiters := (s.waitersOf q).filter (· != me) ++ [me] }).waitOn .work
    .next (t.setCx { t.cx with want := 64 + q })

/-- WPOP (R154, R55, R315): a blocking WPOP takes its place behind those that wait; WPOP_WAKE gives it its item. A WPOP that waits when
another context of its core takes a node raises ILLEGAL when it is tried again: the model's choice (notes/assumptions/74.md). -/
def execWpop (nb : Bool) (d a : GReg) (s : State) : Result :=
  let i := Instr.wpop nb d a
  let q := bits (s.g a) 11 0
  match s.cx.popped with
  | some v => s.doneG i d v
  | none =>
    if bits (s.g a) 63 12 ≠ 0 ∨ !(s.myVif.wqs.contains q) ∨ s.core.node.isSome then s.illegal i
    else if !s.gate 3 4 then s.wait .reply
    else
      match (s.wqueue q).items, (s.waitersOf q).filter (· != (s.id, s.core.k)) with
      | key :: l, [] =>
        (((s.passGate.setWq q { s.wqueue q with items := l, waiters := [] })).takeNode key).doneG i d (s.nodeAddr s.id key)
      | _, _ =>
        if s.drained q then s.doneG i d 1
        else if nb then s.doneG i d 0
        else s.passGate.waitWork q

/-- WPOP_WAKE: the head item goes to the oldest waiter (R315); on a drained queue every waiter reads END (R55). A waiter whose core has
taken a node meanwhile is passed over (notes/assumptions/74.md). -/
def execWpopWake (queue : Nat) (s : State) : Result :=
  let w := s.wqueue queue
  let ws := s.waitersOf queue
  match w.items, ws.find? fun p => (s.coreAt p.1).node.isNone with
  | key :: l, some p =>
    let t := s.setWq queue { w with items := l, waiters := ws.filter (· != p) }
    .next (t.within p.1 p.2 fun t =>
      let u := t.takeNode key
      u.setCx { u.cx with popped := some (u.nodeAddr u.id key), st := .ready })
  | _, _ =>
    if s.drained queue then
      .next (ws.foldl (fun t p => t.modCx p.1 p.2 fun c => { c with popped := some 1, st := .ready }) (s.setWq queue { w with waiters := [] }))
    else .next (s.setWq queue { w with waiters := ws })

/-- A push applied at the record: word 5 becomes non-zero, the node is Queued at the tail of its queue or made Waiting by its DEPS (R57,
R155). -/
def State.pushNode (s : State) (key wq : Nat) : State :=
  let m := s.nodeMeta key
  let dep := s.nodeDeps key
  let f := s.freeWord
  let s1 := if s.nodeWord key 5 = 0 then { f.2 with mem := Memory.putN s.mem (key + 40) 8 (f.1 ||| 1).toNat } else s
  let s2 := s1.putNode key (if dep = 0 then 1 else 0) (s1.nodeRetry key)
  let s3 := { s2 with nodes := Table.set s2.nodes key { m with owner := none, ran := false } }
  if dep = 0 then s3.enqueue wq key false else s3

/-- WQ of a record, as the core reads it (R56). -/
def State.pushWq (s : State) (key : Nat) : Nat := bits (word (s.peekN key 8)) 19 8

/-- A record, as the core reads it, may be pushed: new or Done, its queue open and in the interface (R155). -/
def State.pushable (s : State) (key : Nat) : Bool :=
  (s.peekN (key + 40) 8 == 0 || bits (word (s.peekN key 8)) 2 0 == 3) && !(s.pushOnWay fun k _ => k == key)
    && !(s.wqueue (s.pushWq key)).closed && s.myVif.wqs.contains (s.pushWq key)

/-- The push as a REL write at MOD scope to the record's STATE (R155, R273). -/
def State.sendPush (s : State) (ea : Word) (key : Nat) : State :=
  s.enter s.mine key .w ⟨4, 4, 0, 1, false⟩ ea (.push key (s.pushWq key)) false

/-- WPUSH (R155): held until NDONE while the core owns a Running node (R157). -/
def execWpush (a : GReg) (s : State) : Result :=
  let i := Instr.wpush a
  let ea := s.g a
  if ea.toNat % 64 ≠ 0 then s.trap 0x05 ea
  else if regionOf ea ≠ .coord ∨ coordRow ea < 126 then s.trap 0x07 ea
  else
    match s.coordKey ea with
    | none => s.trap 0x07 ea
    | some key =>
      if s.core.node.isSome then
        if s.pushable key then (s.setCore { s.core with pushes := s.core.pushes ++ [(false, key)] }).done i else s.illegal i
      else if !s.gate 4 4 then s.wait .reply
      else if s.pushable key then (s.passGate.sendPush ea key).done i
      else s.illegal i

/-- A queue closed (R155). -/
def State.closeQueue (s : State) (q : Nat) : State := s.setWq q { s.wqueue q with closed := true }

/-- WPUSH.CLOSE (R155). -/
def execWpushClose (a : GReg) (s : State) : Result :=
  let i := Instr.wpushClose a
  let q := bits (s.g a) 11 0
  if !(s.myVif.wqs.contains q) ∨ (s.wqueue q).closed then s.illegal i
  else if s.core.node.isSome then (s.setCore { s.core with pushes := s.core.pushes ++ [(true, q)] }).done i
  else (s.closeQueue q).done i

/-- A held push or close takes place at NDONE. A push whose record or queue no longer passes the checks of WPUSH is dropped: the model's choice
(notes/assumptions/96.md). -/
def State.heldPush (s : State) (p : Bool × Nat) : State :=
  if p.1 then s.closeQueue p.2 else if s.pushable p.2 then s.sendPush (s.nodeAddr s.id p.2) p.2 else s

/-- A staged write enters the store buffer as an access of the context that made it, keeping its ORD (R157). -/
def State.commitOne (s : State) (x : Staged) (l : List Staged) : State :=
  s.setCore { s.core with sbuf := s.core.sbuf ++ [{ x.e with src := .ctx s.id x.ctx }], staging := l }

/-- The oldest staged write enters the store buffer; the next follows once it has been applied, so that they are applied in program order
(R157). One to main memory is translated when it enters, so that none is applied under an old generation (R301). -/
def State.commitStaged (s : State) : Result :=
  match s.core.staging with
  | [] => s.wait .reply
  | x :: l =>
    match x.e.dest with
    | .die _ =>
      match s.translate (if x.e.body.isStore then .store else .amo) x.e.va with
      | .ok key => (((s.touchTlb x.e.va).setCx { s.cx with walk := none }).commitOne { x with e := { x.e with body := x.e.body.atKey key, dest := homeOf key } } l).wait .reply
      | .trap c v => s.trap c v
      | .walk va => .next (s.startWalk (if x.e.body.isStore then .store else .amo) va)
      | .badFrame => .fault .frameBeyondStack
    | _ => (s.commitOne x l).wait .reply

/-- A source is a context or an engine thread of core `id`. -/
def Src.ofCore (src : Src) (id : Nat) : Bool :=
  match src with | .ctx c _ => c == id | .engine c _ => c == id | .node c => c == id | .host _ => false

/-- A write of the core is not yet applied at its home or acknowledged by its peer (R156). -/
def State.coreWritesOpen (s : State) : Bool :=
  s.core.sbuf.any (fun e => e.cls.isMem) || s.flight.any (fun m => (m.core == s.id || m.also.any (·.src.ofCore s.id)) && m.cls.isMem)
  || s.torus.owedAcks.any (fun a => a.core == s.id)

/-- The record of a node of the Running core, named by g(A): its key. -/
def State.myNode (s : State) (ea : Word) : Option Nat :=
  match (if regionOf ea = .coord then s.coordKey ea else none), s.core.node with
  | some key, some n => if key = n.1 then some key else none
  | _, _ => none

/-- The DEPS decrement of one successor: an AMO write with ORD AR at MOD scope (R58, R273). -/
def State.releaseSucc (s : State) (ea : Word) : State :=
  match (if regionOf ea = .coord then s.coordKey ea else none) with
  | some key => s.enter s.mine key .a ⟨5, 4, 0, 1, false⟩ ea (.deps key) false
  | none => s

/-- The successors of a node: NSUCC addresses from SUCC (R56). -/
def State.successors (s : State) (key : Nat) : List Word :=
  let base := word (bits (s.nodeWord key 2) 51 0)
  match (if regionOf base = .coord then s.coordKey base else none) with
  | some b => (List.range (bits (s.nodeWord key 3) 15 0)).map fun n => word (Memory.getN s.mem (b + 8 * n) 8)
  | none => []

/-- NDONE's end: held commands and pushes released, then every successor decremented; Done (R57, R156). -/
def State.finishNode (s : State) (key : Nat) : State :=
  let s1 := s.setCore { s.core with cmds := s.core.cmds.map fun c => if c.st = .held then { c with st := .queued } else c }
  let s2 := s1.core.pushes.foldl State.heldPush s1
  let s3 := (s2.successors key).foldl State.releaseSucc s2
  let s4 := s3.putNode key 3 (s3.nodeRetry key)
  let s5 := { s4 with nodes := Table.set s4.nodes key { s4.nodeMeta key with owner := none, ran := false } }
  s5.setCore { s5.core with node := none, nodeErr := none, staging := [], pushes := [] }

/-- NDONE (R156, R349): an error recorded against the node while its writes are committed still rolls it back, so that it never ends with one
(R353); its decrements wait as an access of ORD AR does (R267). -/
def execNdone (a : GReg) (s : State) : Result :=
  let i := Instr.ndone a
  match s.myNode (s.g a) with
  | none => s.illegal i
  | some key =>
    if s.cx.asked then
      if s.core.nodeErr.isSome then s.rollback.trapPending
      else if s.coreWritesOpen then s.wait .reply
      else if !s.core.staging.isEmpty then s.commitStaged
      else if !s.gate 5 4 then s.wait .reply
      else (s.passGate.finishNode key).done i
    else if !s.checked then s.wait .reply
    else s.checkPoint fun s => ({ s with cx := { s.cx with asked := true } }).wait .reply

/-- NABORT: staged writes discarded, held commands cancelled, the node Queued at the tail, RETRY unchanged (R57, R156). -/
def execNabort (a : GReg) (s : State) : Result :=
  let i := Instr.nabort a
  match s.myNode (s.g a) with
  | none => s.illegal i
  | some key =>
    if !s.checked then s.wait .reply
    else
      s.checkPoint fun s =>
        let s1 := s.putNode key 1 (s.nodeRetry key)
        let s2 := { s1 with nodes := Table.set s1.nodes key { s1.nodeMeta key with owner := none, ran := true } }
        let s3 := s2.setCore { s2.core.cancelHeld with node := none, nodeErr := none, staging := [], pushes := [] }
        (s3.enqueue (s3.nodeWq key) key false).done i

end Sys2Proof.Machine
end

