-- ==== Sys2Proof/Machine/Fabric.lean ====
section
/-!
DEFINITION. Fabric operations: FLD, FWAIT, FST, FAMO, FMCAST and FFENCE (spec/06_memory_sync.md R140–R144).
-/
namespace Sys2Proof.Machine

/-- PEER and OFFSET of a peer-window address (R140). -/
def peerOf (ea : Word) : Nat := bits ea 46 38
def peerOff (ea : Word) : Nat := bits ea 37 0

/-- A peer index names a module that exports a window to the caller's interface (R140). -/
def State.peerOk (s : State) (p : Nat) : Bool := s.myVif.peers.any fun x => x.1 == p

/-- The checks of a fabric access (R132, R140, R141): LOC raises PERM; a peer window is checked at issue. `f` receives the home and the
key, or the offset in the peer's window. -/
def State.fabric (s : State) (k : AccKind) (ea : Word) (size : Nat) (f : State → Home → Nat → Result) : Result :=
  let r := regionOf ea
  let space := bits s.cx.memdef 7 6
  if r = .bad ∨ r = .loc ∨ !spaceOk space r then s.trap 0x07 ea
  else if r = .peer then
    if ea.toNat % size ≠ 0 then s.trap 0x05 ea
    else if !s.peerOk (peerOf ea) then s.trap 0x07 ea
    else f s (.peer (peerOf ea)) (peerOff ea)
  else
    match s.check k space ea size with
    | .trap c v => s.trap c v
    | .walk va => .next (s.startWalk k va)
    | .badFrame => .fault .frameBeyondStack
    | .ok key => f (s.touchTlb ea) (homeOf key) key

/-- The lowest free reply ticket (R141). -/
def Context.freeTicket (c : Context) : Option Nat := (List.range 16).find? fun n => !(c.tickets.any fun t => t.num == n)

/-- The reply words in the receive queue of the core in view: those of peers that FWAIT has not yet taken (R340, R341). -/
def State.receiveQueue (s : State) : List Word := (s.core.ctxs s.cx).flatMap fun c => (c.tickets.filter fun t => t.peer.isSome || t.multi).filterMap (·.answer)

/-- The words of the receive queue of the core in view that are in use or reserved: one for each ticket taken towards peers, and those of the bytes
its XGETs wait for (R141, R340). -/
def State.recvUsed (s : State) : Nat :=
  (((s.core.ctxs s.cx).map fun c => (c.tickets.filter fun t => t.peer.isSome || t.multi).length).foldl (· + ·) 0)
    + ((s.core.cmds.map fun m => (m.awaits.map fun a => ((a.2.map (·.2.2)).sum + 7) / 8).sum).foldl (· + ·) 0)

/-- The receive queue of 256 words has no room to reserve for `n` more (R340). -/
def State.recvFull (s : State) (n : Nat) : Bool := decide (s.recvUsed + n > 256)

/-- The injection queue of the core has no room for `n` more flits (R340). -/
def State.injectFull (s : State) (n : Nat) : Bool :=
  decide ((s.torus.inject.filter fun q => q.1 == s.id).length + (s.core.sbuf.filter fun e => e.dest.isPeer).length + n > 64)

/-- The module number of a peer index of the interface (R338). -/
def State.peerModule (s : State) (p : Nat) : Nat := match s.myVif.peers.find? fun x => x.1 == p with | some x => x.2.1 | none => 0

/-- A flit of the context in view to a module. -/
def State.flitOf (s : State) (peer : Nat) (cls : FlitClass) (op : FlitOp) (ticket offset : Nat) (data members : Word) : Flit :=
  ⟨peer, Config.torusSelf, s.id, s.core.k, s.vifOf s.id, cls, op, ticket, offset, data, 0, 0, members, [], Config.torusSelf⟩

/-- An FLD or FMCAST takes ticket n: it is outstanding (R141, R143). -/
def State.takeTicket (s : State) (n : Nat) (acq multi : Bool) (peer : Option Nat) (key : Nat) (va : Word) (answer : Option Word) : State :=
  { s with cx := { s.cx with tickets := s.cx.tickets ++ [⟨n, s.cy, acq, multi, peer, key, va, answer, s.seq⟩] }, seq := s.seq + 1 }

/-- The cause of an operation that its peer refused: 2 for a poisoned word (R347), 3 for a repeat of its AMO's checker (R345), else beyond the
window (R140). -/
def flitError (failed : Word) : Nat × Nat := if failed = 2 then (0x11, 2) else if failed = 3 then (0x11, 3) else (0x07, 0)

/-- The address in a peer window. -/
def peerAddr (peer off : Nat) : Word := word (0xF800000000000 + peer * 2 ^ 38 + off)

/-- The words of the peer's window that a flit writes. -/
def flitWords (f : Flit) : List Nat := wordsOf f.offset (match f.op with | .put bs => bs.length | _ => 8)

/-- The peers an entry goes to: of a multicast, the members of its group. -/
def State.entryPeers (s : State) (e : Entry) : List Nat :=
  match e.body, e.dest with
  | .flit f, .peer p => if f.op = .mcast then (Table.find (s.vif f.vif).groups f.dest).getD [] else [p]
  | _, _ => []

/-- An earlier read of the word at a peer waits for its reply, or a store of the core to it for its application (R265, R268). -/
def State.peerOpen (s : State) (peer : Nat) (ea : Word) : Bool :=
  let w := ea.toNat / 8
  let n := (peerAddr peer 0).toNat / 8
  (s.cx.tickets.any fun t => t.peer.isSome && t.answer.isNone && t.va.toNat / 8 == w)
  || (s.core.sbuf.any fun e => match e.body with
        | .flit f => (s.entryPeers e).contains peer && ((flitWords f).map (· + n)).contains w
        | _ => false)
  || (s.torus.owedAcks.any fun a => a.core == s.id && !a.ident.isEmpty
        && decide (a.va.toNat / 8 ≤ w ∧ w < a.va.toNat / 8 + (if a.ctx < 16 then 1 else 9)))

/-- FLD: the read is sent under the lowest free ticket (R141). -/
def execFld (acq : Bool) (d a : GReg) (disp : BitVec 24) (s : State) : Result :=
  let i := Instr.fld acq d a disp
  let ea := s.eaX a disp
  s.fabric .load ea 8 fun s home key =>
    match s.cx.freeTicket with
    | none => s.wait .reply
    | some n =>
      if !s.gate 1 4 then s.wait .reply
      else
        let t := s.passGate
        match home with
        | .peer p =>
          if s.peerOpen p ea || t.injectFull 1 || t.recvFull 1 then t.wait .reply
          else
            let u := t.takeTicket n acq false (some p) 0 ea none
            ({ u with torus := { u.torus with inject := u.torus.inject ++ [(u.id, u.flitOf (u.peerModule p) .r .read n key 0 0)] } }).doneG i d (word n)
        | _ => (t.takeTicket n acq false none key ea none).doneG i d (word n)

/-- FWAIT (R141, R143). -/
def execFwait (d a : GReg) (s : State) : Result :=
  let i := Instr.fwait d a
  match s.cx.tickets.find? fun t => t.num == (s.g a).toNat with
  | none => s.illegal i
  | some t =>
    match t.answer with
    | none => s.wait .reply
    | some v =>
      let c := { s.cx with tickets := s.cx.tickets.filter fun x => x.num != t.num }
      (s.setCx (if t.acq then c.acquire s.cy [] else c)).doneG i d v

/-- The store-buffer entry of an FST or FAMO (R142): class P; under a Running node it is staged (R157); one to the core's own SRAM takes
place at once there too: the model's choice (notes/assumptions/97.md). -/
def State.putFabric (s : State) (home : Home) (key : Nat) (e : Eff) (ea : Word) (body : Body) : State :=
  let stg := s.core.node.isSome && home != .core s.id
  let en : Entry := ⟨s.seq, if stg then .node s.id else s.mine, home, .p, !s.cx.super, e.ord, e.scope, ea, body, false⟩
  let t := s.payFor s.seq
  if stg then { t with core := { t.core with staging := t.core.staging ++ [⟨t.core.k, en, 1⟩] }, seq := t.seq + 1 }
  else { t with core := { t.core with sbuf := t.core.sbuf ++ [en] }, seq := t.seq + 1 }

/-- FST and FAMO after their checks: STAGEFULL, the gate, the send, and completion at issue (R142). A staged FST with F3 = 1 is sent by NDONE, once
every write before it has been applied (R157). -/
def State.fabricStore (s : State) (i : Instr) (home : Home) (key : Nat) (e : Eff) (ea : Word) (body : State → Body) : Result :=
  if s.core.node.isSome && home != .core s.id && decide (s.core.stageUsed + 1 > 256) then s.trap 0x14 ea
  else if !s.gate e.ord e.scope ∨ (e.ord = 4 ∧ (s.core.node.isNone ∨ home = .core s.id) ∧ !s.performed 5) ∨ (home.isPeer ∧ s.injectFull 1) then s.wait .reply
  else s.send [(home, 2)] fun t => (t.passGate.putFabric home key e ea (body t)).done i

/-- FST (R142). -/
def execFst (rel : Bool) (d a : GReg) (disp : BitVec 24) (s : State) : Result :=
  let i := Instr.fst rel d a disp
  let ea := s.eaX a disp
  let e : Eff := ⟨if rel then 4 else 1, if rel then 5 else 4, 0, 1, false⟩
  s.fabric .store ea 8 fun s home key =>
    s.fabricStore i home key e ea fun s =>
      match home with
      | .peer p => .flit (s.flitOf (s.peerModule p) .p .store 0 key (s.g d) 0)
      | _ => .store key 8 (s.g d).toNat

/-- The AMO of a FAMO (R142). -/
def famoAmo : FamoOp → AmoOp
  | .add => .add
  | .and => .and
  | .or => .or
  | .xor => .xor
  | .min => .min
  | .max => .max
  | .fadd => .fadd

/-- FAMO (R142). -/
def execFamo (op : FamoOp) (d a : GReg) (disp : BitVec 24) (s : State) : Result :=
  let i := Instr.famo op d a disp
  let ea := s.eaX a disp
  let size := if op = .fadd then 4 else 8
  s.fabric .amo ea size fun s home key =>
    s.fabricStore i home key ⟨1, 4, 0, 1, false⟩ ea fun s =>
      match home with
      | .peer p => .flit (s.flitOf (s.peerModule p) .p (.amo op) 0 key (s.g d) 0)
      | _ => .amo (famoAmo op) key size ((s.g d).toNat % 256 ^ size) 0 [] false s.cx.detred

/-- A word with the lowest n bits 1. -/
def lowBits (n : Nat) : Word := BitVec.ofNat 64 (2 ^ n - 1)

/-- FMCAST (R143). -/
def execFmcast (d b c a : GReg) (disp : BitVec 24) (s : State) : Result :=
  let i := Instr.fmcast d b c a disp
  let ea := s.eaX a disp
  if s.core.node.isSome ∨ bits (s.g c) 63 9 ≠ 0 then s.illegal i
  else
    match Table.find s.myVif.groups (s.g c).toNat with
    | none => s.illegal i
    | some ms =>
      if regionOf ea ≠ .peer ∨ !spaceOk (bits s.cx.memdef 7 6) .peer then s.trap 0x07 ea
      else if ea.toNat % 8 ≠ 0 then s.trap 0x05 ea
      else if peerOf ea ≠ 0 then s.trap 0x07 ea
      else
        match s.cx.freeTicket with
        | none => s.wait .reply
        | some n =>
          if !s.gate 1 4 ∨ s.injectFull 1 ∨ s.recvFull 1 then s.wait .reply
          else
            s.send (ms.map fun m => (Home.peer m, 2)) fun s =>
              let t := s.passGate
              let u := t.takeTicket n false true none 0 ea (if ms.isEmpty then some 0 else none)
              let f := u.flitOf ((s.g c).toNat) .p .mcast n (peerOff ea) (s.g b) (lowBits ms.length)
              (if ms.isEmpty then u else u.putFabric (.peer 0) 0 ⟨1, 4, 0, 1, false⟩ ea (.flit f)).doneG i d (word n)

/-- The bitmap of failed peers as a 512-bit number (R144). -/
def peerBits (l : List Nat) : Nat := l.eraseDups.foldl (fun n p => n ||| 2 ^ p) 0

/-- FFENCE (R144). The peers it reports are those that failed since the FFENCE before it: the model's choice (notes/assumptions/75.md). So is
that the store of the bitmap runs under MEMDEF's ORD, SCOPE and SPACE and under no CHK (notes/assumptions/94.md). -/
def execFfence (d a : GReg) (disp : BitVec 24) (s : State) : Result :=
  let i := Instr.ffence d a disp
  let ea := s.eaX a disp
  if regionOf ea = .main ∨ regionOf ea = .peer then s.trap 0x07 ea
  else
    s.accessAll i .store none [] [(ea, 64)] fun s e ks =>
      if s.peersOpen then s.wait .reply
      else
        let n := s.cx.failedPeers.eraseDups.length
        let v := peerBits s.cx.failedPeers
        let t := if n = 0 then s else ks.foldl (fun t k => t.putStore { e with chk := false } k.1 k.2.1 k.2.2 v) s
        (t.setCx { (t.cx.acquire t.cy []) with failedPeers := [] }).doneG i d (word n)

end Sys2Proof.Machine
end

