-- ==== Sys2Proof/Machine/Vector.lean ====
section
/-!
DEFINITION. Vector instructions on lanes: the common rules, loads and stores, moves and permutes, and the integer element operations
(spec/08_vector.md R188–R195).
-/
namespace Sys2Proof.Machine

/-! ## Common rules (R188, R190) -/

/-- A vector instruction: NOLANES unless the context holds a grant (R188); `f` receives VL. -/
def State.vec (s : State) (f : Nat → Result) : Result := if s.noLanes then s.trap 0x16 0 else f s.core.vsetl.toNat

/-- Lane i of v(r). -/
def State.lane (s : State) (r : VReg) (i : Nat) : Lane := s.core.v[r.toFin].getD i 0

/-- Lanes 0 to n − 1 of v(r). -/
def State.lanesOf (s : State) (r : VReg) (n : Nat) : List Lane := (List.range n).map (s.lane r)

/-- The lanes of a second operand: a v register, or g(B)[31:0] in every lane (R190). -/
def State.srcOf (s : State) (b : VSrc) (n : Nat) : List Lane :=
  match b with
  | .v r => s.lanesOf r n
  | .g r => List.replicate n ((s.g r).setWidth 32)

/-- Lanes 0 to n − 1 of w(r). -/
def State.wideOf (s : State) (r : WReg) (n : Nat) : List Word := (List.range n).map fun i => s.core.w[r.toFin].getD i 0

/-- The flags of a list of element results together (R169). -/
def flagsOf {α : Type} (l : List (α × Fl)) : Fl := l.foldl (fun f p => Fl.or f p.2) Fl.none

/-- A vector result written `lat` cycles after issue, with its flags raised once (R190, R169). With VL = 0 nothing is written. -/
def State.vdone (s : State) (i : Instr) (d : VReg) (rs : List (Lane × Fl)) (lat : Nat) : Result :=
  (if rs.isEmpty then s else s.later (.v d) (rs.map fun p => zext p.1) lat).finishFl i (flagsOf rs)

/-- A wide result. -/
def State.wdone (s : State) (i : Instr) (d : WReg) (rs : List (Word × Fl)) (lat : Nat) : Result :=
  (if rs.isEmpty then s else s.later (.w d) (rs.map (·.1)) lat).finishFl i (flagsOf rs)

/-- A result in g(d), `lat` cycles after issue; g0 discards it. -/
def State.gdone (s : State) (i : Instr) (d : GReg) (v : Word) (f : Fl) (lat : Nat) : Result :=
  (if d = 0 then s else s.later (.g d) [v] lat).finishFl i f

/-- An element operation without flags. -/
def quiet (l : List Lane) : List (Lane × Fl) := l.map fun x => (x, Fl.none)

/-- A lanewise operation of two operands. -/
def State.lanewise (s : State) (i : Instr) (d a : VReg) (b : VSrc) (lat : Nat) (f : Lane → Lane → Lane × Fl) : Result :=
  s.vec fun n => s.vdone i d (List.zipWith f (s.lanesOf a n) (s.srcOf b n)) lat

/-! ## Loads and stores (R191, R192) -/

def vldBytes : VLdWidth → Nat
  | .w => 4 | .z16 => 2 | .s16 => 2 | .z8 => 1 | .s8 => 1
def vldSigned : VLdWidth → Bool
  | .s16 => true | .s8 => true | _ => false
def vstBytes : VStWidth → Nat
  | .w => 4 | .h => 2 | .b => 1

/-- The lane of a loaded element (R191). -/
def vldLane (size : Nat) (signed : Bool) (v : Nat) : Lane := (ldValue size signed v).setWidth 32

/-- The lane addresses of VLD and VST. -/
def State.unitAddrs (s : State) (a : GReg) (disp : BitVec 24) (size n : Nat) : List (Word × Nat) :=
  (List.range n).map fun i => (s.eaX a disp + word (i * size), size)
/-- Of VLDS and VSTS. -/
def State.strideAddrs (s : State) (b a : GReg) (disp : BitVec 24) (size n : Nat) : List (Word × Nat) :=
  (List.range n).map fun i => (s.eaX a disp + word i * s.g b, size)
/-- Of VGATH and VSCAT. -/
def State.indexAddrs (s : State) (b : VReg) (a : GReg) (disp : BitVec 24) (size n : Nat) : List (Word × Nat) :=
  (List.range n).map fun i => (s.eaX a disp + sext (s.lane b i) * word size, size)

/-- A vector load of lanes at addresses (R192): from LOC the result is written 3 cycles after issue (R190). -/
def State.vload (s : State) (i : Instr) (p : Option Mods) (w : VLdWidth) (d : VReg) (l : List (Word × Nat)) : Result :=
  s.accessAll i .load p [] l fun s e ks =>
    if ks.isEmpty then s.done i
    else
      s.loads i e ks (.vload d (vldBytes w) (vldSigned w)) fun s vs =>
        (s.later (.v d) (vs.map fun v => zext (vldLane (vldBytes w) (vldSigned w) v)) 3).done i

/-- A vector store of the lanes of v(D) (R192): in increasing lane order; under CHK it waits for its acknowledgements (R130). -/
def State.vstore (s : State) (i : Instr) (p : Option Mods) (w : VStWidth) (d : VReg) (l : List (Word × Nat)) : Result :=
  s.accessAll i .store p [] l fun s e ks =>
    let t := (ks.zip (s.lanesOf d ks.length)).foldl (fun t k => t.putStore e k.1.1 k.1.2.1 k.1.2.2 (k.2.toNat % 256 ^ vstBytes w)) s
    .next (t.afterStore i e (asElements (ks.filter fun k => !s.staged k.2.2)) (.ackFl 0 none) fun t => t.retire i)

/-- VLD (R191). -/
def execVld (p : Option Mods) (w : VLdWidth) (d : VReg) (a : GReg) (disp : BitVec 24) (s : State) : Result :=
  s.vec fun n => s.vload (.vld p w d a disp) p w d (s.unitAddrs a disp (vldBytes w) n)
/-- VST (R191). -/
def execVst (p : Option Mods) (w : VStWidth) (d : VReg) (a : GReg) (disp : BitVec 24) (s : State) : Result :=
  s.vec fun n => s.vstore (.vst p w d a disp) p w d (s.unitAddrs a disp (vstBytes w) n)
/-- VLDS (R191). -/
def execVlds (p : Option Mods) (w : VLdWidth) (d : VReg) (b a : GReg) (disp : BitVec 24) (s : State) : Result :=
  s.vec fun n => s.vload (.vlds p w d b a disp) p w d (s.strideAddrs b a disp (vldBytes w) n)
/-- VSTS (R191). -/
def execVsts (p : Option Mods) (w : VStWidth) (d : VReg) (b a : GReg) (disp : BitVec 24) (s : State) : Result :=
  s.vec fun n => s.vstore (.vsts p w d b a disp) p w d (s.strideAddrs b a disp (vstBytes w) n)
/-- VGATH (R191). -/
def execVgath (p : Option Mods) (w : VLdWidth) (d b : VReg) (a : GReg) (disp : BitVec 24) (s : State) : Result :=
  s.vec fun n => s.vload (.vgath p w d b a disp) p w d (s.indexAddrs b a disp (vldBytes w) n)
/-- VSCAT (R191). -/
def execVscat (p : Option Mods) (w : VStWidth) (d b : VReg) (a : GReg) (disp : BitVec 24) (s : State) : Result :=
  s.vec fun n => s.vstore (.vscat p w d b a disp) p w d (s.indexAddrs b a disp (vstBytes w) n)

/-! ## Moves and permutes (R193) -/

/-- VBCAST. -/
def execVbcast (d : VReg) (a : GReg) (s : State) : Result :=
  s.vec fun n => s.vdone (.vbcast d a) d (quiet (List.replicate n ((s.g a).setWidth 32))) 2

/-- VMOVG: ILLEGAL when the lane is not below VL. -/
def execVmovg (d : GReg) (a : VReg) (b : GReg) (s : State) : Result :=
  s.vec fun n =>
    if (s.g b).toNat ≥ n then s.illegal (.vmovg d a b)
    else s.gdone (.vmovg d a b) d (sext (s.lane a (s.g b).toNat)) Fl.none 2

/-- VMOVG.SET: one lane is written. -/
def execVmovgSet (d : VReg) (a b : GReg) (s : State) : Result :=
  s.vec fun n =>
    if (s.g b).toNat ≥ n then s.illegal (.vmovgSet d a b)
    else s.vdone (.vmovgSet d a b) d (quiet ((s.lanesOf d n).set (s.g b).toNat ((s.g a).setWidth 32))) 2

/-- VPERM. -/
def execVperm (d a b : VReg) (s : State) : Result :=
  s.vec fun n =>
    s.vdone (.vperm d a b) d (quiet ((s.lanesOf b n).map fun j => if j.toNat < n then s.lane a j.toNat else 0)) 2

/-- VSLIDE and VSLIDE.G: lane i + n of v(A), or the filling outside 0 … VL − 1. -/
def execVslide (g : Option GReg) (d a : VReg) (k : BitVec 8) (s : State) : Result :=
  let fill : Lane := match g with | some r => (s.g r).setWidth 32 | none => 0
  s.vec fun n =>
    s.vdone (.vslide g d a k) d (quiet ((List.range n).map fun (i : Nat) =>
      let j : Int := (i : Int) + k.toInt
      if 0 ≤ j ∧ j < n then s.lane a j.toNat else fill)) 2

/-! ## Integer element operations (R194, R195) -/

/-- An operation without flags. -/
def plain (f : Lane → Lane → Lane) (a b : Lane) : Lane × Fl := (f a b, Fl.none)

/-- A sum or difference clamped to s32, or with `z` to z32 (R194, R102). -/
def clampLane (z : Bool) (f : Int → Int → Int) (a b : Lane) : Lane × Fl :=
  let c := if z then clampZ 32 (f a.toNat b.toNat) else clampS 32 (f a.toInt b.toInt)
  (c.1, Fl.clamp c.2)

/-- VADD (R194). -/
def execVadd (sat z : Bool) (d a : VReg) (b : VSrc) (s : State) : Result :=
  s.lanewise (.vadd sat z d a b) d a b 2 (if sat then clampLane z (· + ·) else plain (· + ·))
/-- VSUB (R194). -/
def execVsub (sat z : Bool) (d a : VReg) (b : VSrc) (s : State) : Result :=
  s.lanewise (.vsub sat z d a b) d a b 2 (if sat then clampLane z (· - ·) else plain (· - ·))
/-- VMUL (R194). -/
def execVmul (d a : VReg) (b : VSrc) (s : State) : Result := s.lanewise (.vmul d a b) d a b 2 (plain (· * ·))
/-- Bits [63:32] of a product (R194). -/
def mulhLane (z : Bool) (a b : Lane) : Lane :=
  if z then BitVec.ofNat 32 (a.toNat * b.toNat / 2 ^ 32) else BitVec.ofInt 32 (a.toInt * b.toInt / 2 ^ 32)
/-- VMULH (R194). -/
def execVmulh (z : Bool) (d a : VReg) (b : VSrc) (s : State) : Result := s.lanewise (.vmulh z d a b) d a b 2 (plain (mulhLane z))
/-- The smaller of two lanes, signed or unsigned. -/
def minLane (z : Bool) (a b : Lane) : Lane := if (if z then a.ult b else a.slt b) then a else b
/-- The larger of two lanes. -/
def maxLane (z : Bool) (a b : Lane) : Lane := if (if z then a.ult b else a.slt b) then b else a
/-- VMIN (R194). -/
def execVmin (z : Bool) (d a : VReg) (b : VSrc) (s : State) : Result := s.lanewise (.vmin z d a b) d a b 2 (plain (minLane z))
/-- VMAX (R194). -/
def execVmax (z : Bool) (d a : VReg) (b : VSrc) (s : State) : Result := s.lanewise (.vmax z d a b) d a b 2 (plain (maxLane z))
/-- VAND (R194). -/
def execVand (d a : VReg) (b : VSrc) (s : State) : Result := s.lanewise (.vand d a b) d a b 2 (plain (· &&& ·))
/-- VOR (R194). -/
def execVor (d a : VReg) (b : VSrc) (s : State) : Result := s.lanewise (.vor d a b) d a b 2 (plain (· ||| ·))
/-- VXOR (R194). -/
def execVxor (d a : VReg) (b : VSrc) (s : State) : Result := s.lanewise (.vxor d a b) d a b 2 (plain (· ^^^ ·))
/-- The shift count b[4:0]. -/
def shLane (b : Lane) : Nat := b.toNat % 32
/-- VSHL (R194). -/
def execVshl (d a : VReg) (b : VSrc) (s : State) : Result := s.lanewise (.vshl d a b) d a b 2 (plain fun a b => a <<< shLane b)
/-- VSHR (R194). -/
def execVshr (d a : VReg) (b : VSrc) (s : State) : Result := s.lanewise (.vshr d a b) d a b 2 (plain fun a b => a >>> shLane b)
/-- VSRA (R194). -/
def execVsra (d a : VReg) (b : VSrc) (s : State) : Result := s.lanewise (.vsra d a b) d a b 2 (plain fun a b => a.sshiftRight (shLane b))

/-- NV for a comparison: `quietToo` when any NaN sets it (R195). -/
def cmpFl (quietToo : Bool) (x y : Fp) : Fl :=
  if (quietToo && (x.isNan || y.isNan)) || x.signals || y.signals then Fl.invalid else Fl.none

/-- The condition of VCMP and its flags (R195). -/
def cmpLane (cc : VCond) (a b : Lane) : Bool × Fl :=
  let x := f32.decode a.toNat
  let y := f32.decode b.toNat
  match cc with
  | .eq => (a == b, Fl.none)
  | .ne => (a != b, Fl.none)
  | .lt => (a.slt b, Fl.none)
  | .ge => (!a.slt b, Fl.none)
  | .ltZ => (a.ult b, Fl.none)
  | .geZ => (!a.ult b, Fl.none)
  | .feq => (Fp.eqV x y, cmpFl false x y)
  | .flt => (!x.isNan && !y.isNan && Fp.ltV x y, cmpFl true x y)
  | .fle => (!x.isNan && !y.isNan && !Fp.ltV y x, cmpFl true x y)
  | .fun_ => (x.isNan || y.isNan, cmpFl false x y)

/-- VCMP (R195). -/
def execVcmp (cc : VCond) (d a : VReg) (b : VSrc) (s : State) : Result :=
  s.lanewise (.vcmp cc d a b) d a b 2 fun x y => let r := cmpLane cc x y; (if r.1 then BitVec.allOnes 32 else 0, r.2)

/-- VSEL (R195). -/
def execVsel (d a b c : VReg) (s : State) : Result :=
  s.vec fun n =>
    s.vdone (.vsel d a b c) d (quiet ((List.range n).map fun i => if s.lane c i != 0 then s.lane a i else s.lane b i)) 2

end Sys2Proof.Machine
end

