-- ==== Sys2Proof/Machine/VectorFloat.lean ====
section
/-!
DEFINITION. Floating vector operations, the wide accumulators, dot products and register conversions (spec/08_vector.md R196–R203,
R207; the summation orders of spec/07_numbers.md R180, R181; AMAX of R175).
-/
namespace Sys2Proof.Machine

/-- A binary32 result as a lane. -/
def asLane (r : Nat × Fl) : Lane × Fl := (BitVec.ofNat 32 r.1, r.2)

/-! ## Element operations (R196, R197) -/

/-- VFADD. -/
def execVfadd (d a : VReg) (b : VSrc) (s : State) : Result :=
  s.lanewise (.vfadd d a b) d a b 4 fun x y => asLane (f32.add s.cx.rm x.toNat y.toNat)
/-- VFSUB. -/
def execVfsub (d a : VReg) (b : VSrc) (s : State) : Result :=
  s.lanewise (.vfsub d a b) d a b 4 fun x y => asLane (f32.sub s.cx.rm x.toNat y.toNat)
/-- VFMUL. -/
def execVfmul (d a : VReg) (b : VSrc) (s : State) : Result :=
  s.lanewise (.vfmul d a b) d a b 4 fun x y => asLane (f32.mul s.cx.rm x.toNat y.toNat)
/-- VFMA: one rounding. -/
def execVfma (d a : VReg) (b : VSrc) (c : VReg) (s : State) : Result :=
  s.vec fun n =>
    s.vdone (.vfma d a b c) d (List.zipWith (fun p z => asLane (f32.fma s.cx.rm p.1 p.2 z))
      (List.zipWith (fun x y => (x.toNat, y.toNat)) (s.lanesOf a n) (s.srcOf b n)) ((s.lanesOf c n).map (·.toNat))) 4
/-- VFMIN. -/
def execVfmin (d a : VReg) (b : VSrc) (s : State) : Result :=
  s.lanewise (.vfmin d a b) d a b 4 fun x y => asLane (f32.minMax false x.toNat y.toNat)
/-- VFMAX. -/
def execVfmax (d a : VReg) (b : VSrc) (s : State) : Result :=
  s.lanewise (.vfmax d a b) d a b 4 fun x y => asLane (f32.minMax true x.toNat y.toNat)

/-- A function of one element, 12 cycles (R190, R197). -/
def State.vunary (s : State) (i : Instr) (d a : VReg) (f : Rm → Nat → Nat × Fl) : Result :=
  s.vec fun n => s.vdone i d ((s.lanesOf a n).map fun x => asLane (f s.cx.rm x.toNat)) 12

/-- VRCP (R197). -/
def execVrcp (d a : VReg) (s : State) : Result := s.vunary (.vrcp d a) d a rcp32
/-- VRSQ (R197). -/
def execVrsq (d a : VReg) (s : State) : Result := s.vunary (.vrsq d a) d a rsq32
/-- VEXP2 (R197). -/
def execVexp2 (d a : VReg) (s : State) : Result := s.vunary (.vexp2 d a) d a exp2_32
/-- VLOG2 (R197). -/
def execVlog2 (d a : VReg) (s : State) : Result := s.vunary (.vlog2 d a) d a log2_32
/-- VSIG (R197). -/
def execVsig (d a : VReg) (s : State) : Result := s.vunary (.vsig d a) d a sig32

/-! ## The wide accumulators (R198, R199) -/

/-- VMACW: a wide lane plus an exact product, wrapped or clamped to s64. -/
def macw (sat z : Bool) (w : Word) (a b : Lane) : Word × Fl :=
  let p : Int := if z then (a.toNat * b.toNat : Nat) else a.toInt * b.toInt
  if sat then
    let c := clampS 64 (w.toInt + p)
    (c.1, Fl.clamp c.2)
  else (BitVec.ofInt 64 (w.toInt + p), Fl.none)

/-- A lanewise update of a wide register from two v registers. -/
def State.wideOp (s : State) (i : Instr) (d : WReg) (a b : VReg) (f : Word → Lane → Lane → Word × Fl) : Result :=
  s.vec fun n =>
    s.wdone i d (List.zipWith (fun w p => f w p.1 p.2) (s.wideOf d n) ((s.lanesOf a n).zip (s.lanesOf b n))) 4

/-- VMACW (R198). -/
def execVmacw (sat z : Bool) (d : WReg) (a b : VReg) (s : State) : Result := s.wideOp (.vmacw sat z d a b) d a b (macw sat z)

/-- VFMACW: binary64 accumulation of the exact binary32 product (R198). -/
def execVfmacw (d : WReg) (a b : VReg) (s : State) : Result :=
  s.wideOp (.vfmacw d a b) d a b fun w x y =>
    let r := f64.fmaV s.cx.rm (f32.decode x.toNat) (f32.decode y.toNat) (f64.decode w.toNat)
    (word r.1, r.2)

/-- VWCLR (R198); its result takes 2 cycles (notes/assumptions/69.md). -/
def execVwclr (d : WReg) (s : State) : Result := s.vec fun n => s.wdone (.vwclr d) d (List.replicate n (0, Fl.none)) 2

/-- One lane of VNARROW (R199). -/
def narrowLane (c : Context) (m : NarrowMode) (sh : Nat) (w : Word) : Lane × Fl :=
  match m with
  | .s32 => let r := narrowInt 32 c.sat w.toInt; (BitVec.ofInt 32 r.1, r.2)
  | .f32 => asLane (cvtFF f64 f32 c.rm c.sat w.toNat)
  | .sh =>
    let q := roundInt c.rm (decide (w.toInt < 0)) w.toInt.natAbs (-(sh : Int))
    let r := narrowInt 32 c.sat q.1
    (BitVec.ofInt 32 r.1, r.2)
  | .i2f => asLane (cvtIF f32 c.rm c.sat w.toInt)

/-- VNARROW (R199). -/
def execVnarrow (m : NarrowMode) (d : VReg) (a : WReg) (sh : BitVec 6) (s : State) : Result :=
  s.vec fun n => s.vdone (.vnarrow m d a sh) d ((s.wideOf a n).map (narrowLane s.cx m sh.toNat)) 4

/-! ## Dot products (R180, R181, R200–R202) -/

/-- Byte k of a lane, signed or unsigned. -/
def laneByte (z : Bool) (x : Lane) (k : Nat) : Int :=
  let b := BitVec.ofNat 8 (x.toNat >>> (8 * k))
  if z then (b.toNat : Int) else b.toInt

/-- VIDOT's lane: c + Σ a_k·b_k over four bytes, wrapped or clamped (R200). -/
def idotLane (sat z : Bool) (c a b : Lane) : Lane × Fl :=
  let t := ((List.range 4).map fun k => laneByte z a k * laneByte z b k).foldl (· + ·) c.toInt
  if sat then
    let r := clampS 32 t
    (r.1, Fl.clamp r.2)
  else (BitVec.ofInt 32 t, Fl.none)

/-- VIDOT (R200). -/
def execVidot (sat z : Bool) (d a b c : VReg) (s : State) : Result :=
  s.vec fun n =>
    s.vdone (.vidot sat z d a b c) d (List.zipWith (fun z2 p => idotLane sat z z2 p.1 p.2) (s.lanesOf c n) ((s.lanesOf a n).zip (s.lanesOf b n))) 4

/-- The two chains of R180 over terms a_k·b_k: even chain, odd chain, flags. -/
def chains (f : Fmt) (rm : Rm) : Bool → List (Fp × Fp) → Nat × Nat × Fl → Nat × Nat × Fl
  | _, [], st => st
  | odd, (a, b) :: l, (e, o, fl) =>
    let r := f.fmaV rm a b (f.decode (if odd then o else e))
    chains f rm (!odd) l (if odd then (e, r.1, Fl.or fl r.2) else (r.1, o, Fl.or fl r.2))

/-- R180: the main-path dot product with initial value c. -/
def dotMain (f : Fmt) (rm : Rm) (c : Nat) (l : List (Fp × Fp)) : Nat × Fl :=
  let r := chains f rm false l (c, 0, Fl.none)
  let t := f.add rm r.1 r.2.1
  (t.1, Fl.or r.2.2 t.2)

/-- One level of the tree: pairs added, a lone child taken unrounded (R181). -/
def treeLevel (f : Fmt) (rm : Rm) : List Nat → List Nat × Fl
  | x :: y :: l =>
    let a := f.add rm x y
    let r := treeLevel f rm l
    (a.1 :: r.1, Fl.or a.2 r.2)
  | l => (l, Fl.none)

/-- Levels of the tree of a block of up to 32 leaves. -/
def treeLevels (f : Fmt) (rm : Rm) : Nat → List Nat → List Nat × Fl
  | 0, l => (l, Fl.none)
  | n + 1, l =>
    let a := treeLevel f rm l
    let b := treeLevels f rm n a.1
    (b.1, Fl.or a.2 b.2)

/-- Blocks of 32 leaves added to s in order (R181); `fuel` is at least the number of blocks. -/
def treeBlocks (f : Fmt) (rm : Rm) : Nat → Nat → List Nat → Nat × Fl
  | 0, s, _ => (s, Fl.none)
  | fuel + 1, s, l =>
    match l with
    | [] => (s, Fl.none)
    | l =>
      let t := treeLevels f rm 5 (l.take 32)
      let a := f.add rm s (t.1.headD 0)
      let r := treeBlocks f rm fuel a.1 (l.drop 32)
      (r.1, Fl.or (Fl.or t.2 a.2) r.2)

/-- R181 over leaves with initial value c. -/
def treeSum (f : Fmt) (rm : Rm) (c : Nat) (leaves : List Nat) : Nat × Fl := treeBlocks f rm (leaves.length / 32 + 1) c leaves

/-- R181: the fall-back dot product: leaves rounded to the accumulation format. -/
def dotTree (f : Fmt) (rm : Rm) (c : Nat) (l : List (Fp × Fp)) : Nat × Fl :=
  let ls := l.map fun p => f.mulV rm p.1 p.2
  let r := treeSum f rm c (ls.map (·.1))
  (r.1, Fl.or (flagsOf ls) r.2)

/-- The 16-bit element format of VFDOT. -/
def halfFmt (h16 : Bool) : Fmt := if h16 then f16 else bf16

/-- The low and the high term of a lane pair (R201). -/
def halfTerms (h16 : Bool) (a b : Lane) : (Fp × Fp) × (Fp × Fp) :=
  let f := halfFmt h16
  ((f.decode (a.toNat % 65536), f.decode (b.toNat % 65536)), (f.decode (a.toNat / 65536), f.decode (b.toNat / 65536)))

/-- VFDOT: a dot product of two terms in each lane, in the order of R180 or R181 (R201). -/
def execVfdot (h16 : Bool) (d a b c : VReg) (s : State) : Result :=
  s.vec fun n =>
    s.vdone (.vfdot h16 d a b c) d (List.zipWith (fun z p =>
      let t := halfTerms h16 p.1 p.2
      asLane (if s.cx.fpord then dotTree f32 s.cx.rm z.toNat [t.1, t.2] else dotMain f32 s.cx.rm z.toNat [t.1, t.2]))
      (s.lanesOf c n) ((s.lanesOf a n).zip (s.lanesOf b n))) 4

/-- VFDOT.C: the even chain in v(D) and the odd chain in v(D+1); ILLEGAL for an odd D or under FPORD (R201). -/
def execVfdotC (h16 : Bool) (d a b : VReg) (s : State) : Result :=
  let i := Instr.vfdotC h16 d a b
  s.vec fun n =>
    if s.cx.fpord ∨ bit d 0 then s.illegal i
    else
      let ps := (s.lanesOf a n).zip (s.lanesOf b n)
      let ev := List.zipWith (fun z p => asLane (f32.fmaV s.cx.rm (halfTerms h16 p.1 p.2).1.1 (halfTerms h16 p.1 p.2).1.2 (f32.decode z.toNat))) (s.lanesOf d n) ps
      let od := List.zipWith (fun z p => asLane (f32.fmaV s.cx.rm (halfTerms h16 p.1 p.2).2.1 (halfTerms h16 p.1 p.2).2.2 (f32.decode z.toNat)))
        (s.lanesOf (d + 1) n) ps
      let t := if n = 0 then s else (s.later (.v d) (ev.map fun p => zext p.1) 4).later (.v (d + 1)) (od.map fun p => zext p.1) 4
      t.finishFl i (Fl.or (flagsOf ev) (flagsOf od))

/-- VDOTR: the dot product across lanes with initial value g(C)[31:0]; with VL = 0 it is c (R202, R190). -/
def execVdotr (d : GReg) (a b : VReg) (c : GReg) (s : State) : Result :=
  s.vec fun n =>
    let z := (s.g c).toNat % 2 ^ 32
    let ts := List.zipWith (fun x y => (f32.decode x.toNat, f32.decode y.toNat)) (s.lanesOf a n) (s.lanesOf b n)
    let r := if n = 0 then (z, Fl.none) else if s.cx.fpord then dotTree f32 s.cx.rm z ts else dotMain f32 s.cx.rm z ts
    s.gdone (.vdotr d a b c) d (word r.1) r.2 8

/-! ## Register conversions and AMAX (R174, R175, R203, R207) -/

/-- The floating format of a register format, if it is one. -/
def fmtFloat : VFmt → Option Fmt
  | .f32 => some f32
  | .f16 => some f16
  | .bf16 => some bf16
  | _ => none

/-- The bits of a format within a lane. -/
def fmtWidth : VFmt → Nat
  | .f32 => 32 | .f16 => 16 | .bf16 => 16 | .s32 => 32 | .s16 => 16 | .s8 => 8

/-- The integer a lane holds in an integer format. -/
def fmtInt (f : VFmt) (x : Lane) : Int := (BitVec.ofNat (fmtWidth f) x.toNat).toInt

/-- One lane converted (R203). -/
def cvtLane (c : Context) (y x : VFmt) (v : Lane) : Lane × Fl :=
  let raw := v.toNat % 2 ^ (fmtWidth x)
  match fmtFloat x, fmtFloat y with
  | some fx, some fy => asLane (cvtFF fx fy c.rm c.sat raw)
  | some fx, none => let r := cvtFI fx (fmtWidth y) c.rm raw; (BitVec.ofInt 32 r.1, r.2)
  | none, some fy => asLane (cvtIF fy c.rm c.sat (fmtInt x v))
  | none, none =>
    let r := if (fmtWidth y) < (fmtWidth x) then narrowInt (fmtWidth y) c.sat (fmtInt x v) else (fmtInt x v, Fl.none)
    (BitVec.ofInt 32 r.1, r.2)

/-- The exact value of a lane in a register format. -/
def fmtValue (f : VFmt) (v : Lane) : Fp :=
  match fmtFloat f with
  | some g => g.decode (v.toNat % 2 ^ (fmtWidth f))
  | none => let n := fmtInt f v; .fin (decide (n < 0)) n.natAbs 0

/-- The magnitude of a value. -/
def Fp.abs : Fp → Fp
  | .nan b => .nan b
  | .inf _ => .inf false
  | .fin _ m e => .fin false m e

/-- The larger of two magnitudes, neither a NaN. -/
def maxMag (a b : Fp) : Fp := if Fp.ltV a b then b else a

/-- AMAX after an instruction's inputs (R175). -/
def Context.updateAmax (c : Context) (l : List Fp) : Context :=
  let old := f32.decode (c.amax.toNat % 2 ^ 31)
  let m := ((l.filter fun x => !x.isNan).map Fp.abs).foldl maxMag (.fin false 0 0)
  if old.isNan || (c.amaxnan && l.any Fp.isNan) then { c with amax := 0x7FC00000 }
  else { c with amax := word (f32.ofFp .rne false (maxMag old m)).1 }

/-- VCVT between register formats; the `.amax` form updates AMAX (R203, R207), also where FPEXC follows it; with VL = 0 AMAX stays
(notes/assumptions/70.md). -/
def execVcvt (amax : Bool) (y x : VFmt) (d a : VReg) (s : State) : Result :=
  s.vec fun n =>
    let ls := s.lanesOf a n
    (if amax && n != 0 then s.setCx (s.cx.updateAmax (ls.map (fmtValue x))) else s).vdone (.vcvt amax y x d a) d (ls.map (cvtLane s.cx y x)) 4

/-- VAMAX: the largest binary32 magnitude; NaN lanes count only under AMAXNAN; 0 when no lane counts (R207); a signalling NaN sets NV
(R161, R169). -/
def execVamax (d : GReg) (a : VReg) (s : State) : Result :=
  s.vec fun n =>
    let ls := (s.lanesOf a n).map fun x => x.toNat % 2 ^ 31
    let nan := fun x => decide (x > 0x7F800000)
    let r := if s.cx.amaxnan && ls.any nan then 0x7FC00000 else (ls.filter fun x => !nan x).foldl max 0
    s.gdone (.vamax d a) d (word r) (if (s.lanesOf a n).any fun x => (f32.decode x.toNat).signals then Fl.invalid else Fl.none) 8

end Sys2Proof.Machine
end

