-- ==== Sys2Proof/Machine/Tensor.lean ====
section
/-!
DEFINITION. Tensor identifiers and the tensor conversions (spec/01_machine_state.md R31, spec/09_matrix.md R217, spec/07_numbers.md
R164–R167, spec/08_vector.md R204–R206).
-/
namespace Sys2Proof.Machine

/-! ## Tensor identifiers (R31, R217) -/

/-- The fields of a tensor identifier entry. -/
structure Tensor where
  fmt : Nat
  pst : Nat
  prd : Nat
  sparse : Bool
  ord : Bool
  sbase : Nat
  kext : Nat
  rows : Nat
  cols : Nat
  rstr : Nat
  kstr : Nat
  loc : Nat
  stab : Nat
  deriving DecidableEq, Repr, Inhabited

def tensorOf (w0 w1 w2 w3 : Word) : Tensor where
  fmt := bits w0 4 1
  pst := bits w0 8 5
  prd := bits w0 12 9
  sparse := bit w0 13
  ord := bit w0 14
  sbase := bits w0 23 16
  kext := if bits w0 47 24 = 0 then 2 ^ 24 else bits w0 47 24
  rows := bits w0 63 48
  cols := bits w1 15 0
  rstr := bits w1 39 16
  kstr := bits w1 63 40
  loc := bits w2 51 0
  stab := bits w3 51 0

/-- The valid entry of a TID in the context. -/
def State.tensor (s : State) (t : Nat) : Option Tensor := (Table.find s.cx.tid t).map fun w => tensorOf w.1 w.2.1 w.2.2.1 w.2.2.2

/-- Whether an image with VALID = 1 may be written (R31). -/
def tidOk (w0 w1 w2 w3 : Word) : Bool :=
  let t := tensorOf w0 w1 w2 w3
  !(bit w0 15) && bits w2 63 52 == 0 && bits w3 63 52 == 0 && decide (t.fmt ≤ 10)
    && (if t.fmt = 0 then decide (1 ≤ t.pst) && decide (t.pst ≤ 8) && t.prd != 0 else t.pst == 0 && t.prd == 0)
    && decide (t.prd ≤ t.pst) && !(t.sparse && t.fmt != 0) && !(t.sparse && t.kext % 4 != 0) && t.rows != 0 && t.cols != 0

/-- The context past an instruction of `len` bytes. -/
def State.retireLen (s : State) (len : Nat) : State := s.setCx (s.cx.retire (s.cx.next len))

/-- The end of TDEF: the image, as a 256-bit number, is written, invalidates the entry, or is ILLEGAL (R217). -/
def State.finishTdef (s : State) (t : Nat) (first : Word) (len : Nat) (v : Nat) : State :=
  let w0 := word v
  let w1 := word (v / 2 ^ 64)
  let w2 := word (v / 2 ^ 128)
  let w3 := word (v / 2 ^ 192)
  if bit w0 0 then
    if tidOk w0 w1 w2 w3 then (s.setCx { s.cx with tid := Table.set s.cx.tid t (w0, w1, w2, w3) }).retireLen len
    else s.trapEntry 0x01 0 false first
  else if w0 = 0 ∧ w1 = 0 ∧ w2 = 0 ∧ w3 = 0 then (s.setCx { s.cx with tid := Table.del s.cx.tid t }).retireLen len
  else s.trapEntry 0x01 0 false first

/-- TDEF (R217). -/
def execTdef (t : BitVec 8) (a : GReg) (s : State) : Result :=
  let i := Instr.tdef t a
  s.access i .load none (s.g a) 32 fun s e key =>
    s.loads i e [(s.g a, 32, key)] (.tdef t.toNat) fun s vs => .next (s.finishTdef t.toNat (zext i.first) i.size (vs.headD 0))

/-- TQRY (R217). -/
def execTqry (d : GReg) (t : BitVec 8) (j : BitVec 2) (s : State) : Result :=
  let v : Word :=
    match Table.find s.cx.tid t.toNat with
    | none => 0
    | some w => if j = 0 then w.1 else if j = 1 then w.2.1 else if j = 2 then w.2.2.1 else w.2.2.2
  s.doneG (.tqry d t j) d v

/-! ## Places of elements (R164–R166) -/

/-- Element width in bits of an MX or plain tensor format. -/
def elemBits (fmt : Nat) : Nat :=
  match fmt with
  | 3 => 4
  | 5 => 16
  | 6 => 16
  | 7 => 32
  | 9 => 32
  | _ => 8

/-- The address of element (i, k) (R164). -/
def Tensor.elemAddr (t : Tensor) (i k : Nat) : Word :=
  word (t.loc + i / 16 * t.rstr * 32 + k / 256 * t.kstr * 32 + ((i % 16 * 256 + k % 256) * elemBits t.fmt) / 8)

/-- The address of the scale byte of element (i, k) (R164). -/
def Tensor.scaleAddr (t : Tensor) (i k : Nat) : Word := word (t.stab + i * ((t.kext + 31) / 32) + k / 32)

/-- The address of the 4-byte unit of plane p that holds elements (i, k) to (i, k + 31) (R166). -/
def Tensor.planeAddr (t : Tensor) (i k p : Nat) : Word :=
  word (t.loc + i / 16 * t.rstr * 32 + k / 256 * t.kstr * 32 + p * 512 + i % 16 * 32 + k % 256 / 8)

/-! ## Positions of the tensor forms (R204) -/

def posRow (g : Word) : Nat := bits g 15 0
def posK (g : Word) : Nat := bits g 39 16

/-- R204: a position that VL lanes may take. -/
def posOk (g : Word) (t : Tensor) (n : Nat) : Bool :=
  n != 0 && n % 32 == 0 && posK g % 32 == 0 && decide (posRow g < t.rows) && decide (posK g + n ≤ 32 * ((t.kext + 31) / 32)) && bits g 63 40 == 0

/-- A tensor form: NOLANES, TIDBAD, then the position (R204). -/
def State.tensorOp (s : State) (i : Instr) (a : GReg) (t : BitVec 8) (fmts : List Nat) (f : Tensor → Nat → Result) : Result :=
  s.vec fun n =>
    match s.tensor t.toNat with
    | none => s.trap 0x18 (zext t)
    | some x =>
      if !fmts.contains x.fmt then s.trap 0x18 (zext t)
      else if !posOk (s.g a) x n then s.illegal i
      else f x n

/-- The values of the lanes of block j whose position is below KEXT. -/
def State.blockIn (s : State) (d : VReg) (t : Tensor) (k0 j : Nat) : List Fp :=
  ((List.range 32).filter fun l => decide (k0 + 32 * j + l < t.kext)).map fun l => f32.decode (s.lane d (32 * j + l)).toNat

/-- The list filled with zeros to 32 entries. -/
def pad32 (l : List Nat) : List Nat := l ++ List.replicate (32 - l.length) 0

/-- Little-endian numbers of `n` digits of `w` bits each. -/
def packDigits (w : Nat) : List Nat → Nat
  | [] => 0
  | x :: l => x % 2 ^ w + 2 ^ w * packDigits w l

/-- The 4-byte units of 32 element codes of `w` bits: (index, value). -/
def unitsOf (w : Nat) (l : List Nat) : List (Nat × Nat) :=
  (List.range w).map fun u => (u, packDigits w ((l.drop (u * (32 / w))).take (32 / w)))

/-- A write of a tensor form: address, size, value and the entries of the staging buffer it takes: one for each lane that stores (R192). -/
abbrev TensorWrite := Word × Nat × Nat × Nat

/-- The writes of a tensor form: stores by MEMDEF (R204), its flags, and AMAX at its retirement; under CHK it waits for the acknowledgements
(R175). The data units are checked before the scale bytes: the model's choice (notes/assumptions/76.md). -/
def State.tensorWrites (s : State) (i : Instr) (ws : List TensorWrite) (fl : Fl) (upd : Context → Context) : Result :=
  s.accessAll i .store none (ws.map fun w => w.2.2.2) (ws.map fun w => (w.1, w.2.1)) fun s e ks =>
    let t := (ks.zip (ws.map fun w => w.2.2)).foldl (fun t k => t.putCost e k.1.1 k.1.2.2 (.store k.1.2.2 k.1.2.1 k.2.1) k.2.2) s
    let els := asElements (ks.filter fun k => !s.staged k.2.2)
    if e.chk && !els.isEmpty then .next (t.awaiting i e els (.ackFl fl.bits.toNat (some (upd t.cx).amax))) else (t.setCx (upd t.cx)).finishFl i fl

/-- VCVT.MX (R204, R171, R172). -/
def execVcvtMx (amax : Bool) (d : VReg) (a : GReg) (t : BitVec 8) (s : State) : Result :=
  let i := Instr.vcvtMx amax d a t
  s.tensorOp i a t [1, 2, 3, 4] fun x n =>
    let r := posRow (s.g a)
    let k0 := posK (s.g a)
    let w := elemBits x.fmt
    let b := (Blk.ofFmt x.fmt).getD .bni
    let blocks := (List.range (n / 32)).map fun j => (j, b.convert s.cx.sat (s.blockIn d x k0 j))
    let data := blocks.flatMap fun p => (unitsOf w (pad32 p.2.2.1)).map fun u => (x.elemAddr r (k0 + 32 * p.1) + word (4 * u.1), 4, u.2, 32 / w)
    let scales := blocks.map fun p => (x.scaleAddr r (k0 + 32 * p.1), 1, p.2.1, 0)
    s.tensorWrites i (data ++ scales) (blocks.foldl (fun f p => Fl.or f p.2.2.2) Fl.none)
      fun c => if amax then c.updateAmax ((List.range (n / 32)).flatMap fun j => s.blockIn d x k0 j) else c

/-- The addresses VCVT.MXD reads: the data units of each block, then the scale bytes; and how many data units a block has. -/
def mxdReads (x : Tensor) (r k0 n : Nat) : Nat × List (Word × Nat) :=
  let per := if x.fmt = 0 then x.prd else elemBits x.fmt
  (per, ((List.range (n / 32)).flatMap fun j => (List.range per).map fun u =>
      (if x.fmt = 0 then x.planeAddr r (k0 + 32 * j) u else x.elemAddr r (k0 + 32 * j) + word (4 * u), 4))
    ++ (List.range (n / 32)).map fun j => (x.scaleAddr r (k0 + 32 * j), 1))

/-- The code of element q of a block from its data units. -/
def mxdCode (fmt per : Nat) (us : List Nat) (q : Nat) : Nat :=
  if fmt = 0 then (List.range per).foldl (fun n p => n + b2n ((us.getD p 0).testBit q) * 2 ^ (7 - p)) 0
  else (us.getD (q / (32 / per)) 0 >>> (per * (q % (32 / per)))) % 2 ^ per

/-- The lanes VCVT.MXD writes from the values read (R204). -/
def mxdLanes (sat : Bool) (x : Tensor) (k0 n : Nat) (vals : List Nat) : List (Lane × Fl) :=
  let per := if x.fmt = 0 then x.prd else elemBits x.fmt
  let nData := n / 32 * per
  (List.range n).map fun l =>
    if k0 + l ≥ x.kext then (0, Fl.none)
    else
      let j := l / 32
      let code := mxdCode x.fmt per ((vals.drop (j * per)).take per) (l % 32)
      let sc := vals.getD (nData + j) 0
      asLane (f32.ofFp .rne sat (if x.fmt = 0 then bniValue 8 x.sbase sc code else mxValue ((Blk.ofFmt x.fmt).getD .bni) sc code))

/-- VCVT.MXD (R204, R167): it waits with kind REPLY, also for data of the core's own SRAM (R190). -/
def execVcvtMxd (d : VReg) (a : GReg) (t : BitVec 8) (s : State) : Result :=
  let i := Instr.vcvtMxd d a t
  s.tensorOp i a t [0, 1, 2, 3, 4] fun x n =>
    let rd := mxdReads x (posRow (s.g a)) (posK (s.g a)) n
    let w := (Table.find s.cx.tid t.toNat).getD (0, 0, 0, 0)
    s.accessAll i .load none [] rd.2 fun s e ks =>
      let fin := Finish.mxd d w.1 w.2.1 (posRow (s.g a)) (posK (s.g a)) n (n / 32 * rd.1)
      s.loads i e ks fin fun t vs => .next (t.heldDone i e ks (vs.map fun v => (v, false)) fin t.cy)

/-- VBNI.SCAN: SBASE of the TID rises to the largest Ej of the blocks that are not NaN (R205), 4 cycles after issue (R190). -/
def execVbniScan (amax : Bool) (d : VReg) (a : GReg) (t : BitVec 8) (s : State) : Result :=
  let i := Instr.vbniScan amax d a t
  s.tensorOp i a t [0] fun x n =>
    let k0 := posK (s.g a)
    let es := (List.range (n / 32)).filterMap fun j => bniExp s.cx.sat (s.blockIn d x k0 j)
    let sb := es.foldl max x.sbase
    let c := if amax then s.cx.updateAmax ((List.range (n / 32)).flatMap fun j => s.blockIn d x k0 j) else s.cx
    ((s.setCx c).later (.tid t.toNat) [word sb] 4).done i

/-- Bit 7 − p of 32 element codes as a 4-byte unit (R206). -/
def planeUnit (l : List Nat) (p : Nat) : Nat := packDigits 1 (l.map fun x => x >>> (7 - p))

/-- VBNI (R206). -/
def execVbni (amax : Bool) (d : VReg) (a : GReg) (t : BitVec 8) (s : State) : Result :=
  let i := Instr.vbni amax d a t
  s.tensorOp i a t [0] fun x n =>
    let r := posRow (s.g a)
    let k0 := posK (s.g a)
    let blocks := (List.range (n / 32)).map fun j => (j, bniConvert s.cx.sat x.sbase (s.blockIn d x k0 j))
    let data := blocks.flatMap fun p => (List.range x.pst).map fun q =>
      (x.planeAddr r (k0 + 32 * p.1) q, 4, planeUnit (pad32 p.2.2.1) q, if q = 0 then 32 else 0)
    let scales := blocks.map fun p => (x.scaleAddr r (k0 + 32 * p.1), 1, p.2.1, 0)
    s.tensorWrites i (data ++ scales) (blocks.foldl (fun f p => Fl.or f p.2.2.2) Fl.none)
      fun c => if amax then c.updateAmax ((List.range (n / 32)).flatMap fun j => s.blockIn d x k0 j) else c

end Sys2Proof.Machine
end

