-- ==== Sys2Proof/Machine/Reduce.lean ====
section
/-!
DEFINITION. Reductions: VRED, VSCAN and the in-network VNRED with its combinations and timeout (spec/08_vector.md R208–R212,
spec/07_numbers.md R181, R182).
-/
namespace Sys2Proof.Machine

/-! ## Within a core (R208, R209) -/

/-- An integer reduction of 32-bit lanes: the 64-bit result, the identity for no lane. -/
def redInt (op : RedOp) (l : List Lane) : Word :=
  match op with
  | .add => BitVec.ofInt 64 ((l.map (·.toInt)).foldl (· + ·) 0)
  | .min => sext (l.foldl (minLane false) 0x7FFFFFFF#32)
  | .max => sext (l.foldl (maxLane false) 0x80000000#32)
  | .minZ => zext (l.foldl (minLane true) 0xFFFFFFFF#32)
  | .maxZ => zext (l.foldl (maxLane true) 0#32)
  | .and => sext (l.foldl (· &&& ·) 0xFFFFFFFF#32)
  | .or => sext (l.foldl (· ||| ·) 0#32)
  | .xor => sext (l.foldl (· ^^^ ·) 0#32)
  | _ => 0

/-- A fold with flags. -/
def foldFl (f : Nat → Nat → Nat × Fl) : List Nat → Nat → Nat × Fl
  | [], x => (x, Fl.none)
  | y :: l, x =>
    let r := f x y
    let t := foldFl f l r.1
    (t.1, Fl.or r.2 t.2)

/-- A reduction (R208): `fadd` by the tree of R181 with c = +0, `fmin` and `fmax` by R196. -/
def redLanes (rm : Rm) (op : RedOp) (l : List Lane) : Word × Fl :=
  let ns := l.map (·.toNat)
  match op with
  | .fadd => let r := treeSum f32 rm 0 ns; (word r.1, r.2)
  | .fmin => let r := foldFl (f32.minMax false) ns f32.nanBits; (word r.1, r.2)
  | .fmax => let r := foldFl (f32.minMax true) ns f32.nanBits; (word r.1, r.2)
  | op => (redInt op l, Fl.none)

/-- VRED (R208). -/
def execVred (op : RedOp) (d : GReg) (a : VReg) (s : State) : Result :=
  s.vec fun n =>
    let r := redLanes s.cx.rm op (s.lanesOf a n)
    s.gdone (.vred op d a) d r.1 r.2 8

/-- Two lanes combined by an op of VSCAN (R209). -/
def scanOp (rm : Rm) (op : RedOp) (a b : Lane) : Lane × Fl :=
  match op with
  | .add => (a + b, Fl.none)
  | .min => (minLane false a b, Fl.none)
  | .max => (maxLane false a b, Fl.none)
  | .minZ => (minLane true a b, Fl.none)
  | .maxZ => (maxLane true a b, Fl.none)
  | .and => (a &&& b, Fl.none)
  | .or => (a ||| b, Fl.none)
  | .xor => (a ^^^ b, Fl.none)
  | .fadd => asLane (f32.add rm a.toNat b.toNat)
  | .fmin => asLane (f32.minMax false a.toNat b.toNat)
  | .fmax => asLane (f32.minMax true a.toNat b.toNat)

/-- Whether an op is floating. -/
def redFloat : RedOp → Bool
  | .fadd => true
  | .fmin => true
  | .fmax => true
  | _ => false

/-- The prefixes of a list from a running value. -/
def scanFrom (rm : Rm) (op : RedOp) : Lane → List Lane → List (Lane × Fl)
  | _, [] => []
  | x, y :: l => let r := scanOp rm op x y; r :: scanFrom rm op r.1 l

/-- The inclusive prefixes (R209): lane 0 is a_0, but a signalling NaN gives the default NaN with NV. -/
def scanLanes (rm : Rm) (op : RedOp) : List Lane → List (Lane × Fl)
  | [] => []
  | x :: l =>
    let first : Lane × Fl := if redFloat op && (f32.decode x.toNat).signals then (BitVec.ofNat 32 f32.nanBits, Fl.invalid) else (x, Fl.none)
    first :: scanFrom rm op first.1 l

/-- VSCAN (R209). -/
def execVscan (op : RedOp) (d a : VReg) (s : State) : Result :=
  s.vec fun n => s.vdone (.vscan op d a) d (scanLanes s.cx.rm op (s.lanesOf a n)) 8

/-! ## The tree of VNRED (R210) -/

/-- The enabled sites of the member's domain rectangle in a row, by column. -/
def State.rowSites (s : State) (id : Nat) (r : Rect) (row : Nat) : List Nat :=
  ((List.range r.width).map (· + r.left)).filter fun c => s.enabled (s.vif (s.vifOf id)) (s.trayAt id) (s.vdAt id) row c

/-- The row head of a row (R210). -/
def State.rowHead (s : State) (id : Nat) (r : Rect) (row : Nat) : Option Nat :=
  (s.rowSites id r row).head?.map fun c => siteId (pdieOf id) row c

/-- The east child of a member. -/
def State.eastChild (s : State) (id : Nat) (r : Rect) : Option Nat :=
  ((s.rowSites id r (rowOf id)).find? fun c => decide (c > colOf id)).map fun c => siteId (pdieOf id) (rowOf id) c

/-- The south child of a row head: the row head of the nearest row south that has one. -/
def State.southChild (s : State) (id : Nat) (r : Rect) : Option Nat :=
  if s.rowHead id r (rowOf id) != some id then none
  else (((List.range r.height).map (· + r.top)).filter fun w => decide (w > rowOf id)).findSome? fun w => s.rowHead id r w

/-- The parent a member sends to: its west neighbour in the tree (true: it is that one's east child), or the row head of the nearest
row north; none for the root. -/
def State.treeParent (s : State) (id : Nat) (r : Rect) : Option (Bool × Nat) :=
  match ((s.rowSites id r (rowOf id)).reverse.find? fun c => decide (c < colOf id)) with
  | some c => some (true, siteId (pdieOf id) (rowOf id) c)
  | none => (((((List.range r.height).map (· + r.top)).filter fun w => decide (w < rowOf id)).reverse).findSome? fun w => s.rowHead id r w).map fun p => (false, p)

/-! ## Combinations (R211, R212) -/

/-- The op code of VNRED. -/
def nredCode : NredOp → Nat
  | .add => 0
  | .min => 1
  | .max => 2
  | .fadd => 3
  | .fmin => 4
  | .fmax => 5

/-- Two lanes of partials combined; floating ops round RNE (R211). -/
def nredLane (op : Nat) (a b : Word) : Word × Fl :=
  let x : Lane := a.setWidth 32
  let y : Lane := b.setWidth 32
  match op with
  | 0 => (a + b, Fl.none)
  | 1 => (zext (minLane false x y), Fl.none)
  | 2 => (zext (maxLane false x y), Fl.none)
  | 3 => let r := f32.add .rne x.toNat y.toNat; (word r.1, r.2)
  | 4 => let r := f32.minMax false x.toNat y.toNat; (word r.1, r.2)
  | _ => let r := f32.minMax true x.toNat y.toNat; (word r.1, r.2)

/-- The element format of `vnred.mx`. -/
def nredBlk (imm : Nat) : Blk := if imm = 1 then .e5m2 else .e4m3

/-- The 32 codes of block j in lanes of four bytes (R211). -/
def blockCodes (lanes : List Word) (j : Nat) : List Nat :=
  ((lanes.drop (8 * j)).take 8).flatMap fun w => (List.range 4).map fun e => bits w (8 * e + 7) (8 * e)

/-- Lanes of four bytes from 32 codes. -/
def codeLanes (l : List Nat) : List Word := (List.range 8).map fun n => word (packDigits 8 ((l.drop (4 * n)).take 4))

/-- Combine of R211: left and right; a member whose op, field or VL differs delivers NaN or 0 and NV (R212). -/
def combinePartials (sat : Bool) (p q : Partial) : Partial :=
  if p.op ≠ q.op ∨ p.imm ≠ q.imm ∨ p.vl ≠ q.vl then
    { p with
      lanes := p.lanes.map fun _ => if p.op ≥ 3 then word f32.nanBits else 0
      scales := p.scales.map fun _ => 0xFF
      flags := ((word p.flags) ||| (word q.flags) ||| 1).toNat }
  else if p.op = 6 then
    let bs := (List.range (p.vl / 8)).map fun j =>
      mxCombine (nredBlk p.imm) sat (bits (p.scales.getD j 0) 7 0) (blockCodes p.lanes j) (bits (q.scales.getD j 0) 7 0) (blockCodes q.lanes j)
    { p with
      lanes := bs.flatMap fun b => codeLanes b.2.1
      scales := bs.map fun b => word b.1
      flags := ((word p.flags) ||| (word q.flags) ||| (bs.foldl (fun f b => Fl.or f b.2.2) Fl.none).bits).toNat }
  else
    let rs := List.zipWith (nredLane p.op) p.lanes q.lanes
    { p with lanes := rs.map (·.1), flags := ((word p.flags) ||| (word q.flags) ||| (flagsOf rs).bits).toNat }

/-! ## VNRED (R210–R212) -/

/-- VNRED is issued: the member's own lanes are its partial, and it waits with kind BARRIER (R210, R212). -/
def State.startVnred (s : State) (p : Partial) (d c : VReg) : Result :=
  ({ s with
    cx := { s.cx with arrived := true }
    core := { s.core with vnred := some ⟨p, s.cy, d, c, s.cx.sat, false, false⟩ } }).waitBar 6

/-- VNRED other than `.mx` (R210, R211). -/
def execVnred (op : NredOp) (d a : VReg) (s : State) : Result :=
  let i := Instr.vnred op d a
  s.vec fun n =>
    if bits s.cx.domain 2 0 < 2 then s.illegal i
    else if s.cx.arrived then (if s.core.vnred.isNone then s.done i else s.waitBar 6)
    else
      let ls := (s.lanesOf a n).map fun x => if op = .add then sext x else zext x
      s.startVnred ⟨ls, [], nredCode op, 0, n, 0⟩ d d

/-- VNRED.MX (R211). -/
def execVnredMx (e5m2 : Bool) (d a b c : VReg) (s : State) : Result :=
  let i := Instr.vnredMx e5m2 d a b c
  s.vec fun n =>
    if bits s.cx.domain 2 0 < 2 ∨ n = 0 ∨ n % 8 ≠ 0 ∨ d = c then s.illegal i
    else if s.cx.arrived then (if s.core.vnred.isNone then s.done i else s.waitBar 6)
    else s.startVnred ⟨(s.lanesOf a n).map zext, (s.lanesOf b (n / 8)).map zext, 6, b2n e5m2, n, 0⟩ d c

/-- Lanes 0 … of v(r) replaced by a list (R190). -/
def Core.putLanes (c : Core) (r : VReg) (l : List Lane) : Core :=
  { c with v := c.v.set r.toFin ((l ++ (c.v[r.toFin]).drop l.length).take c.lanes) }

/-- The root writes the result (R211): `add` clamped to s32 under its SAT, else wrapped; `.mx` elements and scales; the
flags are merged (R170); with VL = 0 there is no effect (R190). -/
def State.writeRoot (s : State) (v : Vnred) : State :=
  let p := v.own
  let rs : List (Lane × Fl) := p.lanes.map fun w =>
    if p.op = 0 ∧ v.sat then
      let c := clampS 32 w.toInt
      (c.1, Fl.clamp c.2)
    else (w.setWidth 32, Fl.none)
  let k1 := s.core.putLanes v.d (rs.map (·.1))
  let k2 := if p.op = 6 then k1.putLanes v.c (p.scales.map fun w => BitVec.ofNat 32 (bits w 7 0)) else k1
  let t := s.setCore k2
  if p.vl = 0 then t else t.setCx (t.cx.mergeAt t.cy (word p.flags ||| (flagsOf rs).bits))

/-- The context that holds the lanes of a core, in view. -/
def State.atHolder (s : State) (core : Nat) (f : State → State) : State :=
  match (s.coreAt core).holder with
  | some k => s.within core k f
  | none => s

/-- The oldest partial received from a child is combined (R210, R212). -/
def State.takePartial (s : State) (v : Vnred) (east : Bool) : State :=
  match s.core.early.findIdx? fun e => e.1 == east with
  | none => s
  | some n =>
    match s.core.early[n]? with
    | none => s
    | some e =>
      let v1 : Vnred :=
        { v with own := combinePartials v.sat v.own e.2, gotEast := v.gotEast || east, gotSouth := v.gotSouth || !east }
      s.setCore { s.core with early := dropAt s.core.early n, vnred := some v1 }

def Core.endVnred (c : Core) : Core := { c with vnred := none }
def Core.addPartial (c : Core) (east : Bool) (p : Partial) : Core := { c with early := c.early ++ [(east, p)] }

/-- The VNRED of the context in view completes. -/
def State.endVnred (s : State) : State := if s.cx.st = .waiting .barrier then s.retireLen 8 else s

/-- The partial goes to the parent, or the root writes it, and the VNRED completes. -/
def State.sendPartial (s : State) (v : Vnred) : State :=
  match s.treeParent s.id (rectOf s.cx.domain) with
  | none => ((s.writeRoot v).modCore s.id Core.endVnred).endVnred
  | some p => ((s.modCore p.2 fun c => c.addPartial p.1 v.own).modCore s.id Core.endVnred).endVnred

/-- Whether the member still waits for its east or its south child. -/
def State.needEast (s : State) (v : Vnred) : Bool := (s.eastChild s.id (rectOf s.cx.domain)).isSome && !v.gotEast
def State.needSouth (s : State) (v : Vnred) : Bool := (s.southChild s.id (rectOf s.cx.domain)).isSome && !v.gotSouth

/-- One step of a member (R210): the east partial, then the south partial, then sending. -/
def State.vnredStep (s : State) (v : Vnred) : State :=
  if s.needEast v then s.takePartial v true else if s.needSouth v then s.takePartial v false else s.sendPartial v

/-- VNRED_COMBINE (R210). -/
def execVnredCombine (core : Nat) (s : State) : Result :=
  .next (s.atHolder core fun s => match s.core.vnred with | some v => s.vnredStep v | none => s)

/-- Whether a child of the member has not sent its partial. -/
def State.childLate (s : State) (v : Vnred) : Bool :=
  let sent (east : Bool) : Bool := s.core.early.any fun e => e.1 == east
  (s.needEast v && !sent true) || (s.needSouth v && !sent false)

/-- VNRED_TIMEOUT: the children have not sent within BTIMEOUT cycles: BARTIME with TVAL 6; timeouts stop in a halt (R212).
With VL = 0 the member waits without a limit (R190; notes/assumptions/91.md). -/
def execVnredTimeout (core : Nat) (s : State) : Result :=
  .next (s.atHolder core fun s =>
    match s.core.vnred with
    | some v =>
      if s.childLate v && v.own.vl != 0 && !s.suspended core && decide (s.cy - v.t0 ≥ s.cx.barrierLimit) && s.cx.st == .waiting .barrier then
        (s.setCore { s.core with vnred := none }).trapEntry 0x0F 0 false 6
      else s
    | none => s)

end Sys2Proof.Machine
end

