-- ==== Sys2Proof/Machine/Matrix.lean ====
section
/-!
DEFINITION. Operand memory, the matrix engine and narrowing reads (spec/09_matrix.md R213–R227, spec/07_numbers.md R176–R179).
-/
namespace Sys2Proof.Machine

/-! ## Slots (R213, R214) -/

def Core.slot (c : Core) (k : OReg) : OSlot := c.o[k.toFin]
def State.setSlot (s : State) (k : OReg) (x : OSlot) : State := s.setCore { s.core with o := s.core.o.set k.toFin x }
/-- A slot the issuing context holds. -/
def State.ownsSlot (s : State) (k : OReg) : Bool := (s.core.slot k).holder == some s.core.k
/-- OMSLOT (R213). -/
def State.omslot (s : State) (k : OReg) : Result := s.trap 0x17 (zext k)

/-- OCLAIM (R214). -/
def execOclaim (d : GReg) (k : OReg) (s : State) : Result :=
  let i := Instr.oclaim d k
  match (s.core.slot k).holder with
  | none => (s.setSlot k { OSlot.free with holder := some s.core.k }).doneG i d 1
  | some h => s.doneG i d (if h = s.core.k then 1 else 0)

/-- OREL (R214). -/
def execOrel (k : OReg) (s : State) : Result :=
  if !s.ownsSlot k then s.omslot k
  else if s.core.slotRead k.toNat then s.wait .operand
  else (s.setSlot k OSlot.free).done (.orel k)

/-- The row and column checksums of `n` planes of `size` bytes (R213, R216). -/
def planeSums (n size : Nat) (bytes : List (Nat × Byte)) : List (Nat × Nat) :=
  (List.range n).map fun p =>
    let plane := bytes.filter fun b => b.1 / size == p
    (Config.planeChecksum false plane, Config.planeChecksum true plane)

/-- Bytes of a plane: 512, or 256 in a sparse block (R215). -/
def planeBytes (sparse : Bool) : Nat := if sparse then 256 else 512

/-- OZERO (R214). -/
def execOzero (k : OReg) (t : BitVec 8) (s : State) : Result :=
  if !s.ownsSlot k then s.omslot k
  else
    match s.tensor t.toNat with
    | none => s.trap 0x18 (zext t)
    | some x =>
      if x.fmt ≠ 0 ∧ x.fmt ≠ 10 then s.trap 0x18 (zext t)
      else if s.core.slotRead k.toNat then s.wait .operand
      else
        let o : OSlot :=
          { OSlot.free with holder := some s.core.k, loaded := true, fmt := x.fmt, sparse := x.sparse, sbase := x.sbase,
                            planes := if x.fmt = 10 then 1 else 8, sums := planeSums (if x.fmt = 10 then 1 else 8) (planeBytes x.sparse) [] }
        (s.setSlot k o).done (.ozero k t)

/-! ## OLOAD (R215) -/

/-- Base of the operand block (row0, k0) of a tensor (R166). -/
def Tensor.blockBase (t : Tensor) (row0 k0 : Nat) : Nat := t.loc + row0 / 16 * t.rstr * 32 + k0 / 256 * t.kstr * 32

/-- The rows and blocks of an operand block: 16 × 8 scale bytes are read; FMT 10 has none (R215). -/
def scalePlaces (t : Tensor) : List (Nat × Nat) :=
  if t.fmt = 10 then [] else (List.range 16).flatMap fun r => (List.range 8).map fun b => (r, b)

/-- The addresses OLOAD reads: 4-byte units of planes and indices, then scale bytes (R215). -/
def oloadReads (t : Tensor) (row0 k0 planes : Nat) : List (Word × Nat) :=
  let base := t.blockBase row0 k0
  ((List.range (planes * (planeBytes t.sparse / 4))).map fun u => (word (base + 4 * u), 4))
  ++ (if t.sparse then (List.range 128).map fun u => (word (base + t.pst * 256 + 4 * u), 4) else [])
  ++ (scalePlaces t).map fun p => (t.scaleAddr (row0 + p.1) (k0 + 32 * p.2), 1)

/-- The bytes of 4-byte units from an index on, those that are not 0. -/
def unitBytes (us : List Nat) : List (Nat × Byte) :=
  ((List.range (4 * us.length)).map fun n => (n, BitVec.ofNat 8 (us.getD (n / 4) 0 >>> (8 * (n % 4))))).filter fun p => p.2 != 0

/-- Position of element bit n of a sparse row: group, kept element; the nibble of group g of row r (R215). -/
def nibbleAt (index : List (Nat × Byte)) (r g : Nat) : Nat :=
  let b := ((Table.find index (r * 32 + g / 2)).getD 0).toNat
  if g % 2 = 0 then b % 16 else b / 16

/-- The bit of a plane at (row, k): of the element there, or of the kept element that stands there (R221). -/
def OSlot.bitAt (o : OSlot) (p r k : Nat) : Bool :=
  if o.sparse then
    let n := nibbleAt o.index r (k / 4)
    let e : Option Nat := if n % 4 = k % 4 then some (2 * (k / 4)) else if n / 4 % 4 = k % 4 then some (2 * (k / 4) + 1) else none
    match e with
    | some e => bit ((Table.find o.bytes (p * 256 + r * 16 + e / 8)).getD 0) (e % 8)
    | none => false
  else bit ((Table.find o.bytes (p * 512 + r * 32 + k / 8)).getD 0) (k % 8)

/-- A dense byte with the bits of positions outside the tensor cleared (R215). -/
def clipByte (t : Tensor) (row0 k0 : Nat) (p : Nat × Byte) : Nat × Byte :=
  let r := p.1 % 512 / 32
  let k := k0 + p.1 % 32 * 8
  (p.1, if row0 + r ≥ t.rows then 0 else BitVec.ofNat 8 (p.2.toNat % 2 ^ min 8 (t.kext - k)))

/-- A sparse plane byte with the kept elements outside the tensor cleared. -/
def clipSparse (t : Tensor) (row0 k0 : Nat) (index : List (Nat × Byte)) (p : Nat × Byte) : Nat × Byte :=
  let r := p.1 % 256 / 16
  if row0 + r ≥ t.rows then (p.1, 0)
  else
    (p.1, (List.range 8).foldl (fun b n =>
      let e := p.1 % 16 * 8 + n
      let nib := nibbleAt index r (e / 2)
      let pos := e / 2 * 4 + (if e % 2 = 0 then nib % 4 else nib / 4 % 4)
      if k0 + pos ≥ t.kext then b &&& ~~~(BitVec.ofNat 8 (1 <<< n)) else b) p.2)

/-- Whether an index nibble's first position is not below its second (R215). -/
def badIndex (index : List (Nat × Byte)) : Bool :=
  (List.range 16).any fun r => (List.range 64).any fun g => let n := nibbleAt index r g; decide (n % 4 ≥ n / 4 % 4)

/-- TVAL of a MATERR (R216): slot and tile, each with the bit that says there is none. -/
def materrTval (slot tile : Option Nat) : Word :=
  word (slot.getD 0 + tile.getD 0 * 8 + b2n slot.isNone * 32 + b2n tile.isNone * 64)

/-- The slot OLOAD leaves (R215): the values in the order of `oloadReads`. -/
def oloadSlot (holder : Option Nat) (t : Tensor) (row0 k0 planes : Nat) (vals : List Nat) (bad : Bool) : OSlot :=
  let nPlane := planes * (planeBytes t.sparse / 4)
  let index := if t.sparse then unitBytes ((vals.drop nPlane).take 128) else []
  let raw := unitBytes (vals.take nPlane)
  let sc := vals.drop (nPlane + (if t.sparse then 128 else 0))
  let inside := fun (p : Nat × Nat) => decide (row0 + p.1 < t.rows) && decide (k0 + 32 * p.2 < t.kext)
  let scales := (((scalePlaces t).zip sc).map fun p =>
    (p.1.1 * 8 + p.1.2, if inside p.1 then BitVec.ofNat 8 p.2 else 0)).filter fun p => p.2 != 0
  let bytes := (raw.map fun p => if t.sparse then clipSparse t row0 k0 index p else clipByte t row0 k0 p).filter fun p => p.2 != 0
  { holder := holder, loaded := true, fmt := t.fmt, sparse := t.sparse, planes := planes, sbase := t.sbase, bytes := bytes,
    scales := scales, index := index, scales2 := scales, index2 := index,
    poison := bad || (t.sparse && badIndex index), poisonSub := 5,
    sums := planeSums planes (planeBytes t.sparse) bytes, kEnd := min 256 (t.kext - k0) }

/-- The end of OLOAD: the slot is filled; an invalid sparse index posts MATERR with SUB 3 (R215). -/
def State.finishOload (s : State) (k : Nat) (t : Tensor) (row0 k0 planes : Nat) (vals : List Nat) (bad : Bool) (len : Nat) : State :=
  let kk : OReg := BitVec.ofNat 3 k
  let o := oloadSlot (s.core.slot kk).holder t row0 k0 planes vals bad
  let s1 := s.setSlot kk o
  let s2 := if t.sparse && badIndex o.index then s1.post s1.id s1.core.k 0x12 3 1 (materrTval (some k) none) (some s1.cx.since) else s1
  s2.retireLen len

/-- The accesses of an OLOAD served at the core itself: uncorrectable data is a MEMERR with SOURCE 1; it ends 8·p + 4 cycles after issue
(R215). -/
def State.oloadNow (s : State) (i : Instr) (e : Eff) (ks : List (Word × Nat × Nat)) (fin : Finish) (planes : Nat) : Result :=
  match s.serveLocal ks with
  | none => s.wait .reply
  | some vs =>
    let s1 := ks.foldl (fun s p => s.localJoin e.ord p.2.2 p.2.1) s
    match firstBad ks vs with
    | some ea =>
      if e.chk then s.trap 0x11 ea else .next ((s1.postBad 1 ks vs).heldDone i e ks vs fin (s.cy + 8 * planes + 4))
    | none => .next (s1.heldDone i e ks vs fin (s.cy + 8 * planes + 4))

/-- Of the accesses of a list whose checks fail, the one at the lowest address (R215). -/
def State.lowestFail (s : State) (k : AccKind) (space : Nat) (l : List (Word × Nat)) : Option (Word × Chk) :=
  l.foldl (fun best p =>
    match s.check k space p.1 p.2, best with
    | .ok _, b => b
    | c, none => some (p.1, c)
    | c, some b => if p.1.toNat < b.1.toNat then some (p.1, c) else some b) none

/-- OLOAD (R215). -/
def execOload (k : OReg) (a : GReg) (t : BitVec 8) (p : BitVec 4) (s : State) : Result :=
  let i := Instr.oload k a t p
  if !s.ownsSlot k then s.omslot k
  else
    match s.tensor t.toNat with
    | none => s.trap 0x18 (zext t)
    | some x =>
      let row0 := posRow (s.g a)
      let k0 := posK (s.g a)
      let planes := if x.fmt = 10 then 1 else if p = 0 then x.prd else p.toNat
      if x.fmt ≠ 0 ∧ x.fmt ≠ 10 then s.trap 0x18 (zext t)
      else if row0 % 16 ≠ 0 ∨ k0 % 256 ≠ 0 ∨ row0 ≥ x.rows ∨ k0 ≥ x.kext ∨ bits (s.g a) 63 40 ≠ 0
        ∨ (x.fmt = 10 ∧ p.toNat > 1) ∨ (x.fmt = 0 ∧ planes > x.pst) then s.illegal i
      else
        let rd := oloadReads x row0 k0 planes
        match s.lowestFail .load (bits s.cx.memdef 7 6) rd with
        | some (_, .trap c v) => s.trap c v
        | some (_, .walk va) => .next (s.startWalk .load va)
        | some (_, .badFrame) => .fault .frameBeyondStack
        | _ =>
          if s.core.slotRead k.toNat then s.wait .operand
          else
            let w := (Table.find s.cx.tid t.toNat).getD (0, 0, 0, 0)
            let fin := Finish.oload k.toNat w.1 w.2.1 row0 k0 planes (if x.sparse then 128 else 0)
            s.accessAll i .load none [] rd fun s e ks =>
              if ks.all fun q => homeOf q.2.2 == .core s.id then s.oloadNow i e ks fin planes
              else .next (s.awaiting i e (asElements ks) fin)

/-! ## m tiles and the engine's queue (R218–R225) -/

def Core.tile (c : Core) (k : Nat) : MTile := c.m.getD k MTile.clear
def Core.setTile (c : Core) (k : Nat) (t : MTile) : Core := { c with m := c.m.setIfInBounds k t }

/-- An accepted instruction writes the tile (R219). -/
def Core.tileBusy (c : Core) (k : Nat) : Bool := c.mq.any fun q => q.m == k

/-- The coprocessor queue has no free entry: two instructions wait besides the one that executes (R218). -/
def Core.mqFull (c : Core) : Bool := decide ((c.mq.filter fun q => !q.running).length ≥ 2)

/-- An instruction enters the queue with what it makes of the tile's COUNT and ANCHOR (R218, R225), and whether the tile is one of an MBIN
from then on (R222). -/
def State.acceptMatrix (s : State) (i : Instr) (q : MCmd) (count : Nat) (anchor : Option Int) : Result :=
  let t := s.core.tile q.m
  if s.cy < t.readUntil then s.wait .operand
  else if s.core.mqFull then s.wait .engine
  else
    let c := s.core.setTile q.m { t with count := count, anchor := anchor, bin := decide (q.op ≥ 3) || (q.acc && t.bin) }
    (s.setCore { c with mq := c.mq ++ [q] }).done i

/-- MCLR (R224). -/
def execMclr (k : MReg) (s : State) : Result :=
  s.acceptMatrix (.mclr k) ⟨0, k.toNat, 0, 0, 0, 0, 0, 0, false, s.core.k, false, 0, false, s.seq⟩ 0 none

/-- The acceptance checks that R221 and R222 share, after the slots are held: also, no MMP adds to an MBIN tile. -/
def State.matrixOk (s : State) (op : Nat) (k : MReg) (acc : Bool) (kb ke : Nat) (anc : Int) : Bool :=
  let t := s.core.tile k.toNat
  !(acc && op == 1 && t.bin) && decide (kb < ke) && decide (ke ≤ 256) && !(acc && t.anchor.isSome && t.anchor != some anc) && !(acc && t.count == 65535)

/-- A product instruction (R221, R222). -/
def State.product (s : State) (i : Instr) (op : Nat) (acc : Bool) (k : MReg) (a b : OReg) (kb ke pa pb : Nat) (fits : OSlot → OSlot → Bool)
    (anc : OSlot → OSlot → Int) : Result :=
  if !s.ownsSlot a then s.omslot a
  else if !s.ownsSlot b then s.omslot b
  else
    let x := s.core.slot a
    let y := s.core.slot b
    if !x.loaded ∨ !y.loaded ∨ !fits x y ∨ pa > x.planes ∨ pb > y.planes ∨ !s.matrixOk op k acc kb ke (anc x y) then s.illegal i
    else
      s.acceptMatrix i ⟨op, k.toNat, a.toNat, b.toNat, kb, ke, pa, pb, acc, s.core.k, false, 0, false, s.seq⟩
        (if acc then (s.core.tile k.toNat).count + 1 else 1) (some (anc x y))

/-- ANCHOR of a BNI product (R176). -/
def bniAnchor (x y : OSlot) : Int := (x.sbase : Int) + y.sbase - 62

/-- MMP: two dense BNI slots (R221). -/
def execMmp (acc : Bool) (k : MReg) (a b : OReg) (kb : BitVec 8) (ke : BitVec 9) (pa pb : BitVec 3) (s : State) : Result :=
  s.product (.mmp acc k a b kb ke pa pb) 1 acc k a b kb.toNat ke.toNat (pa.toNat + 1) (pb.toNat + 1)
    (fun x y => x.fmt == 0 && y.fmt == 0 && !x.sparse && !y.sparse) bniAnchor

/-- MSP: a dense BNI slot and a sparse one (R221). -/
def execMsp (acc : Bool) (k : MReg) (a b : OReg) (kb : BitVec 8) (ke : BitVec 9) (pa pb : BitVec 3) (s : State) : Result :=
  s.product (.msp acc k a b kb ke pa pb) 2 acc k a b kb.toNat ke.toNat (pa.toNat + 1) (pb.toNat + 1)
    (fun x y => x.fmt == 0 && y.fmt == 0 && !x.sparse && y.sparse) bniAnchor

/-- MBIN: two binary slots, ANCHOR 266 (R222). -/
def execMbin (xor acc : Bool) (k : MReg) (a b : OReg) (kb : BitVec 8) (ke : BitVec 9) (s : State) : Result :=
  s.product (.mbin xor acc k a b kb ke) (if xor then 4 else 3) acc k a b kb.toNat ke.toNat 1 1
    (fun x y => x.fmt == 10 && y.fmt == 10) fun _ _ => 266

/-- MSTAT (R225). STEP of a tile that is BUSY only with a queued instruction, while another tile's executes, reads 0: the model's choice
(notes/assumptions/99.md). -/
def execMstat (d : GReg) (k : MReg) (s : State) : Result :=
  let t := s.core.tile k.toNat
  let busy := s.core.tileBusy k.toNat
  let step := match s.core.mq with | q :: _ => if q.running && q.m == k.toNat then q.step else 0 | [] => 0
  let anc := (BitVec.ofInt 10 (t.anchor.getD 0)).toNat
  s.doneG (.mstat d k) d
    (word (b2n busy + 2 * b2n t.anchor.isSome + 4 * b2n t.poison + 8 * b2n (!t.marks.isEmpty) + anc * 2 ^ 6 + t.count * 2 ^ 16
      + (if busy then step else 0) * 2 ^ 32))

/-- MCHK: waits until the tile is not BUSY, then takes a pending error of matrix work (R227). -/
def execMchk (k : MReg) (s : State) : Result :=
  if s.core.tileBusy k.toNat then s.wait .operand
  else
    let code := bits s.cx.errpend 15 8
    let mine := bit s.cx.errpend 0 && (code == 0x12 || (code == 0x11 && s.cx.errSource == 1))
    let node := s.core.node.isSome && (match s.core.nodeErr with | some e => e.1 == 0x12 || (e.1 == 0x11 && e.2.2.1 == 1) | none => false)
    if mine || node then s.checkPoint fun s => s.done (.mchk k) else s.done (.mchk k)

/-! ## Execution (R216, R221, R222) -/

/-- W(i) of R221. -/
def planeWeight (i : Nat) : Int := if i = 0 then -128 else (2 ^ (7 - i) : Nat)

/-- Shared-scale offset of a block: 0 for a NaN block, which marks (R221, R165). -/
def OSlot.scaleByte (o : OSlot) (r b : Nat) : Nat := ((Table.find o.scales (r * 8 + b)).getD 0).toNat
def OSlot.nanAt (o : OSlot) (r b : Nat) : Bool := decide (o.scaleByte r b ≥ 32)
/-- Position k of a row lies in a NaN block and below KEXT (R215). -/
def OSlot.nanIn (o : OSlot) (r k : Nat) : Bool := decide (k < o.kEnd) && o.nanAt r (k / 32)
def OSlot.off (o : OSlot) (r b : Nat) : Nat := if o.nanAt r b then 0 else o.scaleByte r b

/-- A plane bit that takes part in a product: 0 in a block whose Ej is below 0 (R165). -/
def OSlot.useBit (o : OSlot) (p r k : Nat) : Bool := o.bitAt p r k && decide (o.off r (k / 32) ≤ o.sbase)

/-- The positions of a product. -/
def MCmd.positions (q : MCmd) : List Nat := (List.range (q.ke - q.kb)).map (· + q.kb)

/-- The sum one pass adds to element (row, col) (R221, R222). -/
def passTerm (q : MCmd) (x y : OSlot) (row col : Nat) : Int :=
  if q.op = 3 then ((q.positions.filter fun k => x.bitAt 0 row k && y.bitAt 0 col k).length : Nat)
  else if q.op = 4 then ((q.ke - q.kb : Nat) : Int) - 2 * ((q.positions.filter fun k => x.bitAt 0 row k != y.bitAt 0 col k).length : Nat)
  else
    let i := q.step / q.pb
    let j := q.step % q.pb
    let t : Nat := (q.positions.map fun k =>
      if x.useBit i row k && y.useBit j col k then 2 ^ (62 - x.off row (k / 32) - y.off col (k / 32)) else 0).sum
    planeWeight i * planeWeight j * t

/-- Element values added to a sparse tile. -/
def addAcc (acc : List (Nat × Acc)) (f : Nat → Int) : List (Nat × Acc) :=
  ((List.range 256).map fun n => (n, (Table.find acc n).getD 0 + BitVec.ofInt 144 (f n))).filter fun p => p.2 != 0

/-- Passes of an instruction (R223). -/
def MCmd.passes (q : MCmd) : Nat := if q.op = 0 then 0 else if q.op ≥ 3 then 1 else q.pa * q.pb

/-- The elements a product marks (R221). -/
def markNan (q : MCmd) (x y : OSlot) (marks : List Nat) : List Nat :=
  if q.op ≥ 3 then marks
  else
    (List.range 256).filter fun n =>
      marks.contains n || q.positions.any fun k => x.nanIn (n / 16) k || y.nanIn (n % 16) k

/-- The engine begins an instruction: without `.acc` the tile is cleared (R221). -/
def State.startMatrix (s : State) (q : MCmd) : State :=
  let t := s.core.tile q.m
  let t1 := if q.acc then t else { t with acc := [], marks := [], poison := false }
  let c := s.core.setTile q.m t1
  s.setCore { c with mq := { q with running := true } :: c.mq.drop 1 }

/-- A MATERR of a pass, posted to the context that issued the instruction (R216), with the tile's POISON set. -/
def State.passError (s : State) (q : MCmd) (sub : Nat) (slot : Option Nat) : State :=
  let t := s.setCore (s.core.setTile q.m { (s.core.tile q.m) with poison := true })
  t.post t.id q.ctx 0x12 sub 1 (materrTval slot (some q.m)) (some q.at_)

/-- The executing instruction is replaced at the head of the queue. -/
def State.setHead (s : State) (q : MCmd) : State := s.setCore { s.core with mq := q :: s.core.mq.drop 1 }

/-- A pass whose sum has been checked (R216, R221): added, after POISON of its slots has been reported, an error of the slot's storage once, at the
first such pass (R346). A mismatch of the guard bits leaves
the tile's sums and poisons it, MATERR with SUB 4 naming no slot (R177, R345); the passes go on (notes/assumptions/77.md). -/
def State.goodPass (s : State) (q : MCmd) (guardOk : Bool) : State :=
  let x := s.core.slot (BitVec.ofNat 3 q.a)
  let y := s.core.slot (BitVec.ofNat 3 q.b)
  let used (k : Nat) (sub : Nat) : State := (s.setSlot (BitVec.ofNat 3 k) { s.core.slot (BitVec.ofNat 3 k) with poisonSub := 5 }).passError q sub (some k)
  let s1 := if x.poison then used q.a x.poisonSub else if y.poison then used q.b y.poisonSub else s
  let t := s1.core.tile q.m
  let s2 :=
    if guardOk then s1.setCore (s1.core.setTile q.m { t with acc := addAcc t.acc fun n => passTerm q x y (n / 16) (n % 16) })
    else s1.passError q 4 none
  s2.setHead { q with step := q.step + 1 }

/-- The copies of an offset or index that a pass uses differ (R216). -/
def OSlot.metaBad (o : OSlot) (q : MCmd) : Bool :=
  (List.range 16).any fun r =>
    ((q.positions.map (· / 32)).eraseDups.any fun b => (Table.find o.scales (r * 8 + b)).getD 0 != (Table.find o.scales2 (r * 8 + b)).getD 0)
    || (o.sparse && (q.positions.map (· / 4)).eraseDups.any fun g => nibbleAt o.index r g != nibbleAt o.index2 r g)

/-- A metadata or checksum failure that comes with a pass at slot a or b. -/
def passMeta (e : PassEvent) (second : Bool) : Bool := match e with | .metadata b => b == second | _ => false
def passSum (e : PassEvent) : Option Bool := match e with | .checksumTwice b => some b | _ => none

/-- MATRIX_PASS: the engine runs the next plane pass of its oldest instruction (R216, R221); frozen while the core is halted (R220). -/
def execMatrixPass (core : Nat) (e : PassEvent) (s : State) : Result :=
  .next (s.within core (s.coreAt core).k fun s =>
    match s.core.mq with
    | [] => s
    | q0 :: _ =>
      if s.core.frozen then s
      else
        let s1 := if q0.running then s else s.startMatrix q0
        let q := { q0 with running := true }
        if q.abandoned || decide (q.step ≥ q.passes) then s1
        else
          let x := passMeta e false || (s1.core.slot (BitVec.ofNat 3 q.a)).metaBad q
          let y := passMeta e true || (s1.core.slot (BitVec.ofNat 3 q.b)).metaBad q
          if x || y then (s1.passError q 2 (some (if x then q.a else q.b))).setHead { q with abandoned := true }
          else
            match passSum e with
            | some second => (s1.passError q 1 (some (if second then q.b else q.a))).setHead { q with abandoned := true }
            | none =>
              if e == .checksumOnce then (s1.logErr 3 3 0x12 1 (sitePlace core) 0 (s1.vifOf core) q.ctx 0).goodPass q true
              else s1.goodPass q (e != .guardBad))

/-- MATRIX_COMPLETE: the oldest instruction has run all its passes: the NaN marks are recorded, MCLR clears, and the entry goes
(R221, R224). One abandoned by an error records its marks as well: the model's choice (notes/assumptions/98.md). -/
def execMatrixComplete (core : Nat) (s : State) : Result :=
  .next (s.within core (s.coreAt core).k fun s =>
    match s.core.mq with
    | [] => s
    | q0 :: l =>
      if s.core.frozen then s
      else
        let s1 := if q0.running then s else s.startMatrix q0
        if q0.abandoned || decide (q0.step ≥ q0.passes) then
          let t := s1.core.tile q0.m
          let marks := if q0.op = 0 then [] else markNan q0 (s1.core.slot (BitVec.ofNat 3 q0.a)) (s1.core.slot (BitVec.ofNat 3 q0.b)) t.marks
          let c := s1.core.setTile q0.m { t with marks := marks }
          s1.setCore { c with mq := l }
        else s)

/-! ## Narrowing (R178, R226) -/

/-- The elements of 16 or 32 columns to be narrowed: value, and whether it is NaN-marked. -/
structure Source where
  acc : List (Nat × Acc)
  marks : List Nat
  anchor : Option Int
  deriving DecidableEq, Repr, Inhabited

def MTile.source (t : MTile) : Source := ⟨t.acc, t.marks, t.anchor⟩

/-- Element (row, col) of sources placed side by side, exactly (R178): zero without an anchor. -/
def srcValue (l : List Source) (row col : Nat) : Fp :=
  match l[col / 16]? with
  | none => .fin false 0 0
  | some x =>
    let n := row * 16 + col % 16
    if x.marks.contains n then .nan false
    else
      match x.anchor with
      | none => .fin false 0 0
      | some a =>
        let v := ((Table.find x.acc n).getD 0).toInt
        .fin (decide (v < 0)) v.natAbs (a - 266)

/-- An element narrowed to an integer of n bits (R178). -/
def narrowToInt (c : Context) (n : Nat) (v : Fp) : Nat × Fl :=
  match v with
  | .fin neg m e =>
    let r := roundInt c.rm neg m e
    let k := clampS n r.1
    if c.sat then (k.1.toNat, ⟨false, false, false, false, r.2 || k.2, k.2⟩)
    else ((BitVec.ofInt n r.1).toNat, ⟨false, false, false, false, r.2 || k.2, false⟩)
  | _ => (0, ⟨true, false, false, false, false, true⟩)

/-- A value narrowed from the wide accumulator is never −0 (R161): a code that is the sign bit alone is delivered as 0. -/
def plusZero (sign : Nat) (r : Nat × Fl) : Nat × Fl := if r.1 = sign then (0, r.2) else r

/-- An element narrowed to a plain format (R178). -/
def narrowElem (c : Context) (fmt : Nat) (v : Fp) : Nat × Fl :=
  match fmt with
  | 5 => plusZero 0x8000 (f16.ofFp c.rm c.sat v)
  | 6 => plusZero 0x8000 (bf16.ofFp c.rm c.sat v)
  | 7 => plusZero 0x80000000 (f32.ofFp c.rm c.sat v)
  | 8 => narrowToInt c 8 v
  | _ => narrowToInt c 32 v

/-- One write of a narrowing read: address, size, value, and the bits of it that are written. -/
abbrev NarrowWrite := Word × Nat × Nat × Nat

/-- The writes of one row of a block target: units of 4 bytes with the bits below KEXT, then the scale byte (R226, R204, R206). -/
def blockWrites (c : Context) (x : Tensor) (row col0 n : Nat) (vs : List Fp) : List NarrowWrite × Fl :=
  let b := (Blk.ofFmt x.fmt).getD .bni
  let r := if x.fmt = 0 then bniConvert c.sat x.sbase vs else b.convert c.sat vs
  let sign := match b with | .e4m3 => 128 | .e5m2 => 128 | .e2m1 => 8 | _ => 256
  let codes := pad32 (r.2.1.map fun n => if n = sign then 0 else n)
  let data : List NarrowWrite :=
    if x.fmt = 0 then (List.range x.pst).map fun p => (x.planeAddr row col0 p, 4, planeUnit codes p, 2 ^ n - 1)
    else
      let w := elemBits x.fmt
      ((unitsOf w codes).filter fun u => decide (u.1 * (32 / w) < n)).map fun u =>
        (x.elemAddr row col0 + word (4 * u.1), 4, u.2, 2 ^ (w * min (32 / w) (n - u.1 * (32 / w))) - 1)
  (data ++ [(x.scaleAddr row col0, 1, r.1, 255)], r.2.2)

/-- The writes of one output row: `cols` columns from col0 (R226). -/
def rowWrites (c : Context) (x : Tensor) (src : List Source) (row0 col0 cols r : Nat) : List NarrowWrite × Fl :=
  let n := min cols (x.kext - col0)
  let vs := (List.range n).map fun k => srcValue src r k
  if x.fmt ≤ 4 then blockWrites c x (row0 + r) col0 n vs
  else
    let es := vs.map (narrowElem c x.fmt)
    let size := elemBits x.fmt / 8
    (((List.range n).zip es).map fun p => (x.elemAddr (row0 + r) (col0 + p.1), size, p.2.1, 256 ^ size - 1), flagsOf es)

/-- Every write of a narrowing read, row by row, with its flags. -/
def narrowWrites (c : Context) (x : Tensor) (src : List Source) (row0 col0 cols : Nat) : List NarrowWrite × Fl :=
  let rows := (List.range (min 16 (x.rows - row0))).map (rowWrites c x src row0 col0 cols)
  (rows.flatMap (·.1), rows.foldl (fun f r => Fl.or f r.2) Fl.none)

/-- The position of MRD and ARD (R226): ILLEGAL otherwise. -/
def narrowPosOk (g : Word) (x : Tensor) (wide : Bool) : Bool :=
  posRow g % 16 == 0 && posK g % (if wide then 32 else 16) == 0 && decide (posRow g < x.rows) && decide (posK g < x.kext)
    && (wide || decide (x.fmt ≥ 5)) && bits g 63 40 == 0

/-- A write of a narrowing read as a store: a unit written in part keeps its other bits at its home (R226). -/
def NarrowWrite.body (w : NarrowWrite) (key : Nat) : Body :=
  if w.2.2.2 = 256 ^ w.2.1 - 1 then .store key w.2.1 w.2.2.1 else .bits key w.2.1 w.2.2.1 w.2.2.2

/-- A store body of the context, staged or buffered. -/
def State.putBody (s : State) (e : Eff) (ea : Word) (key size : Nat) (b : Body) : State :=
  s.putCost e ea key b ((size + 7) / 8)

/-- The stores of a narrowing read (R226): its flags at completion; under CHK it waits for the acknowledgements. -/
def State.narrowStores (s : State) (i : Instr) (e : Eff) (ws : List NarrowWrite) (ks : List (Word × Nat × Nat)) (fl : Fl) : Result :=
  let t := (ks.zip ws).foldl (fun t k => t.putBody e k.1.1 k.1.2.2 k.1.2.1 (k.2.body k.1.2.2)) s
  let els := asElements (ks.filter fun k => !s.staged k.2.2)
  if e.chk && !els.isEmpty then .next (t.awaiting i e els (.ackFl fl.bits.toNat none)) else t.finishFl i fl

/-- MRD and MRD.W (R226). -/
def execMrd (w : Bool) (k : MReg) (a : GReg) (t : BitVec 8) (s : State) : Result :=
  let i := Instr.mrd w k a t
  match s.tensor t.toNat with
  | none => s.trap 0x18 (zext t)
  | some x =>
    if x.fmt = 10 then s.trap 0x18 (zext t)
    else if !narrowPosOk (s.g a) x w ∨ (w ∧ bit k 0) then s.illegal i
    else
      let tiles := if w then [k.toNat, k.toNat + 1] else [k.toNat]
      let nw := narrowWrites s.cx x (tiles.map fun n => (s.core.tile n).source) (posRow (s.g a)) (posK (s.g a)) (if w then 32 else 16)
      s.accessAll i .store none [] (nw.1.map fun p => (p.1, p.2.1)) fun s e ks =>
        if tiles.any s.core.tileBusy then s.wait .operand
        else
          match tiles.find? fun n => (s.core.tile n).poison with
          | some n => (s.post s.id s.core.k 0x12 5 1 (materrTval none (some n)) none).done i
          | none => s.narrowStores i e nw.1 ks nw.2

end Sys2Proof.Machine
end

