-- ==== Sys2Proof/Machine/Tiles.lean ====
section
/-!
DEFINITION. Accumulator tiles: claims, contributions, requests and their service at the slice (spec/09_matrix.md R228–R235), with the
merging of packets on their way (R232, spec/06_memory_sync.md R136, spec/19_fabric_dies.md R330, R333).
-/
namespace Sys2Proof.Machine

/-! ## Handles (R228) -/

def handleTile (h : Word) : Nat := bits h 15 8
def handleVd (h : Word) : Nat := bits h 27 24
def handleCheck (h : Word) : BitVec 32 := BitVec.ofNat 32 (bits h 63 32)

/-- The slice a handle names in the caller's tray; none when its VD or column lies outside (R230). -/
def State.handleSlice (s : State) (h : Word) : Option Nat := s.sliceAt (handleVd h) (if bit h 23 then 127 else 126) (bits h 22 16)

/-- The handle of a tile in the frame of an interface. -/
def makeHandle (gen tile col : Nat) (bottom : Bool) (vd : Nat) (check : BitVec 32) : Word :=
  word (gen + tile * 2 ^ 8 + col * 2 ^ 16 + b2n bottom * 2 ^ 23 + vd * 2 ^ 24 + check.toNat * 2 ^ 32)

def tileKey (slice tile : Nat) : Nat := slice * 256 + tile

/-- The tile a handle names at its slice, when it is claimed and CHECK agrees: else a bad handle (R231). -/
def State.tileOf (s : State) (slice : Nat) (h : Word) : Option AccTile :=
  if handleTile h ≥ 224 then none
  else match Table.find s.tiles (tileKey slice (handleTile h)) with
    | some t => if t.claimed && t.check == handleCheck h then some t else none
    | none => none

def State.putTile (s : State) (slice tile : Nat) (t : AccTile) : State := { s with tiles := Table.set s.tiles (tileKey slice tile) t }

/-- A tile is Proofed when its record is the one interval [0, K) (R228). -/
def AccTile.proofed (t : AccTile) : Bool := t.record == [(0, t.k)]

/-! ## Requests (R229, R234) -/

/-- A request of class T is sent to a slice, once; the context waits with kind REPLY (R233, R234). -/
def State.askTile (s : State) (slice : Nat) (q : TileReq) : Result :=
  let t := s.inject s.mine (.slice slice) .t 0 (.tile slice q)
  ({ t with cx := { t.cx with asked := true } }).wait .reply

/-- A request instruction: sent on its first execution by `ask`, completed by `done` when its reply is there. -/
def State.tileRequest (s : State) (ask : State → Result) (done : State → Word → Result) : Result :=
  if s.cx.asked then match s.cx.reply with | some v => done s v | none => s.wait .reply
  else ask s

/-- The distance of NEAR (R229): from the claiming core to the slice of a column at an edge. -/
def nearDist (row col c : Nat) (bottom : Bool) : Nat := (if col ≤ c then c - col else col - c) + (if bottom then 80 - row else row + 1)

/-- The slices of a tray's columns on a virtual die as (distance, bottom, column), nearest first: ties to the top edge, then the lower
column (R229). -/
def State.nearSlices (s : State) (vd : Nat) : List (Nat × Bool × Nat) :=
  match s.myTray.rect vd with
  | none => []
  | some r =>
    sortBy (fun x y => decide (x.1 < y.1) || (x.1 == y.1 && (decide (b2n x.2.1 < b2n y.2.1) || (x.2.1 == y.2.1 && decide (x.2.2 ≤ y.2.2)))))
      ([false, true].flatMap fun b => (List.range r.width).map fun n => (nearDist (rowOf s.id) (colOf s.id) (r.left + n) b, b, r.left + n))

/-- The lowest-numbered Free tile of a slice. -/
def State.freeTile (s : State) (slice : Nat) : Option Nat :=
  (List.range 224).find? fun t => match Table.find s.tiles (tileKey slice t) with | some x => !x.claimed | none => true

/-- The slice an ACLAIM takes: the one named, or the nearest with a free tile. -/
def State.claimSlice (s : State) (vd row col : Nat) (near : Bool) : Option (Nat × Nat × Bool) :=
  if near then
    match (s.nearSlices vd).find? fun x => (s.freeTile (sliceId (s.myVif.pdie vd) (if x.2.1 then 127 else 126) x.2.2)).isSome with
    | some x => some (sliceId (s.myVif.pdie vd) (if x.2.1 then 127 else 126) x.2.2, x.2.2, x.2.1)
    | none => none
  else (s.sliceAt vd row col).map fun n => (n, col, row == 127)

/-- The ANCHOR of a pair of TIDs; none is TIDBAD (R229). -/
def State.claimAnchor (s : State) (ta tb : Nat) : Except Nat Int :=
  match s.tensor ta, s.tensor tb with
  | none, _ => .error ta
  | some _, none => .error tb
  | some x, some y =>
    if x.fmt = 0 ∧ y.fmt = 0 then .ok ((x.sbase : Int) + y.sbase - 62)
    else if x.fmt = 10 ∧ y.fmt = 10 then .ok 266
    else .error tb

/-- ACLAIM (R229). -/
def execAclaim (d a b c : GReg) (s : State) : Result :=
  let i := Instr.aclaim d a b c
  s.tileRequest (fun s =>
    match s.claimAnchor (bits (s.g b) 7 0) (bits (s.g b) 15 8) with
    | .error t => s.trap 0x18 (word t)
    | .ok anc =>
      let k := (s.g a).toNat
      let vd := bits (s.g c) 3 0
      let row := bits (s.g c) 10 4
      let col := bits (s.g c) 17 11
      let near := bit (s.g c) 18
      if k < 1 ∨ k > 2 ^ 24 ∨ bits (s.g b) 63 16 ≠ 0 ∨ bits (s.g c) 63 19 ≠ 0 ∨ (near = false ∧ row ≠ 126 ∧ row ≠ 127) then s.illegal i
      else if vd ≥ s.vdCount ∨ (near = false ∧ (s.sliceAt vd row col).isNone) then s.trap 0x07 (s.g c)
      else
        match s.claimSlice vd row col near with
        | some x => s.askTile x.1 (.aclaim k anc vd row col near)
        | none => s.doneG i d 0) fun s v => s.doneG i d v

/-- A request on a handle: PERM when it lies outside (R234). -/
def State.onHandle (s : State) (h : Word) (f : Nat → Result) : Result :=
  match s.handleSlice h with
  | none => s.trap 0x07 h
  | some n => f n

/-- ARDY (R234). -/
def execArdy (d a : GReg) (s : State) : Result :=
  s.tileRequest (fun s => s.onHandle (s.g a) fun n => s.askTile n (.ardy (s.g a))) fun s v => s.doneG (.ardy d a) d v

/-- AKNOCK (R234). -/
def execAknock (d a : GReg) (s : State) : Result :=
  s.tileRequest (fun s => s.onHandle (s.g a) fun n => s.askTile n (.aknock (s.g a))) fun s v => s.doneG (.aknock d a) d v

/-- AREL (R234). -/
def execArel (d a : GReg) (s : State) : Result :=
  s.tileRequest (fun s => s.onHandle (s.g a) fun n => s.askTile n (.arel (s.g a))) fun s v => s.doneG (.arel d a) d v

/-- ASTAT and ASTAT.I (R235). -/
def execAstat (j : Option (BitVec 3)) (d a : GReg) (s : State) : Result :=
  s.tileRequest (fun s => s.onHandle (s.g a) fun n => s.askTile n (.astat (s.g a) (j.map (·.toNat)))) fun s v => s.doneG (.astat j d a) d v

/-- The reply of ARD and ARDV: the status, with the flags of the narrowing above it. -/
def statusOf (v : Word) : Word := zext (v.setWidth 8)
def replyFlags (v : Word) : Fl := Fl.ofBits (bits v 13 8)

/-- ARD and ARD.W (R234): checked as MRD, then the request; it completes when its stores are performed at their homes. -/
def execArd (w : Bool) (d a b c : GReg) (t : BitVec 8) (s : State) : Result :=
  let i := Instr.ard w d a b c t
  s.tileRequest (fun s =>
    match s.tensor t.toNat with
    | none => s.trap 0x18 (zext t)
    | some x =>
      if x.fmt = 10 then s.trap 0x18 (zext t)
      else if !narrowPosOk (s.g b) x w then s.illegal i
      else
        let ws := (narrowWrites s.cx x [] (posRow (s.g b)) (posK (s.g b)) (if w then 32 else 16)).1
        s.accessAll i .store none [] (ws.map fun p => (p.1, p.2.1)) fun s e ks =>
          if s.core.node.isSome && ks.any fun k => homeOf k.2.2 != .core s.id then s.illegal i
          else
            s.onHandle (s.g a) fun n =>
              let q := TileReq.ard (if w then [s.g a, s.g c] else [s.g a]) ((Table.find s.cx.tid t.toNat).getD (0, 0, 0, 0)).1
                ((Table.find s.cx.tid t.toNat).getD (0, 0, 0, 0)).2.1 ((Table.find s.cx.tid t.toNat).getD (0, 0, 0, 0)).2.2.1
                ((Table.find s.cx.tid t.toNat).getD (0, 0, 0, 0)).2.2.2 (s.g b) ks e.ord e.scope
              if w then s.onHandle (s.g c) fun _ => s.askTile n q else s.askTile n q) fun s v =>
    if s.unapplied s.mine then s.wait .reply
    else (s.setCx (s.cx.mergeAt s.cy (replyFlags v).bits)).doneG i d (statusOf v)

/-- ARDV (R234): the lanes are written with the reply; g(C) takes the status. -/
def execArdv (toInt : Bool) (d : VReg) (a b c : GReg) (s : State) : Result :=
  let i := Instr.ardv toInt d a b c
  s.tileRequest (fun s =>
    s.vec fun n =>
      if n < 16 ∨ (s.g b).toNat > 15 then s.illegal i
      else s.onHandle (s.g a) fun sl => s.askTile sl (.ardv (s.g a) (s.g b).toNat toInt d)) fun s v =>
    (s.setG c (statusOf v)).finishFl i (replyFlags v)

/-! ## Contributions (R230) -/

/-- The packet of tile k for [lo, hi): the 128 architectural bits of each element (R230). -/
def State.packetOf (s : State) (t : MTile) (h : Word) (lo hi : Nat) : Packet where
  handle := h
  anchor := t.anchor
  spans := [(lo, hi)]
  n := 1
  acc := if t.anchor.isSome then t.acc.map fun p => (p.1, (p.2.setWidth 128).signExtend 144) else []
  marks := if t.anchor.isSome then t.marks else []
  replay := match s.core.node with | some n => n.2 | none => false
  from_ := [(s.id, s.core.k)]

/-- ACONTRIB (R230). -/
def execAcontrib (k : MReg) (a b c : GReg) (s : State) : Result :=
  let i := Instr.acontrib k a b c
  let h := s.g a
  let lo := (s.g b).toNat
  let hi := (s.g c).toNat
  let t := s.core.tile k.toNat
  if lo ≥ hi ∨ hi > 2 ^ 24 ∨ bits h 31 28 ≠ 0 ∨ t.count > 4096 then s.illegal i
  else
    match s.handleSlice h with
    | none => s.trap 0x07 h
    | some n =>
      if s.core.tileBusy k.toNat then s.wait .operand
      else if t.poison then (s.post s.id s.core.k 0x12 5 1 (materrTval none (some k.toNat)) none).done i
      else
        s.send [(.slice n, 518)] fun s =>
          let u := s.setCore (s.core.setTile k.toNat { t with readUntil := s.cy + 16 })
          (u.inject u.mine (.slice n) .t 0 (.contrib n (s.packetOf t h lo hi))).done i

/-! ## Evaluation (R231) -/

/-- A point set of intervals: whether [lo, hi) is wholly covered by a record of disjoint, non-adjacent intervals. -/
def covered (rec_ : List (Nat × Nat)) (p : Nat × Nat) : Bool := rec_.any fun r => decide (r.1 ≤ p.1) && decide (p.2 ≤ r.2)
/-- Whether some part of [lo, hi) is covered. -/
def touches (rec_ : List (Nat × Nat)) (p : Nat × Nat) : Bool := rec_.any fun r => decide (r.1 < p.2) && decide (p.1 < r.2)

/-- An interval merged into an increasing record, adjacent ones joined (R231). -/
def addSpan : List (Nat × Nat) → Nat × Nat → List (Nat × Nat)
  | [], p => [p]
  | r :: l, p =>
    if p.2 < r.1 then p :: r :: l
    else if r.2 < p.1 then r :: addSpan l p
    else addSpan l (min r.1 p.1, max r.2 p.2)

def addSpans (rec_ l : List (Nat × Nat)) : List (Nat × Nat) := l.foldl addSpan rec_

/-- Elements added together (R176). -/
def addTiles (a b : List (Nat × Acc)) : List (Nat × Acc) :=
  ((List.range 256).map fun n => (n, (Table.find a n).getD 0 + (Table.find b n).getD 0)).filter fun p => p.2 != 0

/-- The outcome code of a packet at a claimed tile with the right CHECK, in the order of R231. -/
def outcome (t : AccTile) (p : Packet) (guardFails : Bool) : Nat :=
  if bits p.handle 7 0 ≠ t.gen then 5
  else if p.spans.any fun x => decide (x.2 > t.k) then 4
  else if p.anchor.isSome && p.anchor != some t.anchor then 6
  else if p.spans.all (covered t.record) then 1
  else if p.spans.any (touches t.record) then 2
  else if (addSpans t.record p.spans).length > 6 then 3
  else if t.count + p.n > 65535 then 9
  else if t.poison || guardFails then 10
  else 0

/-- The tile after an outcome (R231, R235). -/
def AccTile.after (t : AccTile) (p : Packet) (code : Nat) (guardFails : Bool) : AccTile :=
  let u := { t with last := code }
  match code with
  | 0 => { u with acc := addTiles t.acc p.acc, marks := (List.range 256).filter (fun n => t.marks.contains n || p.marks.contains n),
                  record := addSpans t.record p.spans, count := t.count + p.n }
  | 1 => { u with ndup := min 4095 (t.ndup + p.n) }
  | 5 => { u with nstale := min 4095 (t.nstale + p.n) }
  | 10 => { u with poison := t.poison || guardFails }
  | _ => u

/-- Whether an outcome is an error (R231). -/
def outcomeError (code : Nat) : Bool := [8, 4, 6, 2, 3, 9, 10].contains code

/-- ACCERR posted to every contributor of a packet (R231), found at the slice. -/
def State.accErrors (s : State) (slice : Nat) (p : Packet) (code : Nat) : State :=
  if outcomeError code then
    p.from_.foldl (fun s c =>
      s.postWith c.1 c.2 0x13 code 3 (word (bits p.handle 31 0)) none (errUnit 0x13 code) (keyPlace (sliceKey slice 0)) 0) s
  else s

/-- Two messages have an issuer in common. -/
def Msg.meets (m x : Msg) : Bool := m.parts.any fun p => x.from? p.src

/-- An earlier message of an issuer of `m` is on its way to a home, on the class of `m` (R262). -/
def State.aheadOf (s : State) (m : Msg) (dest : Home) : Bool :=
  (s.flight.takeWhile fun x => x.id != m.id).any fun x => x.dest == dest && x.cls == m.cls && m.meets x

/-- The queue of a slice takes a message: its words have allowance, or find room that is not lent (R372). -/
def State.entersSlice (s : State) (m : Msg) : Bool := match m.dest with | .slice n => s.admits m (.slice n) | _ => true

/-- A message is at the head of its route on its home's die: no earlier one of its source, destination and class is on the way (R262), its die
links lie behind it (R332, R333), and the queue of its slice takes it. -/
def State.atHead (s : State) (m : Msg) : Bool := (m.stage == .home || m.stage == .arrived) && !s.aheadOf m m.dest && s.entersSlice m

def State.msg (s : State) (id : Nat) : Option Msg := s.flight.find? fun m => m.id == id
def State.dropMsg (s : State) (id : Nat) : State :=
  { s with
    flight := s.flight.filter fun m => m.id != id
    spots := s.spots.filter fun p => p.item != id
    paid := s.paid.filter fun p => p.item != id }

/-- CONTRIBUTION_EVALUATE: a tile evaluates the packet at the head of its route (R231). -/
def execContributionEvaluate (item : Nat) (guardFails : Bool) (s : State) : Result :=
  match s.msg item with
  | none => .next s
  | some m =>
    match m.body with
    | .contrib slice p =>
      if !s.atHead m then .next s
      else
        let t := s.dropMsg item
        .next (match t.tileOf slice p.handle with
          | none =>
            match Table.find t.tiles (tileKey slice (handleTile p.handle)) with
            | some x => (t.putTile slice (handleTile p.handle) { x with last := 8 }).accErrors slice p 8
            | none => t.accErrors slice p 8
          | some x => let code := outcome x p guardFails; (t.putTile slice (handleTile p.handle) (x.after p code guardFails)).accErrors slice p code)
    | _ => .next s

/-! ## Service of requests (R229, R234, R235) -/

/-- The first of 8, 5 and 10 that applies, else 0 (R234). -/
def State.tileStatus (s : State) (slice : Nat) (h : Word) : Nat :=
  match s.tileOf slice h with
  | none => 8
  | some t => if bits h 7 0 ≠ t.gen then 5 else if t.poison then 10 else 0

/-- The status of ARD and ARDV for a tile (R234). -/
def State.readStatus (s : State) (slice : Nat) (h : Word) : Nat :=
  let c := s.tileStatus slice h
  if c ≠ 0 then c else match s.tileOf slice h with | some t => if t.proofed then 0 else 7 | none => 8

def AccTile.source (t : AccTile) : Source := ⟨t.acc, t.marks, some t.anchor⟩

/-- The tile an ACLAIM makes: Open, with a CHECK other than the one before (R228, R229). -/
def State.claimTile (s : State) (slice tile col : Nat) (bottom : Bool) (vd k : Nat) (anc : Int) : State × Word :=
  let old := (Table.find s.tileGens (tileKey slice tile)).getD (0, 0)
  let c := Config.aclaimCheck s.fresh
  let check := if c = old.2 then c + 1 else c
  let t : AccTile := ⟨true, [], [], false, k, anc, 0, [], old.1, check, 0, 0, 0⟩
  let u := { (s.putTile slice tile t) with fresh := s.fresh + 1, tileGens := Table.set s.tileGens (tileKey slice tile) (old.1, check) }
  (u, makeHandle old.1 tile col bottom vd check)

/-- ASTAT's word (R235). -/
def AccTile.statWord (t : AccTile) : Word :=
  word ((if t.proofed then 2 else 1) + t.record.length * 2 ^ 2 + b2n (!t.marks.isEmpty) * 2 ^ 5 + b2n t.poison * 2 ^ 6 + t.gen * 2 ^ 8
    + t.count * 2 ^ 16 + t.last * 2 ^ 32 + t.ndup * 2 ^ 40 + t.nstale * 2 ^ 52)

/-- ASTAT.I's word (R235). -/
def AccTile.spanWord (t : AccTile) (j : Nat) : Word := match t.record[j]? with | some r => word (r.1 + r.2 * 2 ^ 25) | none => 0

/-- A reply reaches the context that asked. -/
def State.answer (s : State) (v : Word) : State := s.setCx { s.cx with reply := some v }

/-- The status of ARD over its handles, each at its slice: the first of 8, 5 and 10 that applies to any, else 7 when one is not Proofed
(R234). -/
def State.ardStatus (s : State) (hs : List Word) : Nat :=
  let l := hs.map fun h => match s.handleSlice h with | some n => s.readStatus n h | none => 8
  ([8, 5, 10, 7].find? fun c => l.contains c).getD 0

/-- The slices a request reads: ARD.W reads the tile of g(C) too (R234). -/
def State.readSlices (s : State) (slice : Nat) (q : TileReq) : List Nat :=
  match q with
  | .ard hs _ _ _ _ _ _ _ _ => hs.filterMap s.handleSlice
  | _ => [slice]

/-- The service of a request, seen from the context that asked. -/
def State.serveTile (s : State) (slice : Nat) (q : TileReq) : State :=
  match q with
  | .aclaim k anc vd row col near =>
    match s.claimSlice vd row col near with
    | none => s.answer 0
    | some x =>
      match s.freeTile x.1 with
      | none => s.answer 0
      | some t => let r := s.claimTile x.1 t x.2.1 x.2.2 vd k anc; r.1.answer r.2
  | .ardy h =>
    let c := s.tileStatus slice h
    s.answer (word (if c ≠ 0 then c else match s.tileOf slice h with | some t => b2n t.proofed | none => 8))
  | .ard hs w0 w1 w2 w3 pos keys ord scope =>
    let c := s.ardStatus hs
    if c ≠ 0 then s.answer (word c)
    else
      let src := hs.filterMap fun h => match s.handleSlice h with | some n => (s.tileOf n h).map AccTile.source | none => none
      let nw := narrowWrites s.cx (tensorOf w0 w1 w2 w3) src (posRow pos) (posK pos) (16 * hs.length)
      let t := (keys.zip nw.1).foldl (fun t k => t.putBody ⟨ord, scope, 0, 1, false⟩ k.1.1 k.1.2.2 k.1.2.1 (k.2.body k.1.2.2)) s
      t.answer (word (nw.2.bits.toNat * 256))
  | .ardv h row toInt d =>
    let c := s.readStatus slice h
    match s.tileOf slice h with
    | some t =>
      if c ≠ 0 then s.answer (word c)
      else
        let rs := (List.range 16).map fun k => narrowElem s.cx (if toInt then 9 else 7) (srcValue [t.source] row k)
        let lanes : List Lane := rs.map (fun r => BitVec.ofNat 32 r.1) ++ List.replicate (s.core.vsetl.toNat - 16) 0
        (s.setCore (s.core.putLanes d lanes)).answer (word ((flagsOf rs).bits.toNat * 256))
    | none => s.answer (word c)
  | .aknock h =>
    match s.tileOf slice h with
    | none => s.answer 0
    | some t =>
      if bits h 7 0 ≠ t.gen then s.answer 0
      else
        let g := (t.gen + 1) % 256
        let u := s.putTile slice (handleTile h)
          { t with acc := [], marks := [], poison := false, record := [], count := 0, gen := g, last := 0, ndup := 0, nstale := 0 }
        ({ u with tileGens := Table.set u.tileGens (tileKey slice (handleTile h)) (g, t.check) }).answer (setBits h 7 0 g)
  | .astat h j =>
    match s.tileOf slice h with
    | none => s.answer 0
    | some t => s.answer (match j with | none => t.statWord | some n => t.spanWord n)
  | .arel h =>
    match s.tileOf slice h with
    | none => s.answer 8
    | some t =>
      if bits h 7 0 ≠ t.gen then s.answer 5
      else ({ s with tiles := Table.del s.tiles (tileKey slice (handleTile h)) }).answer 0

/-- TILE_REQUEST_SERVE: the slice serves the request at the head of its route, after the context's earlier packets to every tile it reads
(R233, R234). -/
def execTileRequestServe (item : Nat) (s : State) : Result :=
  match s.msg item with
  | none => .next s
  | some m =>
    match m.body, m.src with
    | .tile slice q, .ctx c k => 
      if s.atHead m && !(((s.focus c k).readSlices slice q).any fun n => s.aheadOf m (.slice n))
      then .next ((s.dropMsg item).within c k fun s => s.serveTile slice q) else .next s
    | _, _ => .next s

/-! ## Merging on the way (R136, R232, R330, R333) -/

/-- Two operands of an AMO without a result combined into one; none when the pair may not combine (R136). -/
def combineAmo (op : AmoOp) (size x y : Nat) : Option Nat :=
  match op with
  | .swp => none
  | .cas => none
  | .fadd => some (f32.add .rne x y).1
  | op => some (amoNew op size x y 0)

/-- Two contributions merged (R232): none when they may not be. -/
def mergePackets (p q : Packet) : Option Packet :=
  let spans := addSpans p.spans q.spans
  let disjoint := !(q.spans.any (touches p.spans))
  if p.handle == q.handle && p.anchor == q.anchor && !p.replay && !q.replay && disjoint && decide (spans.length ≤ 2)
    && decide (p.from_.length + q.from_.length ≤ 4) then
    some { p with spans := spans, n := p.n + q.n, acc := addTiles p.acc q.acc,
                  marks := (List.range 256).filter (fun n => p.marks.contains n || q.marks.contains n), from_ := p.from_ ++ q.from_ }
  else none

/-- The body of two packets merged, when they may be. -/
def mergeBodies (a b : Body) : Option Body :=
  match a, b with
  | .contrib s p, .contrib t q => if s = t then (mergePackets p q).map fun r => .contrib s r else none
  | .amo o k z x e m r d, .amo o2 k2 z2 x2 _ m2 r2 d2 =>
    if o == o2 && k == k2 && z == z2 && !r && !r2 && !(o == .fadd && (d || d2)) && decide (m.length + m2.length ≤ 6) then
      (combineAmo o z x x2).map fun v => .amo o k z v e (m ++ x2 :: m2) false d
    else none
  | _, _ => none

/-- Whether a packet of an issuer of q, of its destination and class, lies between p and q in their queue (R330). -/
def State.between (s : State) (p q : Msg) : Bool :=
  let own : List Spot := match s.spots.find? fun x => x.item == q.id with | some x => s.spots.filter fun y => y.queue == x.queue | none => []
  (((own.takeWhile fun x => x.item != q.id).dropWhile fun x => x.item != p.id).drop 1).any fun x =>
    s.flight.any fun m => m.id == x.item && m.dest == q.dest && m.cls == q.cls && q.meets m

/-- Two messages wait in one queue that merges, the first ahead of the second, and neither has taken part in a merge there (R330). An apply queue
merges nothing. -/
def State.mayMeet (s : State) (into from_ : Nat) : Bool :=
  match s.spots.find? (fun x => x.item == into), s.spots.find? (fun x => x.item == from_) with
  | some x, some y =>
    x.queue == y.queue && decide (x.queue.1 < 300000) && !x.joined && !y.joined && (s.spots.takeWhile fun z => z.item != from_).any fun z => z.item == into
  | _, _ => false

/-- PACKET_MERGE: q merges into p, which waits ahead of it in one queue (R330). Each issuer keeps its own ORD and its wait for the answer (R333,
R267), and p carries the credits of both (R372). Two levels are not merged towards a core, whose SRAM answers them differently (R23). -/
def execPacketMerge (into from_ : Nat) (s : State) : Result :=
  match s.msg into, s.msg from_ with
  | some p, some q =>
    let levels := (p.parts ++ q.parts).all fun x => x.user == p.user
    if !s.mayMeet into from_ || p.dest != q.dest || p.cls != q.cls || s.between p q || (!levels && p.dest.isCore) then .next s
    else
      match mergeBodies p.body q.body with
      | none => .next s
      | some b =>
        let m := { p with body := b, ident := p.ident ++ q.ident, stamp := p.stamp ++ q.stamp, also := p.also ++ q.parts }
        .next { s with
          flight := (s.flight.map fun x => if x.id = into then m else x).filter fun x => x.id != from_
          spots := (s.spots.filter fun x => x.item != from_).map fun x => if x.item = into then { x with joined := true } else x
          paid := s.paid.map fun x => if x.item = from_ then { x with item := into } else x }
  | _, _ => .next s

/-! ## Die links (R332, R333, R335) -/

/-- The state with a message standing elsewhere, in a queue or in none. -/
def State.putStage (s : State) (m : Msg) (st : Stage) (q : Option (Nat × Nat)) : State :=
  { s with
    flight := s.flight.map fun x => if x.id = m.id then { x with stage := st, t0 := if st = .buffer then s.cy else x.t0 } else x
    spots := (s.spots.filter fun x => x.item != m.id) ++ match q with | some q => [⟨m.id, q, 0, false⟩] | none => [] }

/-- Messages that stand in a queue. -/
def State.standing (s : State) (q : Nat × Nat) : Nat := (s.spots.filter fun x => x.queue == q).length

/-- The link controller lets a message cross: an earlier one of its route does not stand behind it, its words have allowance or find room that is
not lent (R372), and the apply queue of its home's die, where it is a write, holds fewer than 64 (R335). -/
def State.mayCross (s : State) (m : Msg) : Bool :=
  !((s.flight.takeWhile fun x => x.id != m.id).any fun x => x.dest == m.dest && x.cls == m.cls && m.meets x && (x.stage == .own || x.stage == .buffer))
  && s.admits m (.link m.dest.pdie)
  && (!m.body.applied || decide (s.standing m.applyQueue < 64))

/-- A message has crossed to its home's die: a write enters the apply queue for writes of its die, in the order of arrival (R335). -/
def State.arriveAt (s : State) (m : Msg) : State :=
  if m.body.applied then s.putStage m .arrived (some m.applyQueue) else s.putStage m .home none

/-- A message leaves its die: one of classes A and T, or a FAMO, enters the merge buffer of its link controller, of 64 packets, from the mesh of its
own die; any other crosses (R332, R333). -/
def State.crossStep (item : Nat) (s : State) : Result :=
  match s.msg item with
  | none => .next s
  | some m =>
    if m.stage != .own then .next s
    else if passesMerge (pdieOf m.core) m.dest m.cls m.body then
      let ahead := (s.flight.takeWhile fun x => x.id != m.id).any fun x => x.dest == m.dest && x.cls == m.cls && m.meets x && x.stage == .own
      .next (if ahead || decide (64 ≤ s.standing (s.bufferAt m)) then s else s.putStage m .buffer (some (s.bufferAt m)))
    else .next (if s.mayCross m then s.arriveAt m else s)

/-- MERGE_BUFFER_FLUSH: a packet leaves the merge buffer of its link and crosses (R333). -/
def execMergeBufferFlush (item : Nat) (s : State) : Result :=
  match s.msg item with
  | none => .next s
  | some m => .next (if m.stage == .buffer && s.mayCross m then s.arriveAt m else s)

end Sys2Proof.Machine
end

