-- ==== Sys2Proof/Machine/Engine.lean ====
section
/-!
DEFINITION. The copy engine: command instructions with their issue checks (spec/10_engines_system.md R237–R245), TAKE
(spec/11_ordering.md R275), engine steps and completion (R239, R246, R247), XCANCEL and XSTAT (R248, R249).
-/
namespace Sys2Proof.Machine

/-! ## Descriptors (R237) -/

/-- The fields of a descriptor. -/
structure Desc where
  src : Nat
  dst : Nat
  len : Nat
  rows : Nat
  sstr : Int
  dstr : Int
  mbox : Nat
  mval : Word
  fval : Word
  idx : Nat
  deriving DecidableEq, Repr, Inhabited

def Desc.of (w : List Word) : Desc where
  src := bits (w.getD 0 0) 51 0
  dst := bits (w.getD 1 0) 51 0
  len := bits (w.getD 2 0) 31 0
  rows := bits (w.getD 2 0) 47 32
  sstr := (BitVec.ofNat 32 (bits (w.getD 3 0) 31 0)).toInt
  dstr := (BitVec.ofNat 32 (bits (w.getD 3 0) 63 32)).toInt
  mbox := bits (w.getD 4 0) 51 0
  mval := w.getD 5 0
  fval := w.getD 6 0
  idx := bits (w.getD 7 0) 51 0

/-- The bits of the eight words that a command uses: any other must be 0 (R237, R242). -/
def usedBits : CopyKind → List Word
  | .twoD => [mask 51 0, mask 51 0, mask 47 0, mask 63 0, mask 51 0, mask 63 0, mask 63 0, 0]
  | .deal => [mask 51 0, 0, mask 31 0, 0, mask 51 0, mask 63 0, mask 63 0, 0]
  | .gather => [mask 51 0, mask 51 0, mask 47 0, 0, mask 51 0, mask 63 0, mask 63 0, mask 51 0]
  | .kick _ => [mask 63 0, mask 63 0, mask 63 0, mask 63 0, mask 51 0, mask 63 0, mask 63 0, mask 63 0]
  | _ => [mask 51 0, mask 51 0, mask 31 0, 0, mask 51 0, mask 63 0, mask 63 0, 0]

/-- MBOX is 0, or aligned to 8 in LOC or the coordinate window (R237). -/
def mboxOk (m : Nat) : Bool := m == 0 || (m % 8 == 0 && (regionOf (word m) == .loc || regionOf (word m) == .coord))

/-! ## Deals (R244) -/

/-- The fields of PATTERN. -/
structure Deal where
  blk : Nat
  lbase : Nat
  count : Nat
  stride : Nat
  start : Nat
  deriving DecidableEq, Repr, Inhabited

def Deal.of (p : Word) : Deal where
  blk := if bits p 6 0 = 0 then 4096 else bits p 6 0 * 32
  lbase := bits p 16 7 * 32
  count := bits p 29 17
  stride := bits p 42 30
  start := bits p 59 43

/-- The number of blocks of a deal, and the bytes of block b. -/
def Deal.blocks (d : Deal) (len : Nat) : Nat := (len + d.blk - 1) / d.blk
def Deal.blockLen (d : Deal) (len b : Nat) : Nat := min d.blk (len - b * d.blk)

/-- The end of the highest byte dealt to any core: in the last row of blocks only the last block may be short. -/
def Deal.top (d : Deal) (len : Nat) : Nat :=
  let l := d.blocks len - 1
  d.lbase + l / d.count * d.blk + (if l % d.count = 0 then d.blockLen len l else d.blk)

/-- XDEAL's checks of the pattern (R244): the tray has `n` enabled cores. -/
def Deal.ok (d : Deal) (len n : Nat) : Bool :=
  len != 0 && len % 32 == 0 && decide (1 ≤ d.count) && decide (d.count ≤ 6400) && decide (1 ≤ d.stride) && decide (d.stride ≤ 6400)
  && decide (d.start + (d.count - 1) * d.stride < n) && decide (d.top len ≤ 0x8000)

/-! ## Ranges (R241, R242) -/

/-- `n` bytes from address a cut at multiples of u: offset and size of each piece. -/
def cutAt (u : Nat) : Nat → Nat → Nat → Nat → List (Nat × Nat)
  | 0, _, _, _ => []
  | f + 1, a, off, n => if n = 0 then [] else let m := min n (u - (a + off) % u); (off, m) :: cutAt u f a (off + m) (n - m)

/-- The source ranges named by a descriptor: first byte and length. Of XGATH the indices are read as part of the command (R241), so only the
element at SRC is named at issue. -/
def srcRanges (k : CopyKind) (d : Desc) : List (Int × Nat) :=
  match k with
  | .kick _ => []
  | .twoD => (List.range d.rows).map fun (r : Nat) => ((d.src : Int) + (r : Int) * d.sstr, d.len)
  | _ => [((d.src : Int), d.len)]

def dstRanges (k : CopyKind) (d : Desc) : List (Int × Nat) :=
  match k with
  | .kick _ => []
  | .deal => []
  | .twoD => (List.range d.rows).map fun (r : Nat) => ((d.dst : Int) + (r : Int) * d.dstr, d.len)
  | .gather => [((d.dst : Int), d.rows * d.len)]
  | _ => [((d.dst : Int), d.len)]

def idxRanges (k : CopyKind) (d : Desc) : List (Int × Nat) :=
  match k with
  | .gather => [((d.idx : Int), 4 * d.rows)]
  | _ => []

/-- Two lists of ranges share a byte. -/
def rangesMeet (xs ys : List (Int × Nat)) : Bool := xs.any fun x => ys.any fun y => decide (x.1 < y.1 + y.2) && decide (y.1 < x.1 + x.2)

/-- A range stays inside the 52-bit address space. -/
def rangeInside (r : Int × Nat) : Bool := decide (0 ≤ r.1) && decide (r.1 + r.2 ≤ (2 : Int) ^ 52)

/-- Check 3 of R242. -/
def State.descOk (s : State) (k : CopyKind) (w : List Word) : Bool :=
  let d := Desc.of w
  let fields := (w.zip (usedBits k)).all fun p => p.1 &&& ~~~p.2 == 0
  let ranges := srcRanges k d ++ dstRanges k d ++ idxRanges k d
  fields && mboxOk d.mbox && ranges.all rangeInside
  && (match k with
    | .kick n => decide (n.toNat ≥ 16) && s.myVif.routines.any fun r => r.1 == n.toNat
    | .deal => (Deal.of s.cx.pattern).ok d.len (s.logical s.myVif s.myTray).length
    | .gather => decide (1 ≤ d.len) && decide (d.len ≤ 4096) && d.rows != 0
    | .twoD => d.len != 0 && d.rows != 0 && !rangesMeet (srcRanges k d) (dstRanges k d)
    | .copy => d.len != 0 && !rangesMeet (srcRanges k d) (dstRanges k d)
    | .code => d.len != 0 && !rangesMeet (srcRanges k d) (dstRanges k d)
    | _ => d.len != 0)

/-- The first address of lo … hi−1 in a range of n bytes from a. -/
def firstMeet (lo hi a n : Nat) : Option Nat := if a < hi ∧ lo < a + n ∧ lo < hi then some (max a lo) else none

/-- The first address of lo … hi−1 in a list of ranges. -/
def firstIn (lo hi : Nat) (l : List (Int × Nat)) : Option Nat := l.findSome? fun r => firstMeet lo hi r.1.toNat r.2

/-- Where main memory ends and where the peer windows begin (R28). -/
def mainEnd : Nat := 0xE000000000000
def peerBase : Nat := 0xF800000000000

/-- Check 4 of R242: PEER, then PERM. -/
def checkRegions (k : CopyKind) (w : List Word) : Option (Nat × Word) :=
  let d := Desc.of w
  let src := srcRanges k d
  let dst := dstRanges k d
  let near := match k with | .put => src | .get => dst | _ => src ++ dst ++ idxRanges k d
  match firstIn peerBase (2 ^ 52) near with
  | some a => some (0x08, word a)
  | none =>
    let far : Option Nat := match k with
      | .put => firstIn 0 peerBase dst
      | .get => firstIn 0 peerBase src
      | .deal => firstIn mainEnd (2 ^ 52) src
      | _ => none
    far.map fun a => (0x07, word a)

/-- A range cut at multiples of 1 GiB: each piece lies in one region, and in the window of one coordinate (R28, R29). -/
def splitRange (a n : Nat) : List (Nat × Nat) := (cutAt (2 ^ 30) (n / 2 ^ 30 + 2) a 0 n).map fun p => (a + p.1, p.2)

/-- The lower of two addresses that may be absent. -/
def lowest : Option Nat → Option Nat → Option Nat
  | some x, some y => some (min x y)
  | none, y => y
  | x, none => x

/-- The coordinate address of offset 0 of the core in view. -/
def State.ownBase (s : State) : Nat := (coordAddr s.myVd (rowOf s.id) (colOf s.id) 0).toNat

/-- The first address of a range below XBOUND in the core's own SRAM, through LOC or its own coordinates (R242). -/
def State.rangeXonly (s : State) (a n : Nat) : Option Nat :=
  let x := s.core.xbound.toNat
  lowest (firstMeet 0xF000000000000 (0xF000000000000 + x) a n)
    (if s.vdCount = 0 then none else firstMeet s.ownBase (s.ownBase + x) a n)

/-- The first offset of off … off+n−1 in a shadow-stack range of the core in view (R30). -/
def Core.firstShadow (c : Core) (cur : Context) (off n : Nat) : Option Nat :=
  (List.range 11).foldl (fun r k =>
    let l := c.sslimOf cur k
    if bits l 15 0 < off + n ∧ off < bits l 31 16 ∧ bits l 15 0 < bits l 31 16 then lowest r (some (max off (bits l 15 0))) else r) none

/-- The first address of a range that check 5 of R242 refuses with PERM. -/
def State.rangePerm (s : State) (a n : Nat) : Option Nat :=
  (splitRange a n).findSome? fun p =>
    let ea := word p.1
    let own := match s.ownOff ea with
      | some off => (s.core.firstShadow s.cx off p.2).map fun o => p.1 + (o - off)
      | none => none
    match regionOf ea with
    | .main => none
    | .bad => some p.1
    | .loc => lowest own (if bits ea 14 0 + p.2 > 0x8000 then some 0xF000000008000 else none)
    | .peer => if s.peerOk (peerOf ea) then none else some p.1
    | .coord =>
      if (s.coordKey ea).isNone then some p.1
      else
        let lim := if coordRow ea < 80 then 0x8000 else 0x200000
        lowest own (if coordOff ea + p.2 > lim then some (p.1 + (lim - coordOff ea)) else none)

/-- The first address of a destination of `xcopy.code` that check 5 of R242 refuses with PERM: outside SBOUND to XBOUND − 1 of LOC, or
refused as that of any other range. -/
def State.codeRange (s : State) (a n : Nat) : Option Nat :=
  let lo := 0xF000000000000 + s.core.sbound.toNat
  let hi := 0xF000000000000 + s.core.xbound.toNat
  lowest (s.rangePerm a n) (if a < lo ∨ a ≥ hi then some a else if a + n > hi then some hi else none)

/-- The bytes that XDEAL deals to the core in view itself (R244), by its own coordinates: a store into a shadow-stack range is refused at
issue (R30). -/
def State.dealOwn (s : State) (d : Deal) (len : Nat) : List (Int × Nat) :=
  match (List.range (min d.count (d.blocks len))).find? fun q => s.lidxCore (d.start + q * d.stride) == some s.id with
  | none => []
  | some q =>
    let n := (d.blocks len - q + d.count - 1) / d.count
    [((s.ownBase + d.lbase : Nat), (n - 1) * d.blk + d.blockLen len (q + (n - 1) * d.count))]

/-- Check 5 of R242: XONLY, then PERM. -/
def State.checkRanges (s : State) (k : CopyKind) (w : List Word) : Option (Nat × Word) :=
  let d := Desc.of w
  let src := srcRanges k d
  let dst := dstRanges k d
  let idx := idxRanges k d
  let xonly := (src ++ (if k = .code then [] else dst) ++ idx).findSome? fun r => s.rangeXonly r.1.toNat r.2
  match xonly with
  | some a => some (0x04, word a)
  | none =>
    let mb := if d.mbox = 0 then [] else [((d.mbox : Int), 8)]
    let own := if k = .deal then s.dealOwn (Deal.of s.cx.pattern) d.len else []
    let first := lowestOf [src.findSome? fun r => s.rangePerm r.1.toNat r.2,
      (dst ++ own).findSome? fun r => if k = .code then s.codeRange r.1.toNat r.2 else s.rangePerm r.1.toNat r.2,
      (mb ++ idx).findSome? fun r => s.rangePerm r.1.toNat r.2]
    first.map fun a => (0x07, word a)
where
  /-- The first that is present. -/
  lowestOf : List (Option Nat) → Option Nat
    | [] => none
    | some a :: _ => some a
    | none :: l => lowestOf l

/-! ## Destinations (R240, R241) -/

/-- The arguments of a routine: words 0–3 and 7 of the descriptor (R237). -/
def routineArgs (w : List Word) : List Word := w.take 4 ++ [w.getD 7 0]

/-- The homes that a command writes to, as far as the descriptor names them: for Held (R240). -/
def State.copyHomes (s : State) (k : CopyKind) (w : List Word) : List Home :=
  let d := Desc.of w
  let at_ (ea : Word) : Option Home :=
    match regionOf ea with
    | .main => some (.die 0)
    | .peer => some (.peer (peerOf ea))
    | _ => match s.ownOff ea with
      | some _ => some (.core s.id)
      | none => (s.coordKey ea).map homeOf
  match k with
  | .deal =>
    let p := Deal.of s.cx.pattern
    ((List.range (min p.count (p.blocks d.len))).filterMap fun q => s.lidxCore (p.start + q * p.stride)).map Home.core
  | .kick n => ((Config.routineTargets n.toNat (routineArgs w)).filterMap at_).eraseDups
  | _ => ((dstRanges k d).filterMap fun r => at_ (word r.1.toNat)).eraseDups

/-- The destinations of a command as a routed send (R123, R241): of XGET, the peer module it reads from. -/
def State.sendHomes (s : State) (k : CopyKind) (w : List Word) : List Home :=
  match k with
  | .get => [.peer (peerOf (word (Desc.of w).src))]
  | _ => s.copyHomes k w

/-- A home that makes a command a routed send (R241). -/
def routedHome (id : Nat) : Home → Bool
  | .core c => c != id
  | .slice _ => true
  | .peer _ => true
  | .die _ => false

/-- A destination that makes a command Held under a Running node (R240). -/
def heldHome (id : Nat) : Home → Bool
  | .core c => c != id
  | .slice _ => true
  | .die _ => true
  | .peer _ => false

/-! ## Issue (R238) -/

/-- A command that holds its tag. -/
def Cmd.active (c : Cmd) : Bool := c.st == .queued || c.st == .held || c.st == .running

/-- Writes of an engine thread that are not yet applied or acknowledged. -/
def State.threadOpen (s : State) (id tag : Nat) : Bool :=
  (s.coreAt id).sbuf.any (fun e => e.src == .engine id tag) || s.flight.any (fun m => m.src == .engine id tag)
  || s.torus.owedAcks.any fun a => a.core == id && a.ctx == 16 + tag

/-- The tag of the next command: the one freed longest ago, tags never used standing first (R238). -/
def State.pickTag (s : State) : Option Nat :=
  let free (t : Nat) : Bool := !(s.core.cmds.any fun c => c.tag == t && c.active) && !s.threadOpen s.id t
  match (List.range 128).find? fun t => (Table.find s.core.seqs t).isNone with
  | some t => some t
  | none => s.core.freeTags.find? free

/-- Command words in the two-entry queue. -/
def Core.queuedWords (c : Core) : Nat := (c.cmds.filter fun m => m.st == .queued && !m.taken).length

/-- A command accepted under a tag, with the SEQ of this use. -/
def State.newCmd (s : State) (kind : CopyKind) (w : List Word) (tag seq : Nat) (held : Bool) : Cmd where
  tag := tag
  seq := seq
  ctx := s.core.k
  kind := kind
  desc := w
  pattern := s.cx.pattern
  memdef := s.cx.memdef
  asid := bits s.cx.asid 11 0
  gen := bits s.cx.gen 19 0
  user := !s.cx.super
  st := if held then .held else .queued
  taken := false
  step := 0
  cancel := false
  code := 0
  sub := 0
  errAddr := 0
  doneb := 0
  clk := []
  joinJ := []
  acqTime := 0
  acqOpen := false
  walk := none
  awaits := []
  got := []
  stepAt := 0
  at_ := s.seq
  t0 := s.cy

/-- The core with a command accepted. -/
def Core.addCmd (c : Core) (m : Cmd) : Core :=
  { c with cmds := (c.cmds.filter fun x => x.tag != m.tag) ++ [m], seqs := Table.set c.seqs m.tag m.seq,
           freeTags := c.freeTags.filter (· != m.tag) }

/-- Acceptance: the command takes a tag, and g(D) its handle (R238). -/
def State.acceptCmd (s : State) (i : Instr) (kind : CopyKind) (d : GReg) (w : List Word) (homes : List Home) : Result :=
  match s.pickTag with
  | none => s.wait .engine
  | some tag =>
    if s.core.queuedWords ≥ 2 then s.wait .engine
    else
      let seq := match Table.find s.core.seqs tag with | none => 0 | some n => (n + 1) % 512
      let m := s.newCmd kind w tag seq (s.core.node.isSome && homes.any (heldHome s.id))
      ({ (s.keepClock s.id) with core := s.core.addCmd m, seq := s.seq + 1 }).doneG i d (word (tag + seq * 128))

/-- A command instruction (R238, R242). -/
def State.command (s : State) (i : Instr) (kind : CopyKind) (d a : GReg) : Result :=
  let ga := s.g a
  if ga.toNat % 64 ≠ 0 then s.trap 0x05 ga
  else if regionOf ga ≠ .loc then s.trap 0x07 ga
  else if bits ga 14 0 < s.core.xbound.toNat then s.trap 0x04 ga
  else if !s.gate 1 4 then s.wait .engine
  else
    let ks := (List.range 8).map fun j => (ga + word (8 * j), 8, sramKey s.id (bits ga 14 0 + 8 * j))
    match s.serveLocal ks with
    | none => s.wait .engine
    | some vs =>
      let w := vs.map fun v => word v.1
      let s1 := ks.foldl (fun s p => s.localJoin 1 p.2.2 8) s.passGate
      let s2 := match firstBad ks vs with | some _ => s1.postBad 0 ks vs | none => s1
      if !s.descOk kind w then s2.illegal i
      else
        match checkRegions kind w with
        | some t => s2.trap t.1 t.2
        | none =>
          match s.checkRanges kind w with
          | some t => s2.trap t.1 t.2
          | none =>
            let homes := s.copyHomes kind w
            s.send (((s.sendHomes kind w).filter (routedHome s.id)).map fun h => (h, 0)) fun t =>
              if t.pickTag.isNone ∨ t.core.queuedWords ≥ 2 then t.wait .engine
              else { s2 with core := t.core }.acceptCmd i kind d w homes

def execXcopy (d a : GReg) (s : State) : Result := s.command (.xcopy d a) .copy d a
def execXcopyCode (d a : GReg) (s : State) : Result := s.command (.xcopyCode d a) .code d a
def execX2d (d a : GReg) (s : State) : Result := s.command (.x2d d a) .twoD d a
def execXdeal (d a : GReg) (s : State) : Result := s.command (.xdeal d a) .deal d a
def execXgath (d a : GReg) (s : State) : Result := s.command (.xgath d a) .gather d a
def execXput (d a : GReg) (s : State) : Result := s.command (.xput d a) .put d a
def execXget (d a : GReg) (s : State) : Result := s.command (.xget d a) .get d a
def execXkick (d a : GReg) (n : BitVec 8) (s : State) : Result := s.command (.xkick d a n) (.kick n) d a

/-! ## Status and cancellation (R248, R249) -/

/-- STATE of R249. -/
def CmdSt.code : CmdSt → Nat
  | .queued => 1
  | .held => 2
  | .running => 3
  | .done => 4
  | .failed => 5
  | .cancelled => 6

/-- The command with a handle, when its SEQ is current. -/
def Core.cmdOf (c : Core) (h : Word) : Option Cmd := c.cmds.find? fun m => m.tag == bits h 6 0 && m.seq == bits h 15 7

/-- The state with a command changed. -/
def State.modCmd (s : State) (id tag : Nat) (f : Cmd → Cmd) : State :=
  s.modCore id fun c => { c with cmds := c.cmds.map fun m => if m.tag = tag then f m else m }

/-- XCANCEL (R248). -/
def execXcancel (d a : GReg) (s : State) : Result :=
  let i := Instr.xcancel d a
  if bits (s.g a) 63 16 ≠ 0 then s.illegal i
  else
    match s.core.cmdOf (s.g a) with
    | none => s.doneG i d 0
    | some m => (s.modCmd s.id m.tag fun x => if x.active then { x with cancel := true } else x).doneG i d (word m.st.code)

/-- The status word of a command. -/
def Cmd.status (m : Cmd) (frozen : Bool) : Word :=
  word (m.st.code + b2n (frozen && m.st == .running) * 2 ^ 3 + m.code * 2 ^ 8 + m.sub * 2 ^ 16 + min m.doneb (2 ^ 40 - 1) * 2 ^ 24)

/-- XSTAT (R249). -/
def execXstat (d a : GReg) (s : State) : Result :=
  let i := Instr.xstat d a
  if bits (s.g a) 63 16 ≠ 0 then s.illegal i
  else s.doneG i d (match s.core.cmdOf (s.g a) with | none => 0 | some m => m.status s.core.frozen)

/-! ## TAKE (R275) -/

/-- The conditions of a REL write of the issuer (R264): what it did before the command has left the buffer, its reads have had their
replies, and every earlier command of it has been taken. -/
def State.takeReady (s : State) (m : Cmd) : Bool :=
  let src := Src.ctx s.id m.ctx
  !(s.core.sbuf.any fun e => e.src == src && decide (e.id < m.at_))
  && !((s.core.ctx s.cx m.ctx).tickets.any fun t => t.answer.isNone && !t.multi && decide (t.at_ < m.at_))
  && !(s.core.cmds.any fun x => x.ctx == m.ctx && x.st == .queued && !x.taken && decide (x.at_ < m.at_))

/-- TAKE: the engine thread takes the command word at the head of the queue; it is its first acquire point. -/
def execTake (core tag : Nat) (s : State) : Result :=
  .next (s.within core (s.coreAt core).k fun s =>
    match s.core.cmds.find? fun m => m.st == .queued && !m.taken with
    | some m =>
      if m.tag = tag ∧ s.takeReady m then s.modCmd s.id tag fun x =>
        { x with taken := true, clk := (s.core.ctx s.cx m.ctx).clk, joinJ := [], acqTime := s.cy, acqOpen := true } else s
    | none => s)

/-! ## Steps (R246) -/

/-- What one step of a command moves. -/
inductive Chunk where
  /-- From, to, bytes. -/
  | move (src dst : Int) (n : Nat)
  /-- An element of XGATH: index number, offset in the element, bytes. -/
  | elem (i off n : Nat)
  /-- A piece of a block of XDEAL: block, offset in it, bytes. -/
  | block (b off n : Nat)
  /-- A step of an installed routine. -/
  | routine (a : Config.RoutineAct)
  deriving DecidableEq, Repr, Inhabited

/-- The steps of a run of n bytes whose destination lies r bytes beyond a multiple of 8: no step moves more than 256 bytes, and none ends
inside an aligned 8-byte unit of the destination (R241, R243, R246). -/
def stepsIn (r n : Nat) : Nat := (r + n + 255) / 256

/-- Step k of such a run: offset and bytes. -/
def runPart (r n k : Nat) : Nat × Nat :=
  let off := if k = 0 then 0 else 256 * k - r
  (off, min (256 * (k + 1) - r) n - off)

/-- The largest r of runs that start `stride` bytes apart. -/
def runSkew (a stride : Nat) : Nat := if stride % 8 = 0 then a % 8 else 7

/-- The next step of a command; none when it has no more. -/
def Cmd.chunk (m : Cmd) : Option Chunk :=
  let d := Desc.of m.desc
  let k := m.step
  match m.kind with
  | .kick n =>
    match Config.routine n.toNat (routineArgs m.desc) k m.got with
    | .done => none
    | a => some (.routine a)
  | .twoD =>
    let p := stepsIn (runSkew d.dst d.dstr.natAbs) d.len
    let r := k / p
    let row : Int := (d.dst : Int) + r * d.dstr
    let c := runPart (row.toNat % 8) d.len (k % p)
    if r < d.rows then some (.move ((d.src : Int) + r * d.sstr + c.1) (row + c.1) c.2) else none
  | .gather =>
    let p := stepsIn (runSkew d.dst d.len) d.len
    let r := k / p
    let c := runPart ((d.dst + r * d.len) % 8) d.len (k % p)
    if r < d.rows then some (.elem r c.1 c.2) else none
  | .deal =>
    let q := Deal.of m.pattern
    let p := stepsIn 0 q.blk
    let b := k / p
    let c := runPart 0 (q.blockLen d.len b) (k % p)
    if b < q.blocks d.len then some (.block b c.1 c.2) else none
  | _ =>
    let c := runPart (d.dst % 8) d.len k
    if k < stepsIn (d.dst % 8) d.len then some (.move (d.src + c.1) (d.dst + c.1) c.2) else none

/-- The issuing context `c` with the ASID, GEN and level of the command, by which engine accesses are checked (R239): its GEN follows every
acknowledged raise (State.newGen); its shadow-stack range stays protected (R30). -/
def Cmd.view (m : Cmd) (c : Context) : Context :=
  { Context.reset m.ctx with
    status := word (b2n (!m.user)), asid := word m.asid, gen := word m.gen, walk := m.walk, st := c.st, sslim := c.sslim }

/-- The checks of one byte that a command accesses; `s` is seen from its context. -/
def State.engineByte (s : State) (m : Cmd) (k : AccKind) (ea : Word) : Chk :=
  if m.kind = .code ∧ k = .store ∧ regionOf ea = .loc ∧ !s.core.inShadow s.cx (bits ea 14 0) 1 then .ok (sramKey s.id (bits ea 14 0))
  else (s.setCx (m.view s.cx)).check k 0 ea 1

/-- Why a part of a step does not go on. -/
inductive Halt where
  | wait
  | walk (va : Word) (kind : Nat)
  | fail (code sub : Nat) (va : Word)
  | badFrame
  deriving DecidableEq, Repr, Inhabited

/-- The keys of `n` bytes from an address. -/
def State.engineKeys (s : State) (m : Cmd) (k : AccKind) (ea : Word) : Nat → Except Halt (List Nat)
  | 0 => .ok []
  | n + 1 =>
    match s.engineByte m k ea with
    | .ok key =>
      match s.engineKeys m k (ea + 1) n with
      | .ok l => .ok (key :: l)
      | .error h => .error h
    | .trap c v => .error (.fail c 0 v)
    | .walk va => .error (.walk va k.code)
    | .badFrame => .error .badFrame

/-- The bytes of an access to one word by an engine thread, a read of its core (R265, R275): forwarded from the core's own stores, else the
home's, once no store of the core to the word is on its way. -/
def State.engineWord (s : State) (src : Src) (key n : Nat) : Option Nat :=
  let ok := s.forwardOk src [] (key / 8)
  if s.core.ownsAll key n && ok then some (s.peekN key n)
  else if homeOf key = .core s.id then
    if !ok || s.flight.any fun m => m.core == s.id && m.body.plain && m.body.touches (key / 8) then none else some (s.peekN key n)
  else if s.readable src [] (key / 8) then some (s.homeN key n) else none

/-- The bytes a command reads, word by word; poison fails the command (R247). -/
def State.engineRead (s : State) (m : Cmd) (ea : Word) (n : Nat) : Except Halt (List Byte) :=
  (cutAt 8 n ea.toNat 0 n).foldl (fun r p =>
    match r with
    | .error h => .error h
    | .ok bs =>
      match s.engineKeys m .load (ea + word p.1) p.2 with
      | .error h => .error h
      | .ok ks =>
        let key := ks.headD 0
        if s.poisoned key p.2 then .error (.fail 0x11 (s.errSub key p.2) (ea + word p.1))
        else
          match s.engineWord (.engine s.id m.tag) key p.2 with
          | none => .error .wait
          | some v => .ok (bs ++ (List.range p.2).map fun j => BitVec.ofNat 8 (v / 256 ^ j))) (.ok [])

/-- What the reads of a step leave: the joins of RLX reads in the thread's J (R267), and the entries of the first-level TLB (R298). -/
def State.engineSaw (s : State) (m : Cmd) (ea : Word) (n : Nat) : State :=
  let ks := (cutAt 8 n ea.toNat 0 n).filterMap fun p =>
    match s.engineKeys m .load (ea + word p.1) p.2 with
    | .ok l => if s.core.ownsAll (l.headD 0) p.2 then none else some (l.headD 0 / 8)
    | .error _ => none
  let j := ks.foldl (fun (j : Clock) w => Clock.join j (Clock.join ((s.stampOf w).1.visible s.id) ((s.stampOf w).2.visible s.id))) []
  s.modCmd s.id m.tag fun x => { x with joinJ := x.joinJ.join j }

/-- The translations a step has used are in the first-level TLB (R298). -/
def State.engineTouch (s : State) (m : Cmd) (ea : Word) (n : Nat) : State :=
  [ea, ea + word (n - 1)].foldl (fun t a => t.setCore ((t.setCx (m.view t.cx)).touchTlb a).core) s

/-- The number of little-endian bytes. -/
def bytesNat : List Byte → Nat
  | [] => 0
  | b :: l => b.toNat + 256 * bytesNat l

/-- One piece of a step: bytes from `src`, a store of them at `dst`. -/
def State.enginePiece (s : State) (m : Cmd) (src dst : Word) (n : Nat) : Except Halt (Nat × Word × Nat × Nat) :=
  match s.engineRead m src n, s.engineKeys m .store dst n with
  | .ok bs, .ok ks => .ok (ks.headD 0, dst, n, bytesNat bs)
  | .error h, _ => .error h
  | _, .error h => .error h

/-- The pieces of a move. -/
def State.engineMove (s : State) (m : Cmd) (src dst : Word) (n : Nat) : List (Except Halt (Nat × Word × Nat × Nat)) :=
  (cutAt 8 n dst.toNat 0 n).map fun p => s.enginePiece m (src + word p.1) (dst + word p.1) p.2

/-- A step waits for its whole data: the first piece that must wait for an application or a translation. -/
def firstWait {α : Type} : List (Except Halt α) → Option Halt
  | [] => none
  | .error .wait :: _ => some .wait
  | .error (.walk va k) :: _ => some (.walk va k)
  | .error .badFrame :: _ => some .badFrame
  | _ :: l => firstWait l

/-- The pieces before the first that fails, and the failure. -/
def upToFail {α : Type} : List (Except Halt α) → List α × Option (Nat × Nat × Word)
  | [] => ([], none)
  | .ok x :: l => let r := upToFail l; (x :: r.1, r.2)
  | .error (.fail c b v) :: _ => ([], some (c, b, v))
  | .error _ :: _ => ([], none)

/-- A payload write enters the core's store buffer as the engine thread's own RLX store (R275). -/
def State.engineStore (s : State) (m : Cmd) (key : Nat) (va : Word) (size val : Nat) : State :=
  let en : Entry := ⟨s.seq, .engine s.id m.tag, homeOf key, .w, m.user, 1, 4, va, .store key size val, false⟩
  let t := s.payFor s.seq
  { t with core := { t.core with sbuf := t.core.sbuf ++ [en] }, seq := t.seq + 1 }

/-- One write of a step: key, address, size and value. -/
abbrev EngineWrite := Nat × Word × Nat × Nat

/-- Words of packets subtracted from the ALLOW of the issuing context's registers (R123); `s` is seen from that context. -/
def State.spendTo (s : State) (h : Home) (words : Nat) : State :=
  if routedHome s.id h then (s.matching h).foldl (fun t l => t.spend l words) s else s

/-- The writes of a step enter the store buffer; a packet carries those of one aligned 64-byte unit of the destination, and is spent with the last of
them (R123, R275). `n` bytes of the packet have gone before. -/
def State.engineWrites (s : State) (m : Cmd) : Nat → List EngineWrite → State
  | _, [] => s
  | n, w :: l =>
    let b := n + w.2.2.1
    let ends := match l with | [] => true | v :: _ => !(v.2.1.toNat / 64 == w.2.1.toNat / 64 && homeOf v.1 == homeOf w.1)
    ((if ends then s.spendTo (homeOf w.1) (1 + (b + 7) / 8) else s).engineStore m w.1 w.2.1 w.2.2.1 w.2.2.2).engineWrites m (if ends then 0 else b) l

/-- A command fails (R247). -/
def Cmd.fail (m : Cmd) (code sub : Nat) (va : Word) : Cmd :=
  if m.code = 0 then { m with code := code, sub := sub, errAddr := va } else m

/-- The end of a step: `n` payload bytes written. -/
def Cmd.advance (m : Cmd) (n : Nat) : Cmd := { m with step := m.step + 1, doneb := m.doneb + n, walk := none }

/-- A step that must wait keeps the translation it waits for. -/
def State.engineHalt (s : State) (m : Cmd) (h : Halt) : Result :=
  match h with
  | .walk va k =>
    let asked := match m.walk with | some w => w.va == va && w.gen == m.gen && w.fault.isNone | none => false
    if asked then .next s
    else .next { s.modCmd s.id m.tag fun x => { x with walk := some ⟨va, k, m.asid, m.gen, none, s.seq⟩ } with seq := s.seq + 1 }
  | .fail c b v => .next (s.modCmd s.id m.tag fun x => x.fail c b v)
  | .badFrame => .fault .frameBeyondStack
  | .wait => .next s

/-- The end of a step with its pieces: the writes before the first failure enter the buffer. -/
def State.finishStep (s : State) (m : Cmd) (l : List (Except Halt EngineWrite)) : Result :=
  match firstWait l with
  | some h => s.engineHalt m h
  | none =>
    let r := upToFail l
    let t := s.engineWrites m 0 r.1
    let n := (r.1.map fun p => p.2.2.1).sum
    .next (t.modCmd t.id m.tag fun x =>
      let y := x.advance n
      match r.2 with | some f => y.fail f.1 f.2.1 f.2.2 | none => y)

/-- A step that moves n bytes. -/
def State.moveStep (s : State) (m : Cmd) (src dst : Word) (n : Nat) : Result :=
  (((s.engineSaw m src n).engineTouch m src n).engineTouch m dst n).finishStep m (s.engineMove m src dst n)

/-- A step of XPUT: each unit's bytes enter the store buffer as a flit of class P for the peer (R241, R275, R338). -/
def State.putStep (s : State) (m : Cmd) (src dst : Word) (n : Nat) : Result :=
  let units := cutAt 64 n dst.toNat 0 n
  let l := units.map fun p =>
    match s.engineRead m (src + word p.1) p.2 with
    | .ok bs => if s.peerOk (peerOf (dst + word p.1)) then Except.ok (dst + word p.1, bs) else .error (Halt.fail 0x07 0 (dst + word p.1))
    | .error h => .error h
  match firstWait l with
  | some h => s.engineHalt m h
  | none =>
    if s.injectFull units.length then .next s
    else
      let r := upToFail l
      let t := r.1.foldl (fun t p =>
        let peer := peerOf p.1
        let f : Flit := { t.flitOf (t.peerModule peer) .p (.put p.2) 0 (peerOff p.1) 0 0 with ctx := 16 + m.tag }
        let u := t.spendTo (.peer peer) (1 + (p.2.length + 7) / 8)
        let en : Entry := ⟨u.seq, .engine u.id m.tag, .peer peer, .p, m.user, 1, 4, p.1, .flit f, false⟩
        { u with core := { u.core with sbuf := u.core.sbuf ++ [en] }, seq := u.seq + 1 }) ((s.engineSaw m src n).engineTouch m src n)
      let done := (r.1.map fun p => p.2.length).sum
      .next (t.modCmd t.id m.tag fun x =>
        let y := x.advance done
        match r.2 with | some f => y.fail f.1 f.2.1 f.2.2 | none => y)

/-- A step of XGET: a read request for each unit of its source, each under a number of its own; the step ends with the last answer (R241, R246),
and room for the answers is reserved in the receive queue (R340). -/
def State.getStep (s : State) (m : Cmd) (src dst : Word) (n : Nat) : Result :=
  let units := cutAt 64 n src.toNat 0 n
  let l := units.map fun p =>
    let ps := (cutAt 8 p.2 (dst.toNat + p.1) 0 p.2).map fun q =>
      match s.engineKeys m .store (dst + word (p.1 + q.1)) q.2 with
      | .ok ks => Except.ok (ks.headD 0, dst + word (p.1 + q.1), q.2)
      | .error h => .error h
    match firstWait ps with
    | some h => Except.error h
    | none =>
      let r := upToFail ps
      match r.2 with
      | some f => .error (Halt.fail f.1 f.2.1 f.2.2)
      | none => if s.peerOk (peerOf (src + word p.1)) then .ok (src + word p.1, p.2, r.1) else .error (.fail 0x07 0 (src + word p.1))
  match firstWait l with
  | some h => s.engineHalt m h
  | none =>
    if s.injectFull units.length ∨ s.recvFull ((units.map fun p => (p.2 + 7) / 8).sum) then .next s
    else
      let r := upToFail l
      let req : List (Nat × Word × Nat × List (Nat × Word × Nat)) := ((List.range r.1.length).map fun j => s.seq * 16 + j).zip r.1
      let t := req.foldl (fun t p =>
        let peer := peerOf p.2.1
        let f : Flit := { t.flitOf (t.peerModule peer) .r (.get p.2.2.1) p.1 (peerOff p.2.1) 0 0 with ctx := 16 + m.tag }
        let u := t.spendTo (.peer peer) 1
        { u with torus := { u.torus with inject := u.torus.inject ++ [(u.id, f)], owedAcks := u.torus.owedAcks ++ [⟨u.id, 16 + m.tag, peer, u.cy, [], p.2.1, m.at_, p.1, none⟩] } }) (s.engineTouch m dst n)
      .next (State.modCmd { t with seq := t.seq + 1 } t.id m.tag fun x =>
        let y := { x with awaits := req.map fun p => (p.1, p.2.2.2), walk := none }
        match r.2 with | some f => y.fail f.1 f.2.1 f.2.2 | none => y)

/-- The answer to a read request of XGET: its bytes enter the store buffer; the last one ends the step. -/
def State.getAnswer (s : State) (tag n : Nat) (bytes : List Byte) (failed : Word) : State :=
  match s.core.cmds.find? fun m => m.tag == tag && m.st == .running with
  | none => s
  | some m =>
    match Table.find m.awaits n with
    | none => s
    | some ps =>
      let rest := m.awaits.filter fun a => a.1 != n
      let t := if failed ≠ 0 then s else (ps.foldl (fun p q => (p.1.engineStore m q.1 q.2.1 q.2.2 (bytesNat (p.2.take q.2.2)), p.2.drop q.2.2)) (s, bytes)).1
      let done := if failed ≠ 0 then 0 else (ps.map fun p => p.2.2).sum
      t.modCmd t.id tag fun x =>
        let y := { x with awaits := rest, doneb := x.doneb + done }
        let z := if rest.isEmpty then { y with step := y.step + 1 } else y
        if failed ≠ 0 then z.fail (flitError failed).1 (flitError failed).2 (match ps with | p :: _ => p.2.1 | [] => 0) else z

/-- The step of a running command. -/
def State.runStep (s : State) (m : Cmd) (c : Chunk) : Result :=
  let d := Desc.of m.desc
  match c with
  | .move src dst n =>
    let a := word src.toNat
    let b := word dst.toNat
    match m.kind with
    | .put => s.putStep m a b n
    | .get => s.getStep m a b n
    | _ => s.moveStep m a b n
  | .elem i off n =>
    match s.engineRead m (word (d.idx + 4 * i)) 4 with
    | .error h => s.engineHalt m h
    | .ok bs =>
      let ix := (BitVec.ofNat 32 (bytesNat bs)).toInt
      let a := BitVec.ofInt 64 ((d.src : Int) + ix * d.len + off)
      ((s.engineSaw m (word (d.idx + 4 * i)) 4).engineTouch m (word (d.idx + 4 * i)) 4).moveStep m a (word (d.dst + i * d.len + off)) n
  | .block k off n =>
    let q := Deal.of m.pattern
    match s.lidxCore (q.start + k % q.count * q.stride) with
    | none => .next (s.modCmd s.id m.tag fun x => x.fail 0x07 0 (word (d.src + k * q.blk + off)))
    | some id =>
      s.moveStep m (word (d.src + k * q.blk + off)) (coordAddr (s.myVif.vdOf (pdieOf id)) (rowOf id) (colOf id) (q.lbase + k / q.count * q.blk + off)) n
  | .routine (.move src dst n) =>
    if regionOf dst = .peer then s.putStep m src dst n.toNat
    else if regionOf src = .peer then s.getStep m src dst n.toNat
    else s.moveStep m src dst n.toNat
  | .routine (.load a) =>
    match s.engineRead m a 8 with
    | .error h => s.engineHalt m h
    | .ok bs =>
      let t := (s.engineSaw m a 8).engineTouch m a 8
      .next (t.modCmd t.id m.tag fun x => { x.advance 0 with got := x.got ++ [word (bytesNat bs)] })
  | .routine (.store a v) =>
    let b := word (a.toNat / 8 * 8)
    (s.engineTouch m b 8).finishStep m (match s.engineKeys m .store b 8 with
      | .ok ks => [Except.ok (ks.headD 0, b, 8, v.toNat)]
      | .error h => [.error h])
  | .routine (.fail a) => .next (s.modCmd s.id m.tag fun x => x.fail 0x01 0 a)
  | .routine .done => .next s

/-- The next command to start: the first one accepted that has been taken (R239). -/
def Core.startNext (c : Core) : Option Nat :=
  if (c.cmds.filter fun m => m.st == .running).length ≥ 8 then none
  else (c.cmds.find? fun m => m.st == .queued).bind fun m => if m.taken then some m.tag else none

/-- Whether a command that a freeze has met has a step in progress that still ends: once within 64 cycles (R246). An XGET's ends with its
answers. -/
def Core.stepOpen (c : Core) (cy : Nat) (m : Cmd) : Bool :=
  c.frozen && m.st == .running && m.kind != .get && decide (cy ≤ c.haltCy + 64) && decide (m.stepAt < c.haltCy)

/-- ENGINE_STEP: one step of a command; a command taken and not yet started starts with it (R239, R246). A step that a freeze interrupts has
made its writes and is made again in full; which steps are interrupted is a free value (R275; notes/assumptions/79.md). -/
def execEngineStep (core tag : Nat) (s : State) : Result :=
  match (s.coreAt core).cmds.find? fun m => m.tag == tag with
  | none => .next s
  | some m =>
    let t := s.focus core m.ctx
    let starts := m.st == .queued && t.core.startNext == some tag
    let late := t.core.stepOpen t.cy m
    if (t.core.frozen && !late) || m.cancel || m.code != 0 || !m.awaits.isEmpty || !(m.st == .running || starts)
      || (m.acqOpen && !t.covered (pdieOf core) m.clk) then .next s
    else
      let m1 : Cmd := { m with st := .running, acqOpen := false }
      match m1.chunk with
      | none => .next ((t.modCmd core tag fun _ => m1).focus s.id s.core.k)
      | some c =>
        match (t.modCmd core tag fun _ => m1).runStep m1 c with
        | .next u =>
          let v := u.modCmd core tag fun x => if x.step = m.step then x else { x with stepAt := u.cy }
          let w := if late then
              { v.modCmd core tag fun x => if bit v.freeWord.1 0 then { x with step := m.step, doneb := m.doneb, got := m.got } else x with
                fresh := v.fresh + 1 }
            else v
          .next ((w.toCore s.id).toCtx s.core.k)
        | r => r

/-! ## Completion (R239, R247, R248) -/

/-- The state a command ends in. -/
def Cmd.endSt (m : Cmd) : CmdSt := if m.code ≠ 0 then .failed else if m.cancel then .cancelled else .done

/-- Whether a user command's completion word lies below XBOUND of its own core: an access of the engine that obeys R23 raises XONLY there, and
only `xcopy.code` writes the instruction store (R23, R239, R243). -/
def State.mboxBelow (s : State) (m : Cmd) : Bool :=
  m.user && match s.ownOff (word (Desc.of m.desc).mbox) with | some off => decide (off < s.core.xbound.toNat) | none => false

/-- The completion word: a REL write at MOD scope of the engine thread (R275). -/
def State.completionWord (s : State) (m : Cmd) : State :=
  let d := Desc.of m.desc
  let va := word d.mbox
  let key := match s.ownOff va with | some off => some (sramKey s.id off) | none => s.coordKey va
  if d.mbox = 0 ∨ s.mboxBelow m then s
  else
    match key with
    | none => s
    | some k =>
      let v := if m.endSt = .done then d.mval else d.fval
      let en : Entry := ⟨s.seq, .engine s.id m.tag, homeOf k, .w, m.user, 4, 4, va, .store k 8 v.toNat, false⟩
      { s with core := { s.core with sbuf := s.core.sbuf ++ [en] }, seq := s.seq + 1 }

/-- COMMAND_COMPLETE: a command whose payload is performed ends with exactly one completion word; a cancelled one that never
started, or is frozen, ends as well (R239, R247, R248). A completion word that R23 refuses fails the command (notes/assumptions/78.md). -/
def execCommandComplete (core tag : Nat) (s : State) : Result :=
  match (s.coreAt core).cmds.find? fun m => m.tag == tag && m.active with
  | none => .next s
  | some m0 =>
    let m := if m0.code = 0 ∧ (s.focus core m0.ctx).mboxBelow m0 ∧ (Desc.of m0.desc).mbox ≠ 0 ∧ !m0.cancel ∧ m0.chunk.isNone
      then m0.fail 0x04 0 (word (Desc.of m0.desc).mbox) else m0
    let ended := if m.st = .running then m.cancel || ((s.coreAt core).frozen == false && (m.code != 0 || m.chunk.isNone)) else m.cancel
    if !ended || s.threadOpen core tag || (m.st == .running && !m.awaits.isEmpty && m.code == 0) then .next s
    else
      .next (s.within core m.ctx fun t =>
        let u := t.completionWord m
        let v := { u with core := { u.core with freeTags := u.core.freeTags ++ [tag] } }
        let w := v.modCmd v.id tag fun x => { x with st := m.endSt, code := m.code, sub := m.sub, errAddr := m.errAddr, awaits := [] }
        let key := match w.engineKeys m .load m.errAddr 1 with | .ok l => l.head? | .error _ => none
        if m.code = 0 then w
        else match key with
          | some key => (w.postWith w.id m.ctx m.code m.sub 2 m.errAddr (some m.at_) (errUnit m.code m.sub) (keyPlace key) (keyAddr key)).foundErrors [key / 8]
          | none => w.post w.id m.ctx m.code m.sub 2 m.errAddr (some m.at_))

end Sys2Proof.Machine
end

