-- ==== Sys2Proof/Machine/Scalar.lean ====
section
/-!
DEFINITION. Scalar register instructions (spec/05_scalar.md R101–R109): arithmetic, logic, shifts, multiply and divide,
selects, bit counts and immediates. None traps; only the `.SAT` forms set a flag (R102).
-/
namespace Sys2Proof.Machine

/-- A result that is written `n` cycles after issue; g0 takes none (R101). -/
def State.laterG (s : State) (d : GReg) (v : Word) (n : Nat) : State := if d = 0 then s else s.later (.g d) [v] n

/-- Done with a multi-cycle result (R101). -/
def State.doneLater (s : State) (i : Instr) (d : GReg) (v : Word) (n : Nat) : Result := .next ((s.laterG d v n).retire i)

/-- Signed quotient truncated towards zero; −1 for a divisor of 0, −2^63 on overflow (R104). -/
def divS (a b : Word) : Word := if b = 0 then -1 else BitVec.ofInt 64 (a.toInt.tdiv b.toInt)
/-- Signed remainder; the dividend for a divisor of 0 (R104). -/
def remS (a b : Word) : Word := if b = 0 then a else BitVec.ofInt 64 (a.toInt.tmod b.toInt)
/-- Unsigned quotient; all ones for a divisor of 0 (R104). -/
def divZ (a b : Word) : Word := if b = 0 then -1 else a / b
/-- Unsigned remainder; the dividend for a divisor of 0 (R104). -/
def remZ (a b : Word) : Word := if b = 0 then a else a % b

/-- Bits [127:64] of a signed product (R104). -/
def mulHiS (a b : Word) : Word := BitVec.ofInt 64 ((a.toInt * b.toInt) / 2 ^ 64)
/-- Bits [127:64] of an unsigned product (R104). -/
def mulHiZ (a b : Word) : Word := BitVec.ofNat 64 ((a.toNat * b.toNat) / 2 ^ 64)

/-- Zero bits above the most significant 1; 64 for 0 (R107). -/
def clz64 (a : Word) : Nat := 64 - (if a = 0 then 0 else a.toNat.log2 + 1)
/-- Zero bits below the least significant 1, from bit i up (R107). -/
def ctzFrom (a : Word) : Nat → Nat → Nat
  | 0, _ => 64
  | n + 1, i => if bit a i then i else ctzFrom a n (i + 1)
def ctz64 (a : Word) : Nat := ctzFrom a 64 0
/-- Number of 1 bits (R107). -/
def popc64 (a : Word) : Nat := (List.range 64).foldl (fun n i => n + b2n (bit a i)) 0
/-- Bit i moved to bit 63 − i (R107). -/
def brev64 (a : Word) : Word := a.reverse

/-- The shift amount of a register operand: b[5:0] (R103). -/
def shAmt (b : Word) : Nat := b.toNat % 64

/-! ## Register arithmetic and logic (R103) -/

/-- NOP (R94): only the PC advances. -/
def execNop (s : State) : Result := s.done .nop

/-- ADD: Wrap(a + b, 64) (R103). -/
def execAdd (d a b : GReg) (s : State) : Result := s.doneG (.add d a b) d (s.g a + s.g b)

/-- SUB: Wrap(a − b, 64) (R103). -/
def execSub (d a b : GReg) (s : State) : Result := s.doneG (.sub d a b) d (s.g a - s.g b)

/-- AND (R103). -/
def execAnd (d a b : GReg) (s : State) : Result := s.doneG (.and d a b) d (s.g a &&& s.g b)

/-- OR (R103). -/
def execOr (d a b : GReg) (s : State) : Result := s.doneG (.or d a b) d (s.g a ||| s.g b)

/-- XOR (R103). -/
def execXor (d a b : GReg) (s : State) : Result := s.doneG (.xor d a b) d (s.g a ^^^ s.g b)

/-- ANDN: a and not b (R103). -/
def execAndn (d a b : GReg) (s : State) : Result := s.doneG (.andn d a b) d (s.g a &&& ~~~(s.g b))

/-- SLL (R103). -/
def execSll (d a b : GReg) (s : State) : Result := s.doneG (.sll d a b) d (s.g a <<< shAmt (s.g b))

/-- SRL (R103). -/
def execSrl (d a b : GReg) (s : State) : Result := s.doneG (.srl d a b) d (s.g a >>> shAmt (s.g b))

/-- SRA (R103). -/
def execSra (d a b : GReg) (s : State) : Result := s.doneG (.sra d a b) d ((s.g a).sshiftRight (shAmt (s.g b)))

/-- ROL (R103). -/
def execRol (d a b : GReg) (s : State) : Result := s.doneG (.rol d a b) d ((s.g a).rotateLeft (shAmt (s.g b)))

/-- ROR (R103). -/
def execRor (d a b : GReg) (s : State) : Result := s.doneG (.ror d a b) d ((s.g a).rotateRight (shAmt (s.g b)))

/-- MIN: the smaller, signed (R103). -/
def execMin (d a b : GReg) (s : State) : Result := s.doneG (.min d a b) d (if (s.g a).slt (s.g b) then s.g a else s.g b)

/-- MAX: the larger, signed (R103). -/
def execMax (d a b : GReg) (s : State) : Result := s.doneG (.max d a b) d (if (s.g a).slt (s.g b) then s.g b else s.g a)

/-- MIN.Z: the smaller, unsigned (R103). -/
def execMinZ (d a b : GReg) (s : State) : Result := s.doneG (.minZ d a b) d (if (s.g a).ult (s.g b) then s.g a else s.g b)

/-- MAX.Z: the larger, unsigned (R103). -/
def execMaxZ (d a b : GReg) (s : State) : Result := s.doneG (.maxZ d a b) d (if (s.g a).ult (s.g b) then s.g b else s.g a)

/-- SLT (R103). -/
def execSlt (d a b : GReg) (s : State) : Result := s.doneG (.slt d a b) d (if (s.g a).slt (s.g b) then 1 else 0)

/-- SLT.Z (R103). -/
def execSltZ (d a b : GReg) (s : State) : Result := s.doneG (.sltZ d a b) d (if (s.g a).ult (s.g b) then 1 else 0)

/-- ADD.SAT: clamped to s64, SV when clamped (R102, R103). -/
def execAddSat (d a b : GReg) (s : State) : Result :=
  let r := clampS 64 ((s.g a).toInt + (s.g b).toInt)
  (s.setG d r.1).finishFl (.addSat d a b) (Fl.clamp r.2)

/-- ADD.Z.SAT: clamped to z64 (R102, R103). -/
def execAddZSat (d a b : GReg) (s : State) : Result :=
  let r := clampZ 64 (((s.g a).toNat : Int) + (s.g b).toNat)
  (s.setG d r.1).finishFl (.addZSat d a b) (Fl.clamp r.2)

/-- SUB.SAT (R102, R103). -/
def execSubSat (d a b : GReg) (s : State) : Result :=
  let r := clampS 64 ((s.g a).toInt - (s.g b).toInt)
  (s.setG d r.1).finishFl (.subSat d a b) (Fl.clamp r.2)

/-- SUB.Z.SAT (R102, R103). -/
def execSubZSat (d a b : GReg) (s : State) : Result :=
  let r := clampZ 64 (((s.g a).toNat : Int) - (s.g b).toNat)
  (s.setG d r.1).finishFl (.subZSat d a b) (Fl.clamp r.2)

/-! ## Multiply and divide (R104): 3 and 36 cycles -/

/-- MUL (R104). -/
def execMul (d a b : GReg) (s : State) : Result := s.doneLater (.mul d a b) d (s.g a * s.g b) 3

/-- MULH (R104). -/
def execMulh (d a b : GReg) (s : State) : Result := s.doneLater (.mulh d a b) d (mulHiS (s.g a) (s.g b)) 3

/-- MULH.Z (R104). -/
def execMulhZ (d a b : GReg) (s : State) : Result := s.doneLater (.mulhZ d a b) d (mulHiZ (s.g a) (s.g b)) 3

/-- DIV (R104). -/
def execDiv (d a b : GReg) (s : State) : Result := s.doneLater (.div d a b) d (Machine.divS (s.g a) (s.g b)) 36

/-- DIV.Z (R104). -/
def execDivZ (d a b : GReg) (s : State) : Result := s.doneLater (.divZ d a b) d (Machine.divZ (s.g a) (s.g b)) 36

/-- REM (R104). -/
def execRem (d a b : GReg) (s : State) : Result := s.doneLater (.rem d a b) d (remS (s.g a) (s.g b)) 36

/-- REM.Z (R104). -/
def execRemZ (d a b : GReg) (s : State) : Result := s.doneLater (.remZ d a b) d (Machine.remZ (s.g a) (s.g b)) 36

/-! ## Selects and bit counts (R105–R107) -/

/-- SEL: g(A) when g(c) is not 0, else g(B) (R105). -/
def execSel (d a b c : GReg) (s : State) : Result := s.doneG (.sel d a b c) d (if s.g c ≠ 0 then s.g a else s.g b)

/-- ADDX: Wrap(g(A) + g(B)·2^sh, 64) (R106). -/
def execAddx (d a b : GReg) (sh : BitVec 3) (s : State) : Result := s.doneG (.addx d a b sh) d (s.g a + s.g b <<< sh.toNat)

/-- CLZ (R107). -/
def execClz (d a : GReg) (s : State) : Result := s.doneG (.clz d a) d (word (clz64 (s.g a)))

/-- CTZ (R107). -/
def execCtz (d a : GReg) (s : State) : Result := s.doneG (.ctz d a) d (word (ctz64 (s.g a)))

/-- POPC (R107). -/
def execPopc (d a : GReg) (s : State) : Result := s.doneG (.popc d a) d (word (popc64 (s.g a)))

/-- BREV (R107). -/
def execBrev (d a : GReg) (s : State) : Result := s.doneG (.brev d a) d (brev64 (s.g a))

/-! ## Immediates (R108, R109) -/

/-- ADDI (R108). -/
def execAddi (d a : GReg) (imm : BitVec 14) (s : State) : Result := s.doneG (.addi d a imm) d (s.g a + sext imm)

/-- ANDI (R108). -/
def execAndi (d a : GReg) (imm : BitVec 14) (s : State) : Result := s.doneG (.andi d a imm) d (s.g a &&& sext imm)

/-- ORI (R108). -/
def execOri (d a : GReg) (imm : BitVec 14) (s : State) : Result := s.doneG (.ori d a imm) d (s.g a ||| zext imm)

/-- XORI (R108). -/
def execXori (d a : GReg) (imm : BitVec 14) (s : State) : Result := s.doneG (.xori d a imm) d (s.g a ^^^ zext imm)

/-- SLTI (R108). -/
def execSlti (d a : GReg) (imm : BitVec 14) (s : State) : Result := s.doneG (.slti d a imm) d (if (s.g a).slt (sext imm) then 1 else 0)

/-- SLLI (R108). -/
def execSlli (d a : GReg) (sh : BitVec 6) (s : State) : Result := s.doneG (.slli d a sh) d (s.g a <<< sh.toNat)

/-- SRLI (R108). -/
def execSrli (d a : GReg) (sh : BitVec 6) (s : State) : Result := s.doneG (.srli d a sh) d (s.g a >>> sh.toNat)

/-- SRAI (R108). -/
def execSrai (d a : GReg) (sh : BitVec 6) (s : State) : Result := s.doneG (.srai d a sh) d ((s.g a).sshiftRight sh.toNat)

/-- LI: SignExtend(LIT, 32) (R109). -/
def execLi (d : GReg) (lit : BitVec 32) (s : State) : Result := s.doneG (.li d lit) d (sext lit)

/-- LIH: LIT ## g(D)[31:0] (R109). -/
def execLih (d : GReg) (lit : BitVec 32) (s : State) : Result := s.doneG (.lih d lit) d (lit ++ (s.g d).setWidth 32)

/-- The code offset of ADPC: (pc + SignExtend(LIT, 32)) mod 2^15 (R109). -/
def State.pcRel (s : State) (lit : BitVec 32) : Pc := s.cx.pc + lit.setWidth 15

/-- ADPC (R109). -/
def execAdpc (d : GReg) (lit : BitVec 32) (s : State) : Result := s.doneG (.adpc d lit) d (zext (s.pcRel lit))

/-- ADPC.LOC: the same offset as an address of the LOC region (R109). -/
def execAdpcLoc (d : GReg) (lit : BitVec 32) (s : State) : Result := s.doneG (.adpcLoc d lit) d (0xF000000000000 + zext (s.pcRel lit))

end Sys2Proof.Machine
end

