-- ==== Sys2Proof/Machine/System.lean ====
section
/-!
DEFINITION. Die queries, core save and restore, generations, migration requests and remote starts
(spec/10_engines_system.md R250, R255–R259; spec/19_fabric_dies.md R331, R332; spec/11_ordering.md R276).
-/
namespace Sys2Proof.Machine

/-! ## Die queries (R250) -/

/-- DHOPS (R250). -/
def execDhops (d a b : GReg) (s : State) : Result :=
  let i := Instr.dhops d a b
  let x := (s.g a).toNat
  let y := (s.g b).toNat
  if x ≥ s.vdCount ∨ y ≥ s.vdCount then s.illegal i
  else s.doneLater i d (word (s.dieHops (s.myVif.pdie x) (s.myVif.pdie y))) 4

/-- The word of DWHO for virtual die `vd`. -/
def State.dwhoWord (s : State) (vd : Nat) : Word :=
  let p := s.myVif.pdie vd
  let me := pdieOf s.id
  word (vd + b2n (vd == s.myVd) * 2 ^ 4 + b2n (p / 4 == me / 4) * 2 ^ 5 + (p / 4 + 4 - me / 4) % 4 * 2 ^ 6
    + s.dieHops me p * 2 ^ 8 + (s.myVif.dies.getD vd (0, 0)).2 % 256 * 2 ^ 16 + ((dieNear p).filter fun e => !s.excluded e).length * 2 ^ 24)

/-- DWHO (R250). -/
def execDwho (d a : GReg) (s : State) : Result :=
  let i := Instr.dwho d a
  if (s.g a).toNat ≥ s.vdCount then s.illegal i else s.doneLater i d (s.dwhoWord (s.g a).toNat) 4

/-! ## Save and restore (R255, R256) -/

/-- An enabled core of the issuer's virtual interface, named by a coordinate address with offset 0. -/
def State.vifCore (s : State) (ea : Word) : Option Nat :=
  if regionOf ea ≠ .coord ∨ coordOff ea ≠ 0 ∨ coordRow ea ≥ 80 ∨ coordCol ea ≥ 80 ∨ coordVd ea ≥ s.myVif.dies.length then none
  else
    let id := siteId (s.myVif.pdie (coordVd ea)) (coordRow ea) (coordCol ea)
    if !(s.fused.contains id) && (match (s.coreAt id).tray with | some t => t.1 == s.vifOf s.id | none => false) then some id else none

/-- The pages of a save area: 58 accesses, one at the start of each 4 KiB (R255). -/
def saveArea (base : Word) : List (Word × Nat) := (List.range 58).map fun j => (base + word (4096 * j), 8)

/-- Words of an image: 235,520 bytes. -/
def saveWords : Nat := 29440

/-- The key of word j of a save area whose pages have the given keys. -/
def areaKey (keys : List Nat) (j : Nat) : Nat := keys.getD (j / 512) 0 + 8 * (j % 512)

/-! ### The content of an image (R255) -/

/-- `n` words of bytes listed by offset. -/
def byteWords (n : Nat) (l : List (Nat × Byte)) : List Word :=
  (List.range n).map fun j => word (bytesNat ((List.range 8).map fun b => (Table.find l (8 * j + b)).getD 0))

/-- A number as n words. -/
def natWords (n v : Nat) : List Word := (List.range n).map fun j => word (v / 2 ^ (64 * j))

/-- One word with bit i for every i of a list. -/
def bitsWord (l : List Nat) : Word := l.foldl (fun w i => setBit w i true) 0

/-- Context k of a saved core. -/
def Saved.ctx (x : Saved) (k : Nat) : Context := x.core.ctx x.cx k

/-- The header: live contexts, interface, rectangle, τ and members of the phalanx, phase and SLOT of the domain. -/
def Saved.header (x : Saved) : List Word :=
  bitsWord ((List.range 11).filter fun k => (x.ctx k).st.live)
    :: word (match x.core.tray with | some t => t.1 | none => 0)
    :: (match x.phalanx with
        | some p => [1, word p.rect.top, word p.rect.left, word p.rect.height, word p.rect.width, word p.tau, word p.base, word p.skew]
            ++ p.members.map fun m => word (rowOf m * 128 + colOf m)
        | none => [0])
    ++ (match x.domain with | some d => [1, word d.phase, word d.slot] | none => [0])

/-- A context: g registers, PC and register bank, tempo registers, tickets, barrier bits and armed XMIT and XSEL, TID table. -/
def Context.saveWords (c : Context) : List Word :=
  c.g.toList ++ [zext c.pc, c.status, c.epc, c.cause, c.tval, c.trapvec, c.ovlhand, c.memdef, c.arith, c.fflags, c.amax, c.domain, c.btimeout,
    c.slotmask] ++ c.breg.toList ++ [c.hmapsel, c.ssp, c.sslim, c.pattern, c.errpend, c.errTval, word c.errSource, c.asid, c.gen, c.trapdeleg,
    c.exitValue] ++ c.ta.toList
  ++ (c.tickets.flatMap fun t => [word t.num, word t.key, t.va, match t.answer with | some v => v | none => 0, word (b2n t.answer.isSome)])
  ++ (c.bars.toList.flatMap fun b => [bitsWord ([b.pend, b.reld, b.tmo, b.owed].zipIdx.filterMap fun p => if p.1 then some p.2 else none), b.arg])
  ++ (c.arms.flatMap fun a => [word a.1, word a.2.1, a.2.2.getD 0])
  ++ (match c.selArm with | some a => [1, word a.1, word a.2.1, zext a.2.2] | none => [0])
  ++ c.tid.flatMap fun t => [word t.1, t.2.1, t.2.2.1, t.2.2.2.1, t.2.2.2.2]

/-- An m tile: its 256 elements of 144 bits, its marks and its state. -/
def MTile.saveWords (t : MTile) : List Word :=
  natWords 576 ((List.range 256).foldr (fun n v => ((Table.find t.acc n).getD 0).toNat + 2 ^ 144 * v) 0)
  ++ natWords 4 (t.marks.foldl (fun v n => v ||| 2 ^ n) 0)
  ++ [match t.anchor with | some a => BitVec.ofInt 64 a | none => 0, word (t.count + b2n t.anchor.isSome * 2 ^ 32 + b2n t.poison * 2 ^ 33)]

/-- An operand slot: holder and state, planes, metadata in both copies, checksums. -/
def OSlot.saveWords (o : OSlot) : List Word :=
  word (match o.holder with | some h => h + 1 | none => 0)
    :: word (b2n o.loaded + o.fmt * 2 + b2n o.sparse * 2 ^ 8 + o.planes * 2 ^ 9 + o.sbase * 2 ^ 16 + b2n o.poison * 2 ^ 32)
    :: (byteWords 512 o.bytes ++ byteWords 16 o.scales ++ byteWords 16 o.scales2 ++ byteWords 32 o.index ++ byteWords 32 o.index2
        ++ o.sums.map fun p => word (p.1 + p.2 * 2 ^ 32))

/-- A matrix instruction in the queue, with its STEP (R220). -/
def MCmd.saveWords (q : MCmd) : List Word :=
  [word (q.op + q.m * 8 + q.a * 32 + q.b * 256 + q.kb * 2 ^ 12 + q.ke * 2 ^ 24 + b2n q.acc * 2 ^ 36 + q.ctx * 2 ^ 37 + b2n q.running * 2 ^ 41),
   word (q.pa + q.pb * 2 ^ 8 + q.step * 2 ^ 16 + b2n q.abandoned * 2 ^ 48)]

/-- The number of a command's routine (R245) in an image. -/
def kindNum : CopyKind → Nat
  | .copy => 0 | .code => 1 | .twoD => 2 | .deal => 3 | .gather => 4 | .put => 5 | .get => 6 | .kick n => 16 + n.toNat

/-- A command: its descriptor, routine, state and step position. -/
def Cmd.saveWords (m : Cmd) : List Word :=
  m.desc ++ [word (m.tag + m.seq * 2 ^ 7 + m.ctx * 2 ^ 16 + m.code * 2 ^ 24 + m.sub * 2 ^ 32 + m.st.code * 2 ^ 40 + kindNum m.kind * 2 ^ 43
      + b2n m.taken * 2 ^ 52 + b2n m.cancel * 2 ^ 53),
    word m.step, word m.doneb, m.pattern, m.memdef, m.errAddr]

/-- The sections of R255: header, contexts 0–10 with the registers of R17 that the core owns, queues and ports with the words on their wires, m
tiles, operand slots, lanes, matrix queue, copy engine. -/
def Saved.section (x : Saved) (n : Nat) : List Word :=
  let c := x.core
  if n = 0 then x.header
  else if n ≤ 11 then (x.ctx (n - 1)).saveWords ++ [c.xbound, c.sbound, c.skew, c.vsetl]
  else
    match n with
    | 12 => (c.q.toList.flatMap fun l => word l.length :: l.map (·.val)) ++ (c.nIn.toList.flatMap fun l => word l.length :: l)
        ++ [word (match c.n4.owner with | some k => k + 1 | none => 0), word c.n4.left] ++ c.n4.fifo.map (·.2) ++ c.n4.words
        ++ word c.n5.length :: c.n5 ++ [c.latch]
        ++ c.nFly.flatMap fun w => [word w.port, w.val, match w.tau with | some t => word (t + 1) | none => 0]
    | 13 => c.m.toList.flatMap MTile.saveWords
    | 14 => c.o.toList.flatMap OSlot.saveWords
    | 15 => [word c.lanes, word (match c.holder with | some k => k + 1 | none => 0), c.vsetl, word c.lastReq, c.skew]
        ++ (c.v.toList.flatMap fun l => l.map zext) ++ c.w.toList.flatMap id
    | 16 => c.mq.flatMap MCmd.saveWords
    | _ => c.cmds.flatMap Cmd.saveWords

/-- The section and the place in it of word j of an image. -/
def imagePlace (j : Nat) : Nat × Nat :=
  if j < 512 then (0, j)
  else if j < 17408 then (1 + (j - 512) / 1536, (j - 512) % 1536)
  else if j < 17536 then (12, j - 17408)
  else if j < 20096 then (13, j - 17536)
  else if j < 25216 then (14, j - 20096)
  else if j < 27264 then (15, j - 25216)
  else if j < 27392 then (16, j - 27264)
  else (17, j - 27392)

/-- CHECK, over the content of the image (R255). -/
def Saved.check (x : Saved) : Word := Config.saveCheck ((List.range 18).flatMap x.section)

/-- Word j of an image: VERSION first, then each section's content in the order that belongs to VERSION (R255). -/
def imageWord (x : Saved) (j : Nat) : Word :=
  let p := imagePlace j
  if j = 0 then Config.firmwareVersion
  else (if p.1 = 0 then x.check :: x.section 0 else x.section p.1).getD (Config.saveOrder p.1 p.2) 0

/-- CSAVE's requirement: no context can issue and the engines are frozen (R256). -/
def State.saveable (s : State) (id : Nat) : Bool :=
  ((s.ctxsAt id).all fun c => c.st == .halted || c.st == .stopped || c.st == .free || c.st == .exited) && (s.coreAt id).frozen

/-- CLOAD's requirement: every context Stopped or Free, the engines idle (R256). -/
def State.loadable (s : State) (id : Nat) : Bool :=
  ((s.ctxsAt id).all fun c => c.st == .stopped || c.st == .free) && (s.coreAt id).mq.isEmpty && !((s.coreAt id).cmds.any Cmd.active)

/-- The traps of CSAVE and CLOAD (R256); `f` receives the state with the pages used (R298), the target and the keys of the area's pages. -/
def State.saveTraps (s : State) (i : Instr) (a b : GReg) (k : AccKind) (f : State → Nat → List Nat → Result) : Result :=
  let area := s.g a
  if s.privBad then s.trap 0x0C (zext i.first)
  else if area.toNat % 4096 ≠ 0 then s.trap 0x05 area
  else
    match s.vifCore (s.g b) with
    | none => s.trap 0x07 (s.g b)
    | some id =>
      if regionOf area ≠ .main ∧ !(regionOf area == .coord && decide (coordRow area ≥ 126)) then s.trap 0x07 area
      else
        match s.checkAll k 0 (saveArea area) with
        | .error (.trap c v) => s.trap c v
        | .error (.walk va) => .next (s.startWalk k va)
        | .error .badFrame => .fault .frameBeyondStack
        | .error (.ok _) => s.wait .reply
        | .ok ks => f ((saveArea area).foldl (fun t p => t.touchTlb p.1) s) id (ks.map fun p => p.2.2)

/-- The writes of an image enter the store buffer. -/
def State.writeImage (s : State) (area : Word) (keys : List Nat) (x : Saved) : State :=
  (List.range saveWords).foldl (fun t j =>
    t.enter t.mine (areaKey keys j) .w ⟨1, 4, 0, 1, false⟩ (area + word (8 * j)) (.store (areaKey keys j) 8 (imageWord x j).toNat) false) s

/-- The phalanx of a core, that of a saved tray among them (R320). -/
def State.phalanxKept (s : State) (id : Nat) : Option Phalanx :=
  match s.phalanxOf id, (s.coreAt id).tray with
  | none, some t => ((s.vif t.1).trays.getD t.2 Tray.empty).phalanxes.find? fun p => p.members.contains id
  | p, _ => p

/-- What an image of a core holds: its state, its phalanx with τ and members, its domain's phase and SLOT (R255). -/
def State.snap (s : State) (id num : Nat) : Saved :=
  ⟨num, s.coreAt id, s.cxAt id (s.coreAt id).k, s.phalanxKept id, s.domainOf id (s.cxAt id 0), id⟩

/-- The number under which the next image is kept. -/
def Hub.nextImage (h : Hub) : Nat := (h.saved.map (·.num)).foldl max 0 + 1

/-- CSAVE (R256): the image is written, the context waits until every byte is performed, g(D) := 235,520. -/
def execCsave (d a b : GReg) (s : State) : Result :=
  let i := Instr.csave d a b
  if s.cx.asked then (if s.unapplied s.mine then s.wait .reply else s.doneG i d 235520)
  else
    s.saveTraps i a b .store fun s id keys =>
      if !s.saveable id then s.illegal i
      else if !s.gate 1 4 then s.wait .reply
      else
        let snap := s.snap id s.hub.nextImage
        let t := (s.passGate.writeImage (s.g a) keys snap)
        ({ t with hub := { t.hub with saved := t.hub.saved ++ [snap] }, cx := { t.cx with asked := true } }).wait .reply

/-- The image that an area holds whole, so that VERSION and CHECK match (R256; notes/assumptions/19.md). -/
def State.imageAt (s : State) (keys : List Nat) : Option Saved :=
  s.hub.saved.find? fun x => (List.range saveWords).all fun j => word (if s.core.ownsAll (areaKey keys j) 8 then s.peekN (areaKey keys j) 8 else s.homeN (areaKey keys j) 8) == imageWord x j

/-- A context as restored: Halted when live, with the ASID's current generation (R256, R300). -/
def Context.restored (c : Context) (gen : Word) : Context := { c with st := if c.st.live then .halted else c.st, gen := gen, walk := none }

/-- A command as restored: under its ASID's current generation (R239, R300), at the step saved; a step that was interrupted, such as an XGET's
whose answers have not all come, is executed again in full (R246). -/
def Cmd.restored (m : Cmd) (gen : Nat) : Cmd :=
  let left := (m.awaits.flatMap fun a => a.2.map fun p => p.2.2).sum
  let size := match m.chunk with | some (.move _ _ n) => n | some (.routine (.move _ _ n)) => n.toNat | _ => 0
  { m with gen := gen, walk := none, awaits := [], doneb := if m.awaits.isEmpty ∨ m.code ≠ 0 then m.doneb else m.doneb - (size - left) }

/-- A restored core: the image's state, the words on its wires included (R45, R321), on the site's own plumbing. -/
def Core.restoredOn (c site : Core) : Core :=
  { c with tray := site.tray, limits := site.limits, sbuf := site.sbuf, l1 := site.l1, tlb := site.tlb,
           breakpoints := site.breakpoints, genDue := site.genDue, sweepDue := site.sweepDue, credits := site.credits,
           faulted := site.faulted, gated := site.gated, frozen := true }

/-- The current generation of an ASID (R295). -/
def State.genOf (s : State) (asid : Nat) : Nat := match s.asids.find? (fun a => a.1 == asid) with | some a => a.2.2 | none => 0

/-- A core image put on a site. -/
def State.putCoreImage (s : State) (id : Nat) (core : Core) (cx : Context) : State :=
  let s := s.keepClock id
  let site := s.coreAt id
  let re (c : Context) : Context := c.restored (word (s.genOf (bits c.asid 11 0)))
  let core' :=
    { core.restoredOn site with
      parked := core.parked.map fun p => (p.1, re p.2)
      cmds := core.cmds.map fun m => if m.active then m.restored (s.genOf m.asid) else m }
  if id = s.id then { s with core := core', cx := re cx } else { s with others := Table.set s.others id (core', re cx) }

/-- A site on the die of another site. -/
def onDie (id site : Nat) : Nat := siteId (pdieOf id) (rowOf site) (colOf site)

/-- A member put back into its phalanx (R45, R256): the first of it to be restored brings τ and the stream; the others join it. -/
def State.rejoin (s : State) (id : Nat) (p : Phalanx) : State :=
  let q : Phalanx := { p with leader := onDie id p.leader, members := [id] }
  let same (x : Phalanx) : Bool := x.no == q.no && x.leader == q.leader && x.rect == q.rect && x.vd == q.vd && x.tau == q.tau
  let out := (s.phalanxes.map fun x => { x with members := x.members.filter (· != id) }).filter fun x => !x.members.isEmpty
  { s with phalanxes :=
      if out.any same then out.map (fun x => if same x then { x with members := x.members ++ [id] } else x) else out ++ [q] }

/-- The phase and SLOT of the core's domain put back, unless another member has brought them (R256, R321). -/
def State.redomain (s : State) (id : Nat) (d : Domain) : State :=
  match (s.coreAt id).tray with
  | none => s
  | some t =>
    if s.domains.any fun x => x.vif == t.1 && x.tray == t.2 && x.name == d.name then s
    else
      let e : Domain :=
        { d with
          vif := t.1
          tray := t.2
          issued := d.issued.map (onDie id)
          wires := d.wires.map fun w => (onDie id w.1, w.2)
          drives := d.drives.map fun w => (onDie id w.1, w.2) }
      { s with domains := s.domains ++ [e] }

/-- An image restored on a site: the core, its phalanx and its domain (R256). -/
def State.putImage (s : State) (id : Nat) (x : Saved) : State :=
  let t := s.putCoreImage id x.core x.cx
  let u := match x.phalanx with | some p => t.rejoin id p | none => t
  match x.domain with | some d => u.redomain id d | none => u

/-- CLOAD (R256). The manual states no value for its g(D): a free value (notes/assumptions/7.md). -/
def execCload (d a b : GReg) (s : State) : Result :=
  let i := Instr.cload d a b
  s.saveTraps i a b .load fun s id keys =>
    if !s.loadable id then s.illegal i
    else if !s.gate 1 4 ∨ !(keys.all fun k => s.readOk k 4096) then s.wait .reply
    else
      match s.imageAt keys with
      | none => s.illegal i
      | some x => let f := (s.passGate.putImage id x).freeWord; f.2.doneG i d f.1

/-! ## Generations and migration (R257, R258) -/

/-- The cores of every tray under an ASID. -/
def State.asidCores (s : State) (asid : Nat) : List Nat :=
  s.sites.filter fun id =>
    match (s.coreAt id).tray with
    | some t => ((s.vif t.1).trays.getD t.2 Tray.empty).asid == asid
    | none => false

/-- The generation of an ASID raised; every core of its trays owes an acknowledgement (R300), and where the generation has wrapped to 0 the
full sweep before it (R302). -/
def State.raiseGen (s : State) (asid : Nat) : State :=
  let g := (s.genOf asid + 1) % 2 ^ 20
  let root := match s.asids.find? (fun a => a.1 == asid) with | some a => a.2.1 | none => 0
  let t := { s with asids := (s.asids.filter fun a => a.1 != asid) ++ [(asid, root, g)] }
  let add (l : List Nat) : List Nat := if l.contains asid then l else l ++ [asid]
  (s.asidCores asid).foldl (fun t id => t.modCore id fun c =>
    { c with genDue := add c.genDue, sweepDue := if g = 0 then add c.sweepDue else c.sweepDue }) t

/-- Cores still to acknowledge a raise. -/
def State.genOpen (s : State) (asid : Nat) : Bool := s.sites.any fun id => (s.coreAt id).genDue.contains asid

/-- TLBGEN (R257): g(D) takes the generation it has raised to. -/
def execTlbgen (d a : GReg) (s : State) : Result :=
  let i := Instr.tlbgen d a
  let asid := bits (s.g a) 11 0
  if s.privBad then s.trap 0x0C (zext i.first)
  else if bits (s.g a) 63 12 ≠ 0 then s.illegal i
  else if s.cx.asked then (if s.genOpen asid then s.wait .reply else s.doneG i d (word (s.cx.raised.getD 0)))
  else
    let t := s.raiseGen asid
    ({ t with cx := { t.cx with asked := true, raised := some (t.genOf asid) } }).wait .reply

/-- MIGR (R258): firmware moves the page and answers. The move stands in `moves` at step 0 with the base of the target stack. -/
def execMigr (d a b : GReg) (s : State) : Result :=
  let i := Instr.migr d a b
  match s.cx.reply with
  | some v => s.doneG i d v
  | none =>
    if s.cx.asked then s.wait .reply
    else if regionOf (s.g a) ≠ .main then s.trap 0x07 (s.g a)
    else if bits (s.g b) 3 0 ≥ s.vdCount ∨ bits (s.g b) 63 4 ≠ 0 then s.illegal i
    else
      let m : Move := ⟨bits s.cx.asid 11 0, (s.g a).toNat / 65536 * 65536, s.myVif.pdie (bits (s.g b) 3 0) * 2 ^ 40, 0, 0, s.id, s.core.k⟩
      ({ s with moves := s.moves ++ [m], cx := { s.cx with asked := true } }).wait .reply

/-! ## Remote starts (R259, R276) -/

/-- The enabled core of the caller's tray that a coordinate address with offset 0 names. -/
def State.startTarget (s : State) (ea : Word) : Option Nat :=
  if regionOf ea ≠ .coord ∨ coordOff ea ≠ 0 ∨ coordRow ea ≥ 80 then none else s.siteAt (coordVd ea) (coordRow ea) (coordCol ea)

/-- A start or XBOUND message enters the store buffer behind the context's earlier stores. -/
def State.sendStart (s : State) (i : Instr) (id : Nat) (words ord : Nat) (ea : Word) (body : Body) : Result :=
  if !s.gate 1 4 then s.wait .reply
  else
    s.send [(.core id, words)] fun t =>
      let u := t.passGate.payFor t.seq
      let en : Entry := ⟨u.seq, u.mine, .core id, .w, !u.cx.super, ord, 4, ea, body, false⟩
      ({ u with core := { u.core with sbuf := u.core.sbuf ++ [en] }, seq := u.seq + 1 }).done i

/-- XBSET (R259). -/
def execXbset (a b : GReg) (s : State) : Result :=
  let i := Instr.xbset a b
  let v := s.g b
  match s.startTarget (s.g a) with
  | none => s.trap 0x07 (s.g a)
  | some id =>
    if v.toNat < (s.coreAt id).sbound.toNat ∨ v.toNat > 0x8000 ∨ bits v 4 0 ≠ 0 then s.illegal i
    else s.sendStart i id 2 1 (s.g a) (.xbset id v (s.g a))

/-- CSTART (R259). -/
def execCstart (a b c : GReg) (s : State) : Result :=
  let i := Instr.cstart a b c
  match s.startTarget (s.g a) with
  | none => s.trap 0x07 (s.g a)
  | some id =>
    if bits (s.g b) 1 0 ≠ 0 then s.trap 0x05 (s.g b)
    else if bits (s.g b) 63 15 ≠ 0 then s.illegal i
    else s.sendStart i id 3 4 (s.g a) (.cstart id (pcOf (s.g b)) (s.g c) (s.g a))

/-- The control context is Stopped and every helper Free (R259). -/
def State.startable (s : State) (id : Nat) : Bool :=
  ((s.cxAt id 0).st == .stopped) && ((s.ctxsAt id).tail.all fun c => c.st == .free)

/-- No accepted matrix instruction and no copy command that has not ended (R259). -/
def State.enginesIdle (s : State) (id : Nat) : Bool :=
  (s.coreAt id).mq.isEmpty && !((s.coreAt id).cmds.any fun m => m.active || s.threadOpen id m.tag)

/-- The control context of a started core (R259), with the SSLIM that firmware holds for its slot. -/
def Context.started (old : Context) (lim : Word) (pc : Pc) (g3 : Word) (clk : Clock) (now : Nat) : Context :=
  { Context.reset 0 with
    st := .ready
    pc := pc
    g := (Vector.replicate 32 0).set 3 g3
    asid := old.asid
    gen := old.gen
    trapdeleg := old.trapdeleg
    sslim := lim
    ssp := word (bits lim 31 16)
    clk := clk
    acqOpen := true
    acqTime := now }

/-- Core-owned state returned to its reset values by a start (R259). -/
def Core.started (c : Core) : Core :=
  { c with
    lastReq := 0
    n4Paid := []
    q := Vector.replicate 4 []
    nIn := Vector.replicate 4 []
    nFly := []
    n4 := ⟨none, 0, [], []⟩
    n5 := []
    latch := 0
    vsetl := 0
    skew := 2
    m := Vector.replicate 4 MTile.clear
    o := Vector.replicate 8 OSlot.free
    signals := []
    vnred := none
    early := []
    benched := []
    credits := []
    gated := false }

/-- A domain that no live control context of its tray but that of core `id` names is left behind with the job that made it: the core starts with
PHASE at its reset value (R17, R52, R259). -/
def State.leaveDomains (s : State) (id : Nat) : State :=
  let used (d : Domain) : Bool := s.sites.any fun x =>
    x != id && (s.coreAt x).tray == some (d.vif, d.tray) && (s.cxAt x 0).st.live && (s.cxAt x 0).domain == d.name
  { s with domains := s.domains.filter fun d => (s.coreAt id).tray != some (d.vif, d.tray) || used d }

/-- A core started at a PC. -/
def State.startCore (s : State) (id : Nat) (pc : Pc) (g3 : Word) (clk : Clock) : State :=
  let t := ((s.keepClock id).leaveDomains id).dropLanes id
  let lim := (Table.find (t.coreAt id).limits 0).getD 0
  let u := t.modAll id fun k c => if k = 0 then c.started lim pc g3 clk t.cy else Context.reset k
  u.modCore id Core.started

/-- A message is dropped and PERM posted to its issuer (R259). -/
def State.refuseStart (s : State) (m : Msg) (ea : Word) : State := (s.dropMsg m.id).postSrc m.src 0x07 0 3 ea (some m.id) (match m.dest with | .core id => sramKey id 0 | _ => 0)

/-- XBSET_APPLY (R259). -/
def execXbsetApply (item : Nat) (s : State) : Result :=
  match s.msg item with
  | none => .next s
  | some m =>
    match m.body with
    | .xbset id v ea =>
      if !s.atHead m then .next s
      else if !s.startable id then .next (s.refuseStart m ea)
      else if !s.enginesIdle id then .next s
      else .next ((s.dropMsg item).modCore id fun c => { c with xbound := v })
    | _ => .next s

/-- START (R259, R276). -/
def execStart (item : Nat) (s : State) : Result :=
  match s.msg item with
  | none => .next s
  | some m =>
    match m.body with
    | .cstart id pc g3 ea =>
      if !s.atHead m then .next s
      else if !s.startable id then .next (s.refuseStart m ea)
      else if !s.enginesIdle id || !s.covered (pdieOf id) m.stamp.clock then .next s
      else .next ((s.dropMsg item).startCore id pc g3 m.stamp.clock)
    | _ => .next s

end Sys2Proof.Machine
end

