-- ==== Sys2Proof/Machine/Ordering.lean ====
section
/-!
DEFINITION. The steps of the ordering machine (spec/11_ordering.md R261–R276): DRAIN, FORWARD, HIT, READ with FILL, EVICT, APPLY,
REPLY and the broadcast of applied vectors (spec/19_fabric_dies.md R334, R335); results written after their latency (R101, R190);
errors that hardware posts and the scrubber (spec/20_reliability.md R345–R350).
-/
namespace Sys2Proof.Machine

/-! ## DRAIN (R263, R264) -/

/-- An entry of a store buffer. -/
def Core.entry (c : Core) (id : Nat) : Option Entry := c.sbuf.find? fun e => e.id == id

/-- Two bodies touch a common 8-byte word of this module, or of one window. -/
def Body.meets (a b : Body) : Bool :=
  match a, b with
  | .flit f, .flit g => (flitWords f).any (flitWords g).contains
  | .store key size _, _ => (wordsOf key size).any b.touches
  | .bits key _ _ _, _ => b.touches (key / 8)
  | .amo _ key _ _ _ _ _ _, _ => b.touches (key / 8)
  | .deps key, _ => b.touches (key / 8)
  | .push key _, _ => b.touches (key / 8)
  | _, _ => false

/-- Two entries have a destination home unit in common. -/
def State.sameHome (s : State) (a b : Entry) : Bool :=
  if a.dest.isPeer && b.dest.isPeer then (s.entryPeers a).any (s.entryPeers b).contains else a.dest == b.dest

/-- The clock K of a source (R261). -/
def State.clkOf (s : State) (src : Src) : Clock :=
  match src with
  | .ctx id k => (s.cxAt id k).clk
  | .engine id tag => match (s.coreAt id).cmds.find? (fun m => m.tag == tag) with | some m => m.clk | none => []
  | _ => []

/-- An order of a read that a CAU write waits for (R264). -/
def ordStrong (ord : Nat) : Bool := ord == 2 || ord == 3 || ord == 5 || ord == 6

/-- The reads of a source before order number `n` have had their REPLY (R264): with `all` those of FLD, whose replies nothing else awaits;
else its CAU, ACQ, AR and SC reads, those of AMOs among them. -/
def State.readsBefore (s : State) (src : Src) (n : Nat) (all : Bool) : Bool :=
  match src with
  | .ctx id k =>
    !((s.cxAt id k).tickets.any fun t => t.answer.isNone && !t.multi && decide (t.at_ < n) && (all || t.acq))
    && (all || (!((s.coreAt id).acks.any fun a => a.src == src && decide (a.id < n) && ordStrong a.ord)
                && !(s.flight.any fun m => m.cls == .a && m.parts.any fun p => p.src == src && decide (p.id < n) && ordStrong p.ord)))
  | _ => true

/-- Every earlier copy command of a context has been taken (R264). -/
def State.cmdsBefore (s : State) (src : Src) (n : Nat) : Bool :=
  match src with
  | .ctx id k => !((s.coreAt id).cmds.any fun m => m.ctx == k && m.st == .queued && !m.taken && decide (m.at_ < n))
  | _ => true

/-- The read part of an AMO may be sent (R264, R265): no store of its core to the word is on its way, and its source's earlier AMOs and reads of
it have had their replies. -/
def State.amoReadable (s : State) (id : Nat) (e : Entry) : Bool :=
  match e.body with
  | .amo _ key _ _ _ _ _ _ =>
    let w := key / 8
    !(s.flight.any fun m => m.body.touches w && ((m.core == id && m.body.plain) || m.from? e.src))
    && !((s.coreAt id).acks.any fun a => a.src == e.src && a.word == w)
    && (match e.src with | .ctx c k => !((s.cxAt c k).fldOpen w e.id) | _ => true)
  | _ => true

/-- What the order of its route asks of an entry: FST, FAMO and FMCAST leave in their order towards each destination (R142, R262), and a start or
XBSET behind the source's earlier stores to that core (R259). -/
def State.routeFree (s : State) (before : List Entry) (e : Entry) : Bool :=
  let queued := match e.body with | .cstart _ _ _ _ => true | .xbset _ _ _ => true | _ => e.cls == .p
  !queued || !(before.any fun x => x.src == e.src && x.cls == e.cls && s.sameHome x e)

/-- The decrements of one NDONE are AMOs of ORD AR: each waits for the acquire point of the one before (R267, R273). -/
def Body.isDeps : Body → Bool
  | .deps _ => true
  | _ => false
def State.depsTurn (s : State) (id : Nat) (e : Entry) : Bool :=
  match e.src with
  | .ctx c k => let u := s.focus id k; !u.acqAmoOpen (.ctx c k) (some e.id) && (!u.cx.acqOpen || u.covered (pdieOf id) u.cx.clk)
  | _ => true

/-- The conditions of R264 for an entry to leave its buffer; a store of ORD SC also waits until those before it have been applied, the elements
of one instruction among them (R192, R271). -/
def State.drainable (s : State) (id : Nat) (e : Entry) : Bool :=
  let before := (s.coreAt id).sbuf.takeWhile fun x => x.id != e.id
  let sc := s.flight.any fun m => m.parts.any fun p => p.src == e.src && p.ord == 6 && decide (p.id < e.id)
  !(before.any fun x => e.body.meets x.body && (!e.dest.isPeer || s.sameHome x e)) && s.routeFree before e && s.amoReadable id e
  && (e.ord != 6 || !sc) && (!e.body.isDeps || s.depsTurn id e)
  && (e.ord == 1 ||
      (!(before.any fun x => x.src == e.src) && s.readsBefore e.src e.id (e.ord != 2 && e.ord != 3)
        && (e.ord == 2 || e.ord == 3 || s.cmdsBefore e.src e.id)))

/-- Whether a drained message takes a write identity: every write but CSTART and XBSET (R263). -/
def Body.isWrite : Body → Bool
  | .cstart _ _ _ _ => false
  | .xbset _ _ _ => false
  | _ => true

/-- The L1 of a core with a store of its own, of order number `id`, written into a line that is present (R272). -/
def Core.l1Store (c : Core) (b : Body) (id : Nat) : Core :=
  if !b.isStore then c
  else
    { c with l1 := c.l1.map fun l =>
        ((List.range 8).filter fun j => b.touches (l.addr * 8 + j)).foldl (fun (l : Line) j =>
          let w := l.addr * 8 + j
          let v := b.onWord w (l.word w)
          { l with
            bytes := l.bytes.take (8 * j) ++ ((List.range 8).map fun n => BitVec.ofNat 8 (v / 256 ^ n)) ++ l.bytes.drop (8 * j + 8)
            own := l.own ++ [(j, id)]
            bad := if b.fills w then l.bad.filter (· != j) else l.bad }) l }

/-- The message an entry becomes, with its identity and stamp: a stamped write carries C of its die, which is at least K ∨ (d ↦ N); CSTART
carries K ∨ (d ↦ N) itself (R263, R334). -/
def State.messageOf (s : State) (id : Nat) (e : Entry) : Msg :=
  let d := pdieOf id
  let n := Clock.at s.dieN d
  let w := e.body.isWrite
  let n2 := if w then n + 1 else n
  let k := if w then (s.clkOf e.src).join (s.stampClock d) else s.clkOf e.src
  let stamp : Stamp := match e.body with
    | .xbset _ _ _ => []
    | _ => if e.ord = 1 then [] else [⟨k.join (Clock.single d n2), e.scope, id⟩]
  ⟨e.id, e.src, e.dest, e.cls, id, e.user, if w then [(d, n2)] else [], stamp, e.ord, e.va, e.body, e.chk, [], s.cy, firstStage d e.dest⟩

/-- The core and context numbers a torus operation is owed to. -/
def Src.owner : Src → Nat × Nat
  | .ctx id k => (id, k)
  | .engine id tag => (id, 16 + tag)
  | .node id => (id, 0)
  | .host _ => (0, 0)

/-- A sequence-numbered flit: FST, FAMO, FMCAST and XPUT data (R341). -/
def isSequenced : FlitOp → Bool
  | .store => true
  | .amo _ => true
  | .put _ => true
  | .mcast => true
  | _ => false

/-- The number of a source context among those of its module. -/
def sourceNo (f : Flit) : Nat := f.core * 256 + f.ctx

/-- Entry of a table of (module, source, number). -/
def seqOf (l : List (Nat × Nat × Nat)) (a b : Nat) : Nat := match l.find? fun p => p.1 == a && p.2.1 == b with | some p => p.2.2 | none => 0
def seqSet (l : List (Nat × Nat × Nat)) (a b n : Nat) : List (Nat × Nat × Nat) := (l.filter fun p => !(p.1 == a && p.2.1 == b)) ++ [(a, b, n)]

/-- The module of member `n` of the group that a multicast flit names. -/
def State.memberModule (s : State) (f : Flit) (n : Nat) : Nat :=
  let v := s.vif f.vif
  let p := ((Table.find v.groups f.dest).getD []).getD n 0
  match v.peers.find? fun x => x.1 == p with | some x => x.2.1 | none => 0

/-- The members a flit still owes. -/
def owedMembers (w : Word) : List Nat := (List.range 64).filter fun n => bit w n

/-- The next sequence number towards a module is taken. -/
def State.nextNumber (s : State) (m no : Nat) : State :=
  { s with torus := { s.torus with sentSeq := seqSet s.torus.sentSeq m no (seqOf s.torus.sentSeq m no + 1) } }

/-- The sequence numbers a flit takes as it enters the injection queue, one for each module it goes to (R341). -/
def State.numberFlit (s : State) (f : Flit) : State × Flit :=
  let no := sourceNo f
  if f.op = .mcast then
    let ms := ((owedMembers f.members).map (s.memberModule f)).eraseDups
    (ms.foldl (fun t m => t.nextNumber m no) s, { f with seqs := ms.map fun m => (m, seqOf s.torus.sentSeq m no) })
  else if f.cls = .p ∧ isSequenced f.op then (s.nextNumber f.dest no, { f with ticket := seqOf s.torus.sentSeq f.dest no })
  else (s, f)

/-- A flit enters the core's injection queue; each of its peers owes an acknowledgement, and a multicast has its root entry. FLTIME of a
multicast counts from its issue (R342). -/
def State.sendFlit (s : State) (core : Nat) (e : Entry) (f : Flit) (ident : List (Nat × Nat)) : State :=
  let o := e.src.owner
  let ps := s.entryPeers e
  let t0 := if f.op = .mcast then
      (match (s.cxAt o.1 o.2).tickets.find? fun t => t.multi && t.num == f.ticket with | some t => t.t0 | none => s.cy) else s.cy
  let root : McastEntry := ⟨Config.torusSelf, Config.torusSelf, core, f.ctx, f.ticket, f.members, f.members, 0⟩
  let r := s.numberFlit f
  { r.1 with torus := { r.1.torus with
      inject := r.1.torus.inject ++ [(core, r.2)]
      mcast := if f.op = .mcast then s.torus.mcast ++ [root] else s.torus.mcast
      owedAcks := s.torus.owedAcks ++ ps.map fun p => ⟨o.1, o.2, p, t0, ident, if f.op = .mcast then peerAddr p f.offset else e.va, e.id,
        r.2.ticket, if f.op = .mcast then some f.ticket else none⟩ } }

/-- DRAIN: an entry leaves its core's store buffer onto its route; a flit goes to the core's injection queue of 64 (R340). -/
def execDrain (core item : Nat) (s : State) : Result :=
  match (s.coreAt core).entry item with
  | none => .next s
  | some e =>
    let full := e.dest.isPeer && decide (64 ≤ (s.torus.inject.filter fun q => q.1 == core).length)
    if !s.drainable core e || full then .next s
    else
      let m := s.messageOf core e
      let s1 := s.modCore core fun c => { (c.l1Store e.body e.id) with sbuf := c.sbuf.filter fun x => x.id != item }
      let s2 := { s1 with dieN := if e.body.isWrite then putGrow 0 s1.dieN (pdieOf core) (Clock.at s1.dieN (pdieOf core) + 1) else s1.dieN }
      match e.body with
      | .flit f => .next (s2.sendFlit core e f m.ident)
      | _ => .next { s2 with flight := s2.flight ++ [m] }

/-! ## Reads of a waiting context (R265, R267, R272) -/

/-- Element numbers from which READ, FORWARD and REPLY name something other than an element of an await, whose elements are fewer: an answer
to an access that does not wait, and an FLD by its ticket. -/
def ackBase : Nat := 4096
def fldBase : Nat := 8192

/-- A finish that reads its elements at their homes. -/
def Finish.isRead : Finish → Bool
  | .ack => false
  | .ackFl _ _ => false
  | .call _ _ => false
  | .amo _ _ _ => false
  | _ => true

/-- A finish whose replies join stamps: reads and the read parts of AMOs (R267). -/
def Finish.joins : Finish → Bool
  | .ack => false
  | .ackFl _ _ => false
  | .call _ _ => false
  | _ => true

/-- A finish whose elements a READ may bring into the L1, and whether the L1 may serve its elements later than at issue: a vector load's
(R272). -/
def Finish.cached : Finish → Bool
  | .load _ _ _ => true
  | .pair _ => true
  | .vload _ _ _ => true
  | _ => false
def Finish.isVload : Finish → Bool
  | .vload _ _ _ => true
  | _ => false

/-- Element `n` of the await of a context. -/
def Context.element (c : Context) (n : Nat) : Option El := match c.await with | some a => a.els[n]? | none => none

/-- The context with an element replaced. -/
def Context.putElement (c : Context) (n : Nat) (e : El) : Context :=
  { c with await := c.await.map fun a => { a with els := a.els.set n e } }

/-- No earlier element of the same instruction to one of the words is unanswered (R265). -/
def Await.earlierDone (a : Await) (n : Nat) : Bool :=
  match a.els[n]? with
  | none => false
  | some e => (a.els.take n).all fun x =>
      (match x.st with | .done _ _ => true | _ => false) || !((wordsOf x.key x.size).any fun w => (wordsOf e.key e.size).contains w)

/-- The elements of a vector access are performed in increasing lane order (R192): a read is performed when it has its REPLY (R269). -/
def Await.inTurn (a : Await) (n : Nat) : Bool :=
  !a.fin.isVload || (a.els.take n).all fun x => match x.st with | .done _ _ => true | _ => false

/-- The end of the joins of an element that is done. -/
def State.joinEl (s : State) (ord : Nat) (ws ls : Stamp) (forwarded : Bool) : State := s.setCx (s.cx.joinRead s.id s.cy ord ws ls forwarded)

/-- FLAGS of a completed instruction whose acknowledgements have arrived (R170): FPEXC or the next instruction. -/
def State.finishFlLen (s : State) (f : Fl) (len : Nat) : State :=
  let n := s.cx.newFlags f
  let s1 := s.setCx (s.cx.addFlags f)
  if n &&& word (bits s.cx.arith 10 5) ≠ 0 then s1.trapEntry 0x15 0 false n else s1.retireLen len

/-- The instruction ends with the values of its elements. -/
def State.complete_ (s : State) (a : Await) (vals : List Nat) (bad : Bool) : State :=
  let v := vals.headD 0
  match a.fin with
  | .load d size signed => (s.setG d (ldValue size signed v)).retireLen a.len
  | .pair d => (s.setPair d v).retireLen a.len
  | .amo d size signed => (s.setG d (ldValue size signed v)).retireLen a.len
  | .ack => s.retireLen a.len
  | .ackFl n amax => (s.setCx { s.cx with amax := amax.getD s.cx.amax }).finishFlLen (Fl.ofBits n) a.len
  | .vload d size signed => (s.setCore (s.core.putLanes d (vals.map (vldLane size signed)))).retireLen a.len
  | .ret => s.finishRet (word v)
  | .call tgt sp => s.finishCall a.len tgt sp
  | .tdef t => s.finishTdef t a.first a.len v
  | .oload k w0 w1 row0 k0 planes _ => s.finishOload k (tensorOf w0 w1 0 0) row0 k0 planes vals bad a.len
  | .mxd d w0 w1 _ k0 vl _ =>
    let rs := mxdLanes s.cx.sat (tensorOf w0 w1 0 0) k0 vl vals
    (s.setCore (s.core.putLanes d (rs.map (·.1)))).finishFlLen (flagsOf rs) a.len

/-- The context waits for replies, or was halted while it did (R318). -/
def Run.isReply : Run → Bool
  | .waiting .reply => true
  | .halted => true
  | _ => false

/-- A context halted before stays so: its reply is written during the halt (R318). -/
def State.keepHalt (old new : State) : State :=
  if old.cx.st = .halted ∧ new.cx.st.live then new.setCx { new.cx with st := .halted } else new

/-- An instruction whose elements are all done, in a context that still waits for it, ends, not before the cycle it is due in. -/
def State.finishIfDone (s : State) : State :=
  match s.cx.await with
  | none => s
  | some a =>
    let vals := a.els.filterMap fun e => match e.st with | .done v b => some (v, b) | _ => none
    if vals.length = a.els.length ∧ s.cx.st.isReply ∧ a.due ≤ s.cy then s.keepHalt (s.complete_ a (vals.map (·.1)) (vals.any (·.2))) else s

/-- The unit that finds the error of a consumed word (R33): matrix loads, the home of an AMO, else the core. -/
def Finish.source : Finish → Nat
  | .oload _ _ _ _ _ _ _ => 1
  | .amo _ _ _ => 3
  | _ => 0

/-- An acquiring access of several elements makes them one after another, each once the acquire point before it is complete (R192, R267). -/
def State.elTurn (s : State) (a : Await) (n : Nat) : Bool :=
  !ordAcquires a.ord
  || (((a.els.take n).all fun x => match x.st with | .done _ _ => true | _ => false) && (!s.cx.acqOpen || s.covered (pdieOf s.id) s.cx.clk))

/-- An element becomes done with a value; poisoned data reads 0 with MEMERR, or under CHK is a precise trap (R347, R130). -/
def State.elementDone (s : State) (a : Await) (n : Nat) (e : El) (v : Nat) (bad : Bool) : State :=
  if bad && a.chk && s.cx.st.isReply then s.keepHalt ((s.foundErrors (wordsOf e.key e.size)).trapEntry 0x11 0 false e.va)
  else
    let t := if bad then s.postMem e.key e.size a.fin.source e.va (some s.cx.since) else s
    (t.setCx (t.cx.putElement n { e with st := .done (if bad then 0 else v) bad })).finishIfDone

/-- The core with only what stands in its buffers before order number `n`: what an FLD of that number may meet (R265). -/
def Core.upTo (c : Core) (n : Nat) : Core :=
  { c with sbuf := c.sbuf.filter fun e => decide (e.id < n), staging := c.staging.filter fun x => decide (x.e.id < n) }

/-- An FLD of this module that is not yet answered. -/
def State.fldOf (s : State) (num : Nat) : Option Ticket :=
  s.cx.tickets.find? fun t => t.num == num && t.answer.isNone && t.peer.isNone && !t.multi

/-- An FLD has its answer. -/
def Context.answerTicket (c : Context) (num : Nat) (v : Word) : Context :=
  { c with tickets := c.tickets.map fun x => if x.num = num then { x with answer := some v } else x }

/-- FORWARD: the newest store of the core serves the element, or an FLD (el ≥ `fldBase`), and joins nothing (R265). -/
def execForward (core ctx el : Nat) (s : State) : Result :=
  .next (s.within core ctx fun s =>
    if el ≥ fldBase then
      match s.fldOf (el - fldBase) with
      | some t =>
        let v := s.setCore (s.core.upTo t.at_)
        if v.core.ownsAll t.key 8 && v.forwardOk s.mine s.cx.saw (t.key / 8) && !(s.cx.fldOpen (t.key / 8) t.at_) then
          s.setCx ((v.sawOwn t.key 8).cx.answerTicket t.num (word (v.peekN t.key 8)))
        else s
      | none => s
    else
      match s.cx.await, s.cx.element el with
      | some a, some e =>
        if e.st == .asked && a.fin.isRead && s.forwards e.key e.size && a.earlierDone el && a.inTurn el && s.elTurn a el then
          ((s.joinEl a.ord [] [] true).sawOwn e.key e.size).elementDone a el e (s.peekN e.key e.size) false
        else s
      | _, _ => s)

/-- HIT of an element of a vector load: an L1 line filled after the context's last acquire point serves it (R272). -/
def execHit (core ctx el : Nat) (s : State) : Result :=
  .next (s.within core ctx fun s =>
    match s.cx.await, s.cx.element el with
    | some a, some e =>
      match s.hit? a.ord a.cache e.key e.size with
      | none => s
      | some (v, bad) =>
        if e.st == .asked && a.fin.isVload && a.earlierDone el && a.inTurn el then (s.sawHit e.key e.size).elementDone a el e v bad else s
    | _, _ => s)

/-- The L1 after a fill with the line of a key: its eight words as they stand at their homes, each with its place in the coherence order; a
STREAM fill enters as the next to be evicted (R130, R272, R293). -/
def State.fillLine (s : State) (key cache : Nat) : State :=
  let addr := key / 64
  let l : Line := ⟨addr, Memory.getBytes s.mem (addr * 64) 64, s.cy, (List.range 8).map fun j => 1 + s.orderOf (addr * 8 + j), [],
    (List.range 8).filter fun j => s.poison.contains (addr * 8 + j)⟩
  let rest := s.core.l1.filter fun x => x.addr != addr
  let sameSet := rest.filter fun x => x.addr % 32 == addr % 32
  let kept := match sameSet[3]? with | some old => rest.filter fun x => x.addr != old.addr | none => rest
  s.setCore { s.core with l1 := if cache = 2 then kept ++ [l] else l :: kept }

/-- A byte of a READ lies in a poisoned word and is not overwritten by what the core has staged (R347, R351). -/
def State.badHome (s : State) (key size : Nat) : Bool :=
  (List.range size).any fun j => s.poison.contains ((key + j) / 8) && !(s.core.staging.any fun x => x.e.body.covers (key + j))

/-- READ: the home serves the request of an element, or of an FLD (el ≥ `fldBase`), with its value and stamps (R265). With `fill` a
main-memory load also fills its L1 line, which finds the errors of the words not asked for (R347). -/
def execRead (core ctx el : Nat) (fill : Bool) (s : State) : Result :=
  .next (s.within core ctx fun s =>
    if el ≥ fldBase then
      match s.fldOf (el - fldBase) with
      | some t =>
        let v := s.setCore (s.core.upTo t.at_)
        if v.readable s.mine s.cx.saw (t.key / 8) && !(s.cx.fldOpen (t.key / 8) t.at_) then
          let bad := v.badHome t.key 8
          let p := s.stampOf (t.key / 8)
          let u := if t.acq then s else s.joinEl 1 p.1 p.2 false
          let w := { v with cx := u.cx }.sawHome t.key 8
          let x := s.setCx (w.cx.answerTicket t.num (if bad then 0 else word (v.homeN t.key 8)))
          if bad then x.postMem t.key 8 3 t.va (some t.at_) else x
        else s
      | none => s
    else
      match s.cx.await, s.cx.element el with
      | some a, some e =>
        if e.st == .asked && a.fin.isRead && s.readOk e.key e.size && a.earlierDone el && s.elTurn a el then
          let p := s.stampsOf e.key e.size
          let t := (s.sawHome e.key e.size)
          let u := t.setCx (t.cx.putElement el { e with st := .served (s.homeN e.key e.size) p.1 p.2 (s.badHome e.key e.size) })
          if fill && a.fin.cached && decide (e.key < 2 ^ 52) && (a.cache == 1 || a.cache == 2) then
            (u.fillLine e.key a.cache).foundErrors (((List.range 8).map fun j => e.key / 64 * 8 + j).filter fun w => !(wordsOf e.key e.size).contains w)
          else u
        else s
      | _, _ => s)

/-- EVICT: a line leaves an L1 (R272). -/
def execEvict (core line : Nat) (s : State) : Result := .next (s.modCore core fun c => { c with l1 := c.l1.filter fun l => l.addr != line })

/-- REPLY: the answer to an element reaches its context and joins stamps (R267); el ≥ `ackBase` names the answer to an AMO that does not
wait. -/
def execReply (core ctx el : Nat) (s : State) : Result :=
  .next (s.within core ctx fun s =>
    if el ≥ ackBase then
      match s.core.acks[el - ackBase]? with
      | some a =>
        let t := s.setCore { s.core with acks := dropAt s.core.acks (el - ackBase) }
        if a.src == t.mine then t.joinEl a.ord a.ws a.ls false else t
      | none => s
    else
      match s.cx.await, s.cx.element el with
      | some a, some e =>
        match e.st with
        | .served v ws ls bad =>
          if a.inTurn el then (if a.fin.joins then s.joinEl a.ord ws ls false else s).elementDone a el e v bad else s
        | _ => s.finishIfDone
      | _, _ => s)

/-! ## APPLY (R266, R335) -/

/-- A write of die `d` with a number of `f` is on its way to its home, a peer's among them. -/
def State.identOpen (s : State) (but d : Nat) (f : Nat → Bool) : Bool :=
  s.flight.any (fun x => x.id != but && x.ident.any fun p => p.1 == d && f p.2)
  || s.torus.owedAcks.any fun a => a.ident.any fun p => p.1 == d && f p.2

/-- Every write named by a stamp, the message's own identities left aside, has been applied, as die h knows it (R266, R334). -/
def State.coveredBut (s : State) (h : Nat) (m : Msg) : Bool :=
  let c := Stamp.clock m.stamp
  let v := s.dieV.getD h []
  (List.range c.length).all fun d =>
    if m.ident.any fun p => p.1 == d then !(s.identOpen m.id d fun n => decide (n ≤ c.at d)) else decide (c.at d ≤ v.at d)

/-- A message may go on to its home: it is on the home's die with no apply queue before it, or it is the head of the apply queue from its die, which
is not held, and its stamp is Covered (R266, R335). -/
def State.released (s : State) (m : Msg) : Bool :=
  match m.stage with
  | .home => true
  | .arrived =>
    (match s.spots.find? fun x => x.queue == m.applyQueue with | some x => x.item == m.id | none => true)
    && !s.holds.contains (pdieOf m.core, m.dest.pdie) && (m.stamp.isEmpty || s.coveredBut m.dest.pdie m)
  | _ => false

/-- The place of a message on its route: behind the queue it stands in or has stood in. -/
def State.hopOf (s : State) (item : Nat) : Nat := match s.spots.find? fun x => x.item == item with | some x => x.hop + 1 | none => 0

/-- A message enters the queue at a place of its route on the die it is on (R330), in the order of its route (R262); one that stands in an apply
queue leaves it as its head (R335). -/
def State.enterStep (item place : Nat) (s : State) : Result :=
  match s.msg item with
  | none => .next s
  | some m =>
    let moves := match m.stage with | .buffer => false | .arrived => s.released m | _ => decide (s.hopOf item ≤ place)
    let m1 := if m.stage = .arrived then { m with stage := .home } else m
    let behind := (s.flight.takeWhile fun x => x.id != item).any fun x =>
      x.dest == m.dest && x.cls == m.cls && m.meets x && !(x.stage != .own && m1.stage == .own) && (x.stage != m1.stage || decide (s.hopOf x.id ≤ place))
    match s.queueAt m1 place with
    | none => .next s
    | some q =>
      if !moves || behind then .next s
      else .next { s with
        flight := s.flight.map fun x => if x.id = item then m1 else x
        spots := (s.spots.filter fun x => x.item != item) ++ [⟨item, q, place, false⟩] }

/-- Why a store is dropped at its target core: XONLY or PERM (R23, R30, R132). -/
def State.dropCode (s : State) (m : Msg) (key size : Nat) : Option Nat :=
  match homeOf key with
  | .core id =>
    if id = m.core then none
    else
      let c := s.coreAt id
      let off := (key - 2 ^ 52) % 2 ^ 15
      if m.user && decide (off < c.sbound.toNat) then some 0x07
      else if m.user && decide (off < c.xbound.toNat) && ((s.ctxsAt id).any fun x => x.st.live) then some 0x04
      else if c.inShadow (s.cxAt id c.k) off size then some 0x07
      else none
  | _ => none

/-- A dropped store: posted to a context with SOURCE 3; a copy command fails and has written none of its bytes (R132, R247). -/
def State.noteDrop (s : State) (src : Src) (code : Nat) (va : Word) (size key : Nat) : State :=
  match src with
  | .engine id tag =>
    match (s.coreAt id).cmds.find? (fun m => m.tag == tag) with
    | some m =>
      if m.active then s.modCmd id tag fun x => { x.fail code 0 va with doneb := x.doneb - size }
      else s.postSrc (.ctx id m.ctx) code 0 2 va none key
    | none => s
  | src => s.postSrc src code 0 3 va none key

/-- The stamps of a word; two empty ones are not listed. -/
def State.setStamp (s : State) (w : Nat) (ws ls : Stamp) : State :=
  { s with stamps := if ws.isEmpty && ls.isEmpty then Table.del s.stamps w else Table.set s.stamps w (ws, ls) }

/-- The stamps that an AMO leaves on a word: RLX clears WS and leaves LS; any other ORD sets WS and adds to LS (R266). -/
def State.amoStamp (s : State) (w : Nat) (rlx : Bool) (st : Stamp) : State :=
  let old := s.stampOf w
  if rlx then s.setStamp w [] old.2 else s.setStamp w st (old.2 ++ st).eraseDups

/-- One more write stands in the coherence order of a word (R261, R268). -/
def State.bumpOrder (s : State) (w : Nat) : State := { s with order := Table.set s.order w (s.orderOf w + 1) }

/-- A line of the core whose own store `id` to word `w` becomes write n + 1 of the word's order: the copy stands there when the store fills
the word, or when the copy stood at n and no older store of the core in it is still on its way (R268, R272; notes/assumptions/80.md). -/
def Line.applied (l : Line) (w n id : Nat) (full : Bool) : Line :=
  let mine := l.ownTo w
  if l.addr = w / 8 ∧ mine.contains id then
    let pre := mine.takeWhile (· != id)
    { l with
      place := l.place.set (w % 8) (if full || (pre.isEmpty && l.place.getD (w % 8) 0 == n + 1) then n + 2 else 0)
      own := l.own.filter fun p => !(p.1 == w % 8 && (p.2 == id || pre.contains p.2)) }
  else l

/-- The write of a message takes its place in the order of a word: its issuers have made it, and contexts that have read it from the buffer have
observed it (R268). -/
def State.placeWrite (s : State) (m : Msg) (w : Nat) : State :=
  let n := s.orderOf w
  let t := s.bumpOrder w
  if 8 * w ≥ 2 ^ 52 then t
  else
    let u := m.parts.foldl (fun t p => match p.src with | .ctx id k => t.modCx id k fun c => c.noteSeen w (n + 1) | _ => t) t
    let v := u.modAll m.core fun _ c => if c.saw.contains m.id then c.noteSeen w (n + 1) else c
    v.modCore m.core fun c => { c with l1 := c.l1.map fun l => l.applied w n m.id (m.body.fills w) }

/-- The write of a message to a word: its stamps (R266) and its place in the order. -/
def State.stampWord (s : State) (m : Msg) (isAmo : Bool) (w : Nat) : State :=
  (if isAmo then s.amoStamp w (m.parts.all fun p => p.ord == 1) m.stamp else s.setStamp w m.stamp m.stamp).placeWrite m w

/-- A message that contexts of its core have read from the buffer is applied: nothing more is kept of that. -/
def State.forget (s : State) (m : Msg) : State :=
  s.modAll m.core fun _ c => if c.saw.contains m.id then { c with saw := c.saw.filter (· != m.id) } else c

/-- A store written at its home: poison of words it covers whole is cleared (R346). -/
def State.storeAt (s : State) (m : Msg) (key size val : Nat) : State :=
  let ws := wordsOf key size
  let t := { s with
    mem := Memory.putN s.mem key size val
    poison := s.poison.filter fun w => !(ws.contains w && m.body.fills w) }
  (ws.foldl (fun t w => t.stampWord m false w) t).forget m

/-- The answer to one issuer of an AMO or an acknowledged store: to the element that waits for it, or as a reply on its way (R267). -/
def State.answerTo (s : State) (m : Msg) (p : Part) (size key : Nat) (isAmo : Bool) (v : Nat) (ws ls : Stamp) (bad : Bool) : State :=
  match p.src with
  | .ctx id k =>
    if p.chk then
      s.modCx id k fun c =>
        match c.await with
        | none => c
        | some a =>
          match a.els.findIdx? fun e => e.key == key && e.size == size && e.st == .asked with
          | some n => match a.els[n]? with | some e => c.putElement n { e with st := .served v ws ls bad } | none => c
          | none => c
    else if isAmo && m.cls == .a then s.modCore id fun c => { c with acks := c.acks ++ [⟨p.src, p.id, key / 8, true, p.ord, ws, ls⟩] }
    else s
  | _ => s

/-- The answers to every issuer of a message. -/
def State.answerAll (s : State) (m : Msg) (size key : Nat) (isAmo : Bool) (v : Nat) (ws ls : Stamp) (bad : Bool) : State :=
  m.parts.foldl (fun t p => t.answerTo m p size key isAmo v ws ls bad) s

/-- An error of an AMO whose issuer does not wait for it, posted by the home (R33, R347). -/
def State.amoError (s : State) (m : Msg) (sub key : Nat) : State :=
  m.parts.foldl (fun t p => if p.chk then t else t.postSrc p.src 0x11 sub 3 p.va (some p.id) key) s

/-- An AMO applied (R135, R266): old value and stamps go back; a poisoned word is left as it is and answers 0, with MEMERR, which under CHK is
precise at the instruction (R130, R347). -/
def State.applyAmo (s : State) (m : Msg) (op : AmoOp) (key size x e : Nat) : State :=
  let w := key / 8
  let old := Memory.getN s.mem key size
  let st := s.stampOf w
  if s.poison.contains w then
    let t := (s.answerAll m size key true 0 st.1 st.2 true).amoError m (s.errSub key size) key
    if m.parts.any (·.chk) then t else t.foundErrors [w]
  else
    let t := { s with mem := Memory.putN s.mem key size (amoNew op size old x e) }
    ((t.stampWord m true w).forget m).answerAll m size key true old st.1 st.2 false

/-- A decrement of DEPS (R57, R58): a Waiting node whose DEPS reaches 0 is Queued at the tail. -/
def State.applyDeps (s : State) (m : Msg) (key : Nat) : State :=
  let w0 := s.nodeWord key 0
  let n := bits w0 43 20
  let t := { s with mem := Memory.putN s.mem key 8 (setBits w0 43 20 (n - 1)).toNat }
  let u := t.stampWord m true (key / 8)
  if n == 1 && u.nodeState key == 0 then (u.putNode key 1 (u.nodeRetry key)).enqueue (u.nodeWq key) key false else u

/-- Acknowledgements of a dropped store or AMO, so that nothing waits for it: an AMO's result is a free value (notes/assumptions/7.md). -/
def State.dropAnswer (s : State) (m : Msg) (key size : Nat) (isAmo : Bool) : State :=
  let f := s.freeWord
  ((if isAmo then f.2 else s).forget m).answerAll m size key isAmo (if isAmo then f.1.toNat else 0) [] [] false

/-- A write dropped at its target: reported to each issuer, and answered. -/
def State.dropWrite (s : State) (m : Msg) (key size code : Nat) (isAmo : Bool) : State :=
  (m.parts.foldl (fun t p => t.noteDrop p.src code p.va size key) s).dropAnswer m key size isAmo

/-- APPLY: the write at the head of its route takes effect at its home, sets its stamps and is acknowledged (R266). -/
def execApply (item : Nat) (s : State) : Result :=
  match s.msg item with
  | none => .next s
  | some m =>
    if !s.atHead m || !s.released m then .next s
    else
      let t := s.dropMsg item
      match m.body with
      | .store key size val =>
        match t.dropCode m key size with
        | some code => .next (t.dropWrite m key size code false)
        | none => .next ((t.storeAt m key size val).answerAll m size key false 0 [] [] false)
      | .bits key size val mask =>
        match t.dropCode m key size with
        | some code => .next (t.dropWrite m key size code false)
        | none => .next ((t.storeAt m key size (blend (Memory.getN t.mem key size) val mask)).answerAll m size key false 0 [] [] false)
      | .amo op key size x e _ _ _ =>
        match t.dropCode m key size with
        | some code => .next (t.dropWrite m key size code true)
        | none => .next (t.applyAmo m op key size x e)
      | .deps key => .next (t.applyDeps m key)
      | .push key wq => .next ((t.pushNode key wq).stampWord m false (key / 8))
      | _ => .next s

/-! ## Applied vectors (R334) -/

/-- V of a die for its own writes: every write up to it has been applied, at a peer acknowledged or its peer declared failed. -/
def State.appliedOf (s : State) (d : Nat) : Nat :=
  let open_ := s.flight.flatMap (·.ident) ++ s.torus.owedAcks.flatMap (·.ident)
  ((open_.filter fun p => p.1 == d).map fun p => p.2 - 1).foldl min (Clock.at s.dieN d)

/-- APPLIED_VECTOR_BROADCAST: every die learns a die's entry of V. -/
def execAppliedVectorBroadcast (die : Nat) (s : State) : Result :=
  let v := s.appliedOf die
  .next { s with dieV := (List.range 16).map fun h => putGrow 0 (s.dieV.getD h []) die v }

/-! ## Results after their latency (R101, R190) -/

/-- A result written into its register. -/
def State.writePending (s : State) (p : Pending) : State :=
  match p.dest with
  | .g r => s.setG r (p.vals.headD 0)
  | .v r => s.setCore (s.core.putLanes r (p.vals.map fun x => x.setWidth 32))
  | .tid t =>
    match Table.find s.cx.tid t with
    | some w => s.setCx { s.cx with tid := Table.set s.cx.tid t (setBits w.1 23 16 (p.vals.headD 0).toNat, w.2) }
    | none => s
  | .w r => s.setCore { s.core with w := s.core.w.set r.toFin ((p.vals ++ (s.core.w[r.toFin]).drop p.vals.length).take s.core.lanes) }

/-- RESULT_WRITEBACK: every result of a context that is due is written. -/
def execResultWriteback (core ctx : Nat) (s : State) : Result :=
  .next (s.within core ctx fun s =>
    let t := (s.cx.pend.filter fun p => decide (p.due ≤ s.cy)).foldl State.writePending s
    t.setCx { t.cx with pend := s.cx.pend.filter fun p => decide (s.cy < p.due) })

/-! ## Errors found by hardware (R345–R350) -/

/-- The causes that are posted, with the subcodes and the sources they are posted with (R33, R231, R348): of a copy command 2, of a home 3. -/
def postable (code sub source : Nat) : Bool :=
  match code with
  | 0x01 => source == 2 && sub == 0
  | 0x04 => (source == 2 || source == 3) && sub == 0
  | 0x06 => source == 2 && sub == 0
  | 0x07 => (source == 2 || source == 3) && sub == 0
  | 0x11 => decide (source ≤ 3) && decide (sub ≤ 2)
  | 0x12 => source == 1 && decide (1 ≤ sub) && decide (sub ≤ 6)
  | 0x13 => source == 3 && [2, 3, 4, 6, 8, 9, 10].contains sub
  | _ => false

/-- The AMO of a context to an address, FAMO, a FAMO committed by its node and the decrement of a DEPS among them, that stands at the head of its
route. -/
def State.amoAt (s : State) (id k : Nat) (va : Word) : Option (Msg × Nat × Nat) :=
  s.flight.findSome? fun m =>
    let here := m.parts.any (fun p => (p.src == .ctx id k || p.src == .node id) && p.va == va) && s.atHead m && s.released m
    match m.body with
    | .amo _ key size _ _ _ _ _ => if here then some (m, key, size) else none
    | .deps key => if here then some (m, key, 8) else none
    | _ => none

/-- The answer to one issuer of an AMO whose checker repeats at its home: 0, with MEMERR of SUB 3, which is precise where the issuer's access is
under CHK (R130, R345, R349). -/
def State.amoRepeat (s : State) (m : Msg) (key size : Nat) (p : Part) : State :=
  let st := s.stampOf (key / 8)
  let id := match p.src with | .ctx id _ => id | _ => m.core
  let k := match p.src with | .ctx _ k => k | _ => 0
  if p.chk && (match (s.cxAt id k).await with | some a => a.chk | none => false) then
    (s.answerTo m p size key true 0 st.1 st.2 true).logErr 4 1 0x11 3 (keyPlace key) (keyAddr key) (s.vifOf id) k 0
  else (s.answerTo m p size key true 0 st.1 st.2 false).postSrc p.src 0x11 3 3 p.va (some p.id) key

/-- The context in view with nothing left of the stores or the AMO its instruction waits for: none when one of them has been applied or merged, or
the instruction has made a request or an arrival, which is past undoing. -/
def State.undone (s : State) : Option State :=
  if s.cx.asked || s.cx.arrived then none
  else
    match s.cx.await with
    | none => some s
    | some a =>
      if a.fin.isRead then some s
      else
        let inBuf := s.core.sbuf.filter fun e => e.src == s.mine && e.chk
        let sent := s.flight.filter fun m => m.src == s.mine && m.chk && m.also.isEmpty
        if inBuf.length + sent.length = a.els.length then
          some ((sent.foldl (fun t m => t.dropMsg m.id) s).setCore { s.core with sbuf := s.core.sbuf.filter fun e => !(e.src == s.mine && e.chk) })
        else none

/-- PIPE at the instruction that the context in view executes: it has no effect (R345). -/
def State.pipe (s : State) : State :=
  let parcel := word (Memory.getN s.mem (sramKey s.id s.cx.pc.toNat) 4)
  let runs := match s.cx.st with | .ready => true | .waiting _ => true | .benched => true | _ => false
  match s.undone with
  | some t => if runs then t.trapEntry 0x0D 0 false parcel else s
  | none => s

/-- ERROR_POST: an error that hardware finds is posted to a context and logged (R25, R33), for what has the order number given (R352). A checker's
second mismatch (R345) acts where it occurs: PIPE, precise, at a core's instruction; the core stopped as CoreFault when a copy-engine thread
meets it; an AMO that leaves its location and answers 0. A code that is never posted, or not with that subcode, is no step. -/
def execErrorPost (core ctx code sub source : Nat) (met : ErrorMet) (s : State) : Result :=
  if code = 0x0D then
    .next (s.within core ctx fun s =>
      if source = 2 then (if s.core.cmds.any fun m => m.st == .running then s.coreFault 0x0D met.tval else s) else s.pipe)
  else if code = 0x11 ∧ sub = 3 then
    match s.amoAt core ctx met.tval with
    | none => .next s
    | some (m, key, size) => .next (m.parts.foldl (fun t p => t.amoRepeat m key size p) ((s.dropMsg m.id).forget m))
  else if postable code sub source then .next (s.post core ctx code sub source met.tval (some met.at_))
  else .next s

/-- A latent error poisons words: it has been found (R347). -/
def State.poisonWords (s : State) (ws : List Nat) : State :=
  { s with poison := s.poison ++ ws.filter fun w => !s.poison.contains w }.foundErrors ws

/-- A word comes to hold an error that nothing has found yet (R347). -/
def State.upsetWord (s : State) (w : Nat) : State :=
  if s.poison.contains w then s else { s with poison := s.poison ++ [w], unseen := if s.unseen.contains w then s.unseen else s.unseen ++ [w] }

/-- The core with an operand slot or m tile poisoned (R346). -/
def Core.poisonSlot (c : Core) (k : Nat) : Core :=
  { c with o := c.o.setIfInBounds k { c.o.getD k OSlot.free with poison := true, poisonSub := 6 } }
def Core.poisonTile (c : Core) (k : Nat) : Core := { c with m := c.m.setIfInBounds k { c.m.getD k MTile.clear with poison := true } }

/-- The row of R346 that a word of SRAM belongs to: below XBOUND the instruction store, 2 (R23, R86), else SRAM, 0. -/
def State.sramUnit (s : State) (key : Nat) : Nat :=
  match homeOf key with | .core id => if (key - 2 ^ 52) % 2 ^ 15 < (s.coreAt id).xbound.toNat then 2 else 0 | _ => 0

/-- SCRUB: a stored word is read and corrected, or its storage poisoned (R346). The address is a key, of accumulator tiles the tile, else the core.
An error of m-tile storage that no accepted instruction of the tile meets is posted to context 0 (DESIGN CHOICE: R216 names no context for it;
notes/assumptions/86.md). An error of a register, queue or port is found by the instruction that reads the entry: PIPE. One of the staging
buffer is recorded against the node (R352). An L1 line or a TLB entry is invalidated, and nothing is reported. -/
def execScrub (where_ : Storage) (addr : Nat) (bad : Bool) (s : State) : Result :=
  match where_ with
  | .sram =>
    let t := s.logErr (b2n bad) (s.sramUnit addr) 0 0 (keyPlace addr) (keyAddr addr) 0 0 0
    .next (if bad then t.poisonWords [addr / 8] else t)
  | .dramLine =>
    let t := s.logErr (b2n bad) 1 0 0 (keyPlace addr) (keyAddr addr) 0 0 0
    .next (if bad then t.poisonWords ((List.range 8).map fun j => addr / 64 * 8 + j) else t)
  | .operandMem k =>
    let t := s.logErr (b2n bad) 4 0 0 (sitePlace addr) 0 0 0 0
    .next (if bad then t.modCore addr fun c => c.poisonSlot k else t)
  | .mTile k =>
    let t := s.logErr (b2n bad) 5 0 0 (sitePlace addr) 0 0 0 0
    if bad then
      let user := ((s.coreAt addr).mq.find? fun q => q.m == k).map fun q => (q.ctx, q.at_)
      .next ((t.modCore addr fun c => c.poisonTile k).post addr (user.map (·.1) |>.getD 0) 0x12 6 1 (materrTval none (some k)) (some (user.map (·.2) |>.getD 0)))
    else .next t
  | .accTile =>
    let t := s.logErr (b2n bad) 6 0 0 (keyPlace (sliceKey (addr / 256) 0)) 0 0 0 0
    .next (if bad then (match Table.find t.tiles addr with | some x => { t with tiles := Table.set t.tiles addr { x with poison := true } } | none => t) else t)
  | .cell ctx c =>
    let reads := match (s.focus addr ctx).nextInstr with | some i => readsCell i c | none => false
    if !bad then .next (s.logErr 0 3 0 0 (sitePlace addr) 0 (s.vifOf addr) ctx 0)
    else if reads then .next ((s.logErr 2 3 0 0 (sitePlace addr) 0 (s.vifOf addr) ctx 0).within addr ctx State.pipe)
    else .next s
  | .staging n =>
    match (s.coreAt addr).staging[n]? with
    | none => .next s
    | some x =>
      if bad then .next (s.postWith addr x.ctx 0x11 0 0 x.e.va (some x.e.id) 7 (sitePlace addr) 0)
      else .next (s.logErr 0 7 0 0 (sitePlace addr) 0 (s.vifOf addr) x.ctx 0)
  | .l1 line => .next (if bad then s.modCore addr fun c => { c with l1 := c.l1.filter fun l => l.addr != line } else s)
  | .tlb n => .next (if bad then s.modCore addr fun c => { c with tlb := dropAt c.tlb n } else s)

end Sys2Proof.Machine
end

