-- ==== Sys2Proof/Machine/Translation.lean ====
section
/-!
DEFINITION. Page walks, generations, page moves and shipped contexts (spec/17_memory_translation.md R294–R307).
-/
namespace Sys2Proof.Machine

/-! ## Walks (R295–R298) -/

/-- The root table of an ASID. -/
def State.rootOf (s : State) (asid : Nat) : Nat := match s.asids.find? (fun a => a.1 == asid) with | some a => a.2.1 | none => 0

/-- The entry of a page table as its home holds it; a poisoned one reads 0 (R347). -/
def State.pte (s : State) (pa : Nat) : Word := if s.poison.contains (pa / 8) then 0 else word (Memory.getN s.mem pa 8)

/-- Level ℓ of a walk: the index field of the address and the alignment of a table below and of a leaf. -/
def walkIndex (va level : Nat) : Nat :=
  match level with
  | 1 => va / 2 ^ 39 % 8192
  | 2 => va / 2 ^ 30 % 512
  | 3 => va / 2 ^ 21 % 512
  | _ => va / 2 ^ 16 % 32
/-- log2 of the page that a leaf of a level maps. -/
def leafSize (level : Nat) : Nat := match level with | 2 => 30 | 3 => 21 | _ => 16
/-- The size of the table below a level. -/
def tableBelow (level : Nat) : Nat := match level with | 1 => 4096 | 2 => 4096 | _ => 65536

/-- PA bits [43:16] of an entry, as an address. -/
def pteAddr (e : Word) : Nat := bits e 43 16 * 65536

/-- How a walk ends: at a valid leaf (its address, its level, its value), or in PAGE. -/
inductive WalkEnd where
  | leaf (pa level : Nat) (e : Word)
  | page
  deriving DecidableEq, Repr, Inhabited

/-- The walk from a table at a level (R295–R297), with `n` levels still to read. -/
def State.walkFrom (s : State) (va : Nat) : Nat → Nat → Nat → WalkEnd
  | 0, _, _ => .page
  | n + 1, level, table =>
    let pa := table + 8 * walkIndex va level
    let e := s.pte pa
    if !(bit e 0) then .page
    else if bits e 15 8 ≠ 0 ∨ bits e 63 44 ≠ 0 then .page
    else if bit e 1 then
      if level = 1 ∨ pteAddr e % 2 ^ leafSize level ≠ 0 then .page else .leaf pa level e
    else if level = 4 ∨ (level ≠ 3 ∧ pteAddr e % tableBelow level ≠ 0) then .page
    else s.walkFrom va n (level + 1) (pteAddr e)

/-- The walk of an address of an address space. -/
def State.walkOf (s : State) (asid va : Nat) : WalkEnd := s.walkFrom va 4 1 (s.rootOf asid)

/-- Whether a leaf permits a kind of access: 0 load, 1 store, 2 AMO (R297). -/
def leafPermits (e : Word) (kind : Nat) : Bool := match kind with | 0 => bit e 2 | 1 => bit e 3 | _ => bit e 2 && bit e 3

/-- A and, for a store or AMO, D set in an entry by an RLX AMO.OR at its home (R297). -/
def State.markLeaf (s : State) (pa kind : Nat) : State :=
  let old := Memory.getN s.mem pa 8
  let t := { s with mem := Memory.putN s.mem pa 8 (old ||| (if kind = 0 then 0x10 else 0x30)) }
  (t.amoStamp (pa / 8) true []).bumpOrder (pa / 8)

/-- The TLB entry of a leaf. -/
def tlbOf (w : Walk) (level : Nat) (e : Word) : Tlb :=
  let n := leafSize level
  ⟨w.asid, w.gen, n, w.va.toNat / 2 ^ n, pteAddr e / 2 ^ n, bit e 2, bit e 3, bit e 5 || w.kind != 0⟩

/-- Two entries translate the same page. -/
def Tlb.same (a b : Tlb) : Bool := a.asid == b.asid && a.size == b.size && a.vpn == b.vpn && a.gen == b.gen

/-- An entry installed in both levels (R298): 384 entries, and 8 in each of 512 sets. Which entry gives way when they are full the spec does not
say: the model drops the one installed longest ago (DESIGN CHOICE, notes/assumptions/81.md). -/
def State.installTlb (s : State) (id : Nat) (t : Tlb) : State :=
  let s1 := s.modCore id fun c => { c with tlb := (t :: c.tlb.filter fun x => !x.same t).take 384 }
  let l := ((Table.find s1.tlb2 (octetOf id)).getD []).filter fun x => !x.same t
  let set := l.filter fun x => x.vpn % 512 == t.vpn % 512
  let kept := match set[7]? with | some old => l.filter fun x => x != old | none => l
  { s1 with tlb2 := Table.set s1.tlb2 (octetOf id) (t :: kept) }

/-- The walk a context (ctx < 16) or an engine thread (16 + tag) waits for. -/
def State.walkAt (s : State) (core ctx : Nat) : Option Walk :=
  if ctx < 16 then (s.cxAt core ctx).walk else ((s.coreAt core).cmds.find? fun m => m.tag == ctx - 16).bind fun m => m.walk

/-- Its result: none when it succeeded, else the cause code. -/
def State.walkDone (s : State) (core ctx : Nat) (fault : Option Nat) : State :=
  let f (w : Option Walk) : Option Walk := match fault with | none => none | some c => w.map fun x => { x with fault := some c }
  if ctx < 16 then s.modCx core ctx fun c => { c with walk := f c.walk } else s.modCmd core (ctx - 16) fun m => { m with walk := f m.walk }

/-- The walks pending in an octet: contexts and commands whose translation is not there yet (R298). -/
def State.octetWalks (s : State) (oct : Nat) : List Walk :=
  (s.sites.filter fun id => octetOf id == oct).flatMap fun id =>
    ((s.ctxsAt id).filterMap (·.walk) ++ (s.coreAt id).cmds.filterMap fun m => if m.active then m.walk else none).filter fun w => w.fault.isNone

/-- The walk is one of the four its octet's walkers have taken: further misses queue in arrival order (R298). -/
def State.walking (s : State) (core : Nat) (w : Walk) : Bool :=
  decide (((s.octetWalks (octetOf core)).filter fun x => decide (x.at_ < w.at_)).length < 4)

/-- A walk that has met a page in movement is asked for again (R297). -/
def State.walkAgain (s : State) (core ctx : Nat) : State :=
  let f (w : Option Walk) : Option Walk := w.map fun x => { x with at_ := s.seq }
  { (if ctx < 16 then s.modCx core ctx fun c => { c with walk := f c.walk } else s.modCmd core (ctx - 16) fun m => { m with walk := f m.walk })
    with seq := s.seq + 1 }

/-- PAGE_WALK: a walker translates a missed address and sets A and D; an access to a leaf with MOVE waits and raises nothing (R297). -/
def execPageWalk (core ctx : Nat) (s : State) : Result :=
  match s.walkAt core ctx with
  | none => .next s
  | some w =>
    if w.fault.isSome || !s.walking core w then .next s
    else
      match s.walkOf w.asid w.va.toNat with
      | .page => .next (s.walkDone core ctx (some 0x06))
      | .leaf pa level e =>
        if bit e 6 then .next (s.walkAgain core ctx)
        else if bit e 7 then .next (s.walkDone core ctx (some 0x06))
        else if !leafPermits e w.kind then .next (s.walkDone core ctx (some 0x07))
        else .next (((s.markLeaf pa w.kind).installTlb core (tlbOf w level e)).walkDone core ctx none)

/-- The physical address a main-memory page has, whatever its permissions. -/
def State.pageOf (s : State) (asid : Nat) (va : Nat) : Option Nat :=
  match s.walkOf asid va with
  | .leaf _ level e => some (pteAddr e + va % 2 ^ leafSize level)
  | .page => none

/-! ## Generations (R300–R302) -/

/-- The keys of main memory that a message carries: of a write, and of an ARD the places of its stores. -/
def Body.mainKeys (b : Body) : List Nat :=
  (match b with
    | .store k _ _ => [k]
    | .bits k _ _ _ => [k]
    | .amo _ k _ _ _ _ _ _ => [k]
    | .tile _ (.ard _ _ _ _ _ _ ks _ _) => ks.map fun (k : Word × Nat × Nat) => k.2.2
    | _ => []).filter fun k => decide (k < 2 ^ 52)

/-- A source is core `id` or an engine thread of it, alone or merged with others. -/
def Msg.ofCore (m : Msg) (id : Nat) : Bool := m.parts.any fun p => p.src.ofCore id

/-- Accesses of a core, or of its copy engine, to main memory that were translated and are neither performed nor stalled (R300). Staged stores
are translated again at NDONE, and WAITA's reads when they are made. -/
def State.oldAccess (s : State) (core : Nat) : Bool :=
  let isMain (key : Nat) : Bool := decide (key < 2 ^ 52)
  (s.coreAt core).sbuf.any (fun e => !e.body.mainKeys.isEmpty) || s.flight.any (fun m => m.ofCore core && !m.body.mainKeys.isEmpty)
  || (s.coreAt core).cmds.any (fun m => m.awaits.any fun a => a.2.any fun p => isMain p.1)
  || (s.ctxsAt core).any fun c =>
      (match c.await with | some a => a.els.any fun e => isMain e.key && (match e.st with | .done _ _ => false | _ => true) | none => false)
      || c.tickets.any fun t => t.answer.isNone && t.peer.isNone && !t.multi && isMain t.key

/-- The new generation in a context of the ASID: a watched word is read again under it (R300, R304). -/
def Context.newGen (c : Context) (asid g : Nat) : Context :=
  if bits c.asid 11 0 = asid then
    { c with gen := word g, watch := c.watch.map fun w => if w.key < 2 ^ 52 then { w with hit := false } else w }
  else c

/-- The new generation in a core: in its commands, whose later steps are translated under it (R239, R301), and in what it has staged, which
is translated again. -/
def State.newGenCore (s : State) (asid g core : Nat) : State :=
  let restage (x : Staged) : Staged :=
    if x.e.body.mainKeys.isEmpty ∨ bits (s.cxAt core x.ctx).asid 11 0 ≠ asid then x
    else match s.pageOf asid x.e.va.toNat with
      | some pa => { x with e := { x.e with body := x.e.body.atKey pa, dest := homeOf pa } }
      | none => x
  s.modCore core fun c =>
    { c with cmds := c.cmds.map fun m => if m.asid = asid ∧ m.active then { m with gen := g } else m, staging := c.staging.map restage }

/-- TLBGEN_ACK: a core acknowledges a raise: its contexts and commands of the ASID hold the new GEN, and after a wrap to 0 its entries of the
ASID, and those of its octet, have been swept (R300, R302). -/
def execTlbgenAck (asid core : Nat) (s : State) : Result :=
  if !((s.coreAt core).genDue.contains asid) || (s.oldAccess core && !(s.coreAt core).gated) then .next s
  else
    let g := s.genOf asid
    let sweep := (s.coreAt core).sweepDue.contains asid
    let t := (s.modAll core fun _ c => c.newGen asid g).newGenCore asid g core
    let u := t.modCore core fun c =>
      { c with
        genDue := c.genDue.filter (· != asid)
        sweepDue := c.sweepDue.filter (· != asid)
        tlb := if sweep then c.tlb.filter fun x => x.asid != asid else c.tlb }
    .next (if sweep then { u with tlb2 := Table.set u.tlb2 (octetOf core) (((Table.find u.tlb2 (octetOf core)).getD []).filter fun x => x.asid != asid) } else u)

/-! ## Page moves (R303, R304) -/

/-- Firmware's answer to the MIGR that asked for a move, when a MIGR did. -/
def State.answerMove (s : State) (m : Move) (v : Nat) : State :=
  if m.core < 102400 then s.modCx m.core m.ctx fun c => if c.asked then { c with reply := some (word v) } else c else s

/-- A table by words, with the entries of one frame moved to the words of another. -/
def moveWords {α : Type} (old new : Nat) (l : List (Nat × α)) : List (Nat × α) :=
  let clear := l.filter fun p => !(decide (new / 8 ≤ p.1) && decide (p.1 < new / 8 + 8192))
  l.foldl (fun t p => if old / 8 ≤ p.1 ∧ p.1 < old / 8 + 8192 then Table.set t (p.1 - old / 8 + new / 8) p.2 else t) clear

/-- Words of a page at one frame copied to another, with their stamps, their coherence order and poison (R303, R304). -/
def State.copyPage (s : State) (old new : Nat) : State :=
  let bytes := Memory.getBytes s.mem old 65536
  let at_ (w : Nat) : Option Nat := if old / 8 ≤ w ∧ w < old / 8 + 8192 then some (w - old / 8 + new / 8) else none
  { s with
    mem := Memory.putBytes s.mem new bytes
    stamps := moveWords old new s.stamps
    order := moveWords old new s.order
    poison := (s.poison.filter fun w => !(decide (new / 8 ≤ w) && decide (w < new / 8 + 8192))) ++ s.poison.filterMap at_ }

/-- Every L1 line of the two frames invalidated, every WAITA on the page reads again at the new home, and what contexts have observed of its words
goes with it (R303, R304). -/
def State.leaveFrame (s : State) (old new : Nat) : State :=
  let inside (a b : Nat) : Bool := decide (a / 64 ≤ b) && decide (b < a / 64 + 1024)
  s.sites.foldl (fun t id =>
    let u := t.modCore id fun c => { c with l1 := c.l1.filter fun l => !(inside old l.addr || inside new l.addr) }
    u.modAll id fun _ c =>
      { c with
        seen := moveWords old new c.seen
        watch := c.watch.map fun w => if old ≤ w.key ∧ w.key < old + 65536 then { w with key := w.key - old + new, hit := false } else w }) s

/-- Writes towards a frame are still on their way (R303 step 2). -/
def State.frameBusy (s : State) (old : Nat) : Bool :=
  let inside (b : Body) : Bool := b.mainKeys.any fun key => decide (old ≤ key) && decide (key < old + 65536)
  (s.flight.any fun m => inside m.body) || s.sites.any fun id => (s.coreAt id).sbuf.any fun e => inside e.body

/-- A frame that a move may take: on the stack asked for, 64 KiB aligned, inside the stack (R290, R303). -/
def frameOk (m : Move) (newPa : Nat) : Bool := newPa % 65536 == 0 && newPa / 2 ^ 40 == m.newPa / 2 ^ 40 && decide (newPa % 2 ^ 40 < 0x1800000000) && newPa != 0

/-- A frame that a page may take: 64 KiB aligned and inside a stack (R290). -/
def frameFree (newPa : Nat) : Bool := newPa % 65536 == 0 && decide (newPa / 2 ^ 40 < 16) && decide (newPa % 2 ^ 40 < 0x1800000000) && newPa != 0

/-- The address of the level-4 entry of a page, where the tables above it stand (R295). -/
def State.slotOf (s : State) (asid va : Nat) : Option Nat :=
  let ok (e : Word) : Bool := bit e 0 && !(bit e 1) && bits e 15 8 == 0 && bits e 63 44 == 0
  let e1 := s.pte (s.rootOf asid + 8 * walkIndex va 1)
  let e2 := s.pte (pteAddr e1 + 8 * walkIndex va 2)
  let e3 := s.pte (pteAddr e2 + 8 * walkIndex va 3)
  if ok e1 && ok e2 && ok e3 then some (pteAddr e3 + 8 * walkIndex va 4) else none

/-- A failed walk of a page is forgotten: its access is translated again (R305). -/
def Walk.retry (w : Option Walk) (asid page : Nat) : Option Walk :=
  w.filter fun x => !(x.fault.isSome && x.asid == asid && x.va.toNat / 65536 * 65536 == page)

/-- Firmware's RLX write of a table entry at its home (R266, R346). -/
def State.putEntry (s : State) (pa : Nat) (v : Word) : State :=
  (({ s with mem := Memory.putN s.mem pa 8 v.toNat, poison := s.poison.filter (· != pa / 8) }).setStamp (pa / 8) [] []).bumpOrder (pa / 8)

/-- The failed walks of a page are forgotten in every context and command: their accesses are translated again (R305). -/
def State.retryWalks (s : State) (asid page : Nat) : State :=
  s.sites.foldl (fun u id =>
    (u.modAll id fun _ c => { c with walk := Walk.retry c.walk asid page }).modCore id fun c =>
      { c with cmds := c.cmds.map fun m => { m with walk := Walk.retry m.walk asid page } }) s

/-- The interface that holds an address space. -/
def State.vifOfAsid (s : State) (asid : Nat) : Option Nat := (s.vifs.find? fun p => p.2.asids.contains asid).map (·.1)

/-- A frame on a stack in the address map, in no GiB of it that is granted to an interface other than the one holding the address space
(R356, R363). -/
def State.frameGranted (s : State) (asid newPa : Nat) : Bool :=
  let d := newPa / 2 ^ 40
  !s.excluded d && !(s.vifs.any fun p => some p.1 != s.vifOfAsid asid && p.2.regions.any fun x => x.1 == d && x.2.contains (newPa % 2 ^ 40 / 2 ^ 30))

/-- Firmware completes a mapping, and the accesses that met its PAGE are replayed (R305): a page without a valid level-4 entry takes a frame,
readable and writable (notes/assumptions/82.md). -/
def State.completeMap (s : State) (asid page newPa : Nat) : State :=
  match s.walkOf asid page, s.slotOf asid page with
  | .page, some pa =>
    if bit (s.pte pa) 0 ∨ !frameFree newPa ∨ !s.frameGranted asid newPa then s
    else (s.putEntry pa (word (0xF + newPa))).retryWalks asid page
  | _, _ => s

/-- The first step of a move: refused (1) or busy (2), else MOVE is set and the generation raised. `newPa` = 0 is firmware's refusal. -/
def State.startMove (s : State) (m : Move) (newPa : Nat) : State :=
  let rest := { s with moves := s.moves.filter fun x => x != m }
  match s.walkOf m.asid m.va with
  | .page => rest.answerMove m 1
  | .leaf pa level e =>
    if level ≠ 4 then rest.answerMove m 1
    else if bit e 6 then rest.answerMove m 2
    else if newPa = 0 then rest.answerMove m 1
    else if !frameOk m newPa || !s.frameGranted m.asid newPa then s
    else
      let t := { rest with moves := rest.moves ++ [{ m with newPa := newPa, leaf := pa, step := 1 }] }
      (t.putEntry pa (setBit e 6 true)).raiseGen m.asid

/-- The last steps of a move: the copy, the L1 lines, the new leaf and the second raise; accesses that met the page's HINT are replayed (R305). -/
def State.endMove (s : State) (m : Move) : State :=
  let e := s.pte m.leaf
  let old := pteAddr e
  if s.genOpen m.asid || s.frameBusy old then s
  else
    let t := (s.copyPage old m.newPa).leaveFrame old m.newPa
    let e2 := setBits (setBit (setBit e 6 false) 7 false) 43 16 (m.newPa / 65536)
    let u := { t with moves := t.moves.filter fun x => x != m }
    (((u.putEntry m.leaf e2).raiseGen m.asid).retryWalks m.asid m.va).answerMove m 0

/-- PAGE_MOVE: firmware moves a page on a MIGR's behalf or its own (R303); a request for a page in movement is answered 2 first. Of a page that has
no mapping, and that no MIGR names, it completes the mapping (R305). -/
def execPageMove (asid va newPa : Nat) (s : State) : Result :=
  let page := va / 65536 * 65536
  let asked (step : Nat) : Option Move := s.moves.find? fun m => m.asid == asid && m.va == page && m.step == step
  match asked 0 with
  | some m => .next (s.startMove m newPa)
  | none =>
    match asked 1 with
    | some m => .next (s.endMove m)
    | none =>
      match s.walkOf asid page with
      | .page => .next (s.completeMap asid page newPa)
      | .leaf _ _ _ => .next (s.startMove ⟨asid, page, newPa / 2 ^ 40 * 2 ^ 40, 0, 0, 102400, 0⟩ newPa)

/-! ## Shipping (R305–R307) -/

/-- No copy command of the core in view that has not ended: its payload and its completion word have been applied (R259). -/
def State.enginesEnded (s : State) : Bool := !(s.core.cmds.any fun m => m.active || s.threadOpen s.id m.tag)

/-- A control context with nothing that binds it to its site (R305); `s` is seen from it. -/
def State.shippable (s : State) : Bool :=
  s.core.k == 0 && ((s.core.ctxs s.cx).tail.all fun c => c.st == .free) && s.core.holder != some 0
  && !(s.core.o.toList.any fun o => o.holder == some 0) && s.enginesEnded && s.core.xbound == 0x8000 && !s.cx.sse
  && s.cx.tid.isEmpty && !(s.cx.ta.toList.any fun b => bit b 8) && bits s.cx.domain 2 0 == 0 && !(s.cx.breg.toList.any fun b => bit b 0)
  && !s.cx.inPhlx && s.core.node.isNone && s.cx.tickets.isEmpty && !(bit s.cx.errpend 0) && !s.cx.inTrap && s.myVif.ship

/-- A core of the tray that may take the context: beside the stack, stopped, with XBOUND 0x8000 (R305). -/
def State.canLand (s : State) (id pa : Nat) : Bool :=
  id != s.id && pdieOf id == pa / 2 ^ 40 && s.startable id && (s.coreAt id).xbound == 0x8000

/-- The landing core firmware chooses: fewest hops, then the lower logical index (R305). -/
def State.bestLanding (s : State) (pa : Nat) : Option Nat :=
  let l := ((s.logical s.myVif s.myTray).map fun p => siteId (s.myVif.pdie p.1) p.2.1 p.2.2).filter fun id => s.canLand id pa
  match l.map fun id => bankHops id pa with
  | [] => none
  | h :: t => l.find? fun id => bankHops id pa == t.foldl min h

/-- CONTEXT_SHIP: at a PAGE or PERM, firmware sends the control context to a landing core, once every earlier result has been written and every
earlier access performed (R305–R307). -/
def execContextShip (core landing : Nat) (s : State) : Result :=
  .next (s.within core 0 fun s =>
    match s.cx.walk with
    | none => s
    | some w =>
      match s.pageOf w.asid w.va.toNat with
      | none => s
      | some pa =>
        if w.fault.isSome && s.cx.st == .waiting .reply && s.shippable && s.cx.pend.isEmpty && s.performed 4 && s.bestLanding pa == some landing
          && pdieOf landing != pdieOf s.id then
          let c := { s.cx with walk := none }
          let t := s.inject s.mine (.core landing) .m 0 (.ship landing c)
          t.setCx { t.cx with st := .stopped, walk := none }
        else s)

/-- The landing context: the shipped registers over the values CSTART gives (R306, R307). -/
def Context.landed (base c : Context) (now : Nat) : Context :=
  { base with
    st := .ready
    g := c.g
    pc := c.pc
    status := c.status
    epc := c.epc
    cause := c.cause
    tval := c.tval
    trapvec := c.trapvec
    ovlhand := c.ovlhand
    memdef := c.memdef
    arith := c.arith
    fflags := c.fflags
    amax := c.amax
    btimeout := c.btimeout
    pattern := c.pattern
    clk := c.clk
    joinJ := c.joinJ
    acqOpen := true
    acqTime := now }

/-- SHIP_LANDING: the landing core starts its control context at the faulting instruction (R307). -/
def execShipLanding (item : Nat) (s : State) : Result :=
  match s.msg item with
  | none => .next s
  | some m =>
    match m.body with
    | .ship id c =>
      if !s.atHead m || !s.startable id then .next s
      else
        let t := (s.dropMsg item).startCore id c.pc 0 c.clk
        .next (t.modCx id 0 fun base => base.landed c t.cy)
    | _ => .next s

end Sys2Proof.Machine
end

