-- ==== Sys2Proof/Machine/Torus.lean ====
section
/-!
DEFINITION. The scale-up torus as this module's switch and endpoint see it (spec/19_fabric_dies.md R338–R343; spec/06_memory_sync.md
R140–R144). Modules are numbered x + 8y + 64z; ports 0 to 5 face +X, −X, +Y, −Y, +Z, −Z.
-/
namespace Sys2Proof.Machine

/-! ## Places and ports (R338, R339) -/

/-- The size of dimension `d`, 1 to 8 (R338). -/
def torusSize (d : Nat) : Nat := 1 + Config.torusDim d % 8

/-- Coordinate `d` of a module. -/
def torusPos (m d : Nat) : Nat := m / 8 ^ d % 8

/-- The productive ports of a dimension towards a module. -/
def portsIn (dest d : Nat) : List Nat :=
  let n := torusSize d
  let delta := (torusPos dest d + n - torusPos Config.torusSelf d) % n
  if n ≤ 1 ∨ delta = 0 then [] else if 2 * delta < n then [2 * d] else if 2 * delta > n then [2 * d + 1] else [2 * d, 2 * d + 1]

/-- The productive ports towards a module, X before Y before Z. -/
def productive (dest : Nat) : List Nat := portsIn dest 0 ++ portsIn dest 1 ++ portsIn dest 2

/-- The ports in use. -/
def livePorts : List Nat := (List.range 6).filter fun p => decide (torusSize (p / 2) > 1)

/-- A flit stands before another in the switch: older, then lower source module, core, ticket (R339). -/
def flitBefore (a b : Flit) : Bool :=
  decide (b.age < a.age) || (a.age == b.age &&
    (decide (a.src < b.src) || (a.src == b.src && (decide (a.core < b.core) || (a.core == b.core && decide (a.ticket < b.ticket))))))

/-- A flit put into a list in the switch's order. -/
def placeFlit (f : Flit) : List Flit → List Flit
  | [] => [f]
  | g :: l => if flitBefore f g then f :: g :: l else g :: placeFlit f l

/-- The flits in the switch's order. -/
def sortFlits : List Flit → List Flit
  | [] => []
  | f :: l => placeFlit f (sortFlits l)

/-! ## The endpoint (R140–R142, R341) -/

/-- log2 of the window that the flit's interface exports to its source module; none when it exports none. -/
def State.windowOf (s : State) (f : Flit) : Option Nat := ((s.vif f.vif).peers.find? fun x => x.2.1 == f.src).map fun x => x.2.2

/-- `n` bytes from an offset lie inside the exported window (R140). -/
def State.inWindow (s : State) (f : Flit) (n : Nat) : Bool := match s.windowOf f with | some w => decide (f.offset + n ≤ 2 ^ w) | none => false

/-- The key of an offset of the exported window. -/
def exportKey (f : Flit) (off : Nat) : Nat := Config.exportAddress f.vif (off / 8) * 8 + off % 8

/-- The answer to a flit. -/
def answerFlit (f : Flit) (op : FlitOp) (data failed : Word) : Flit :=
  { f with dest := f.src, src := Config.torusSelf, cls := .ack, op := op, data := data, failed := failed, age := 0 }

/-- An answer enters the injection queue of the endpoint (queue 102400). -/
def State.sendAnswer (s : State) (f : Flit) : State := { s with torus := { s.torus with inject := s.torus.inject ++ [(102400, f)] } }

/-- A write of a peer at a home of this module: an RLX store, or with `amo` an RLX AMO, which leaves LS as it is (R266); poison of words it
covers whole is cleared (R346). -/
def State.peerWrite (s : State) (amo : Bool) (key size val : Nat) : State :=
  let ws := wordsOf key size
  ws.foldl (fun t w => (if amo then t.amoStamp w true [] else t.setStamp w [] []).bumpOrder w)
    { s with
      mem := Memory.putN s.mem key size val
      poison := s.poison.filter fun w => !(ws.contains w && decide (key ≤ 8 * w ∧ 8 * w + 8 ≤ key + size)) }

/-- The bytes of XPUT written, the part in one aligned word at a time. -/
def State.peerBytes (s : State) (f : Flit) : Nat → Nat → List Byte → State
  | 0, _, _ => s
  | _, _, [] => s
  | n + 1, off, l =>
    let k := 8 - off % 8
    (s.peerWrite false (exportKey f off) (min k l.length) (bytesNat (l.take k))).peerBytes f n (off + k) (l.drop k)

/-- A store of a multicast applied for its members of this module and acknowledged to the entry of its last copy (R342). -/
def State.applyMcast (s : State) (f : Flit) : State :=
  let ok := s.inWindow f 8
  let t := if ok then s.peerWrite false (exportKey f f.offset) 8 f.data.toNat else s
  t.sendAnswer { answerFlit f .mcast 0 (if ok then 0 else f.members) with dest := f.via, via := f.src }

/-- A sequence-numbered flit applied and acknowledged; beyond the window, or an atomic on a poisoned word or one whose checker repeats at this
home (`failed` 3 of an arriving request stands for that), it is refused (R140, R341, R345, R347). -/
def State.applyFlit (s : State) (f : Flit) : State :=
  let key := exportKey f f.offset
  let size := match f.op with | .amo .fadd => 4 | .put bs => bs.length | _ => 8
  match f.op with
  | .mcast => s.applyMcast f
  | op =>
    if !s.inWindow f size then s.sendAnswer (answerFlit f .store 0 1)
    else
      match op with
      | .store => (s.peerWrite false key 8 f.data.toNat).sendAnswer (answerFlit f .store 0 0)
      | .amo a =>
        if s.poison.contains (key / 8) then s.sendAnswer (answerFlit f .store 0 2)
        else if f.failed = 3 then s.sendAnswer (answerFlit f .store 0 3)
        else
          (s.peerWrite true key size (amoNew (famoAmo a) size (Memory.getN s.mem key size) (f.data.toNat % 256 ^ size) 0)).sendAnswer
            (answerFlit f .store 0 0)
      | .put bs => (s.peerBytes f 9 f.offset bs).sendAnswer (answerFlit f .store 0 0)
      | _ => s.sendAnswer (answerFlit f .store 0 0)

/-- The sequence number of a flit at this module. -/
def flitNumber (f : Flit) : Nat :=
  if f.op = .mcast then (match f.seqs.find? fun p => p.1 == Config.torusSelf with | some p => p.2 | none => 0) else f.ticket

/-- The flits of one source applied from the reorder store while they are next in sequence. -/
def State.applyInOrder (s : State) (src no : Nat) : Nat → State
  | 0 => s
  | n + 1 =>
    match s.torus.reorder.find? fun f => f.src == src && sourceNo f == no && flitNumber f == seqOf s.torus.nextSeq src no with
    | none => s
    | some f =>
      let t := { s with torus := { s.torus with reorder := s.torus.reorder.filter fun x => x != f,
                                                 nextSeq := seqSet s.torus.nextSeq src no (flitNumber f + 1) } }
      (t.applyFlit f).applyInOrder src no n

/-- Whether the endpoint takes a flit: the next in sequence always, a later one while the reorder store has room (R341). -/
def State.takes (s : State) (f : Flit) : Bool :=
  match f.cls with
  | .p =>
    if isSequenced f.op then decide (flitNumber f ≤ seqOf s.torus.nextSeq f.src (sourceNo f)) || decide (s.torus.reorder.length < 4096)
    else true
  | _ => true

/-- The peer index a module has in an interface. -/
def State.peerIndex (s : State) (vif m : Nat) : Nat := match (s.vif vif).peers.find? fun x => x.2.1 == m with | some x => x.1 | none => 0

/-- The operation of a source that the acknowledgement of a number from a peer answers. -/
def Owed.answers (core ctx peer num : Nat) (a : Owed) : Bool := a.core == core && a.ctx == ctx && a.peer == peer && a.num == num && a.multi.isNone

/-- The operation of that number is answered; one whose peer has been declared failed is owed no longer, and a late acknowledgement ends
nothing (R343). -/
def dropOwed (l : List Owed) (core ctx peer num : Nat) : List Owed := l.filter fun a => !a.answers core ctx peer num

/-- The order number of the operation of a number that a peer owes a source. -/
def State.owedAt (s : State) (core ctx peer num : Nat) : Option Nat := (s.torus.owedAcks.find? (Owed.answers core ctx peer num)).map (·.at_)

/-- The order number of the FLD that a ticket stands for. -/
def State.ticketAt (s : State) (core ctx num : Nat) : Option Nat := ((s.cxAt core ctx).tickets.find? fun k => k.num == num).map (·.at_)

/-- A copy command fails for its peer. -/
def State.failPeer (s : State) (core tag code sub : Nat) (va : Word) : State := s.modCmd core tag fun m => if m.active then m.fail code sub va else m

/-- The peers of the members of a multicast, in the order of its group. -/
def State.mcastPeers (s : State) (core ctx ticket : Nat) : List Nat :=
  (s.torus.owedAcks.filter fun a => a.core == core && a.ctx == ctx && a.multi == some ticket).map (·.peer)

/-- An acknowledgement of members reaches the entry that waits for it; at the issuer, the members whose window ends below the offset post PERM
(R140, R342). Later ones are discarded. -/
def State.takeMcast (s : State) (f : Flit) : State :=
  match s.torus.mcast.findIdx? fun e => e.origin == f.via && e.core == f.core && e.ctx == f.ctx && e.ticket == f.ticket && e.owed &&& f.members != 0 with
  | none => s
  | some n =>
    match s.torus.mcast[n]? with
    | none => s
    | some e =>
      let t := { s with torus := { s.torus with
        mcast := s.torus.mcast.set n { e with owed := e.owed &&& ~~~f.members, failed := e.failed ||| f.failed } } }
      if e.src = Config.torusSelf then
        let ps := s.mcastPeers e.core e.ctx e.ticket
        (owedMembers f.failed).foldl (fun t j => t.post e.core e.ctx 0x07 0 3 (peerAddr (ps.getD j 0) f.offset) none) t
      else t

/-- An acknowledgement or a reply reaches the core that waits for it (R141–R143). -/
def State.takeAck (s : State) (f : Flit) : State :=
  let peer := s.peerIndex f.vif f.src
  let va := peerAddr peer f.offset
  let owed (t : State) : State := { t with torus := { t.torus with owedAcks := dropOwed t.torus.owedAcks f.core f.ctx peer f.ticket } }
  let err := flitError f.failed
  match f.op with
  | .read =>
    let t := s.modCx f.core f.ctx fun c =>
      { c with tickets := c.tickets.map fun k => if k.num == f.ticket && k.answer.isNone && k.peer == some peer then { k with answer := some f.data } else k }
    if f.failed = 0 then t else t.post f.core f.ctx err.1 err.2 3 va (some ((s.ticketAt f.core f.ctx f.ticket).getD 0))
  | .put bs => (owed s).within f.core (s.coreAt f.core).k fun t => t.getAnswer (f.ctx - 16) f.ticket bs f.failed
  | .mcast => s.takeMcast f
  | _ =>
    let t := owed s
    if f.failed = 0 ∨ (s.owedAt f.core f.ctx peer f.ticket).isNone then t
    else if f.ctx ≥ 16 then t.failPeer f.core (f.ctx - 16) err.1 err.2 va
    else t.post f.core f.ctx err.1 err.2 3 va (s.owedAt f.core f.ctx peer f.ticket)

/-- A flit ejected at this module. -/
def State.eject (s : State) (f : Flit) : State :=
  match f.cls with
  | .ack => s.takeAck f
  | .r =>
    let ws (n : Nat) := (List.range n).map fun j => exportKey f (f.offset + j)
    let refused (n : Nat) : Word := if !s.inWindow f n then 1 else if (ws n).any fun k => s.poison.contains (k / 8) then 2 else 0
    match f.op with
    | .get n =>
      if refused n ≠ 0 then s.sendAnswer (answerFlit f (.put []) 0 (refused n))
      else s.sendAnswer (answerFlit f (.put ((ws n).map (Memory.get s.mem))) 0 0)
    | _ =>
      if refused 8 ≠ 0 then s.sendAnswer (answerFlit f .read 0 (refused 8))
      else s.sendAnswer (answerFlit f .read (word (Memory.getN s.mem (exportKey f f.offset) 8)) 0)
  | .p =>
    if flitNumber f < seqOf s.torus.nextSeq f.src (sourceNo f) then s
    else
      let t := { s with torus := { s.torus with reorder := s.torus.reorder ++ [f] } }
      t.applyInOrder f.src (sourceNo f) (t.torus.reorder.length)

/-! ## Multicast (R342) -/

/-- Bits of a list of members. -/
def memberBits (l : List Nat) : Word := l.foldl (fun w n => setBit w n true) 0

/-- The copies of a multicast flit: the port each member would take, free ports first; the rest travel deflected (R342). -/
def State.mcastPorts (s : State) (f : Flit) (free : List Nat) : List (Nat × Nat) :=
  (owedMembers f.members).map fun n => (n, match (productive (s.memberModule f n)).find? free.contains with | some p => p | none => 6)

/-! ## Switching (R339) -/

/-- What a hop-time builds up: free ports, ejections left, flits leaving. -/
structure Hop where
  free : List Nat
  places : Nat
  out : List (Nat × Flit)
  deriving DecidableEq, Repr, Inhabited

/-- AGE := min(4,095, AGE + 1). -/
def agedFlit (f : Flit) : Flit := { f with age := min 4095 (f.age + 1) }

/-- A flit takes a port. -/
def Hop.leave (h : Hop) (p : Nat) (f : Flit) : Hop := { h with free := h.free.filter (· != p), out := h.out ++ [(p, f)] }

/-- A flit for which a multicast's copies have left no port stays in the endpoint's queue and is injected again (notes/assumptions/85.md). -/
def State.holdFlit (s : State) (f : Flit) : State := s.sendAnswer f

/-- The members of a multicast flit on modules whose links are all down are discarded with them (R343). -/
def State.withoutDown (s : State) (f : Flit) : Flit :=
  { f with members := memberBits ((owedMembers f.members).filter fun n => !s.torus.downPeers.contains (s.memberModule f n)) }

/-- A flit leaves by the first of some ports that is free, deflected (R339). -/
def State.deflect (s : State) (h : Hop) (f : Flit) : State × Hop :=
  match h.free with
  | p :: _ => (s, h.leave p f)
  | [] => (s.holdFlit f, h)

/-- A multicast flit divides when an acknowledgement entry is free, else leaves whole (R342). -/
def State.splitMcast (s : State) (h : Hop) (f : Flit) : State × Hop :=
  let ps := s.mcastPorts f h.free
  let ports := (ps.map (·.2)).eraseDups
  if ports.length ≤ 1 ∨ s.torus.mcast.length ≥ 256 then
    match ports.find? (· != 6) with
    | some p => (s, h.leave p f)
    | none => s.deflect h f
  else
    let copies := ports.map fun p => (p, memberBits ((ps.filter fun q => q.2 == p).map (·.1)))
    let t := if f.via = Config.torusSelf then s
             else { s with torus := { s.torus with mcast := s.torus.mcast ++ [⟨f.via, f.src, f.core, f.ctx, f.ticket, f.members, f.members, 0⟩] } }
    let copy (c : Nat × Word) : Flit := { f with members := c.2, via := Config.torusSelf }
    let r := copies.foldl (fun (r : State × Hop) c => if c.1 = 6 then r else (r.1, r.2.leave c.1 (copy c))) (t, h)
    copies.foldl (fun r c => if c.1 = 6 then r.1.deflect r.2 (copy c) else r) r

/-- One flit is placed. -/
def State.placeOne (s : State) (h : Hop) (f0 : Flit) : State × Hop :=
  let f := if f0.op = .mcast ∧ f0.cls = .p then s.withoutDown f0 else f0
  if f.op = .mcast ∧ f.cls = .p then
    let mine := memberBits ((owedMembers f.members).filter fun n => s.memberModule f n == Config.torusSelf)
    let r := if mine ≠ 0 ∧ h.places > 0 ∧ s.takes f then (s.eject { f with members := mine }, { f with members := f.members &&& ~~~mine }, h.places - 1)
             else (s, f, h.places)
    let h2 := { h with places := r.2.2 }
    if r.2.1.members = 0 then (r.1, h2) else r.1.splitMcast h2 r.2.1
  else if s.torus.downPeers.contains f.dest then (s, h)
  else if f.dest = Config.torusSelf ∧ h.places > 0 ∧ s.takes f then (s.eject f, { h with places := h.places - 1 })
  else
    match (productive f.dest).find? h.free.contains with
    | some p => (s, h.leave p f)
    | none => s.deflect h f

/-- The next core to inject: the first from the turn on, wrapping (R339). -/
def nextInjector (turn : Nat) (l : List (Nat × Flit)) : Option (Nat × Flit) :=
  let low := fun (m : List (Nat × Flit)) => m.foldl (fun r p => match r with | some q => if p.1 < q.1 then some p else r | none => some p) (none : Option (Nat × Flit))
  match low (l.filter fun p => decide (turn ≤ p.1)) with
  | some p => some p
  | none => low l

/-- The modules of a flit: one, or those of the members of a multicast. -/
def State.flitModules (s : State) (f : Flit) : List Nat :=
  if f.op = .mcast ∧ f.cls = .p then (owedMembers f.members).map (s.memberModule f) else [f.dest]

/-- The first flit of a queue goes now: into a free port, or when it is for this module into a free ejection place (R339, R340). -/
def State.injectable (s : State) (h : Hop) (f : Flit) : Bool :=
  let ms := s.flitModules f
  let here := ms.any (· == Config.torusSelf)
  (!here || (decide (0 < h.places) && s.takes f)) && (!h.free.isEmpty || ms.all (· == Config.torusSelf))

/-- The first flit of each injection queue. -/
def queueHeads (l : List (Nat × Flit)) : List (Nat × Flit) :=
  l.foldl (fun r p => if r.any fun q => q.1 == p.1 then r else r ++ [p]) []

/-- Injections into ports still free, one core after another, AGE as the queue holds it (R339). -/
def State.injectFlits (s : State) (h : Hop) : Nat → State × Hop
  | 0 => (s, h)
  | n + 1 =>
    match nextInjector s.torus.turn ((queueHeads s.torus.inject).filter fun q => s.injectable h q.2) with
    | none => (s, h)
    | some q =>
      let i := (s.torus.inject.findIdx? fun p => p == q).getD 0
      let t := { s with torus := { s.torus with inject := dropAt s.torus.inject i, turn := q.1 + 1 } }
      let u := t.placeOne h q.2
      u.1.injectFlits u.2 n

/-- One flit for each port in use, numbered modulo 6: the first named; none arrives by the ports of a dimension of size 1 (R338). -/
def onePerPort (l : List (Nat × Flit)) : List (Nat × Flit) :=
  l.foldl (fun r p => if (r.any fun q => q.1 == p.1 % 6) || !livePorts.contains (p.1 % 6) then r else r ++ [(p.1 % 6, p.2)]) []

/-- TORUS_HOP: one hop-time of the switch: the flit that arrives by each port is ejected, forwarded or deflected, one hop-time older, then queues
inject, as many as there are ports and ejection places (R339, R340). -/
def execTorusHop (arriving : List (Nat × Flit)) (s : State) : Result :=
  let fs := sortFlits ((onePerPort arriving).map (·.2))
  let r := fs.foldl (fun (p : State × Hop) f => p.1.placeOne p.2 (agedFlit f)) (s, ⟨livePorts, 2, []⟩)
  let q := r.1.injectFlits r.2 8
  .next { q.1 with torus := { q.1.torus with leaving := q.2.out } }

/-! ## Acknowledgements and time limits (R342–R344) -/

/-- TIME in ns since a cycle. -/
def State.since_ (s : State) (t0 : Nat) : Nat := (s.cy - t0) * 50 / 47

/-- The bitmap of a multicast reaches its ticket; the operations owed by its members end. -/
def State.closeMcast (s : State) (e : McastEntry) (failed : Word) : State :=
  let t := s.modCx e.core e.ctx fun c =>
    { c with tickets := c.tickets.map fun k => if k.num == e.ticket && k.multi && k.answer.isNone then { k with answer := some failed } else k }
  { t with torus := { t.torus with
      mcast := t.torus.mcast.filter fun x => x != e
      owedAcks := t.torus.owedAcks.filter fun a => !(a.core == e.core && a.ctx == e.ctx && a.multi == some e.ticket) } }

/-- MULTICAST_ACK: an entry whose members have all answered forwards one merged acknowledgement, or at the issuer ends the FMCAST. -/
def execMulticastAck (entry : Nat) (s : State) : Result :=
  match s.torus.mcast[entry]? with
  | none => .next s
  | some e =>
    if e.owed ≠ 0 then .next s
    else if e.src = Config.torusSelf then .next (s.closeMcast e e.failed)
    else
      let f : Flit := ⟨e.src, Config.torusSelf, e.core, e.ctx, 0, .ack, .mcast, e.ticket, 0, 0, e.failed, 0, e.members, [], e.origin⟩
      .next (({ s with torus := { s.torus with mcast := dropAt s.torus.mcast entry } }).sendAnswer f)

/-- MULTICAST_TIMEOUT: FLTIME after the FMCAST, members not yet answered are marked failed (R342); FFENCE counts their peers (R144). -/
def execMulticastTimeout (core ctx ticket : Nat) (s : State) : Result :=
  match s.torus.mcast.find? fun e => e.src == Config.torusSelf && e.core == core && e.ctx == ctx && e.ticket == ticket,
        (s.cxAt core ctx).tickets.find? fun k => k.num == ticket && k.multi with
  | some e, some k =>
    if s.since_ k.t0 < (s.vif (s.vifOf core)).fltime then .next s
    else
      let f := s.mcastPeers core ctx ticket
      let failed := ((owedMembers e.owed).map fun n => f.getD n 0)
      .next ((s.closeMcast e (e.failed ||| e.owed)).modCx core ctx fun c => { c with failedPeers := c.failedPeers ++ failed })
  | _, _ => .next s

/-- An operation owed since t0 has waited FLTIME, and is no multicast. -/
def State.expired (s : State) (a : Owed) : Bool := decide (s.since_ a.t0 ≥ (s.vif (s.vifOf a.core)).fltime) && a.multi.isNone

/-- An operation whose peer is declared failed: MEMERR with SUB 1 and SOURCE 3, or a failed command, at the address it named (R141, R247,
R343). -/
def State.peerFailed (s : State) (a : Owed) : State :=
  if a.ctx ≥ 16 then s.failPeer a.core (a.ctx - 16) 0x11 1 a.va
  else (s.modCx a.core a.ctx fun c => { c with failedPeers := c.failedPeers ++ [a.peer] }).post a.core a.ctx 0x11 1 3 a.va (some a.at_)

/-- The tickets of a context whose peer did not answer in FLTIME read 0 (R141). -/
def State.failTickets (s : State) (core ctx peer : Nat) : State :=
  let c := s.cxAt core ctx
  let lim := (s.vif (s.vifOf core)).fltime
  (c.tickets.filter fun k => k.peer == some peer && k.answer.isNone && !k.multi && decide (s.since_ k.t0 ≥ lim)).foldl (fun t k =>
    (t.modCx core ctx fun c => { c with tickets := c.tickets.map fun x => if x.num = k.num then { x with answer := some 0 } else x }).post
      core ctx 0x11 1 3 k.va (some k.at_)) s

/-- PEER_TIMEOUT: FLTIME has passed without a peer's acknowledgement or reply (R343). -/
def execPeerTimeout (peer : Nat) (s : State) : Result :=
  let due := s.torus.owedAcks.filter fun a => a.peer == peer && s.expired a
  let t := { s with torus := { s.torus with owedAcks := s.torus.owedAcks.filter fun a => !due.contains a } }
  let u := due.foldl State.peerFailed t
  .next (u.sites.foldl (fun u id => (List.range 11).foldl (fun u k => u.failTickets id k peer) u) u)

/-- PEER_LINKS_DOWN: every link to a module is down; flits addressed to it are discarded (R343). -/
def execPeerLinksDown (peer : Nat) (s : State) : Result :=
  .next { s with torus := { s.torus with downPeers := if s.torus.downPeers.contains peer then s.torus.downPeers else s.torus.downPeers ++ [peer] } }

/-- PEER_LINKS_RECOVER: its links come back (R343). -/
def execPeerLinksRecover (peer : Nat) (s : State) : Result :=
  .next { s with torus := { s.torus with downPeers := s.torus.downPeers.filter (· != peer) } }

end Sys2Proof.Machine
end

