-- ==== Sys2Proof/Machine/Hub.lean ====
section
/-!
DEFINITION. The hub: user queues, the binder, the dispatcher and job completions (spec/18_scheduling.md R308–R314), the host
link and the management mailbox (spec/21_host_bringup.md R359–R366, R369), time, margins, bring-up and power
(R337, R357, R368, R370). Virtual interfaces and trays are in Machine/Trays.lean.
-/
namespace Sys2Proof.Machine

/-- A change of the hub. -/
def State.modHub (s : State) (f : Hub → Hub) : State := { s with hub := f s.hub }

/-! ## Host memory and the module's writes to it (R361) -/

/-- `n` bytes of host memory as a number. -/
def State.hostN (s : State) (a n : Nat) : Nat := Memory.getN s.hub.hostMem a n

/-- A completion write of 8 bytes; none when the address is 0 (R314). -/
def State.hostPut (s : State) (a : Nat) (v : Word) : State :=
  if a = 0 then s else s.modHub fun h => { h with hostMem := Memory.putN h.hostMem a 8 v.toNat }

/-- A record of CLASS 2 and UNIT 0 for a host access outside a window or to a reserved part (R359). -/
def State.logHost (s : State) (a : Nat) : State := s.logErr 2 0 0 0 0 a 0 0 0

/-! ## User queues (R308–R310) -/

def State.queue? (s : State) (u : Nat) : Option UserQueue := Table.find s.hub.queues u
def State.putQueue (s : State) (u : Nat) (q : UserQueue) : State := s.modHub fun h => { h with queues := Table.set h.queues u q }

/-- TAIL − HEAD modulo 2^32: the entries the doorbell covers. -/
def UserQueue.count (q : UserQueue) : Nat := (q.tail + 2 ^ 32 - q.head) % 2 ^ 32
/-- SKIPS plus one, saturating. -/
def UserQueue.skip (q : UserQueue) : UserQueue := { q with skips := min (2 ^ 32 - 1) (q.skips + 1) }
/-- The head entry consumed. -/
def UserQueue.advance (q : UserQueue) : UserQueue :=
  let h := (q.head + 1) % 2 ^ 32
  { q with head := h, pendingAt := if h = q.tail then none else q.pendingAt }
/-- PHASE of the head entry when it is fresh: (HEAD div N) mod 2. -/
def UserQueue.phase (q : UserQueue) : Nat := q.head / 2 ^ q.logN % 2

/-- A read leaf of an address of an address space, as a physical address. -/
def State.hostPage (s : State) (asid va : Nat) : Option Nat :=
  match s.walkOf asid va with
  | .leaf _ level e =>
    if bit e 7 || bit e 6 || !leafPermits e 0 then none else some (pteAddr e + va % 2 ^ leafSize level)
  | .page => none

/-- The walk of a page that the hub reads sets A in its leaf (R297). -/
def State.hostTouch (s : State) (asid va : Nat) : State :=
  match s.walkOf asid va with
  | .leaf pa _ e => if bit e 4 then s else s.markLeaf pa 0
  | .page => s

/-- The eight words of the head entry, when the ring's page can be read (R309). -/
def State.headEntry (s : State) (q : UserQueue) : Option (List Word) :=
  (s.hostPage q.asid (q.ring + 64 * (q.head % 2 ^ q.logN))).map fun pa => (List.range 8).map fun j => word (Memory.getN s.mem (pa + 8 * j) 8)

def entryKind (e : List Word) : Nat := bits (e.getD 0 0) 1 0
def entryWq (e : List Word) : Nat := bits (e.getD 0 0) 15 4
def entryTray (e : List Word) : Nat := bits (e.getD 0 0) 23 16
def entryCaddr (e : List Word) : Nat := (e.getD 2 0).toNat

/-- A head entry is invalid (R309, R310). -/
def State.entryBad (s : State) (q : UserQueue) (e : List Word) : Bool :=
  let v := s.vif q.vif
  let w := e.getD 0 0
  entryKind e == 0 || bits w 3 2 != 0 || bits w 62 24 != 0 || e.getD 6 0 != 0 || e.getD 7 0 != 0
    || (entryKind e == 1 && bits (e.getD 1 0) 63 52 != 0)
    || ((entryKind e == 1 || entryKind e == 3) && !(v.wqs.contains (entryWq e)))
    || (entryKind e == 2 && !((v.trays.getD (entryTray e) Tray.empty).rects.any Option.isSome))
    || entryCaddr e % 8 != 0

/-- The binder's discard of an invalid head entry: FVAL at a valid CADDR, SKIPS and HEAD, the entry counted for RESYNC (R310). -/
def State.discardHead (s : State) (u : Nat) (q : UserQueue) (e : List Word) : State :=
  let t := if entryCaddr e % 8 = 0 then s.hostPut (entryCaddr e) (e.getD 4 0) else s
  t.putQueue u { q.skip.advance with discards := q.discards + 1 }

/-- The head of a queue settled (R310): invalid entries go, one with a stale PHASE waits for the next accepted TAIL. -/
def State.settleHead (s : State) (u : Nat) : Nat → State
  | 0 => s
  | n + 1 =>
    match s.queue? u with
    | none => s
    | some q =>
      if q.count = 0 ∨ q.stale then s
      else
        match s.headEntry q with
        | none => s
        | some e =>
          let s := s.hostTouch q.asid (q.ring + 64 * (q.head % 2 ^ q.logN))
          if bits (e.getD 0 0) 63 63 ≠ q.phase then s.putQueue u { q with stale := true }
          else if s.entryBad q e then (s.discardHead u q e).settleHead u n
          else s

/-- The head settled over every entry the doorbell covers. -/
def State.settle (s : State) (u : Nat) : State := match s.queue? u with | some q => s.settleHead u (q.count + 1) | none => s

/-- A write of a doorbell's word 0 (R308). -/
def State.ring (s : State) (u : Nat) (v : Word) : State :=
  match s.queue? u with
  | none => s
  | some q =>
    let n := (bits v 31 0 + 2 ^ 32 - q.head) % 2 ^ 32
    if bits v 63 32 ≠ 0 ∨ n = 0 ∨ n > 2 ^ q.logN then s.putQueue u q.skip
    else
      let at_ := if q.slot.isSome then q.pendingAt else some (q.pendingAt.getD s.time)
      (s.putQueue u { q with tail := bits v 31 0, stale := false, pendingAt := at_ }).settle u

/-- DOORBELL_WRITE: a TAIL write, applied after every earlier write of its stream (R308, R360). -/
def execDoorbellWrite (queue : Nat) (v : Word) (s : State) : Result := .next (s.ring queue v)

/-! ## Binding (R311) -/

/-- A slot's queue has TAIL = HEAD. -/
def State.idleSlot (s : State) (n : Nat) : Bool :=
  match Table.find s.hub.slots n with
  | none => true
  | some x => match s.queue? x.queue with | some q => q.count == 0 | none => true

/-- The slot of a list with the least value of f, the lowest number first. -/
def leastBy (f : Nat → Nat) : List Nat → Option Nat
  | [] => none
  | a :: l =>
    match leastBy f l with
    | none => some a
    | some b => some (if f a ≤ f b then a else b)

/-- When a slot was last used; an empty one before every other. -/
def State.slotUsed (s : State) (n : Nat) : Nat := match Table.find s.hub.slots n with | some x => x.usedAt + 1 | none => 0
def State.slotBound (s : State) (n : Nat) : Nat := match Table.find s.hub.slots n with | some x => x.boundAt | none => 0

/-- The queue of a slot unbound; one that still has entries becomes pending now. -/
def State.evictSlot (s : State) (n : Nat) : State :=
  match Table.find s.hub.slots n with
  | none => s
  | some x =>
    let t := s.modHub fun h => { h with slots := Table.del h.slots n }
    match t.queue? x.queue with
    | some q => t.putQueue x.queue { q with slot := none, pendingAt := if q.count = 0 then none else some s.time }
    | none => t

/-- A queue bound to a slot. -/
def State.bindSlot (s : State) (u n : Nat) : State :=
  let t := s.evictSlot n
  match t.queue? u with
  | some q =>
    (t.putQueue u { q with slot := some n, pendingAt := none }).modHub fun h => { h with slots := Table.set h.slots n ⟨u, s.time, s.time, none⟩ }
  | none => t

/-- Pending queues: entries covered and no slot. -/
def UserQueue.pending (q : UserQueue) : Bool := q.count != 0 && q.slot.isNone

/-- Pending queues in increasing order of pending time, the lower number first. -/
def insertPending (t u : Nat) : List (Nat × Nat) → List (Nat × Nat)
  | [] => [(t, u)]
  | (a, b) :: l => if t < a then (t, u) :: (a, b) :: l else (a, b) :: insertPending t u l

def State.pendingQueues (s : State) : List Nat :=
  ((s.hub.queues.filter fun p => p.2.pending).foldl (fun l p => insertPending (p.2.pendingAt.getD 0) p.1 l) []).map (·.2)

/-- Steps 2 and 3 of a bind round over the pending queues; `left` slots may still be evicted from queues that are not idle. Among
slots that were never used the lowest number is taken: the model's choice (notes/assumptions/101.md). -/
def State.bindAll (s : State) : List Nat → Nat → State
  | [], _ => s
  | u :: l, left =>
    match leastBy s.slotUsed ((List.range 1024).filter s.idleSlot) with
    | some n => (s.bindSlot u n).bindAll l left
    | none =>
      let old := (List.range 1024).filter fun n => decide (s.slotBound n + 8 * s.hub.bindq ≤ s.time)
      match (if left = 0 then none else leastBy s.slotBound old) with
      | some n => (s.bindSlot u n).bindAll l (left - 1)
      | none => s

/-- BIND_ROUND (R311): every BINDQ. -/
def execBindRound (s : State) : Result :=
  if s.time < s.hub.lastBind + s.hub.bindq then .next s
  else
    let t := (s.hub.queues.map (·.1)).foldl State.settle s
    .next ((t.bindAll t.pendingQueues 64).modHub fun h => { h with lastBind := s.time })

/-! ## Trays -/

/-- The enabled cores of a tray. -/
def State.trayCores (s : State) (v t : Nat) : List Nat :=
  let f := s.vif v
  (s.logical f (f.trays.getD t Tray.empty)).map fun p => siteId (f.pdie p.1) p.2.1 p.2.2

/-! ## Completions (R314, R361) -/

/-- A start by the hub or a context being shipped is on its way to one of the cores. -/
def State.coming (s : State) (ids : List Nat) : Bool :=
  s.flight.any fun m => match m.body with | .cstart id _ _ _ => ids.contains id | .ship id _ => ids.contains id | _ => false

/-- Every write that a clock names has been applied at its home (R334, R361). -/
def State.clockDone (s : State) (c : Clock) : Bool := (List.range c.length).all fun d => decide (c.at d ≤ s.appliedOf d)

/-- A LAUNCH whose control contexts are all Stopped, with the writes they made or have joined, those of helpers among them (R314, R361). -/
def State.launchEnd (s : State) (j : Job) : Option Clock :=
  match j.ended with
  | some c => some c
  | none =>
    let ids := s.trayCores j.vif j.obj
    if !s.coming ids && ids.all fun id => (s.cxAt id 0).st == .stopped && (s.coreAt id).tray == some (j.vif, j.obj) then
      some (ids.foldl (fun c id => Clock.join c (Clock.join (s.cxAt id 0).clk (s.cxAt id 0).joinJ)) [])
    else none

/-- The LAUNCH jobs that have ended keep that end, whatever becomes of their cores from now on (R314). -/
def State.keepEnds (s : State) : State :=
  s.modHub fun h => { h with jobs := h.jobs.map fun j => if j.kind = 2 ∧ !j.failed then { j with ended := s.launchEnd j } else j }

/-- How a job ends: none while it runs, else whether it succeeded; CVAL follows the job's writes (R361). -/
def State.jobEnd (s : State) (j : Job) : Option Bool :=
  match j.kind with
  | 1 => if j.failed ∨ s.nodeState j.obj = 4 then some false else if s.nodeState j.obj = 3 then some true else none
  | 2 =>
    if j.failed then some false
    else match s.launchEnd j with | some c => if s.clockDone c then some true else none | none => none
  | _ => if (s.wqueue j.obj).closed && (s.wqueue j.obj).items.isEmpty then some true else none

/-- The one release write of CVAL or FVAL of a job that has ended; a Done record returns to its pool (R314). -/
def State.completeJob (s : State) (job : Nat) : State :=
  match s.hub.jobs[job]? with
  | none => s
  | some j =>
    match s.jobEnd j with
    | none => s
    | some ok =>
      let t := (s.hostPut j.caddr (if ok then j.cval else j.fval)).modHub fun h => { h with jobs := dropAt h.jobs job }
      if j.kind = 1 ∧ ok then
        let f := t.vif j.vif
        { t with vifs := Table.set t.vifs j.vif { f with pool := f.pool ++ [j.obj] }, nodes := Table.del t.nodes j.obj }
      else t

/-- JOB_COMPLETION_WRITE (R314). -/
def execJobCompletionWrite (job : Nat) (s : State) : Result := .next (s.completeJob job)

/-! ## Dispatch (R312, R313) -/

def TraySt.isSaved : TraySt → Bool
  | .saved _ => true
  | _ => false

/-- A core can take another tray of its interface: nothing runs there, or what ran there is saved (R310, R320). -/
def State.coreFree (s : State) (v t id : Nat) : Bool :=
  s.startable id ||
    (match (s.coreAt id).tray with
     | some p => p.1 == v && p.2 != t && ((s.vif v).trays.getD p.2 Tray.empty).st.isSaved
     | none => false)

/-- A free record of a node pool (R313), and the interface once it is taken. -/
def Vif.takeRecord (f : Vif) (v : Nat) : Option (Nat × Vif) :=
  match f.pool with
  | k :: l => some (k, { f with pool := l })
  | [] =>
    if f.poolSize = 0 then none
    else some (2 ^ 53 + Config.poolRecord v (f.poolSize - 1) % (2560 * 32768) * 64, { f with poolSize := f.poolSize - 1 })

/-- Firmware lets a LAUNCH be dispatched under the module's power limit; at the nominal 4,200 W it delays none (R370). -/
def State.powerAllows (s : State) : Bool := decide (4200 ≤ s.hub.limit) || Config.powerAllows s.hub.limit s.time

/-- The resource of an entry is available (R310). -/
def State.resource (s : State) (q : UserQueue) (e : List Word) : Bool :=
  match entryKind e with
  | 1 => ((s.vif q.vif).takeRecord q.vif).isSome
  | 2 =>
    let ids := s.trayCores q.vif (entryTray e)
    !s.coming ids && ids.all (s.coreFree q.vif (entryTray e)) && s.hub.mailbox.config.isNone && s.powerAllows
  | _ => true

/-- The head entry of a queue is eligible (R310); its words. -/
def State.eligible (s : State) (q : UserQueue) : Option (List Word) :=
  if q.count = 0 ∨ q.stale then none
  else
    match s.headEntry q with
    | none => none
    | some e => if bits (e.getD 0 0) 63 63 = q.phase ∧ !s.entryBad q e ∧ s.resource q e then some e else none

def State.addJob (s : State) (kind v : Nat) (e : List Word) (obj : Nat) (failed : Bool) : State :=
  s.modHub fun h => { h with jobs := h.jobs ++ [⟨kind, v, entryCaddr e, e.getD 3 0, e.getD 4 0, obj, failed, false, none⟩] }

/-- DISPATCH_NODE (R313): the entry written into a pool record and pushed, a release at SYS scope. -/
def State.dispatchNode (s : State) (v : Nat) (e : List Word) : State :=
  match (s.vif v).takeRecord v with
  | none => s
  | some (key, f) =>
    if (s.wqueue (entryWq e)).closed then s.hostPut (entryCaddr e) (e.getD 4 0)
    else
      let w0 := entryWq e * 2 ^ 8
      let m := [w0, bits (e.getD 1 0) 51 0, 0, 0, (e.getD 5 0).toNat, 0, 0, 0]
      let mem := (List.range 8).foldl (fun m' j => Memory.putN m' (key + 8 * j) 8 (m.getD j 0)) s.mem
      let x := s.freeWord
      let t := { x.2 with
        vifs := Table.set s.vifs v f
        mem := Memory.putN mem (key + 40) 8 (x.1 ||| 1).toNat
        nodes := Table.set s.nodes key ⟨none, false, true⟩
        stamps := Table.del s.stamps (key / 8)
        poison := s.poison.filter fun w => !(decide (key / 8 ≤ w) && decide (w < key / 8 + 8)) }
      (((t.putNode key 1 0).enqueue (entryWq e) key false)).addJob 1 v e key false

/-- Bytes that a loader writes at keys: RLX writes; poison of words it covers whole is cleared (R80, R346). -/
def State.loadBytes (s : State) (l : List (Nat × Byte)) : State :=
  let ws := (l.map fun p => p.1 / 8).eraseDups
  let whole (w : Nat) : Bool := decide (8 ≤ (l.filter fun p => p.1 / 8 == w).length)
  ws.foldl State.bumpOrder { s with
    mem := l.foldl (fun (m : List Host.Cell) (p : Nat × Byte) => Memory.put m p.1 p.2) s.mem
    poison := s.poison.filter fun w => !(ws.contains w && whole w)
    stamps := s.stamps.filter fun p => !(ws.contains p.1) }

/-- The image's bytes and XBOUND written into a core, as a loader writes them, with the limits of its shadow stacks (R37, R80). -/
def State.loadImage (s : State) (img : Image) (id : Nat) : State :=
  (s.loadBytes (img.bytes.map fun p => (sramKey id (p.1 % 32768), p.2))).modCore id fun c => { c with xbound := img.xbound, limits := img.limits }

/-- The key of an address of a section, as a core of the tray names it: a pantry slice's, or a main-memory page's (R67). -/
def State.sectionKey (s : State) (id : Nat) (a : Word) : Option Nat :=
  let t := s.focus id 0
  if regionOf a = .coord then t.coordKey a
  else if regionOf a = .main then t.pageOf t.myTray.asid a.toNat
  else none

/-- The bytes of an image's `.pantry` and `.main` sections written (R80). A byte whose page is not mapped, or whose slice is not the tray's, is left out:
the model's choice (notes/assumptions/92.md). -/
def State.loadSections (s : State) (img : Image) (id : Nat) : State :=
  s.loadBytes (img.sections.filterMap fun p => (s.sectionKey id p.1).map fun k => (k, p.2))

/-- The tray meets every `.tray` declaration of an image; an image without one needs 2 × 4 sites on virtual die 0 (R75). -/
def State.meetsNeed (s : State) (v t : Nat) (img : Image) : Bool :=
  let f := s.vif v
  let tr := f.trays.getD t Tray.empty
  let need : List (Nat × Nat × Nat) := if img.need.isEmpty then [(2, 4, 0)] else img.need
  (List.range need.length).all fun vd =>
    let n := need.getD vd (0, 0, 0)
    match tr.rect vd with
    | some r =>
      decide (n.1 ≤ r.height) && decide (n.2.1 ≤ r.width) && decide (n.2.2 ≤ ((s.logical f tr).filter fun p => p.1 == vd).length)
    | none => false

/-- A start by the hub or by `jdb` (R259, R313): at once when the core's engines are idle, else its message waits at the core. -/
def State.hostStart (s : State) (v id : Nat) (pc : Pc) (arg : Word) : State :=
  if s.enginesIdle id then s.startCore id pc arg []
  else
    { s with
      flight := s.flight ++ [⟨s.seq, .host v, .core id, .w, id, false, [], [], 4, 0, .cstart id pc arg 0, false, [], s.cy, .home⟩]
      seq := s.seq + 1 }

/-- A core taken over from another tray, with the ASID, generation and delegation of the new one. What a saved tray left is in its image; the work
that a stopped one's engines have accepted goes on, and the start waits for it (R259, R313). -/
def State.assignCore (s : State) (v t id : Nat) : State :=
  let tr := (s.vif v).trays.getD t Tray.empty
  let old := (s.coreAt id).tray
  if old = some (v, t) then s
  else
    let saved := match old with | some p => ((s.vif p.1).trays.getD p.2 Tray.empty).st.isSaved | none => false
    let u := (s.keepClock id).modAll id fun k _ =>
      { Context.reset k with asid := word tr.asid, gen := word (s.genOf tr.asid), trapdeleg := tr.trapdeleg }
    u.modCore id fun c => if saved then { Core.reset with tray := some (v, t), limits := c.limits } else { c with tray := some (v, t) }

/-- DISPATCH_LAUNCH (R313): the tray's image on every enabled core, each started at the entry offset with g3 := ARG; a job that
has ended on the cores stays ended. On a tray too small for the image the loader refuses the launch, and the job fails (R75;
notes/assumptions/83.md). -/
def State.dispatchLaunch (s : State) (v : Nat) (e : List Word) : State :=
  let t := entryTray e
  let s1 := s.keepEnds
  let img := ((s1.vif v).trays.getD t Tray.empty).program
  if !s1.meetsNeed v t img then s1.addJob 2 v e t true
  else
    let ids := s1.trayCores v t
    let s2 := ids.foldl (fun s id => (s.assignCore v t id).loadImage img id) s1
    let s3 := s2.loadSections img (ids.headD 0)
    (ids.foldl (fun s id => s.hostStart v id img.entry (e.getD 1 0)) s3).addJob 2 v e t false

/-- DISPATCH_CLOSE (R313): a queue already closed is no error. -/
def State.dispatchClose (s : State) (v : Nat) (e : List Word) : State := (s.closeQueue (entryWq e)).addJob 3 v e (entryWq e) false

/-- Dispatch of the head entry of a queue: HEAD + 1, then by KIND. -/
def State.dispatch (s : State) (u : Nat) (q : UserQueue) (e : List Word) : State :=
  let t := s.putQueue u q.advance
  match entryKind e with
  | 1 => t.dispatchNode q.vif e
  | 2 => t.dispatchLaunch q.vif e
  | _ => t.dispatchClose q.vif e

/-- A slot with the TIME at which its head entry became eligible brought up to date (R312). -/
def State.watchSlot (s : State) (n : Nat) : State :=
  match Table.find s.hub.slots n with
  | none => s
  | some x =>
    let ok := match s.queue? x.queue with | some q => (s.eligible q).isSome | none => false
    s.modHub fun h => { h with slots := Table.set h.slots n { x with eligibleAt := if ok then some (x.eligibleAt.getD s.time) else none } }

/-- Every bound slot brought up to date. -/
def State.watchSlots (s : State) : State := (s.hub.slots.map (·.1)).foldl State.watchSlot s

/-- ep(s) of a slot whose head entry is eligible (R312). -/
def State.slotPrio (s : State) (n : Nat) : Nat :=
  match Table.find s.hub.slots n with
  | none => 0
  | some x =>
    match s.queue? x.queue, x.eligibleAt with
    | some q, some t => min 7 (q.prio + (s.time - t) / s.hub.ageq)
    | _, _ => 0

/-- The slots whose head entry is eligible, searching upward from ptr and wrapping. -/
def State.eligibleSlots (s : State) : List Nat :=
  ((List.range 1024).map fun n => (s.hub.dispatchPtr + n) % 1024).filter fun n =>
    match Table.find s.hub.slots n with | some x => x.eligibleAt.isSome | none => false

/-- The slot a dispatch cycle takes (R312). -/
def State.pickSlot (s : State) : Option Nat :=
  let l := s.eligibleSlots
  let top := (l.map s.slotPrio).foldl max 0
  l.find? fun n => s.slotPrio n == top

/-- DISPATCH_CYCLE (R312): every 40 ns. -/
def execDispatchCycle (s : State) : Result :=
  if s.time < s.hub.lastDispatch + 40 then .next s
  else
    let t1 := (s.hub.slots.map (·.2.queue)).foldl State.settle s
    let t2 := t1.watchSlots.modHub fun h => { h with lastDispatch := s.time }
    match t2.pickSlot with
    | none => .next t2
    | some n =>
      match Table.find t2.hub.slots n with
      | none => .next t2
      | some x =>
        match t2.queue? x.queue with
        | none => .next t2
        | some q =>
          match t2.eligible q with
          | none => .next t2
          | some e =>
            .next ((t2.dispatch x.queue q e).modHub fun h =>
              { h with slots := Table.set h.slots n { x with usedAt := s.time, eligibleAt := none }, dispatchPtr := (n + 1) % 1024 })

/-! ## The mailbox (R364–R366) -/

def State.modMail (s : State) (f : Mailbox → Mailbox) : State := s.modHub fun h => { h with mailbox := f h.mailbox }

/-- The argument of n bytes at an offset of MGMT. -/
def Mailbox.arg (m : Mailbox) (off n : Nat) : Nat := Memory.getN m.args off n

/-- GO stands for a command, with bit 0 of the first argument when the command asks for it (R366). -/
def State.asks (s : State) (op : Nat) (b : Option Nat) : Bool :=
  s.hub.mailbox.go && s.hub.mailbox.op == op && (match b with | some x => s.hub.mailbox.arg 0x40 1 % 2 == x | none => true)

/-- A command completes: STATUS and the response area, then GO clears. -/
def State.reply (s : State) (status resp0 resp1 : Nat) : State :=
  s.modMail fun m => { m with go := false, status := status, resp0 := word resp0, resp1 := word resp1, sampling := none, config := none }

/-- QCREATE (R308, R366): the lowest free number. -/
def execQcreate (s : State) : Result :=
  if !s.asks 3 (some 0) then .next s
  else
    let m := s.hub.mailbox
    let ring := m.arg 0x48 8 % 2 ^ 52
    let w := m.arg 0x50 8
    let v := s.vif m.vif
    let logN := w % 32
    if ring % 4096 ≠ 0 ∨ logN < 4 ∨ logN > 16 ∨ v.dies = [] ∨ v.asids.length ≤ w / 2 ^ 16 % 16 then .next (s.reply 3 0 0)
    else
      match (List.range 65536).find? fun u => (s.queue? u).isNone with
      | none => .next (s.reply 2 0 2)
      | some u =>
        let q : UserQueue := ⟨m.vif, ring, logN, w / 2 ^ 8 % 8, v.asids.getD (w / 2 ^ 16 % 16) 0, 0, 0, 0, 0, none, none, false⟩
        .next ((s.putQueue u q).reply 0 u 0)

/-- QDESTROY (R365, R366): only a queue of the interface with TAIL = HEAD. -/
def execQdestroy (s : State) : Result :=
  if !s.asks 3 (some 1) then .next s
  else
    let u := s.hub.mailbox.arg 0x58 2
    match s.queue? u with
    | none => .next (s.reply 3 0 0)
    | some q =>
      if q.vif ≠ s.hub.mailbox.vif then .next (s.reply 3 0 0)
      else if q.count ≠ 0 then .next (s.reply 1 0 0)
      else
        .next ((s.modHub fun h =>
          { h with queues := Table.del h.queues u, slots := h.slots.filter fun x => x.2.queue != u }).reply 0 0 0)

/-- WINDOW (R365, R366). -/
def execWindow (s : State) : Result :=
  if !s.asks 5 none then .next s
  else
    let dies := s.hub.mailbox.arg 0x48 2
    if (List.range 16).any fun d => dies.testBit d && s.excluded d then .next (s.reply 2 0 4)
    else .next ((s.modHub fun h => { h with windowAt := some (s.hub.mailbox.arg 0x40 8, dies) }).reply 0 0 0)

/-- RESYNC accepted: the sample's TIME T, a multiple of 1,024 ns at or after the command (R369). -/
def execResync (s : State) : Result :=
  if !s.asks 1 none ∨ s.hub.mailbox.sampling.isSome then .next s
  else if s.hub.mailbox.arg 0x40 8 % 64 ≠ 0 then .next (s.reply 3 0 0)
  else .next (s.modMail fun m => { m with sampling := some ((s.time + 1023) / 1024 * 1024) })

/-! ### The summary (R369); how the words of a section follow each other is the model's choice (notes/assumptions/90.md) -/

/-- A section: its length in bytes, then its words. -/
def section_ (l : List Nat) : List Nat := (8 * l.length) :: l

def Run.num : Run → Nat
  | .stopped => 0 | .free => 1 | .ready => 2 | .waiting _ => 3 | .benched => 4 | .halted => 5 | .exited => 6

def Power.num : Power → Nat
  | .off => 0 | .boot => 1 | .run => 2 | .window => 3

def TraySt.num : TraySt → Nat
  | .running => 0 | .halting _ => 1 | .saved _ => 2

def Rect.num (r : Option Rect) : Nat :=
  match r with
  | some x => x.top + x.left * 2 ^ 7 + x.height * 2 ^ 14 + x.width * 2 ^ 21 + 2 ^ 31
  | none => 0

/-- Physical dies 0–15: excluded and why, orientation, enabled sites, stack, voltage, smallest slack, last window. -/
def State.sumDies (s : State) : List Nat :=
  (List.range 16).flatMap fun d =>
    let x := s.dies.getD d ⟨true, 0, 0, 0, 1, false⟩
    [b2n x.excluded, x.why, d / 4, 6400 - (s.fused.filter fun id => pdieOf id == d).length, 96, x.millivolts, x.slack, x.window]

/-- The configuration of each interface in use (R362). -/
def State.sumVifs (s : State) : List Nat :=
  s.vifs.flatMap fun p =>
    let f := p.2
    [p.1, f.dies.length, f.trays.length, f.asids.length, f.wqs.length, f.poolSize, f.dltime, f.fltime, b2n f.ship, b2n f.debug, f.peers.length,
      f.groups.length, f.routines.length]
    ++ (f.dies.flatMap fun d => [d.1, d.2]) ++ (f.trays.flatMap fun t => t.rects.map Rect.num) ++ f.asids ++ f.wqs
    ++ (f.peers.flatMap fun q => [q.1, q.2.1, q.2.2]) ++ (f.groups.flatMap fun g => g.1 :: g.2.length :: g.2)
    ++ f.routines.flatMap fun r => [r.1, r.2.1, r.2.2]

/-- Each user queue: interface, slot or pending, TAIL, HEAD, SKIPS, invalid entries discarded. -/
def State.sumQueues (s : State) : List Nat :=
  s.hub.queues.flatMap fun q =>
    [q.1, q.2.vif, match q.2.slot with | some n => n + 1 | none => 0, b2n q.2.pendingAt.isSome, q.2.tail, q.2.head, q.2.skips, q.2.discards]

/-- Each tray: its rectangles, saved or running, and the states of the eleven contexts of each of its cores. -/
def State.sumTrays (s : State) : List Nat :=
  s.vifs.flatMap fun p => (List.range p.2.trays.length).flatMap fun t =>
    let x := p.2.trays.getD t Tray.empty
    let ids := s.trayCores p.1 t
    let runs (id : Nat) : List Run :=
      match x.image.find? fun y => y.1 == id with
      | some y => (List.range 11).map fun k => (y.2.1.ctx y.2.2.1 k).st
      | none => (s.ctxsAt id).map (·.st)
    [p.1, t, x.rects.length, x.st.num, ids.length] ++ x.rects.map Rect.num ++ ids.flatMap fun id => id :: (runs id).map Run.num

/-- Of each die the count of each class and the 64 latest records (R350). -/
def State.sumErrors (s : State) : List Nat :=
  (List.range 16).flatMap fun d =>
    let l := s.hub.errlog.filter fun r => r.die == d
    let l := l.drop (l.length - 64)
    ((List.range 8).map fun c => s.hub.logCount.getD (8 * d + c) 0) ++ [s.hub.logLost.getD d 0, l.length]
      ++ l.flatMap fun r => [r.time.toNat, r.w1.toNat, r.addr.toNat, r.w3.toNat]

/-- The words of the summary sampled at TIME t: Header, Dies, Virtual interfaces, Queues, Trays and contexts, Errors, Power. -/
def State.summary (s : State) (t : Nat) : List Nat :=
  section_ [t, Config.firmwareVersion.toNat, s.hub.booted, b2n s.hub.imageFailed] ++ section_ s.sumDies ++ section_ s.sumVifs
    ++ section_ s.sumQueues ++ section_ s.sumTrays ++ section_ s.sumErrors
    ++ section_ [Config.inputVoltage s.fresh, Config.modulePower s.fresh, s.hub.power.num, b2n s.hub.brownout]

/-- RESYNC_SAMPLE (R369): the summary in the host's buffer, or STATUS 3 with its length when the buffer is too small. -/
def execResyncSample (s : State) : Result :=
  match s.hub.mailbox.sampling with
  | none => .next s
  | some t =>
    if s.time < t then .next s
    else
      let w := s.summary t
      let n := 8 * w.length
      let base := s.hub.mailbox.arg 0x40 8
      if s.hub.mailbox.arg 0x48 4 < n then .next (s.reply 3 n 0)
      else
        let u := s.modHub fun h =>
          { h with hostMem := (List.range w.length).foldl (fun m j => Memory.putN m (base + 8 * j) 8 (w.getD j 0 % 2 ^ 64)) h.hostMem }
        .next ({ u with fresh := s.fresh + 1 }.reply 0 n 0)

/-! ## Host accesses (R359, R360) -/

/-- The commands of R365. -/
def knownOp (op : Nat) : Bool := decide (1 ≤ op) && decide (op ≤ 5)

/-- A host write of a mailbox word (R364): ignored while GO = 1; STATUS is 1 while a command runs. -/
def State.mailWrite (s : State) (off : Nat) (v : Word) : State :=
  if off ≠ 0 ∧ (off < 0x40 ∨ off > 0xF8 ∨ off % 8 ≠ 0) then (if off = 0x100 ∨ off = 0x108 then s else s.logHost off)
  else if s.hub.mailbox.go then s
  else if off = 0 then
    let t := s.modMail fun m => { m with op := bits v 7 0, vif := bits v 15 8, go := bit v 16, status := if bit v 16 then 1 else m.status }
    if bit v 16 && !knownOp (bits v 7 0) then t.reply 3 0 0
    else if bit v 16 && decide (bits v 15 8 ≥ 64) then t.reply 3 0 0
    else t
  else s.modMail fun m => { m with args := Memory.putN m.args off 8 v.toNat }

/-- The mailbox as the host reads it (R364, R366). -/
def Mailbox.read (m : Mailbox) (off : Nat) : Option Word :=
  if off = 0 then some (word (m.op + m.vif * 2 ^ 8 + b2n m.go * 2 ^ 16 + m.status * 2 ^ 24))
  else if 0x40 ≤ off ∧ off ≤ 0xF8 ∧ off % 8 = 0 then some (word (m.arg off 8))
  else if off = 0x100 then some m.resp0
  else if off = 0x108 then some m.resp1
  else none

/-- The hub walker's translation for MEM(v) (R359): the key, the leaf's place, or a failure; a leaf with MOVE makes it wait;
`outside` of every window. -/
inductive HostWalk where
  | ok (pa leaf : Nat) | move | fail | outside
  deriving DecidableEq, Repr, Inhabited

def State.hostWalk (s : State) (v va kind : Nat) : HostWalk :=
  if va ≥ 2 ^ 34 ∨ v ≥ 64 then .outside
  else if va % 8 ≠ 0 then .fail
  else
    match (s.vif v).asids with
    | [] => .fail
    | a :: _ =>
      match s.walkOf a va with
      | .page => .fail
      | .leaf pa level e =>
        if bit e 6 then .move
        else if bit e 7 ∨ !leafPermits e kind then .fail
        else
          let p := pteAddr e + va % 2 ^ leafSize level
          if p % 2 ^ 40 < 0x1800000000 ∧ !s.excluded (p / 2 ^ 40) then .ok p pa else .fail

/-- An RLX write of 8 bytes of the host at its home (R360). -/
def State.hostStore (s : State) (key : Nat) (v : Word) : State :=
  s.putEntry key v

/-- Before step 6 of bring-up only MGMT answers (R368). -/
def State.linkUp (s : State) : Bool := match s.hub.power with | .run => true | .window => true | _ => false

/-- HOST_WRITE: the next write of an interface's stream is applied (R360). -/
def execHostWrite (a : HostAddr) (v : Word) (s : State) : Result :=
  if !s.linkUp then .next s
  else
    match a with
    | .mgmt off => .next (s.mailWrite off v)
    | .bell u w =>
      if (s.queue? u).isNone ∨ w ≥ 3 then .next (s.logHost (u * 4096 + 8 * w)) else .next (if w = 0 then s.ring u v else s)
    | .mem vif va =>
      match s.hostWalk vif va 1 with
      | .move => .next s
      | .fail => .next (s.logHost va)
      | .outside => .next (s.logHost va)
      | .ok pa leaf => .next ((s.markLeaf leaf 1).hostStore pa v)

/-- What the host has read. -/
def State.seen (s : State) (v : Word) : Result := .next (s.modHub fun h => { h with hostSeen := v })

/-- HOST_READ: a host read is served at its home (R359, R360); a poisoned word gives a free value. -/
def execHostRead (a : HostAddr) (s : State) : Result :=
  match a with
  | .mgmt off =>
    if !s.linkUp then s.seen (BitVec.allOnes 64)
    else match s.hub.mailbox.read off with | some v => s.seen v | none => (s.logHost off).seen 0
  | .bell u w =>
    match (if s.linkUp then s.queue? u else none) with
    | none => if s.linkUp then (s.logHost (u * 4096 + 8 * w)).seen 0 else .next s
    | some q =>
      if w ≥ 3 then (s.logHost (u * 4096 + 8 * w)).seen 0
      else if w = 1 then s.seen (word q.head)
      else if w = 2 then s.seen (word q.skips)
      else s.seen 0
  | .mem vif va =>
    if !s.linkUp then .next s
    else
      match s.hostWalk vif va 0 with
      | .move => .next s
      | .fail => (s.logHost va).seen (BitVec.allOnes 64)
      | .outside => (s.logHost va).seen 0
      | .ok pa leaf =>
        let t := s.markLeaf leaf 0
        if t.poison.contains (pa / 8) then
          let f := (t.logHost va).freeWord
          f.2.seen f.1
        else t.seen (word (Memory.getN t.mem pa 8))

/-! ## Time, margins, bring-up and power (R337, R355–R358, R368, R370) -/

/-- TIME_BROADCAST: every 1,024 ns the hub sends its count to every die (R337). -/
def execTimeBroadcast (s : State) : Result := .next (s.modHub fun h => { h with timeBase := List.replicate 16 s.time })

/-- The least of a list. -/
def leastOf : List Nat → Nat
  | [] => 0
  | a :: l => l.foldl min a

/-- The smallest slack of a die's 256 path monitors (R357). -/
def dieSlack (slack : List Nat) (d : Nat) : Nat := leastOf ((slack.drop (256 * d)).take 256)

/-- MARGIN_SAMPLE: every 10 s firmware samples the 256 path monitors of each die, and logs the smallest slack of each with CLASS 7 (R357). -/
def execMarginSample (slack : List Nat) (s : State) : Result :=
  if slack.length ≠ 4096 ∨ s.time < s.hub.sampledAt + 10000000000 then .next s
  else
    .next ((List.range 16).foldl (fun s d =>
      if s.excluded d then s
      else
        match s.dies[d]? with
        | some x => { s.logErr 7 0 0 0 (d * 2 ^ 14) (dieSlack slack d) 0 0 0 with dies := s.dies.set d { x with slack := dieSlack slack d } }
        | none => s) (s.modHub fun h => { h with sampledAt := s.time }))

/-- BRING_UP (R355, R356, R368): an image of which either signature fails is not run: the previous accepted one boots, when there is one; a die that
fails authentication or its stack is excluded; every SRAM, tile, slot, register and cache is cleared. -/
def execBringUp (signed : Signed) (dies stackIds : List Bool) (fused : List Nat) (s : State) : Result :=
  let ok := signed.ecdsa && signed.lms
  let said := if ok then s.hub.reports else s.hub.reports ++ [(0, 0x100, 0)]
  if s.hub.power ≠ .boot then .next s
  else if !ok && !s.hub.accepted then .next (s.modHub fun h => { h with reports := said, imageFailed := true })
  else
    let r := State.reset
    .next { r with
      sched := s.sched
      cy := s.cy
      fresh := s.fresh
      seq := s.seq
      cycleBase := s.cycleBase
      mem := s.mem.filter fun c => decide (c.1 < 2 ^ 52)
      fused := fused
      disabled := s.disabled
      dies := (List.range 16).map fun d =>
        ⟨!(dies.getD d false && stackIds.getD d false), 700, 0, 0, if !(dies.getD d false) then 1 else if !(stackIds.getD d false) then 2 else 0, false⟩
      hub := { r.hub with
        power := .run
        hostMem := s.hub.hostMem
        reports := said
        image := s.hub.image
        errlog := s.hub.errlog
        logLost := s.hub.logLost
        logCount := s.hub.logCount
        accepted := true
        booted := if ok then 1 else 2
        imageFailed := !ok || s.hub.imageFailed
        brownout := s.hub.brownout } }

/-- BROWNOUT_RESET (R370): the module resets with no state saved and is off until its input is good again (State.supplied); the next boot reports
it. -/
def execBrownoutReset (s : State) : Result :=
  let r := State.reset
  .next { r with
    sched := s.sched
    fresh := s.fresh
    seq := s.seq
    hub := { r.hub with
      power := .off
      hostMem := s.hub.hostMem
      image := s.hub.image
      reports := s.hub.reports ++ [(0, 0x101, 0)]
      accepted := s.hub.accepted
      brownout := true } }

/-- Power-good: a module that is off begins to boot (R368, R370). -/
def State.supplied (s : State) : State := s.modHub fun h => { h with power := if h.power = .off then .boot else h.power }

/-- The host driver's power limit, from 1,000 W to 4,200 W (R370). -/
def State.setLimit (s : State) (watts : Nat) : State := s.modHub fun h => { h with limit := if 1000 ≤ watts ∧ watts ≤ 4200 then watts else h.limit }

/-- Firmware begins to take a die out of service (R322). -/
def State.dieLeaves (s : State) (d : Nat) : State := { s with dies := s.dies.modify d fun x => { x with leaving := true } }

/-- CORE_POWER_GATE: firmware gates an idle core, none of whose stores is still on its way, so that its TLBs hold nothing, or ungates it (R300,
R370). -/
def execCorePowerGate (core : Nat) (on : Bool) (s : State) : Result :=
  if !((s.ctxsAt core).all fun c => c.st == .stopped || c.st == .free) ∨ !s.enginesIdle core
    ∨ !(s.coreAt core).sbuf.isEmpty ∨ s.oldAccess core then .next s
  else .next (s.modCore core fun c => { c with gated := on, tlb := if on then [] else c.tlb })

end Sys2Proof.Machine
end

