-- ==== Sys2Proof/Machine/Trays.lean ====
section
/-!
DEFINITION. What firmware does with virtual interfaces and trays: VIFCFG (spec/21_host_bringup.md R362, R363, R367), pre-emption,
save, restore and the move of a virtual die (spec/18_scheduling.md R317–R322), maintenance windows
(spec/20_reliability.md R358) and the end of a context after a trap (spec/02_execution_model.md R37).
-/
namespace Sys2Proof.Machine

/-! ## The configuration block (R367) -/

/-- Word at an offset of the block. -/
def State.blk (s : State) (off n : Nat) : Nat := s.hostN (s.hub.mailbox.arg 0x40 8 + off) n

/-- The virtual dies of the block, physical die and GiB of stack. -/
def State.blkDies (s : State) : List (Nat × Nat) :=
  (List.range (s.blk 0 8 % 32)).map fun v => let w := s.blk (0x20 + 8 * v) 8; (w % 16, w / 2 ^ 8 % 256)

/-- The rectangle of tray t on virtual die v, when PRESENT. -/
def State.blkRect (s : State) (t v : Nat) : Option Rect :=
  let w := s.blk (0x320 + 64 * t + 4 * v) 4
  if w / 2 ^ 31 = 1 then some ⟨w % 128, w / 2 ^ 7 % 128, w / 2 ^ 14 % 128, w / 2 ^ 21 % 128⟩ else none

/-- R50: where a tray's rectangle may stand. -/
def Rect.trayOk (r : Rect) : Bool :=
  r.top % 2 == 0 && r.left % 4 == 0 && r.height % 2 == 0 && r.width % 4 == 0 && decide (1 ≤ r.height) && decide (1 ≤ r.width)
    && decide (r.top + r.height ≤ 80) && decide (r.left + r.width ≤ 80)

/-- The trays of the block, as rectangles on its virtual dies. -/
def State.blkTrays (s : State) : List (List (Option Rect)) :=
  (List.range (s.blk 0 8 / 2 ^ 32 % 512)).map fun t => (List.range (s.blk 0 8 % 32)).map fun v => s.blkRect t v

def State.blkAsids (s : State) : List (Nat × Nat) :=
  (List.range (s.blk 0 8 / 2 ^ 16 % 32)).map fun i => let w := s.blk (0x2A0 + 8 * i) 8; (w % 4096, w / 2 ^ 12 % 2 ^ 28 * 65536)

def State.blkWqs (s : State) : List Nat := (List.range 4096).filter fun w => (s.blk (0xA0 + w / 8) 1).testBit (w % 8)

/-- Peer indices with VALID: index, module, log2 of the window. -/
def State.blkPeers (s : State) : List (Nat × Nat × Nat) :=
  (List.range 512).filterMap fun p =>
    let w := s.blk (0x4320 + 8 * p) 8
    if w.testBit 31 then some (p, w % 512, w / 2 ^ 16 % 64) else none

/-- Groups with a VALID member. -/
def State.blkGroups (s : State) : List (Nat × List Nat) :=
  (List.range 512).filterMap fun g =>
    let ms := (List.range 64).filterMap fun i =>
      let w := s.blk (0x5320 + 128 * g + 2 * i) 2
      if w.testBit 15 then some (w % 512) else none
    if ms.isEmpty then none else some (g, ms)

/-- Engine routines with a length: number, address, length. -/
def State.blkRoutines (s : State) : List (Nat × Nat × Nat) :=
  (List.range 240).filterMap fun n =>
    let len := s.blk (0x15320 + 16 * n + 8) 4
    if len = 0 then none else some (n + 16, s.blk (0x15320 + 16 * n) 8, len)

/-- A value outside its range (STATUS 3). -/
def State.blkBad (s : State) : Bool :=
  let w := s.blk 0 8
  let nas := w / 2 ^ 16 % 32
  let ds := s.blkDies
  decide (w % 32 > 16) || decide (nas = 0) || decide (nas > 16) || decide (w / 2 ^ 32 % 512 > 256) || decide (s.blk 8 8 > 1048576)
    || ds.any (fun d => decide (d.2 > 96)) || decide ((ds.map (·.1)).eraseDups.length ≠ ds.length)
    || s.blkTrays.any (fun t => t.any fun r => match r with | some x => !x.trayOk | none => false)
    || s.blkPeers.any (fun p => decide (p.2.2 < 16) || decide (p.2.2 > 38))
    || s.blkRoutines.any (fun r => !(Config.routineAccepted (Memory.getBytes s.hub.hostMem r.2.1 r.2.2)))

/-- The sites of the trays of an interface. -/
def Vif.sites (f : Vif) : List Nat :=
  (f.trays.flatMap fun t => (List.range t.rects.length).flatMap fun vd =>
    match t.rect vd with | some r => r.sites.map fun p => siteId (f.pdie vd) p.1 p.2 | none => []).eraseDups

/-- The slices in the columns of the trays of an interface (R29, R322). -/
def Vif.slices (f : Vif) : List Nat :=
  (f.trays.flatMap fun t => (List.range t.rects.length).flatMap fun vd =>
    match t.rect vd with
    | some r => (List.range r.width).flatMap fun c => [sliceId (f.pdie vd) 126 (r.left + c), sliceId (f.pdie vd) 127 (r.left + c)]
    | none => []).eraseDups

/-- The interface a block describes. -/
def State.blkVif (s : State) : Vif :=
  let w := s.blk 0 8
  let as := s.blkAsids.map (·.1)
  let f : Vif :=
    { Vif.empty with
      dies := s.blkDies
      asids := as
      wqs := s.blkWqs
      poolSize := s.blk 8 8
      dltime := if s.blk 0x10 4 = 0 then 65536 else s.blk 0x10 4
      fltime := if s.blk 0x18 4 = 0 then 50000 else s.blk 0x18 4
      ship := w.testBit 8
      debug := w.testBit 9
      peers := s.blkPeers
      groups := s.blkGroups
      routines := s.blkRoutines }
  { f with
    trays := s.blkTrays.map fun rs =>
      let off := (List.range rs.length).flatMap fun vd =>
        match rs.getD vd none with
        | some r => (r.sites.filter fun p => s.disabled.contains (siteId (f.pdie vd) p.1 p.2)).map fun p => (vd, p.1, p.2)
        | none => []
      { Tray.empty with rects := rs, off := off, asid := as.headD 0, program := s.hub.image } }

/-- Cores granted to an interface. -/
def State.vifCores (s : State) (v : Nat) : List Nat := s.sites.filter fun id => match (s.coreAt id).tray with | some t => t.1 == v | none => false

/-- Every context of the interface is Stopped, or Free, those of its saved trays among them (R365). -/
def State.vifIdle (s : State) (v : Nat) : Bool :=
  ((s.vifCores v).all fun id => (s.ctxsAt id).all fun c => c.st == .stopped || c.st == .free)
    && (s.vif v).trays.all fun t => t.image.all fun x => (List.range 11).all fun k => (x.2.1.ctx x.2.2.1 k).st == .stopped || (x.2.1.ctx x.2.2.1 k).st == .free

/-- The GiB of a stack that an interface holds. -/
def Vif.units (f : Vif) (d : Nat) : List Nat := (f.regions.filter fun x => x.1 == d).flatMap (·.2)

/-- The n GiB of a stack that an interface is granted: those it holds, then the lowest that nobody holds (R363; notes/assumptions/46.md). -/
def State.stackUnits (s : State) (v d n : Nat) : List Nat :=
  let mine := (s.vif v).units d
  let others := (s.vifs.filter fun p => p.1 != v).flatMap fun p => p.2.units d
  (mine ++ (List.range 96).filter fun u => !(mine.contains u) && !(others.contains u)).take n

/-- Something the block asks for is granted to another interface, or a stack is asked for beyond its 96 GiB (R363, R367). -/
def State.taken (s : State) (v : Nat) (f : Vif) : Bool :=
  let others := s.vifs.filter fun p => p.1 != v
  others.any (fun p =>
    (p.2.sites.any fun id => f.sites.contains id) || (p.2.slices.any fun n => f.slices.contains n)
      || (p.2.wqs.any fun q => f.wqs.contains q) || (p.2.asids.any fun a => f.asids.contains a))
  || f.dies.any fun d => decide ((s.stackUnits v d.1 d.2).length < d.2)

/-- The bytes of a range of keys cleared, with poison and stamps. -/
def State.clearKeys (s : State) (lo n : Nat) : State :=
  let out (k : Nat) : Bool := decide (k < lo) || decide (lo + n ≤ k)
  { s with
    mem := s.mem.filter fun c => out c.1
    poison := s.poison.filter fun w => out (8 * w)
    stamps := s.stamps.filter fun p => out (8 * p.1) }

/-- The cores of an interface taken back from it. -/
def State.ungrant (s : State) (v : Nat) : State := (s.vifCores v).foldl (fun s id => s.modCore id fun c => { c with tray := none }) s

/-- A core granted to tray t of interface v: SRAM and state cleared unless the interface held it before (R363). -/
def State.grantCore (s : State) (v t asid : Nat) (before : List Nat) (id : Nat) : State :=
  let u :=
    if before.contains id then s
    else (((s.keepClock id).clearKeys (sramKey id 0) (2 ^ 15)).modAll id fun k _ => Context.reset k).modCore id fun _ => Core.reset
  let w := u.modAll id fun _ c => { c with asid := word asid, gen := word (s.genOf asid), trapdeleg := Tray.empty.trapdeleg }
  w.modCore id fun c => { c with tray := some (v, t), limits := ((w.vif v).trays.getD t Tray.empty).program.limits }

/-- A slice granted: SRAM and tiles cleared (R363). -/
def State.grantSlice (s : State) (n : Nat) : State :=
  let t := s.clearKeys (sliceKey n 0) (2 ^ 21)
  { t with
    tiles := t.tiles.filter fun p => p.1 / 256 != n
    tileGens := t.tileGens.filter fun p => p.1 / 256 != n
    nodes := t.nodes.filter fun p => (p.1 - 2 ^ 53) / 2 ^ 21 != n }

/-- Pages of GiB of a stack newly held by an interface are cleared (R363). -/
def State.clearUnits (s : State) (d : Nat) (units : List Nat) : State := units.foldl (fun s u => s.clearKeys (d * 2 ^ 40 + u * 2 ^ 30) (2 ^ 30)) s

/-- No entry of the second-level TLB beside a core newly granted is one of an earlier use of the interface's ASIDs (R302). -/
def State.sweepOctet (s : State) (asids : List Nat) (id : Nat) : State :=
  { s with tlb2 := Table.set s.tlb2 (octetOf id) (((Table.find s.tlb2 (octetOf id)).getD []).filter fun x => !(asids.contains x.asid)) }

/-- The ASID table with the block's roots, each under a raised generation (R295, R302). -/
def State.setRoots (s : State) : State :=
  s.blkAsids.foldl (fun t a =>
    let u := t.raiseGen a.1
    { u with asids := u.asids.map fun x => if x.1 = a.1 then (x.1, a.2, x.2.2) else x }) s

/-- An interface configured as its block says: a core belongs to the first of its trays that contains it. -/
def State.configure (s : State) (v : Nat) (f : Vif) : State :=
  let old := s.vif v
  let before := s.vifCores v
  let s0 := f.dies.foldl (fun t d => t.clearUnits d.1 ((s.stackUnits v d.1 d.2).filter fun u => !((old.units d.1).contains u))) s
  let s1 := (((f.sites.filter fun id => !(before.contains id)).foldl (fun t id => t.sweepOctet f.asids id) s0)).ungrant v
  let s2 := (f.slices.filter fun n => !(old.slices.contains n)).foldl State.grantSlice s1
  let s3 := (f.wqs.filter fun q => !(old.wqs.contains q)).foldl (fun s q => s.setWq q ⟨false, [], []⟩) s2
  let s4 := { s3 with vifs := Table.set s3.vifs v { f with regions := f.dies.map fun d => (d.1, s.stackUnits v d.1 d.2) } }
  (List.range f.trays.length).foldl (fun s t =>
    ((s.trayCores v t).filter fun id => (s.coreAt id).tray.isNone).foldl (fun s id => s.grantCore v t (f.asids.headD 0) before id) s) s4

/-- An interface retired: its cores, its user queues and their slots go. -/
def State.retireVif (s : State) (v : Nat) : State :=
  let us := (s.hub.queues.filter fun p => p.2.vif == v).map (·.1)
  let t := { s.ungrant v with vifs := Table.del s.vifs v }
  t.modHub fun h => { h with queues := h.queues.filter fun p => p.2.vif != v, slots := h.slots.filter fun p => !(us.contains p.2.queue) }

/-- A configuration block checked whole before anything changes (R365, R367): refused, the interface retired, or accepted, its roots standing under
raised generations. -/
def State.acceptBlock (s : State) : State :=
  let m := s.hub.mailbox
  if m.arg 0x40 8 % 4096 ≠ 0 ∨ m.arg 0x48 4 < 0x16220 then s.reply 3 0 0
  else if s.blk 0 8 % 32 = 0 then (if s.vifIdle m.vif then (s.retireVif m.vif).reply 0 0 0 else s.reply 2 0 1)
  else if s.blkBad then s.reply 3 0 0
  else if !s.vifIdle m.vif then s.reply 2 0 1
  else if s.blkDies.any fun d => s.excluded d.1 then s.reply 2 0 4
  else if s.taken m.vif s.blkVif then s.reply 2 0 2
  else s.setRoots.modMail fun m => { m with config := some s.blkVif }

/-- VIFCFG (R365, R367): the raises of the block's ASIDs are acknowledged before a core is granted (R299, R300, R302). -/
def execVifcfg (s : State) : Result :=
  if !s.asks 2 none then .next s
  else
    match s.hub.mailbox.config with
    | none => .next s.acceptBlock
    | some f => .next (if f.asids.any s.genOpen then s else (s.configure s.hub.mailbox.vif f).reply 0 0 0)

/-! ## Pre-emption (R317–R320) -/

/-- A tray of an interface. -/
def State.tray? (s : State) (v t : Nat) : Option Tray := (s.vif v).trays[t]?

def State.modTray (s : State) (v t : Nat) (f : Tray → Tray) : State :=
  { s with vifs := Table.set s.vifs v { s.vif v with trays := (s.vif v).trays.modify t f } }

/-- The cores that run a tray: granted to it and enabled. -/
def State.coresOf (s : State) (v t : Nat) : List Nat := s.sites.filter fun id => (s.coreAt id).tray == some (v, t)

/-- The halt request: H = TIME + 90 at every core of the tray (R317). -/
def State.askHalt (s : State) (v t : Nat) (window : Bool) : State :=
  let h := s.time + 90
  ((s.coresOf v t).foldl (fun s id => s.modCore id fun c => { c with haltAt := some h }) s).modTray v t fun x => { x with st := .halting window }

/-- PREEMPT (R366): GO clears when the tray is saved. -/
def execPreempt (s : State) : Result :=
  if !s.asks 4 (some 0) then .next s
  else
    let v := s.hub.mailbox.vif
    let t := s.hub.mailbox.arg 0x48 1
    match s.tray? v t with
    | none => .next (s.reply 3 0 0)
    | some x =>
      match x.st with
      | .running => .next (s.askHalt v t false)
      | .halting _ => .next s
      | .saved _ => .next (s.reply 2 0 3)

/-- CORE_PREEMPT_HALT: the cores of one die halt in the first cycle whose TIME is at least H (R317), behind a resume that is due as well (R321). -/
def execCorePreemptHalt (core : Nat) (s : State) : Result :=
  match (s.coreAt core).haltAt with
  | none => .next s
  | some h =>
    if s.time < h ∨ (s.coreAt core).resumeAt.isSome then .next s
    else
      let ids := s.sites.filter fun id => pdieOf id == pdieOf core && (s.coreAt id).haltAt == some h && (s.coreAt id).resumeAt.isNone
      .next (ids.foldl (fun s id => (s.haltCore id).modCore id fun c => { c with haltAt := none, haltCy := cycleOfTime h }) s)

/-- Step 1 of R320 at a core: its store buffer is empty, every reply has arrived, its engines are frozen with no step still to end. -/
def State.quiet (s : State) (id : Nat) : Bool :=
  let c := s.coreAt id
  c.haltAt.isNone && c.sbuf.isEmpty && c.acks.isEmpty && c.frozen && !(c.cmds.any (c.stepOpen s.cy))
    && (c.cmds.all fun m => m.awaits.isEmpty || m.code != 0)
    && (s.ctxsAt id).all fun x => x.await.isNone && !x.asked && x.tickets.all fun t => t.answer.isSome

/-- The image of a core: its state and the bytes of its local SRAM. -/
def State.snapshot (s : State) (id : Nat) : Nat × Core × Context × List Byte :=
  (id, s.coreAt id, s.cxAt id (s.coreAt id).k, Memory.getBytes s.mem (sramKey id 0) 32768)

/-- TRAY_SAVE (R320): every core of a halted tray is saved, with its phalanxes; a PREEMPT that asked for it completes. -/
def execTraySave (vif tray : Nat) (s : State) : Result :=
  match s.tray? vif tray with
  | none => .next s
  | some x =>
    match x.st with
    | .halting w =>
      let ids := s.coresOf vif tray
      if !(ids.all s.quiet) then .next s
      else
        let mine (p : Phalanx) : Bool := p.members.any ids.contains
        let u := s.modTray vif tray fun x => { x with st := .saved w, image := ids.map s.snapshot, phalanxes := s.phalanxes.filter mine }
        let t := { u with phalanxes := u.phalanxes.filter fun p => !mine p }
        .next (if !w && s.asks 4 (some 0) && s.hub.mailbox.vif == vif && s.hub.mailbox.arg 0x48 1 == tray then t.reply 0 0 0 else t)
    | _ => .next s

/-! ## Moving a virtual die (R322) -/

/-- A move of the sites and slices of an interface from one physical die to another. -/
structure DieMove where
  from_ : Nat
  dst : Nat
  sites : List Nat
  slices : List Nat
  deriving DecidableEq, Repr, Inhabited

def dieSite (m : DieMove) (id : Nat) : Nat := if m.sites.contains id then id % 6400 + m.dst * 6400 else id
def dieSlice (m : DieMove) (n : Nat) : Nat := if m.slices.contains n then n % 160 + m.dst * 160 else n

/-- A key after the move. -/
def dieKey (m : DieMove) (k : Nat) : Nat :=
  match homeOf k with
  | .core id => sramKey (dieSite m id) ((k - 2 ^ 52) % 2 ^ 15)
  | .slice n => sliceKey (dieSlice m n) ((k - 2 ^ 53) % 2 ^ 21)
  | _ => k

/-- A key whose place the move overwrites. -/
def dieOver (m : DieMove) (k : Nat) : Bool :=
  match homeOf k with
  | .core id => m.sites.any fun x => x % 6400 + m.dst * 6400 == id
  | .slice n => m.slices.any fun x => x % 160 + m.dst * 160 == n
  | _ => false

def dieSrc (m : DieMove) : Src → Src
  | .ctx id k => .ctx (dieSite m id) k
  | .engine id t => .engine (dieSite m id) t
  | .node id => .node (dieSite m id)
  | .host v => .host v

def dieBody (m : DieMove) : Body → Body
  | .store k n v => .store (dieKey m k) n v
  | .bits k n v b => .bits (dieKey m k) n v b
  | .amo op k n x e more r d => .amo op (dieKey m k) n x e more r d
  | .push k q => .push (dieKey m k) q
  | .deps k => .deps (dieKey m k)
  | b => b

def dieEntry (m : DieMove) (e : Entry) : Entry :=
  let b := dieBody m e.body
  let d : Home := match b with | .store k _ _ => homeOf k | .bits k _ _ _ => homeOf k | .push k _ => homeOf k | .amo _ k _ _ _ _ _ _ => homeOf k | .deps k => homeOf k | _ => e.dest
  { e with src := dieSrc m e.src, dest := d, body := b }

def dieStamp (m : DieMove) (s : Stamp) : Stamp := s.map fun t => { t with writer := dieSite m t.writer }

def dieCmd (m : DieMove) (c : Cmd) : Cmd :=
  { c with awaits := c.awaits.map fun a => (a.1, a.2.map fun p => (dieKey m p.1, p.2)) }

/-- A core after the move: what it names of moved cores and slices; lent words go back to their lenders. -/
def dieCore (m : DieMove) (c : Core) : Core :=
  { c with
    node := c.node.map fun n => (dieKey m n.1, n.2)
    pushes := c.pushes.map fun p => if p.1 then p else (p.1, dieKey m p.2)
    staging := c.staging.map fun t => { t with e := dieEntry m t.e }
    cmds := c.cmds.map (dieCmd m)
    signals := c.signals.map fun g => { g with core := dieSite m g.core }
    credits := []
    benched := [] }

/-- A context after the move: the keys of its answered tickets. -/
def dieCx (m : DieMove) (c : Context) : Context := { c with tickets := c.tickets.map fun t => { t with key := dieKey m t.key } }

/-- A core with its contexts, moved. -/
def diePair (m : DieMove) (p : Core × Context) : Core × Context :=
  ({ dieCore m p.1 with parked := p.1.parked.map fun x => (x.1, dieCx m x.2) }, dieCx m p.2)

/-- The cells of a memory after the move, in canonical form. -/
def dieMem (m : DieMove) (l : List Host.Cell) : List Host.Cell :=
  let kept := l.filter fun c => dieKey m c.1 == c.1 && !dieOver m c.1
  (l.filter fun c => dieKey m c.1 != c.1).foldl (fun a c => Memory.put a (dieKey m c.1) c.2) kept

/-- A table keyed by places, after the move. -/
def dieTable {α : Type} (f : Nat → Nat) (overBy : Nat → Bool) (l : List (Nat × α)) : List (Nat × α) :=
  (l.filter fun p => f p.1 != p.1).foldl (fun a p => Table.set a (f p.1) p.2) (l.filter fun p => f p.1 == p.1 && !overBy p.1)

def dieEpisode (m : DieMove) (e : Episode) : Episode :=
  { e with arrived := e.arrived.map fun a => (dieSite m a.1, a.2), released := e.released.map (dieSite m), left := e.left.map (dieSite m) }

def dieDomain (m : DieMove) (d : Domain) : Domain :=
  { d with
    issued := d.issued.map (dieSite m)
    wires := d.wires.map fun w => (dieSite m w.1, w.2)
    drives := d.drives.map fun w => (dieSite m w.1, w.2)
    latched := d.latched.map (dieSite m) }

def diePhalanx (m : DieMove) (p : Phalanx) : Phalanx := { p with leader := dieSite m p.leader, members := p.members.map (dieSite m) }

def dieTray (m : DieMove) (t : Tray) : Tray :=
  { t with
    image := t.image.map fun x => (dieSite m x.1, (diePair m (x.2.1, x.2.2.1)).1, (diePair m (x.2.1, x.2.2.1)).2, x.2.2.2)
    phalanxes := t.phalanxes.map (diePhalanx m) }

def dieTorus (m : DieMove) (t : Torus) : Torus :=
  { t with
    inject := t.inject.map fun q => (dieSite m q.1, { q.2 with core := if q.2.src = Config.torusSelf then dieSite m q.2.core else q.2.core })
    mcast := t.mcast.map fun x => { x with core := if x.src = Config.torusSelf then dieSite m x.core else x.core }
    owedAcks := t.owedAcks.map fun a => { a with core := dieSite m a.core } }

/-- Every core of the module after the move; the sites left behind are as reset leaves them. -/
def dieCores (m : DieMove) (s : State) : State :=
  let v := match m.sites with | [] => s | a :: _ => s.toCore a
  let rest := v.others.filter fun p => !(m.sites.any fun x => x % 6400 + m.dst * 6400 == p.1)
  let p := diePair m (v.core, v.cx)
  { v with id := dieSite m v.id, core := p.1, cx := p.2, others := rest.foldl (fun a q => Table.set a (dieSite m q.1) (diePair m q.2)) [] }

/-- The stack of the new die that goes with virtual die vd, granted beside what the interface holds (R322, R363). -/
def State.grantStack (s : State) (v vd dst : Nat) : State :=
  let f := s.vif v
  let us := s.stackUnits v dst (f.dies.getD vd (0, 0)).2
  if 16 ≤ dst then s
  else
    let t := s.clearUnits dst (us.filter fun u => !((f.units dst).contains u))
    { t with vifs := Table.set t.vifs v { f with regions := f.regions ++ [(dst, us.filter fun u => !((f.units dst).contains u))] } }

/-- The state after the move of interface v's sites and slices (R322 step 2). -/
def State.moveDie (s : State) (v vd : Nat) (m : DieMove) : State :=
  let t := dieCores m (m.sites.foldl State.keepClock (s.grantStack v vd m.dst))
  let word_ (w : Nat) : Nat := dieKey m (8 * w) / 8
  let tile (k : Nat) : Nat := dieSlice m (k / 256) * 256 + k % 256
  let overBy (k : Nat) : Bool := m.slices.any fun x => x % 160 + m.dst * 160 == k / 256
  let f := t.vif v
  let f2 : Vif :=
    { f with
      dies := f.dies.modify vd fun d => (m.dst, d.2)
      pool := f.pool.map (dieKey m)
      trays := f.trays.map fun x =>
        let y := dieTray m x
        match y.rect vd with
        | some r => { y with off := y.off ++ ((r.sites.filter fun p => s.fused.contains (siteId m.from_ p.1 p.2) && !(y.off.contains (vd, p.1, p.2))).map fun p => (vd, p.1, p.2)) }
        | none => y }
  { t with
    mem := dieMem m t.mem
    poison := (t.poison.filter fun w => !(dieOver m (8 * w) && word_ w == w)).map word_
    order := dieTable word_ (fun w => dieOver m (8 * w)) t.order
    stamps := dieTable word_ (fun w => dieOver m (8 * w)) (t.stamps.map fun p => (p.1, dieStamp m p.2.1, dieStamp m p.2.2))
    vifs := Table.set t.vifs v f2
    wqueues := t.wqueues.map fun q => (q.1, { q.2 with items := q.2.items.map (dieKey m), waiters := q.2.waiters.filter fun w => !(m.sites.contains w.1) })
    nodes := dieTable (dieKey m) (dieOver m) (t.nodes.map fun n => (n.1, { n.2 with owner := n.2.owner.map (dieSite m) }))
    episodes := t.episodes.map (dieEpisode m)
    domains := t.domains.map (dieDomain m)
    phalanxes := t.phalanxes.map (diePhalanx m)
    tiles := dieTable tile overBy t.tiles
    tileGens := dieTable tile overBy t.tileGens
    moves := t.moves.map fun x => { x with core := dieSite m x.core }
    torus := dieTorus m t.torus
    hub := { t.hub with jobs := t.hub.jobs.map fun j => if j.kind = 1 then { j with obj := dieKey m j.obj } else j,
                        selected := (dieSite m t.hub.selected.1, t.hub.selected.2) } }

/-- The rebinding of virtual die vd of an interface to a physical die. -/
def Vif.moveOf (f : Vif) (vd dst : Nat) : DieMove :=
  let p := f.pdie vd
  ⟨p, dst, f.sites.filter fun id => pdieOf id == p, f.slices.filter fun n => n / 160 == p⟩

/-- Work towards, or from, the places a move concerns is still on its way (R322 step 1). -/
def State.moveBusy (s : State) (m : DieMove) : Bool :=
  let there : Home → Bool := fun h => match h with | .core id => m.sites.contains id | .slice n => m.slices.contains n | _ => false
  (s.flight.any fun x => m.sites.contains x.core || there x.dest) || s.sites.any fun id => (s.coreAt id).sbuf.any fun e => there e.dest

/-- The bindings RESUME asks for: virtual die and physical die, where it changes. -/
def State.rebinds (s : State) (f : Vif) : List (Nat × Nat) :=
  (List.range f.dies.length).filterMap fun vd =>
    let b := s.hub.mailbox.arg (0x50 + vd) 1
    if b = 0xFF ∨ b = f.pdie vd then none else some (vd, b)

/-- Trays of the interface on a virtual die that are neither saved nor idle. -/
def State.othersBusy (s : State) (v : Nat) (vds : List Nat) : Bool :=
  (s.vifCores v).any fun id =>
    vds.contains ((s.vif v).vdOf (pdieOf id)) && !s.startable id
      && !(match (s.coreAt id).tray with | some p => ((s.vif v).trays.getD p.2 Tray.empty).st.isSaved | none => true)

/-- The new die lacks a site enabled for a tray of the interface, or the site or slice is another interface's, or its stack has no room (R322,
R363). -/
def State.dieLacks (s : State) (v vd : Nat) (m : DieMove) : Bool :=
  let f := s.vif v
  let dst := m.sites.map fun id => (id, id % 6400 + m.dst * 6400)
  let used := ((List.range f.trays.length).flatMap fun t => s.trayCores v t).filter fun id => pdieOf id == m.from_
  let n := (f.dies.getD vd (0, 0)).2
  used.any (fun id => let q := id % 6400 + m.dst * 6400; s.fused.contains q || s.disabled.contains q)
    || decide ((s.stackUnits v m.dst n).length < n) || (s.vifs.filter fun p => p.1 != v).any fun p =>
        (dst.any fun q => p.2.sites.contains q.2) || m.slices.any fun n => p.2.slices.contains (n % 160 + m.dst * 160)

/-- Why a rebinding is refused: STATUS and reason. -/
def State.rebindBad (s : State) (v : Nat) (l : List (Nat × Nat)) : Option (Nat × Nat) :=
  let f := s.vif v
  let ds := (List.range f.dies.length).map fun vd => match l.find? fun p => p.1 == vd with | some p => p.2 | none => f.pdie vd
  if l.any (fun p => p.2 ≥ 16) ∨ ds.eraseDups.length ≠ ds.length then some (3, 0)
  else if l.any fun p => s.excluded p.2 then some (2, 4)
  else if s.othersBusy v (l.map (·.1)) then some (2, 3)
  else if l.any fun p => s.dieLacks v p.1 (f.moveOf p.1 p.2) then some (2, 2)
  else none

/-- VIRTUAL_DIE_REMAP: the rebindings at once. When a new die is one the interface still uses, every virtual die that moves first stands apart, under
a number no physical die has, so that none is overwritten. -/
def State.rebindAll (s : State) (v : Nat) (l : List (Nat × Nat)) : State :=
  let go (s : State) (p : Nat × Nat) : State := s.moveDie v p.1 ((s.vif v).moveOf p.1 p.2)
  if l.any fun p => (s.vif v).dies.any fun d => d.1 == p.2 then
    l.foldl go ((l.map fun p => (p.1, 17 + p.1)).foldl go s)
  else l.foldl go s

/-- A 64 KiB page of a table, with `n` levels still to read, lies on the stack of die d. -/
def State.pageOn (s : State) (d : Nat) : Nat → Nat → Nat → Bool
  | 0, _, _ => false
  | n + 1, level, table =>
    (List.range (match level with | 1 => 8192 | 4 => 32 | _ => 512)).any fun i =>
      let e := s.pte (table + 8 * i)
      bit e 0 && (if bit e 1 then level == 4 && pteAddr e / 2 ^ 40 == d else decide (level < 4) && s.pageOn d n (level + 1) (pteAddr e))

/-- A page of the interface still lies on the old stack of a virtual die that is rebound because its old die leaves service: firmware moves it
(PAGE_MOVE) before the tray is restored (R322 step 3). -/
def State.pagesLeft (s : State) (v : Nat) (l : List (Nat × Nat)) : Bool :=
  let f := s.vif v
  l.any fun p =>
    (match s.dies[f.pdie p.1]? with | some x => x.leaving | none => false) && f.asids.any fun a => s.pageOn (f.pdie p.1) 4 1 (s.rootOf a)

/-! ## Restore (R321) -/

/-- One core of a saved image put back where another tray has used the site since; elsewhere the core still stands as saved. -/
def State.restoreCore (s : State) (v t : Nat) (x : Nat × Core × Context × List Byte) : State :=
  if (s.coreAt x.1).tray = some (v, t) then s
  else
    let u := s.clearKeys (sramKey x.1 0) (2 ^ 15)
    let w := { u with mem := Memory.putBytes u.mem (sramKey x.1 0) x.2.2.2 }
    (w.putCoreImage x.1 x.2.1 x.2.2.1).modCore x.1 fun c => { c with tray := some (v, t), haltCy := x.2.1.haltCy }

/-- A saved tray released with resume time Q = TIME + 90; its contexts hold the current generation (R321). -/
def State.release_ (s : State) (v t : Nat) : State :=
  let q := s.time + 90
  let img := match s.tray? v t with | some x => x.image | none => []
  let u := img.foldl (fun s x => s.restoreCore v t x) s
  let w := (u.coresOf v t).foldl (fun s id =>
    (s.modAll id fun _ c => { c with gen := word (s.genOf (bits c.asid 11 0)) }).modCore id fun c =>
      { c with resumeAt := some q, cmds := c.cmds.map fun m => if m.active then { m with gen := s.genOf m.asid } else m }) u
  let kept := match s.tray? v t with | some x => x.phalanxes | none => []
  { w with phalanxes := w.phalanxes ++ kept }.modTray v t fun x => { x with st := .running, image := [], phalanxes := [] }

/-- The sites of a saved tray are in use by another. -/
def State.siteBusy (s : State) (v t : Nat) : Bool :=
  match s.tray? v t with
  | none => false
  | some x => x.image.any fun y =>
      (s.coreAt y.1).tray != some (v, t) && !s.startable y.1
        && !(match (s.coreAt y.1).tray with | some p => ((s.vif p.1).trays.getD p.2 Tray.empty).st.isSaved | none => true)

/-- RESUME (R321, R322, R366): it waits for work still on its way to a die that is left, for the pages of a stack that leaves
service, and for what another tray's engines have accepted on its sites (R256). -/
def execResume (s : State) : Result :=
  if !s.asks 4 (some 1) then .next s
  else
    let v := s.hub.mailbox.vif
    let t := s.hub.mailbox.arg 0x48 1
    match s.tray? v t with
    | none => .next (s.reply 3 0 0)
    | some x =>
      if !x.st.isSaved ∨ s.siteBusy v t then .next (s.reply 2 0 3)
      else
        let l := s.rebinds (s.vif v)
        match s.rebindBad v l with
        | some r => .next (s.reply r.1 0 r.2)
        | none =>
          if (l.any fun p => s.moveBusy ((s.vif v).moveOf p.1 p.2)) || s.pagesLeft v l || (x.image.any fun y => (s.coreAt y.1).tray != some (v, t) && !s.enginesIdle y.1) then .next s
          else .next (((s.rebindAll v l).release_ v t).reply 0 0 0)

/-- Slot 0 of the transfer phases of a tray on a virtual die moves by the cycles of a halt (R319, R321). -/
def State.shiftDomains (s : State) (v t vd n : Nat) : State :=
  { s with domains := s.domains.map fun d => if d.vif = v ∧ d.tray = t ∧ d.phase = 2 ∧ bits d.name 7 4 = vd then { d with start := d.start + n } else d }

/-- CORE_RESUME: the cores of one die leave Halted in the first cycle whose TIME is at least Q (R321); one halted by `jdb` as well stays
so. -/
def execCoreResume (core : Nat) (s : State) : Result :=
  match (s.coreAt core).resumeAt with
  | some q =>
    if s.time < q then .next s
    else
      let ids := s.sites.filter fun id => pdieOf id == pdieOf core && (s.coreAt id).resumeAt == some q
      let moves := (ids.filterMap fun id => (s.coreAt id).tray.map fun p => (p, s.cy - (s.coreAt id).haltCy)).eraseDups
      let u := moves.foldl (fun s x => s.shiftDomains x.1.1 x.1.2 ((s.vif x.1.1).vdOf (pdieOf core)) x.2) s
      .next (ids.foldl (fun s id =>
        let t := s.shiftTimes id (s.cy - (s.coreAt id).haltCy)
        if (s.coreAt id).debugged then t.modCore id fun c => { c with resumeAt := none, haltCy := s.cy } else t.resumeCore id) u)
  | none => .next s

/-! ## Maintenance windows (R358) -/

/-- Trays with a core on one of the dies, as (interface, tray). -/
def State.traysOn (s : State) (dies : Nat) : List (Nat × Nat) :=
  s.vifs.flatMap fun p => (List.range p.2.trays.length).filterMap fun t =>
    if (s.coresOf p.1 t).any fun id => dies.testBit (pdieOf id) then some (p.1, t) else none

def TraySt.isRunning : TraySt → Bool
  | .running => true
  | _ => false

/-- The voltages firmware may set, in steps of 5 mV from 0.70 V to 0.85 V; the smallest slack of die d at the k-th of them, where a list holds those of
each die in turn. -/
def voltSteps : List Nat := (List.range 31).map fun k => 700 + 5 * k
def slackAt (slack : List Nat) (d v : Nat) : Nat := slack.getD (31 * d + (v - 700) / 5) 0

/-- The lowest voltage at which a die's smallest slack is at least 50 ps, or the highest. -/
def windowVolt (slack : List Nat) (d : Nat) : Nat := (voltSteps.find? fun v => decide (50 ≤ slackAt slack d v)).getD 850

/-- The jobs that launched a tray have failed (R314). -/
def State.failLaunch (s : State) (v t : Nat) : State :=
  s.modHub fun h => { h with jobs := h.jobs.map fun j => if j.kind = 2 ∧ j.vif = v ∧ j.obj = t ∧ j.ended = none then { j with failed := true } else j }

/-- The rebindings by which a tray leaves the dies that have lost a site of it, onto dies of a list that can take them (R322). -/
def State.wayOut (s : State) (v : Nat) (spare : List Nat) : List Nat → List (Nat × Nat) → Option (List (Nat × Nat))
  | [], l => some l
  | vd :: vds, l =>
    match spare.find? fun d => (s.rebindBad v (l ++ [(vd, d)])).isNone with
    | some d => s.wayOut v spare vds (l ++ [(vd, d)])
    | none => none

/-- A tray that a window has saved is released; one saved before stays so. -/
def State.windowEnds (s : State) (p : Nat × Nat) : State :=
  match s.tray? p.1 p.2 with
  | some x => if x.st = .saved true then s.release_ p.1 p.2 else s
  | none => s

/-- A saved tray that cannot be restored ends, with the FVAL of its job (R358). -/
def State.dropTray (s : State) (p : Nat × Nat) : State :=
  let t := (s.coresOf p.1 p.2).foldl (fun s id =>
    (s.keepClock id).modAll id fun k c => { Context.reset k with asid := c.asid, gen := c.gen, trapdeleg := c.trapdeleg, sslim := c.sslim }) s
  (t.modTray p.1 p.2 fun x => { x with st := .running, image := [], phalanxes := [] }).failLaunch p.1 p.2

/-- A saved tray after a window: released; one of whose sites has been disabled is restored on another die, of those firmware has to spare, or ends. -/
def State.afterWindow (spare : List Nat) (s : State) (p : Nat × Nat) : State :=
  let bad := (((s.coresOf p.1 p.2).filter s.disabled.contains).map fun id => (s.vif p.1).vdOf (pdieOf id)).eraseDups
  if bad.isEmpty then s.windowEnds p
  else
    match s.wayOut p.1 spare bad [] with
    | some l => (s.rebindAll p.1 l).windowEnds p
    | none => s.dropTray p

/-- A window's new voltages and disabled sites. -/
def State.replan (s : State) (dies : Nat) (slack off : List Nat) : State :=
  let ds := (List.range s.dies.length).map fun d =>
    let x := s.dies.getD d ⟨true, 700, 0, 0, 1, false⟩
    if dies.testBit d && !x.excluded then { x with millivolts := windowVolt slack d, slack := slackAt slack d (windowVolt slack d), window := s.time } else x
  let bad := off.filter fun id => dies.testBit (pdieOf id) && decide (slackAt slack (pdieOf id) (windowVolt slack (pdieOf id)) < 50)
  { s with dies := ds, disabled := s.disabled ++ bad.filter fun id => !(s.disabled.contains id) }

/-- MAINTENANCE_WINDOW (R358): at its TIME every tray with a core on a covered die is halted; once all are saved, and nothing
is on its way to the dies (R322), the voltages are set, at which the module draws `watts`, within 4,200 W, and the window ends. -/
def execMaintenanceWindow (slack : List Nat) (watts : Nat) (sites : WindowSites) (s : State) : Result :=
  match s.hub.windowAt with
  | none => .next s
  | some (t, dies) =>
    if s.time < t then .next s
    else
      let ts := s.traysOn dies
      let open_ := ts.filter fun p => match s.tray? p.1 p.2 with | some x => x.st.isRunning | none => false
      if !open_.isEmpty then
        .next ((open_.foldl (fun s p => s.askHalt p.1 p.2 true) s).modHub fun h => { h with power := .window })
      else if !(ts.all fun p => match s.tray? p.1 p.2 with | some x => x.st.isSaved | none => true) then .next s
      else if 4200 < watts ∨ s.flight.any fun x => dies.testBit x.dest.pdie then .next s
      else
        let u := (s.replan dies slack sites.off).modHub fun h => { h with power := .run, windowAt := none }
        .next (ts.foldl (State.afterWindow sites.spare) u)

/-! ## The end of a context after a trap (R37) -/

/-- The Running node of the core in view re-queued or poisoned, as for a consumed error (R37, R57). -/
def State.dropNode (s : State) : State :=
  match s.core.node with
  | none => s
  | some n =>
    let retry := s.nodeRetry n.1
    let s1 := s.setCore { s.core.cancelHeld with staging := [], pushes := [], node := none, nodeErr := none }
    let s2 := { s1 with nodes := Table.set s1.nodes n.1 { s1.nodeMeta n.1 with owner := none, ran := true } }
    if retry < 3 then (s2.putNode n.1 1 (retry + 1)).enqueue (s2.nodeWq n.1) n.1 true
    else
      let t := (s2.putNode n.1 4 3).failJob n.1
      { t with hub := { t.hub with reports := t.hub.reports ++ [(t.id, 6, t.nodeAddr t.id n.1)] } }

/-- Arrivals of the control context in view on BREG0–BREG3 withdrawn, the registers and DOMAIN cleared (R37). -/
def State.leaveBarriers (s : State) : State :=
  let t := (List.range 4).foldl (fun s which =>
    match s.episodes.findIdx? fun e => e.k == which && !e.committed && e.arrived.any fun a => a.1 == s.id && a.2.1 == s.core.k with
    | some n => s.removeArrival n which s.id s.core.k
    | none => s.dropSignal s.id s.core.k which) s
  let bars := (List.range 4).foldl (fun (v : Vector Bar 6) n => v.setIfInBounds n Bar.clear) t.cx.bars
  t.setCx { t.cx with bars := bars, breg := Vector.replicate 4 0, domain := 0 }

/-- A context in view goes on neither with an instruction nor with its replies. -/
def Context.abandon (c : Context) : Context := { (c.retire c.pc) with pend := [], trapNext := false, arms := [], selArm := none, budget := none }

/-- The control context in view ended from outside: what R37 says of its helpers, its node, its barriers and the lanes. -/
def State.stopControl (s : State) : State :=
  let s1 := (List.range 11).tail.foldl (fun s k =>
    if (s.cxAt s.id k).st = .free then s
    else ((s.keepClock s.id).within s.id k fun s => if s.cx.st = .exited then s else s.endHelper (BitVec.allOnes 64)).modCx s.id k fun _ => Context.reset k) s
  let s2 := s1.dropNode.leaveBarriers.giveBack
  let s3 := s2.setCx { s2.cx.abandon with st := .stopped }
  s3.setCore { s3.core with faulted := false, frozen := false }

/-- The control context in view ended by firmware: a job that launched the tray has failed (R37, R314). -/
def State.endControl (s : State) : State :=
  let t := s.stopControl
  match t.core.tray with | some p => t.failLaunch p.1 p.2 | none => t

/-- The supervisor handler reflects the trap to the user handler: a MEMERR or MATERR whose SUB[7:6] is 1 or 2, with STATUS.INTRAP = 0 (R354). -/
def Context.reflects (c : Context) : Bool :=
  c.super && !c.inTrap && bit c.cause 8 && (bits c.cause 7 0 == 0x11 || bits c.cause 7 0 == 0x12) && bit c.errpend 0 && bits c.errpend 15 8 == bits c.cause 7 0
    && (bits c.errpend 23 22 == 1 || bits c.errpend 23 22 == 2)

/-- The user handler entered at TRAPVEC, as R251 enters it for a delegated cause (R354). -/
def Context.reflect (c : Context) : Context :=
  ({ c with status := setBit (setBit (setBit c.status 0 false) 1 false) 2 true }).retire (BitVec.ofNat 15 (bits c.trapvec 14 2 * 4))

/-- CONTEXT_END_BY_FIRMWARE: a trap in the supervisor handler is reflected to the user handler (R354), or firmware does not return from it, which ends
the context (R37); a site whose
checker repeated (PIPE) is recorded in the error log and goes to no tray granted afterwards (R345). -/
def execContextEndByFirmware (core ctx : Nat) (s : State) : Result :=
  let c := s.cxAt core ctx
  if !c.st.live ∨ !(c.super || (s.coreAt core).faulted) then .next s
  else if !(s.coreAt core).faulted && c.reflects then .next (s.modCx core ctx Context.reflect)
  else
    let t := s.within core ctx fun s =>
      if ctx = 0 then s.endControl else (s.setCx s.cx.abandon).endHelper (BitVec.allOnes 64)
    let u0 := if ctx = 0 then t else match (t.coreAt core).tray with | some p => t.failLaunch p.1 p.2 | none => t
    let u := u0.modHub fun h => { h with reports := h.reports ++ [(core, bits c.cause 7 0, c.tval)] }
    .next (if bits c.cause 7 0 = 0x0D then
        { u.logErr 4 0 0x0D 0 (sitePlace core) 0 (s.vifOf core) ctx 0 with disabled := if u.disabled.contains core then u.disabled else u.disabled ++ [core] }
      else u)

end Sys2Proof.Machine
end

