-- ==== Sys2Proof/Machine/Debug.lean ====
section
/-!
DEFINITION. What `jdb` does (spec/03_assembly_language.md R80, R83; spec/02_execution_model.md R46; spec/12_prog_release.md R277;
spec/14_prog_barriers.md R286): halts, resumes, steps, breakpoints, held links, and the start of an image.
-/
namespace Sys2Proof.Machine

/-- `jdb` attached to an interface that permits it (R252, R362). -/
def State.attach (s : State) (v : Nat) : State :=
  if (s.vif v).debug then { s with vifs := Table.set s.vifs v { s.vif v with attached := true } } else s

/-- `jdb` may act on a core: its interface has DEBUG (R362). -/
def State.debuggable (s : State) (id : Nat) : Bool := match (s.coreAt id).tray with | some p => (s.vif p.1).debug | none => false

/-- DEBUG_HALT: a `jdb` halt of a core at an instruction boundary (R35, R46). -/
def execDebugHalt (core : Nat) (s : State) : Result :=
  if !s.debuggable core then .next s
  else
    let t := (s.attach (s.vifOf core)).debugHalt core
    .next (t.modHub fun h => { h with selected := (core, 0) })

/-- The cycles that a halted member stalled its phalanx are taken out of the other members' timeouts (R46). -/
def State.shiftMates (s : State) (id n : Nat) : State :=
  match s.phalanxOf id with
  | some p => (p.members.filter (· != id)).foldl (fun s m => if s.halted m then s else s.shiftTimes m n) s
  | none => s

/-- The tray of a core is running: neither pre-empted nor saved. -/
def State.trayRuns (s : State) (id : Nat) : Bool := (s.trayAt id).st.isRunning && (s.coreAt id).resumeAt.isNone

/-- The core goes on, unless its tray is pre-empted meanwhile; its own timeouts have run on (R149). -/
def State.debugGo (s : State) (id : Nat) : State :=
  if s.trayRuns id then (s.shiftMates id (s.cy - (s.coreAt id).haltCy)).resumeCore id else s.modCore id fun c => { c with debugged := false }

/-- DEBUG_RESUME: every halted core goes on; a transfer phase goes on at its next slot (R46, R83). -/
def execDebugResume (s : State) : Result :=
  let ids := s.sites.filter fun id => (s.coreAt id).debugged
  let ds := (ids.filterMap fun id =>
    match s.domainOf id (s.cxAt id 0) with
    | some d => if d.phase = 2 then some (d.vif, d.tray, bits d.name 7 4, s.cy - (s.coreAt id).haltCy) else none
    | none => none).eraseDups
  .next (ids.foldl State.debugGo (ds.foldl (fun s d => s.shiftDomains d.1 d.2.1 d.2.2.1 d.2.2.2) s))

/-- DEBUG_STEP: the selected context issues n instructions and halts again (R83). -/
def execDebugStep (n : Nat) (s : State) : Result :=
  let id := s.hub.selected.1
  let k := s.hub.selected.2
  if !(s.coreAt id).debugged ∨ n = 0 ∨ (s.cxAt id k).st ≠ .halted ∨ !s.trayRuns id then .next s
  else
    let t := s.shiftMates id (s.cy - (s.coreAt id).haltCy)
    .next ((t.modCx id k fun c => { c.resumed with budget := some n }).modCore id fun c => { c with frozen := false, haltCy := s.cy })

/-- The physical dies that the virtual dies of the debugged interface name: the first interface that `jdb` is attached to (DESIGN CHOICE,
notes/assumptions/84.md). -/
def State.debugDies (s : State) (src dst : Nat) : Option (Nat × Nat) :=
  match s.vifs.find? fun p => p.2.attached with
  | some p => if src < p.2.dies.length ∧ dst < p.2.dies.length then some (p.2.pdie src, p.2.pdie dst) else none
  | none => none

/-- A report of `jdb` to the host. -/
def State.report (s : State) (core code : Nat) (v : Word) : State := s.modHub fun h => { h with reports := h.reports ++ [(core, code, v)] }

/-- The result of a step that never stops. -/
def Result.state (s : State) (r : Result) : State := match r with | .next t => t | _ => s

/-- A write waits in the apply queue of a die link (R335). -/
def Msg.inQueue (p : Nat × Nat) (m : Msg) : Bool := m.stage == .arrived && pdieOf m.core == p.1 && m.dest.pdie == p.2

/-- The writes of a list of messages: one for each identity of a merged packet (R263, R330). -/
def writeCount (l : List Msg) : Nat := (l.map fun m => max 1 m.ident.length).foldl (· + ·) 0

/-- Messages of a kind applied in their causal order while one can be (R83, R277). -/
def State.applyAll (s : State) (f : Msg → Bool) : Nat → State
  | 0 => s
  | n + 1 =>
    let t := (List.range 16).foldl (fun t d => Result.state t (execAppliedVectorBroadcast d t)) s
    let u := (t.flight.filter f).foldl (fun u m => Result.state u (execApply m.id u)) t
    if u.flight.length = s.flight.length then u else u.applyAll f n

/-- HOLD_LINK: the apply queue for writes from vd `src` arriving at vd `dst` is held, and the number of writes in it reported (R83, R277,
R335). -/
def execHoldLink (src dst : Nat) (s : State) : Result :=
  match s.debugDies src dst with
  | some p =>
    .next ({ s with holds := if s.holds.contains p then s.holds else s.holds ++ [p] }.report 0 0x103 (word (writeCount (s.flight.filter (Msg.inQueue p)))))
  | none => .next s

/-- RELEASE_LINK: the writes of the queue are applied in their causal order, and their number reported (R83, R277). -/
def execReleaseLink (src dst : Nat) (s : State) : Result :=
  match s.debugDies src dst with
  | some p =>
    let t := { s with holds := s.holds.filter (· != p) }
    let u := t.applyAll (Msg.inQueue p) t.flight.length
    .next (u.report 0 0x104 (word (writeCount (t.flight.filter (Msg.inQueue p)) - writeCount (u.flight.filter (Msg.inQueue p)))))
  | none => .next s

/-! ## Memory as `jdb` prints it (R83, R277) -/

/-- The cores that `jdb` holds halted. -/
def State.haltedIds (s : State) : List Nat := s.sites.filter fun id => (s.coreAt id).debugged

/-- A list of steps, one after another. -/
def State.stepAll (s : State) (l : List (State → Result)) : State := l.foldl (fun t f => Result.state t (f t)) s

/-- The steps by which a halted core's writes leave its store buffer: its commands are taken, the replies it waits for arrive, and it drains
(R264, R319). -/
def State.drainSteps (s : State) (id : Nat) : List (State → Result) :=
  let c := s.coreAt id
  (c.cmds.map fun m => execTake id m.tag)
    ++ ((List.range 11).flatMap fun k =>
      let x := s.cxAt id k
      ((List.range ((x.await.map fun a => a.els.length).getD 0)).flatMap fun n => [execForward id k n, execRead id k n false, execReply id k n])
        ++ (x.tickets.flatMap fun t => [execForward id k (fldBase + t.num), execRead id k (fldBase + t.num) false])
        ++ ((List.range c.acks.length).reverse.map fun n => execReply id k (ackBase + n)))
    ++ (c.sbuf.map fun e => execDrain id e.id)

/-- The steps of a message that bring it to its home: a write, or with `tiles` a packet or a request of a halted core (R277, R279). -/
def State.arriveSteps (s : State) (tiles : Bool) (m : Msg) : List (State → Result) :=
  [State.crossStep m.id, execMergeBufferFlush m.id, execApply m.id]
    ++ (if tiles && m.parts.any (fun p => match p.src with | .ctx id _ => (s.coreAt id).debugged | _ => false) || tiles && (s.coreAt m.core).debugged
        then [execContributionEvaluate m.id false, execTileRequestServe m.id] else [])

/-- The halted cores' buffered writes drained and applied, and every write before them, as far as no held apply queue blocks them (R277); with
`tiles` their packets evaluated as well (R279). -/
def State.flushHalted (s : State) (tiles : Bool) : Nat → State
  | 0 => s
  | n + 1 =>
    let t := s.stepAll ((List.range 16).map execAppliedVectorBroadcast)
    let u := t.haltedIds.foldl (fun u id => u.stepAll (u.drainSteps id)) t
    (u.stepAll (u.flight.flatMap (u.arriveSteps tiles))).flushHalted tiles n

/-- Rounds that bring every halted core's writes home when nothing blocks them: in each round some write drains or is applied. -/
def State.flushRounds (s : State) : Nat :=
  ((s.haltedIds.map fun id => 2 * (s.coreAt id).sbuf.length).foldl (· + ·) 0) + s.flight.length + 1

/-- The key of an address as `jdb` takes it: below 0x8000 a LOC offset of the core, but of main memory when written `main:addr` (R83). -/
def State.jdbKey (s : State) (id : Nat) (main : Bool) (a : Word) : Option Nat :=
  if !main && decide (a.toNat < 0x8000) then some (sramKey id a.toNat)
  else if regionOf a = .loc then some (sramKey id (bits a 14 0))
  else s.sectionKey id a

/-- `x`: the word at an address, read at its home once the halted cores' writes have been applied (R277). -/
def State.examine (s : State) (main : Bool) (a : Word) : State :=
  let t := s.flushHalted false s.flushRounds
  match t.jdbKey t.hub.selected.1 main a with
  | some key => t.report t.hub.selected.1 0x105 (word (Memory.getN t.mem (key / 8 * 8) 8))
  | none => t

/-- The 144 bits of an element in three words, the lowest first. -/
def accWords (v : Acc) : List Word := [v.setWidth 64, (v >>> 64).setWidth 64, (v >>> 128).setWidth 64]

/-- What `proof` prints of a tile, each with a report code of the model: STATE, GEN, ANCHOR, COUNT, NDUP, NSTALE, LAST, the intervals of the
record and ASTAT's word; with an element its acc (R235, R279). Its exact value is acc · 2^(ANCHOR − 266). -/
def AccTile.proofWords (t : AccTile) (el : Option (Nat × Nat)) : List (Nat × Word) :=
  [(0x111, if t.proofed then 2 else 1), (0x112, word t.gen), (0x113, BitVec.ofInt 64 t.anchor), (0x114, word t.count), (0x115, word t.ndup),
    (0x116, word t.nstale), (0x117, word t.last)]
    ++ ((List.range t.record.length).map fun j => (0x118, t.spanWord j)) ++ [(0x119, t.statWord)]
    ++ (match el with | some p => (accWords ((Table.find t.acc (p.1 * 16 + p.2)).getD 0)).map fun w => (0x11A, w) | none => [])

/-- `proof`: the tile that a handle names, once every packet sent by a halted core has been evaluated; of a bad handle its fields and the 0 of
ASTAT (R235, R279). The handle is a word, or a register of the selected context. -/
def State.proof (s : State) (reg : Bool) (h : Word) (el : Option (Nat × Nat)) : State :=
  let t := s.flushHalted true (s.flushRounds + s.flight.length)
  let id := t.hub.selected.1
  let u := t.focus id t.hub.selected.2
  let w := if reg then u.g (h.setWidth 5) else h
  let l := match (u.handleSlice w).bind fun n => u.tileOf n w with
    | some x => x.proofWords el
    | none => [(0x119, 0)]
  (((0x110, w) :: l).foldl (fun t p => t.report id p.1 p.2) t)

/-- A core that `run` starts: when it can take a start, or when `jdb` holds it halted, whose contexts then end (R259, R277). -/
def State.debugStart (s : State) (v id : Nat) (pc : Pc) (arg : Word) : State :=
  if s.startable id then s.hostStart v id pc arg
  else if (s.coreAt id).debugged then
    ((s.within id 0 fun t => t.trapPhlx.stopControl).modCore id fun c => { c with debugged := false }).hostStart v id pc arg
  else s

/-- JDB_RUN: the image in every core of the tray, and each listed core started with `arg` in g3; one that can take no start drops it (R80,
R259, R277, R286). A tray too small for the image is refused (R75). -/
def execJdbRun (arg : Word) (cores : List Nat) (s : State) : Result :=
  match (s.coreAt (cores.headD 0)).tray with
  | none => .next s
  | some p =>
    let img := s.hub.image
    if !(s.vif p.1).debug ∨ !(cores.all fun id => (s.coreAt id).tray == some p) ∨ !(s.meetsNeed p.1 p.2 img) then .next s
    else
      let t := (s.coresOf p.1 p.2).foldl (fun t id => t.loadImage img id) ((s.attach p.1).modTray p.1 p.2 fun x => { x with program := img })
      .next (cores.foldl (fun t id => t.debugStart p.1 id img.entry arg) (t.loadSections img (cores.headD 0)))

/-- BREAKPOINT_SET: the selected cores halt when a context reaches `loc` (R83). -/
def execBreakpointSet (loc : Nat) (cores : List Nat) (s : State) : Result :=
  .next (cores.foldl (fun s id =>
    if s.debuggable id then
      (s.attach (s.vifOf id)).modCore id fun c => { c with breakpoints := if c.breakpoints.contains loc then c.breakpoints else c.breakpoints ++ [loc] }
    else s) s)

/-- BREAKPOINT_DELETE: from every core (R286). -/
def execBreakpointDelete (loc : Nat) (s : State) : Result :=
  .next (s.sites.foldl (fun s id => s.modCore id fun c => { c with breakpoints := c.breakpoints.filter (· != loc) }) s)

end Sys2Proof.Machine
end

