-- ==== Sys2Proof/Machine/Events.lean ====
section
/-!
DEFINITION. The write effects of control registers as steps of their own (spec/05_scalar.md R116; spec/01_machine_state.md R22, R23,
R25, R26; spec/06_memory_sync.md R145). CWR, CSET, CCLR and BSET have these effects at issue through the same operation
(`State.putCreg`); here each stands alone, acting on context `ctx` of core `core` with the value an instruction has formed.
-/
namespace Sys2Proof.Machine

/-- The write of a formed value takes effect in a context (R115): the masks and checks of the register apply. -/
def State.regWrite (s : State) (core ctx sel : Nat) (v : Word) : Result :=
  .next (s.within core ctx fun s =>
    match s.cregBefore sel with
    | none => s
    | some old =>
      match s.crTrap sel old v with
      | some t => s.trapEntry t.1 0 false t.2
      | none => s.putCreg sel (crForm sel old v))

/-- CONTROL_REGISTER_WRITE: a register without a behaviour of its own (R116). -/
def execControlRegisterWrite (core ctx : Nat) (sel : BitVec 8) (v : Word) (s : State) : Result := s.regWrite core ctx sel.toNat v

/-- XBOUND_WRITE (R23): within SBOUND and the SRAM, at a 32-byte boundary, by a lone control context. -/
def execXboundWrite (core ctx : Nat) (v : Word) (s : State) : Result := s.regWrite core ctx 0x08 v

/-- VSETL_WRITE (R26): VL clamped to the grant, or NOLANES. -/
def execVsetlWrite (core ctx : Nat) (v : Word) (s : State) : Result := s.regWrite core ctx 0x11 v

/-- DOMAIN_WRITE (R22). -/
def execDomainWrite (core ctx : Nat) (v : Word) (s : State) : Result := s.regWrite core ctx 0x14 v

/-- BREG_WRITE (R145). -/
def execBregWrite (core ctx : Nat) (k : BitVec 2) (v : Word) (s : State) : Result := s.regWrite core ctx (0x1C + k.toNat) v

/-- ERRPEND_CLEAR: writing 0 to VALID clears the pending error (R25). -/
def execErrpendClear (core ctx : Nat) (s : State) : Result := s.regWrite core ctx 0x34 0

end Sys2Proof.Machine
end

