-- ==== Sys2Proof/Machine/Dispatch.lean ====
section
/-!
DEFINITION. The dispatch: one arm per constructor of `Instr`, each one direct call of its meaning.
-/
namespace Sys2Proof.Machine

/-- What an instruction, or a step without an encoding, does. -/
def exec (i : Instr) (s : State) : Host.Outcome State Fault Refusal :=
  match i with
  | .nop => Sys2Proof.Machine.execNop s
  | .add d a b => Sys2Proof.Machine.execAdd d a b s
  | .addSat d a b => Sys2Proof.Machine.execAddSat d a b s
  | .addZSat d a b => Sys2Proof.Machine.execAddZSat d a b s
  | .sub d a b => Sys2Proof.Machine.execSub d a b s
  | .subSat d a b => Sys2Proof.Machine.execSubSat d a b s
  | .subZSat d a b => Sys2Proof.Machine.execSubZSat d a b s
  | .and d a b => Sys2Proof.Machine.execAnd d a b s
  | .or d a b => Sys2Proof.Machine.execOr d a b s
  | .xor d a b => Sys2Proof.Machine.execXor d a b s
  | .andn d a b => Sys2Proof.Machine.execAndn d a b s
  | .sll d a b => Sys2Proof.Machine.execSll d a b s
  | .srl d a b => Sys2Proof.Machine.execSrl d a b s
  | .sra d a b => Sys2Proof.Machine.execSra d a b s
  | .rol d a b => Sys2Proof.Machine.execRol d a b s
  | .ror d a b => Sys2Proof.Machine.execRor d a b s
  | .min d a b => Sys2Proof.Machine.execMin d a b s
  | .max d a b => Sys2Proof.Machine.execMax d a b s
  | .minZ d a b => Sys2Proof.Machine.execMinZ d a b s
  | .maxZ d a b => Sys2Proof.Machine.execMaxZ d a b s
  | .slt d a b => Sys2Proof.Machine.execSlt d a b s
  | .sltZ d a b => Sys2Proof.Machine.execSltZ d a b s
  | .mul d a b => Sys2Proof.Machine.execMul d a b s
  | .mulh d a b => Sys2Proof.Machine.execMulh d a b s
  | .mulhZ d a b => Sys2Proof.Machine.execMulhZ d a b s
  | .div d a b => Sys2Proof.Machine.execDiv d a b s
  | .divZ d a b => Sys2Proof.Machine.execDivZ d a b s
  | .rem d a b => Sys2Proof.Machine.execRem d a b s
  | .remZ d a b => Sys2Proof.Machine.execRemZ d a b s
  | .sel d a b c => Sys2Proof.Machine.execSel d a b c s
  | .addx d a b sh => Sys2Proof.Machine.execAddx d a b sh s
  | .clz d a => Sys2Proof.Machine.execClz d a s
  | .ctz d a => Sys2Proof.Machine.execCtz d a s
  | .popc d a => Sys2Proof.Machine.execPopc d a s
  | .brev d a => Sys2Proof.Machine.execBrev d a s
  | .addi d a imm => Sys2Proof.Machine.execAddi d a imm s
  | .andi d a imm => Sys2Proof.Machine.execAndi d a imm s
  | .ori d a imm => Sys2Proof.Machine.execOri d a imm s
  | .xori d a imm => Sys2Proof.Machine.execXori d a imm s
  | .slli d a sh => Sys2Proof.Machine.execSlli d a sh s
  | .srli d a sh => Sys2Proof.Machine.execSrli d a sh s
  | .srai d a sh => Sys2Proof.Machine.execSrai d a sh s
  | .slti d a imm => Sys2Proof.Machine.execSlti d a imm s
  | .li d lit => Sys2Proof.Machine.execLi d lit s
  | .lih d lit => Sys2Proof.Machine.execLih d lit s
  | .adpc d lit => Sys2Proof.Machine.execAdpc d lit s
  | .adpcLoc d lit => Sys2Proof.Machine.execAdpcLoc d lit s
  | .beq a b disp => Sys2Proof.Machine.execBeq a b disp s
  | .bne a b disp => Sys2Proof.Machine.execBne a b disp s
  | .blt a b disp => Sys2Proof.Machine.execBlt a b disp s
  | .bge a b disp => Sys2Proof.Machine.execBge a b disp s
  | .bltZ a b disp => Sys2Proof.Machine.execBltZ a b disp s
  | .bgeZ a b disp => Sys2Proof.Machine.execBgeZ a b disp s
  | .bbs a bit disp => Sys2Proof.Machine.execBbs a bit disp s
  | .bbsHi a bit disp => Sys2Proof.Machine.execBbsHi a bit disp s
  | .bbc a bit disp => Sys2Proof.Machine.execBbc a bit disp s
  | .bbcHi a bit disp => Sys2Proof.Machine.execBbcHi a bit disp s
  | .loop a disp => Sys2Proof.Machine.execLoop a disp s
  | .jmp disp => Sys2Proof.Machine.execJmp disp s
  | .call disp => Sys2Proof.Machine.execCall disp s
  | .jmpx a => Sys2Proof.Machine.execJmpx a s
  | .callx a => Sys2Proof.Machine.execCallx a s
  | .ret => Sys2Proof.Machine.execRet s
  | .btempo t disp => Sys2Proof.Machine.execBtempo t disp s
  | .bntempo t disp => Sys2Proof.Machine.execBntempo t disp s
  | .ld p w d a disp => Sys2Proof.Machine.execLd p w d a disp s
  | .st p w d a disp => Sys2Proof.Machine.execSt p w d a disp s
  | .ldp p d a disp => Sys2Proof.Machine.execLdp p d a disp s
  | .stp p d a disp => Sys2Proof.Machine.execStp p d a disp s
  | .qput a q => Sys2Proof.Machine.execQput a q s
  | .qget d q => Sys2Proof.Machine.execQget d q s
  | .qpeek d q => Sys2Proof.Machine.execQpeek d q s
  | .qcnt d q => Sys2Proof.Machine.execQcnt d q s
  | .nput a n => Sys2Proof.Machine.execNput a n s
  | .nget d n => Sys2Proof.Machine.execNget d n s
  | .ntry d n => Sys2Proof.Machine.execNtry d n s
  | .tbind t a => Sys2Proof.Machine.execTbind t a s
  | .trd d t => Sys2Proof.Machine.execTrd d t s
  | .hstart d a b => Sys2Proof.Machine.execHstart d a b s
  | .hjoin d a => Sys2Proof.Machine.execHjoin d a s
  | .hexit a => Sys2Proof.Machine.execHexit a s
  | .yield => Sys2Proof.Machine.execYield s
  | .pause => Sys2Proof.Machine.execPause s
  | .crd d sel => Sys2Proof.Machine.execCrd d sel s
  | .cwr d a sel => Sys2Proof.Machine.execCwr d a sel s
  | .cset d a sel => Sys2Proof.Machine.execCset d a sel s
  | .cclr d a sel => Sys2Proof.Machine.execCclr d a sel s
  | .amoAdd p w32 d b a disp => Sys2Proof.Machine.execAmoAdd p w32 d b a disp s
  | .amoAnd p w32 d b a disp => Sys2Proof.Machine.execAmoAnd p w32 d b a disp s
  | .amoOr p w32 d b a disp => Sys2Proof.Machine.execAmoOr p w32 d b a disp s
  | .amoXor p w32 d b a disp => Sys2Proof.Machine.execAmoXor p w32 d b a disp s
  | .amoMin p w32 d b a disp => Sys2Proof.Machine.execAmoMin p w32 d b a disp s
  | .amoMax p w32 d b a disp => Sys2Proof.Machine.execAmoMax p w32 d b a disp s
  | .amoMinZ p w32 d b a disp => Sys2Proof.Machine.execAmoMinZ p w32 d b a disp s
  | .amoMaxZ p w32 d b a disp => Sys2Proof.Machine.execAmoMaxZ p w32 d b a disp s
  | .amoSwp p w32 d b a disp => Sys2Proof.Machine.execAmoSwp p w32 d b a disp s
  | .amoCas p w32 d b c a disp => Sys2Proof.Machine.execAmoCas p w32 d b c a disp s
  | .amoFadd p d b a disp => Sys2Proof.Machine.execAmoFadd p d b a disp s
  | .fence kind scope => Sys2Proof.Machine.execFence kind scope s
  | .echk => Sys2Proof.Machine.execEchk s
  | .waita d b c a disp => Sys2Proof.Machine.execWaita d b c a disp s
  | .fld acq d a disp => Sys2Proof.Machine.execFld acq d a disp s
  | .fwait d a => Sys2Proof.Machine.execFwait d a s
  | .fst rel d a disp => Sys2Proof.Machine.execFst rel d a disp s
  | .famo op d a disp => Sys2Proof.Machine.execFamo op d a disp s
  | .fmcast d b c a disp => Sys2Proof.Machine.execFmcast d b c a disp s
  | .ffence d a disp => Sys2Proof.Machine.execFfence d a disp s
  | .bset k a => Sys2Proof.Machine.execBset k a s
  | .barrive k => Sys2Proof.Machine.execBarrive k s
  | .bwait k => Sys2Proof.Machine.execBwait k s
  | .bar k => Sys2Proof.Machine.execBar k s
  | .bstat d k => Sys2Proof.Machine.execBstat d k s
  | .dphase t => Sys2Proof.Machine.execDphase t s
  | .xmit w sl a => Sys2Proof.Machine.execXmit w sl a s
  | .xmitR w sl => Sys2Proof.Machine.execXmitR w sl s
  | .xsel d w sl => Sys2Proof.Machine.execXsel d w sl s
  | .phlx a => Sys2Proof.Machine.execPhlx a s
  | .split => Sys2Proof.Machine.execSplit s
  | .wpop nb d a => Sys2Proof.Machine.execWpop nb d a s
  | .wpush a => Sys2Proof.Machine.execWpush a s
  | .wpushClose a => Sys2Proof.Machine.execWpushClose a s
  | .ndone a => Sys2Proof.Machine.execNdone a s
  | .nabort a => Sys2Proof.Machine.execNabort a s
  | .vclaim t d a => Sys2Proof.Machine.execVclaim t d a s
  | .vyield d => Sys2Proof.Machine.execVyield d s
  | .vsetl d a => Sys2Proof.Machine.execVsetl d a s
  | .vld p w d a disp => Sys2Proof.Machine.execVld p w d a disp s
  | .vst p w d a disp => Sys2Proof.Machine.execVst p w d a disp s
  | .vlds p w d b a disp => Sys2Proof.Machine.execVlds p w d b a disp s
  | .vsts p w d b a disp => Sys2Proof.Machine.execVsts p w d b a disp s
  | .vgath p w d b a disp => Sys2Proof.Machine.execVgath p w d b a disp s
  | .vscat p w d b a disp => Sys2Proof.Machine.execVscat p w d b a disp s
  | .vbcast d a => Sys2Proof.Machine.execVbcast d a s
  | .vmovg d a b => Sys2Proof.Machine.execVmovg d a b s
  | .vmovgSet d a b => Sys2Proof.Machine.execVmovgSet d a b s
  | .vadd sat z d a b => Sys2Proof.Machine.execVadd sat z d a b s
  | .vsub sat z d a b => Sys2Proof.Machine.execVsub sat z d a b s
  | .vmul d a b => Sys2Proof.Machine.execVmul d a b s
  | .vmulh z d a b => Sys2Proof.Machine.execVmulh z d a b s
  | .vmin z d a b => Sys2Proof.Machine.execVmin z d a b s
  | .vmax z d a b => Sys2Proof.Machine.execVmax z d a b s
  | .vand d a b => Sys2Proof.Machine.execVand d a b s
  | .vor d a b => Sys2Proof.Machine.execVor d a b s
  | .vxor d a b => Sys2Proof.Machine.execVxor d a b s
  | .vshl d a b => Sys2Proof.Machine.execVshl d a b s
  | .vshr d a b => Sys2Proof.Machine.execVshr d a b s
  | .vsra d a b => Sys2Proof.Machine.execVsra d a b s
  | .vcmp cc d a b => Sys2Proof.Machine.execVcmp cc d a b s
  | .vsel d a b c => Sys2Proof.Machine.execVsel d a b c s
  | .vfadd d a b => Sys2Proof.Machine.execVfadd d a b s
  | .vfsub d a b => Sys2Proof.Machine.execVfsub d a b s
  | .vfmul d a b => Sys2Proof.Machine.execVfmul d a b s
  | .vfma d a b c => Sys2Proof.Machine.execVfma d a b c s
  | .vfmin d a b => Sys2Proof.Machine.execVfmin d a b s
  | .vfmax d a b => Sys2Proof.Machine.execVfmax d a b s
  | .vrcp d a => Sys2Proof.Machine.execVrcp d a s
  | .vrsq d a => Sys2Proof.Machine.execVrsq d a s
  | .vexp2 d a => Sys2Proof.Machine.execVexp2 d a s
  | .vlog2 d a => Sys2Proof.Machine.execVlog2 d a s
  | .vsig d a => Sys2Proof.Machine.execVsig d a s
  | .vmacw sat z d a b => Sys2Proof.Machine.execVmacw sat z d a b s
  | .vfmacw d a b => Sys2Proof.Machine.execVfmacw d a b s
  | .vnarrow m d a sh => Sys2Proof.Machine.execVnarrow m d a sh s
  | .vwclr d => Sys2Proof.Machine.execVwclr d s
  | .vidot sat z d a b c => Sys2Proof.Machine.execVidot sat z d a b c s
  | .vfdot h16 d a b c => Sys2Proof.Machine.execVfdot h16 d a b c s
  | .vfdotC h16 d a b => Sys2Proof.Machine.execVfdotC h16 d a b s
  | .vdotr d a b c => Sys2Proof.Machine.execVdotr d a b c s
  | .vcvt amax y x d a => Sys2Proof.Machine.execVcvt amax y x d a s
  | .vcvtMx amax d a t => Sys2Proof.Machine.execVcvtMx amax d a t s
  | .vcvtMxd d a t => Sys2Proof.Machine.execVcvtMxd d a t s
  | .vbniScan amax d a t => Sys2Proof.Machine.execVbniScan amax d a t s
  | .vbni amax d a t => Sys2Proof.Machine.execVbni amax d a t s
  | .vamax d a => Sys2Proof.Machine.execVamax d a s
  | .vred op d a => Sys2Proof.Machine.execVred op d a s
  | .vscan op d a => Sys2Proof.Machine.execVscan op d a s
  | .vnred op d a => Sys2Proof.Machine.execVnred op d a s
  | .vnredMx e5m2 d a b c => Sys2Proof.Machine.execVnredMx e5m2 d a b c s
  | .vperm d a b => Sys2Proof.Machine.execVperm d a b s
  | .vslide g d a n => Sys2Proof.Machine.execVslide g d a n s
  | .oclaim d k => Sys2Proof.Machine.execOclaim d k s
  | .orel k => Sys2Proof.Machine.execOrel k s
  | .oload k a t p => Sys2Proof.Machine.execOload k a t p s
  | .ozero k t => Sys2Proof.Machine.execOzero k t s
  | .mclr k => Sys2Proof.Machine.execMclr k s
  | .mmp acc k a b kb ke pa pb => Sys2Proof.Machine.execMmp acc k a b kb ke pa pb s
  | .mbin xor acc k a b kb ke => Sys2Proof.Machine.execMbin xor acc k a b kb ke s
  | .msp acc k a b kb ke pa pb => Sys2Proof.Machine.execMsp acc k a b kb ke pa pb s
  | .mstat d k => Sys2Proof.Machine.execMstat d k s
  | .mrd w k a t => Sys2Proof.Machine.execMrd w k a t s
  | .mchk k => Sys2Proof.Machine.execMchk k s
  | .tdef t a => Sys2Proof.Machine.execTdef t a s
  | .tqry d t j => Sys2Proof.Machine.execTqry d t j s
  | .aclaim d a b c => Sys2Proof.Machine.execAclaim d a b c s
  | .acontrib k a b c => Sys2Proof.Machine.execAcontrib k a b c s
  | .ardy d a => Sys2Proof.Machine.execArdy d a s
  | .ard w d a b c t => Sys2Proof.Machine.execArd w d a b c t s
  | .ardv sl d a b c => Sys2Proof.Machine.execArdv sl d a b c s
  | .aknock d a => Sys2Proof.Machine.execAknock d a s
  | .astat j d a => Sys2Proof.Machine.execAstat j d a s
  | .arel d a => Sys2Proof.Machine.execArel d a s
  | .xcopy d a => Sys2Proof.Machine.execXcopy d a s
  | .xcopyCode d a => Sys2Proof.Machine.execXcopyCode d a s
  | .x2d d a => Sys2Proof.Machine.execX2d d a s
  | .xdeal d a => Sys2Proof.Machine.execXdeal d a s
  | .xgath d a => Sys2Proof.Machine.execXgath d a s
  | .xput d a => Sys2Proof.Machine.execXput d a s
  | .xget d a => Sys2Proof.Machine.execXget d a s
  | .xkick d a n => Sys2Proof.Machine.execXkick d a n s
  | .xcancel d a => Sys2Proof.Machine.execXcancel d a s
  | .xstat d a => Sys2Proof.Machine.execXstat d a s
  | .dhops d a b => Sys2Proof.Machine.execDhops d a b s
  | .dwho d a => Sys2Proof.Machine.execDwho d a s
  | .trap n => Sys2Proof.Machine.execTrap n s
  | .brk n => Sys2Proof.Machine.execBrk n s
  | .eret => Sys2Proof.Machine.execEret s
  | .halt => Sys2Proof.Machine.execHalt s
  | .csave d a b => Sys2Proof.Machine.execCsave d a b s
  | .cload d a b => Sys2Proof.Machine.execCload d a b s
  | .tlbgen d a => Sys2Proof.Machine.execTlbgen d a s
  | .migr d a b => Sys2Proof.Machine.execMigr d a b s
  | .xbset a b => Sys2Proof.Machine.execXbset a b s
  | .cstart a b c => Sys2Proof.Machine.execCstart a b c s
  | .pauseExpiry core ctx => Sys2Proof.Machine.execPauseExpiry core ctx s
  | .controlRegisterWrite core ctx sel v => Sys2Proof.Machine.execControlRegisterWrite core ctx sel v s
  | .xboundWrite core ctx v => Sys2Proof.Machine.execXboundWrite core ctx v s
  | .vsetlWrite core ctx v => Sys2Proof.Machine.execVsetlWrite core ctx v s
  | .domainWrite core ctx v => Sys2Proof.Machine.execDomainWrite core ctx v s
  | .bregWrite core ctx k v => Sys2Proof.Machine.execBregWrite core ctx k v s
  | .errpendClear core ctx => Sys2Proof.Machine.execErrpendClear core ctx s
  | .waitaWake core ctx => Sys2Proof.Machine.execWaitaWake core ctx s
  | .waitaTimeout core ctx => Sys2Proof.Machine.execWaitaTimeout core ctx s
  | .barrierArrivalSend core ctx which => Sys2Proof.Machine.execBarrierArrivalSend core ctx which s
  | .barrierCommit episode => Sys2Proof.Machine.execBarrierCommit episode s
  | .barrierRelease episode core => Sys2Proof.Machine.execBarrierRelease episode core s
  | .barrierTimeout core ctx which => Sys2Proof.Machine.execBarrierTimeout core ctx which s
  | .barrierWithdrawAccept episode core => Sys2Proof.Machine.execBarrierWithdrawAccept episode core s
  | .xmitDrive core w => Sys2Proof.Machine.execXmitDrive core w s
  | .xselLatch core => Sys2Proof.Machine.execXselLatch core s
  | .wpopWake queue => Sys2Proof.Machine.execWpopWake queue s
  | .recallTimeout core => Sys2Proof.Machine.execRecallTimeout core s
  | .reservationLapse core => Sys2Proof.Machine.execReservationLapse core s
  | .vnredCombine core => Sys2Proof.Machine.execVnredCombine core s
  | .vnredTimeout core => Sys2Proof.Machine.execVnredTimeout core s
  | .matrixPass core e => Sys2Proof.Machine.execMatrixPass core e s
  | .matrixComplete core => Sys2Proof.Machine.execMatrixComplete core s
  | .contributionEvaluate item guardFails => Sys2Proof.Machine.execContributionEvaluate item guardFails s
  | .tileRequestServe item => Sys2Proof.Machine.execTileRequestServe item s
  | .engineStep core tag => Sys2Proof.Machine.execEngineStep core tag s
  | .commandComplete core tag => Sys2Proof.Machine.execCommandComplete core tag s
  | .tlbgenAck asid core => Sys2Proof.Machine.execTlbgenAck asid core s
  | .pageMove asid va newPa => Sys2Proof.Machine.execPageMove asid va newPa s
  | .pageWalk core ctx => Sys2Proof.Machine.execPageWalk core ctx s
  | .xbsetApply item => Sys2Proof.Machine.execXbsetApply item s
  | .start item => Sys2Proof.Machine.execStart item s
  | .drain core item => Sys2Proof.Machine.execDrain core item s
  | .forward core ctx el => Sys2Proof.Machine.execForward core ctx el s
  | .hit core ctx el => Sys2Proof.Machine.execHit core ctx el s
  | .read core ctx el fill => Sys2Proof.Machine.execRead core ctx el fill s
  | .evict core line => Sys2Proof.Machine.execEvict core line s
  | .apply item => Sys2Proof.Machine.execApply item s
  | .reply core ctx el => Sys2Proof.Machine.execReply core ctx el s
  | .take core tag => Sys2Proof.Machine.execTake core tag s
  | .appliedVectorBroadcast die => Sys2Proof.Machine.execAppliedVectorBroadcast die s
  | .resultWriteback core ctx => Sys2Proof.Machine.execResultWriteback core ctx s
  | .routedMessageDeliver item => Sys2Proof.Machine.execRoutedMessageDeliver item s
  | .neighbourWordArrive core port => Sys2Proof.Machine.execNeighbourWordArrive core port s
  | .rcycle cores => Sys2Proof.Machine.execRcycle cores s
  | .creditReturn lender core words => Sys2Proof.Machine.execCreditReturn lender core words s
  | .packetMerge into from_ => Sys2Proof.Machine.execPacketMerge into from_ s
  | .mergeBufferFlush item => Sys2Proof.Machine.execMergeBufferFlush item s
  | .errorPost core ctx code sub source met => Sys2Proof.Machine.execErrorPost core ctx code sub source met s
  | .scrub where_ addr bad => Sys2Proof.Machine.execScrub where_ addr bad s
  | .marginSample slack => Sys2Proof.Machine.execMarginSample slack s
  | .contextShip core landing => Sys2Proof.Machine.execContextShip core landing s
  | .shipLanding item => Sys2Proof.Machine.execShipLanding item s
  | .doorbellWrite queue v => Sys2Proof.Machine.execDoorbellWrite queue v s
  | .bindRound => Sys2Proof.Machine.execBindRound s
  | .dispatchCycle => Sys2Proof.Machine.execDispatchCycle s
  | .jobCompletionWrite job => Sys2Proof.Machine.execJobCompletionWrite job s
  | .corePreemptHalt core => Sys2Proof.Machine.execCorePreemptHalt core s
  | .traySave vif tray => Sys2Proof.Machine.execTraySave vif tray s
  | .coreResume core => Sys2Proof.Machine.execCoreResume core s
  | .resync => Sys2Proof.Machine.execResync s
  | .resyncSample => Sys2Proof.Machine.execResyncSample s
  | .vifcfg => Sys2Proof.Machine.execVifcfg s
  | .qcreate => Sys2Proof.Machine.execQcreate s
  | .qdestroy => Sys2Proof.Machine.execQdestroy s
  | .preempt => Sys2Proof.Machine.execPreempt s
  | .resume => Sys2Proof.Machine.execResume s
  | .window => Sys2Proof.Machine.execWindow s
  | .maintenanceWindow slack watts sites => Sys2Proof.Machine.execMaintenanceWindow slack watts sites s
  | .hostWrite a v => Sys2Proof.Machine.execHostWrite a v s
  | .hostRead a => Sys2Proof.Machine.execHostRead a s
  | .timeBroadcast => Sys2Proof.Machine.execTimeBroadcast s
  | .torusHop arriving => Sys2Proof.Machine.execTorusHop arriving s
  | .multicastAck entry => Sys2Proof.Machine.execMulticastAck entry s
  | .multicastTimeout core ctx ticket => Sys2Proof.Machine.execMulticastTimeout core ctx ticket s
  | .peerTimeout peer => Sys2Proof.Machine.execPeerTimeout peer s
  | .debugHalt core => Sys2Proof.Machine.execDebugHalt core s
  | .debugResume => Sys2Proof.Machine.execDebugResume s
  | .debugStep n => Sys2Proof.Machine.execDebugStep n s
  | .holdLink src dst => Sys2Proof.Machine.execHoldLink src dst s
  | .releaseLink src dst => Sys2Proof.Machine.execReleaseLink src dst s
  | .bringUp signed dies stackIds fused => Sys2Proof.Machine.execBringUp signed dies stackIds fused s
  | .brownoutReset => Sys2Proof.Machine.execBrownoutReset s
  | .contextEndByFirmware core ctx => Sys2Proof.Machine.execContextEndByFirmware core ctx s
  | .peerLinksDown peer => Sys2Proof.Machine.execPeerLinksDown peer s
  | .peerLinksRecover peer => Sys2Proof.Machine.execPeerLinksRecover peer s
  | .corePowerGate core on => Sys2Proof.Machine.execCorePowerGate core on s
  | .jdbRun arg cores => Sys2Proof.Machine.execJdbRun arg cores s
  | .breakpointSet loc cores => Sys2Proof.Machine.execBreakpointSet loc cores s
  | .breakpointDelete loc => Sys2Proof.Machine.execBreakpointDelete loc s

end Sys2Proof.Machine
end

