-- ==== Sys2Proof/Machine/Issue.lean ====
section
/-!
DEFINITION. How steps follow each other: what an instruction waits for before its meaning (R53, R101), the issue slot of a core (spec/02_execution_model.md R38–R40), phalanx streams (R42–R44), the transfer phase (R53, R151), the passing of
cycles, and the order of steps that `State.sched` gives (notes/assumptions/1.md).
-/
namespace Sys2Proof.Machine

/-! ## The transfer phase (R53) -/

/-- What a member may issue during the transfer phase (R53). -/
def transferAllowed : Instr → Bool
  | .nop | .xmit .. | .xmitR .. | .xsel .. | .dphase .. => true
  | .add .. | .addSat .. | .addZSat .. | .sub .. | .subSat .. | .subZSat .. | .addx .. => true
  | .and .. | .or .. | .xor .. | .andn .. | .sll .. | .srl .. | .sra .. | .rol .. | .ror .. => true
  | .min .. | .max .. | .minZ .. | .maxZ .. | .slt .. | .sltZ .. | .sel .. | .clz .. | .ctz .. | .popc .. | .brev .. => true
  | .addi .. | .andi .. | .ori .. | .xori .. | .slli .. | .srli .. | .srai .. | .slti .. => true
  | .li .. | .lih .. | .adpc .. | .adpcLoc .. => true
  | .beq .. | .bne .. | .blt .. | .bge .. | .bltZ .. | .bgeZ .. | .bbs .. | .bbsHi .. | .bbc .. | .bbcHi .. => true
  | .loop .. | .jmp .. | .jmpx .. => true
  | .crd _ sel | .cwr _ _ sel | .cset _ _ sel | .cclr _ _ sel => sel != 0x20
  | _ => false

/-! ## One instruction of the context in view -/

/-- What came of a context's turn. -/
inductive Attempt where
  /-- Nothing issued: the instruction still waits, or is benched. -/
  | blocked (s : State)
  /-- An instruction, or a trap entry, took the issue slot. -/
  | issued (s : State)
  | stop (r : Result)
  deriving Repr, Inhabited

/-- Whether an instruction issued: it completed, sent its requests, or arrived; not when it only waits (R38). -/
def Context.took (old new : Context) : Bool :=
  match new.st with
  | .waiting _ => new.await.isSome || (new.arrived && !old.arrived) || (new.asked && !old.asked) || new.pauseEnd != old.pauseEnd
  | .benched => false
  | _ => true

/-- The outcome of a meaning as a turn of the context in view. -/
def State.attemptOf (s : State) (r : Result) : Attempt :=
  match r with
  | .next t => if s.cx.took t.cx then .issued t else .blocked t
  | r => .stop r

/-- What a context keeps of an instruction that has come to issue: held when it waits at it, the latest when it has issued (R38, R277). -/
def Context.keep (old new : Context) (i : Instr) : Context :=
  { new with
    held := match new.st with | .waiting _ => if new.pc = old.pc && new.await.isNone then some i else new.held | _ => new.held
    last := if old.took new then some i else new.last }

/-- The next state of an instruction, with what its context keeps of it. -/
def State.keeping (s : State) (i : Instr) (r : Result) : Result :=
  match r with
  | .next t => .next (t.setCx (s.cx.keep t.cx i))
  | r => r

/-- An instruction that has passed its fetch: the transfer phase (R53), its operands (R101), then its meaning. -/
def State.runInstr (s : State) (i : Instr) : Attempt :=
  if s.inTransfer && !transferAllowed i then s.attemptOf (s.illegal i)
  else if (s.usesOf i).any s.cx.busy then s.attemptOf (s.keeping i (s.wait .operand))
  else s.attemptOf (s.keeping i (exec i s))

/-- A breakpoint at the PC that has not been reported: the core halts before the instruction (R83). -/
def State.atBreak (s : State) : Bool := s.myVif.attached && !s.cx.passBrk && s.core.breakpoints.contains s.cx.pc.toNat

def State.takeBreak (s : State) : State :=
  let t := (s.setCx { s.cx with passBrk := true, budget := none }).debugHalt s.id
  t.modHub fun h => { h with reports := h.reports ++ [(s.id, 0x102, zext s.cx.pc)], selected := (s.id, s.core.k) }

/-- What comes to issue: the instruction that the context holds while it waits, else what the PC brings (R38, R99). -/
def State.bring (s : State) : Fetched := match s.cx.held with | some i => .ok i | none => s.fetch

/-- The context in view brings its next instruction to issue. -/
def State.fetchRun (s : State) : Attempt :=
  match s.bring with
  | .trap code v => s.attemptOf (s.trap code v)
  | .ok i => s.runInstr i

/-! ## Phalanx streams (R42–R44, R100) -/

/-- SKEW · (a + b) of a member. -/
def Phalanx.delay (p : Phalanx) (id : Nat) : Nat := p.skew * ((rowOf id - p.rect.top) + (colOf id - p.rect.left))

def Phalanx.item (p : Phalanx) (n : Nat) : Option StreamItem := if n < p.base then none else p.stream[n - p.base]?

/-- BAR, BWAIT, DPHASE and VNRED, whose release needs later members (R42). -/
def isBarrier : Instr → Bool
  | .bar .. | .bwait .. | .dphase .. | .vnred .. | .vnredMx .. => true
  | _ => false

/-- Stream instruction n is a barrier instruction. -/
def Phalanx.barrierAt (p : Phalanx) (n : Nat) : Bool := match p.item n with | some x => isBarrier x.instr | none => false

/-- Position of a member in the stream. -/
def State.posOf (s : State) (id : Nat) : Nat := (s.cxAt id 0).pos

/-- The instruction before the one a member comes to is a barrier instruction that not every member has passed. -/
def State.behindBarrier (s : State) (p : Phalanx) (n : Nat) : Bool :=
  decide (1 ≤ n) && p.barrierAt (n - 1) && p.members.any fun m => decide (s.posOf m < n)

/-- A member may issue at the present τ (R42). After a barrier instruction the leader sets τ anew. -/
def State.streamReady (s : State) (p : Phalanx) (id : Nat) : Bool :=
  let n := s.posOf id
  if s.behindBarrier p n then false
  else if id = p.leader then decide (n ≤ p.tau)
  else decide (n + p.delay id ≤ p.tau) && (p.item n).isSome

/-- A member does not hold τ: it is not due, or it waits at, or has passed, a barrier instruction others must still reach. -/
def State.caughtUp (s : State) (p : Phalanx) (id : Nat) : Bool :=
  let c := s.cxAt id 0
  let n := c.pos
  let atBar := p.barrierAt n && c.st == .waiting .barrier
  !s.halted id && (atBar || (decide (1 ≤ n) && p.barrierAt (n - 1) && (p.item n).isNone) || (c.st == .ready && decide (n + p.delay id > p.tau)))

def State.modPhalanx (s : State) (no : Nat) (f : Phalanx → Phalanx) : State :=
  { s with phalanxes := s.phalanxes.map fun p => if p.no = no then f p else p }

/-- The leader's instruction n goes to the stream; items every member has passed are dropped. -/
def State.putItem (s : State) (p : Phalanx) (n : Nat) (x : StreamItem) : State :=
  let low := (p.members.map s.posOf).foldl min n - 1
  s.modPhalanx p.no fun p =>
    if n < p.base + p.stream.length then p
    else
      let drop := low - p.base
      { p with stream := p.stream.drop drop ++ [x], base := p.base + drop, tau := if decide (1 ≤ n) && p.barrierAt (n - 1) then n else p.tau }

/-- The leader's position while it is still a member: after its SPLIT it may lead another phalanx (R45). -/
def State.leaderPos (s : State) (p : Phalanx) : Option Nat := if p.members.contains p.leader then some (s.posOf p.leader) else none

/-- The PC at which the leader goes on behind stream instruction n: of the next item, or its own when it stands there. -/
def State.leaderNext (s : State) (p : Phalanx) (n : Nat) : Option Pc :=
  match p.item (n + 1) with
  | some x => some x.pc
  | none => if s.leaderPos p = some (n + 1) then some (s.cxAt p.leader 0).pc else none

/-- A follower whose next PC is not the leader's behind the instruction it has passed departs (R44). -/
def State.departs (s : State) : State :=
  match (if s.cx.inPhlx && s.core.k == 0 && decide (1 ≤ s.cx.pos) && s.cx.st == .ready then s.phalanxOf s.id else none) with
  | none => s
  | some p =>
    if s.id = p.leader then s
    else match s.leaderNext p (s.cx.pos - 1) with
      | some q => if q = s.cx.pc then s else s.depart s.id
      | none => s

/-- A member's turn: the leader fetches and feeds the stream; a follower runs the item at its position, or departs when its PC is
another (R44). -/
def State.streamRun (s : State) (p : Phalanx) : Attempt :=
  let n := s.cx.pos
  if s.id = p.leader then
    match s.bring with
    | .trap code v => s.attemptOf (s.trap code v)
    | .ok i =>
      let x : StreamItem := ⟨s.cx.pc, i⟩
      match s.runInstr i with
      | .issued t => .issued (t.putItem p n x)
      | .blocked t => .blocked (if isBarrier i then t.putItem p n x else t)
      | r => r
  else
    match p.item n with
    | none => .blocked s
    | some x =>
      match s.runInstr x.instr with
      | .issued t => .issued t.departs
      | r => r

/-- The turn of the context in view: a pending error's trap, a breakpoint, then its instruction. -/
def State.attempt (s : State) : Attempt :=
  if s.cx.trapNext then s.attemptOf s.trapPending
  else if s.cx.held.isNone && s.atBreak then .issued s.takeBreak
  else
    match (if s.cx.inPhlx then s.phalanxOf s.id else none) with
    | some p => s.streamRun p
    | none => s.fetchRun

/-! ## The issue slot (R38–R40, R127, R151) -/

/-- A context is Ready (R35): as it stands, or because its benching or its wait for operands has just ended (R38, R39). -/
def State.isReady (s : State) (k : Nat) : Bool :=
  let c := s.core.ctx s.cx k
  let issues := match (s.toCtx k).attempt with | .blocked _ => false | _ => true
  match c.st with
  | .ready => true
  | .benched => issues
  | .waiting .operand => decide (c.pauseEnd ≤ s.cy) && issues
  | _ => false

/-- Contexts that YIELD still lets go first: those of its list that are Ready (R127). -/
def State.yields (s : State) (c : Context) : Bool := c.yielding.any s.isReady

/-- Whether context k of the core in view competes for the slot: in a transfer phase the control context alone, from slot 0 on (R53, R151). -/
def State.candidate (s : State) (k : Nat) : Bool :=
  let c := s.core.ctx s.cx k
  let live := match c.st with
    | .ready => true
    | .benched => true
    | .waiting .operand => decide (c.pauseEnd ≤ s.cy)
    | _ => false
  let ctl := s.core.ctx s.cx 0
  let d := s.domainOf s.id ctl
  let transfer := match d with | some d => d.phase == 2 | none => false
  let begun := match d with | some d => d.phase != 2 || decide (d.start ≤ s.cy) | none => true
  live && !s.yields c && (k == 0 || !transfer) && begun
    && (!c.inPhlx || k != 0 || match s.phalanxOf s.id with | some p => s.streamReady p s.id | none => true)

/-- The debugger's step count and the report of a breakpoint, once an instruction of the context in view has issued (R83). -/
def State.afterIssue (s : State) : State :=
  let c := s.cx
  let s1 := s.setCx { c with passBrk := c.passBrk && c.st == .halted, pauseEnd := if c.st = .ready then 0 else c.pauseEnd }
  match c.budget with
  | none => s1
  | some n =>
    if n ≤ 1 then
      let t := (s1.setCx { s1.cx with budget := none }).haltCore s1.id
      t.setCore { t.core with debugged := true }
    else s1.setCx { s1.cx with budget := some (n - 1) }

/-- The slot is taken: the pointer moves behind context k, the contexts that yielded to it no longer wait for it, and a member of a
transfer phase has used its slot. -/
def State.noteIssue (s : State) (k : Nat) : State :=
  let t := s.afterIssue
  let u := (List.range 11).foldl (fun t j =>
    if ((t.core.ctx t.cx j).yielding).contains k then t.modCx t.id j fun c => { c with yielding := c.yielding.filter (· != k) } else t) t
  let w := u.modCx u.id k fun c => { c with yielding := if c.last = some .yield then c.yielding else [] }
  let v := w.setCore { w.core with ptr := (k + 1) % 11, issued := some w.cy }
  match v.domainOf v.id (v.core.ctx v.cx 0) with
  | some d => if d.phase = 2 then v.modDomain v.id fun d => { d with issued := d.issued ++ [v.id] } else v
  | none => v

/-- The contexts of the core in view in the order of the pointer. -/
def State.issueOrder (s : State) : List Nat := (List.range 11).map fun n => (s.core.ptr + n) % 11

/-- The first candidate that can issue does so (R38). -/
def State.issueFrom : List Nat → State → Result
  | [], s => .next s
  | k :: ks, s =>
    if s.candidate k then
      match (s.toCtx k).attempt with
      | .issued t => .next (t.noteIssue k)
      | .blocked t => State.issueFrom ks t
      | .stop r => r
    else State.issueFrom ks s

/-- Waiting instructions that have not issued, oldest wait first; those that wait for replies, operands or a watch end by other steps. -/
def State.held (s : State) : List Nat :=
  let l := (List.range 11).filter fun k =>
    let c := s.core.ctx s.cx k
    c.await.isNone && match c.st with | .waiting .operand => false | .waiting _ => true | _ => false
  sortBy (fun a b => decide ((s.core.ctx s.cx a).since ≤ (s.core.ctx s.cx b).since)) l

/-- Each held instruction is tried again; it completes without an issue slot (R38), and counts for a `jdb` step unless it has counted when
its request was sent. -/
def State.retryFrom : List Nat → State → Result
  | [], s => .next s
  | k :: ks, s =>
    let c := s.core.ctx s.cx k
    match (s.toCtx k).attempt with
    | .issued t => State.retryFrom ks (if c.asked || c.arrived then t else t.afterIssue)
    | .blocked t => State.retryFrom ks t
    | .stop r => r

/-- Waits of kind REPLY whose instruction has sent its request and writes its result when that is answered. -/
def awaitsReply : Instr → Bool
  | .fwait .. | .fence .. | .ffence .. => true
  | _ => false

/-- A context that a halt has met waiting for a reply: its instruction completes when the reply arrives, and the context stays Halted
(R318). -/
def State.finishHalted : List Nat → State → Result
  | [], s => .next s
  | k :: ks, s =>
    let c := s.core.ctx s.cx k
    match c.held with
    | some i =>
      if c.st = .halted ∧ (c.asked || awaitsReply i) then
        let u := s.toCtx k
        match exec i (u.setCx { u.cx with st := .waiting .reply }) with
        | .next t => State.finishHalted ks (if t.cx.st.live then t.setCx { t.cx with st := .halted } else t)
        | r => r
      else State.finishHalted ks s
    | none => State.finishHalted ks s

/-- A follower that can issue departs from its phalanx when its way is another (R44). -/
def State.departing (s : State) : State :=
  let c := s.core.ctx s.cx 0
  if c.inPhlx && c.st == .ready then (s.toCtx 0).departs else s

/-- Instructions that complete during a halt, held instructions of the core in view, then its issue slot. -/
def State.issueCore (s : State) : Result :=
  match (if s.halted s.id then State.finishHalted (List.range 11) s else .next s) with
  | .next v =>
    match State.retryFrom v.held v.departing with
    | .next u => if u.core.issued = some u.cy then .next u else State.issueFrom u.issueOrder u
    | r => r
  | r => r

/-- The sites of the module: 16 dies of 80 rows and 80 columns (R1). -/
def siteCount : Nat := 102400

/-- One issue turn of core `id`: a pre-emption that is due halts it; else held instructions, then the issue slot. A site the module does
not have takes no turn. -/
def State.issueTurn (s : State) (id : Nat) : Result :=
  let t := s.toCore id
  if siteCount ≤ id then .next s
  else if (match t.core.haltAt with | some h => decide (h ≤ t.time) | none => false) then execCorePreemptHalt id t else t.issueCore

/-! ## The passing of cycles (R22, R42, R151) -/

/-- The cores of a domain. -/
def State.domainMembers (s : State) (d : Domain) : List Nat :=
  s.sites.filter fun id => match s.domainOf id (s.cxAt id 0) with | some e => e.vif == d.vif && e.tray == d.tray && e.name == d.name | none => false

/-- A member of a transfer phase has nothing left to issue in the present slot. -/
def State.slotUsedBy (s : State) (d : Domain) (id : Nat) : Bool :=
  let c := s.cxAt id 0
  d.issued.contains id || c.st != .ready || s.halted id
    || (c.inPhlx && match s.phalanxOf id with | some p => !s.streamReady p id | none => false)

/-- The end of a slot: the drives and latches still armed for it take place, and the words driven stand on the wires (R54, R152). -/
def State.endSlot (s : State) (d : Domain) : State :=
  let ms := s.domainMembers d
  let t := ms.foldl (fun s id => (List.range 4).foldl (fun s w => s.driveOne id w) s) s
  let u := ms.foldl State.latchOne t
  { u with domains := u.domains.map fun x =>
      if x.vif = d.vif ∧ x.tray = d.tray ∧ x.name = d.name then { x with wires := x.drives, drives := [], issued := [], latched := [] } else x }

/-- τ of a phalanx after a cycle: one further when no member holds it, or at the instruction after a barrier that all have passed. -/
def State.nextTau (s : State) (p : Phalanx) : Nat :=
  let n := (s.leaderPos p).getD 0
  if decide (1 ≤ n) && p.barrierAt (n - 1) && p.members.all fun m => s.posOf m == n then n
  else if p.members.all (s.caughtUp p) then p.tau + 1 else p.tau

/-- One cycle passes. A transfer phase whose members are halted stands still: it goes on at its next slot (R46, R317, R321). -/
def State.tick (s : State) : State :=
  let halted (d : Domain) : Bool := (s.domainMembers d).any fun id => (s.cxAt id 0).st == .halted
  let t := (s.domains.filter fun d => d.phase == 2 && decide (d.start ≤ s.cy) && !halted d).foldl State.endSlot s
  { t with cy := t.cy + 1, phalanxes := t.phalanxes.map fun p => { p with tau := s.nextTau p } }

/-- Cycles pass one after another. -/
def State.ticks (s : State) : Nat → State
  | 0 => s
  | n + 1 => s.tick.ticks n

/-- The cycles that may pass before something due at a core must have taken place: its halt, its resume (R6, R317, R321), the lapse of its
reservation, or a recall, once no vector instruction is in progress (R186, R187). -/
def State.roomAt (s : State) (id n : Nat) : Nat :=
  let c := s.coreAt id
  let upTo (h : Option Nat) (m : Nat) : Nat := match h with | some h => min m (cycleOfTime h - s.cy) | none => m
  let k := upTo c.resumeAt (upTo c.haltAt n)
  let m := match c.reservedAt with | some t => min k (t + 8192 - s.cy) | none => k
  match c.recallAt with
  | some t => if s.vectorBusy id then m else min m (t + 4096 - s.cy)
  | none => m

/-- The cycles that may pass before a packet that can cross its die link must have left the merge buffer: 32 after it entered (R333). -/
def State.bufferRoom (s : State) (n : Nat) : Nat :=
  s.flight.foldl (fun k m => if m.stage == .buffer && s.mayCross m then min k (m.t0 + 32 - s.cy) else k) n

/-- The cycles of `n` that may pass now. -/
def State.room (s : State) (n : Nat) : Nat := s.sites.foldl (fun m id => s.roomAt id m) (s.bufferRoom n)

/-- Cycles pass: during a transfer phase at most one, and only when every member has used its slot. Bound queues whose entry is no longer
eligible lose their wait (R312). -/
def State.advance (s : State) (n : Nat) : State :=
  let m := s.room n
  if m = 0 then s
  else
    let t := if s.hub.slots.isEmpty then s else s.watchSlots
    let ds := t.domains.filter fun d => d.phase == 2
    if ds.isEmpty then (if t.phalanxes.isEmpty then { t with cy := t.cy + m } else t.ticks m)
    else if ds.all fun d => decide (d.start > t.cy) || (t.domainMembers d).all (t.slotUsedBy d) then t.tick
    else t

/-! ## The order of steps -/

/-- The number of a lender (R372). -/
def lenderNumber : Lender → Nat
  | .core n => n
  | .slice n => 102400 + n
  | .link d => 104960 + d
  | .peer p => 104976 + p

/-- The fabric takes the next word of a core's n4 (R120). -/
def State.sendStep (id : Nat) (s : State) : Result := .next (s.within id (s.coreAt id).k State.takeWord)

/-- The cores reached from one by following what each waits on, as far as the list has not met itself (R48). -/
def State.waitChain (s : State) (id : Nat) : Nat → List Nat
  | 0 => []
  | n + 1 => match s.waitTargets id with | t :: _ => id :: (s.waitChain t n) | [] => [id]

/-- The cycle of waits through a core, when following the waits leads back to it. -/
def State.cycleFrom (s : State) (id : Nat) : List Nat :=
  let l := s.waitChain id (s.sites.length + 1)
  match l.drop 1 |>.findIdx? (· == id) with
  | some n => l.take (n + 1)
  | none => []

/-- A word lent to a core whose context is benched with nothing to send (R372). -/
def State.creditEvents (s : State) (id : Nat) : List (State → Result) :=
  let c := s.coreAt id
  c.benched.filterMap fun b =>
    match b.1 with
    | .peer p => if s.peerLeft id p = 0 then some (execCreditReturn (lenderNumber b.1) id 8) else none
    | l =>
      if c.creditOf l = 0 then
        (s.nextBorrower id l).bind fun n =>
          ((s.bindings n).find? fun x => s.sameLender n x id l && decide ((s.coreAt n).creditOf x < 255)).map fun x => execCreditReturn (lenderNumber x) n 1
      else none

/-- The steps that may be due at a core. -/
def State.coreEvents (s : State) (id : Nat) : List (State → Result) :=
  let c := s.coreAt id
  let ks := List.range 11
  [execCorePreemptHalt id, execCoreResume id, execRecallTimeout id, execReservationLapse id, execVnredCombine id, execVnredTimeout id]
    ++ ((ks.filter fun k => (s.cxAt id k).pauseEnd != 0).map fun k => execPauseExpiry id k)
    ++ (if c.n4.fifo.isEmpty then [] else [State.sendStep id])
    ++ ((ks.filter fun k => !(s.cxAt id k).pend.isEmpty).map fun k => execResultWriteback id k)
    ++ (c.sbuf.map fun e => execDrain id e.id)
    ++ (ks.flatMap fun k =>
      let x := s.cxAt id k
      (match x.await with
        | some a => (List.range (max 1 a.els.length)).flatMap fun n => [execForward id k n, execRead id k n true, execReply id k n]
        | none => [])
      ++ (x.tickets.flatMap fun t => [execForward id k (fldBase + t.num), execRead id k (fldBase + t.num) false])
      ++ ((List.range c.acks.length).map fun n => execReply id k (ackBase + n))
      ++ (if x.walk.isSome then [execPageWalk id k] else [])
      ++ (if x.watch.isSome then [execWaitaWake id k, execWaitaTimeout id k] else [])
      ++ (if x.barPending then (List.range 6).flatMap fun w => [execBarrierArrivalSend id k w, execBarrierTimeout id k w] else []))
    ++ (c.cmds.flatMap fun m => [execPageWalk id (16 + m.tag), execTake id m.tag, execEngineStep id m.tag, execCommandComplete id m.tag])
    ++ (if c.mq.isEmpty then [] else [execMatrixPass id .ok, execMatrixComplete id])
    ++ (if c.nFly.isEmpty then [] else (List.range 4).map fun p => execNeighbourWordArrive id p)
    ++ (c.genDue.map fun a => execTlbgenAck a id)
    ++ (match s.cycleFrom id with | [] => [] | l => [execRcycle l])
    ++ s.creditEvents id

/-- The step a message on its way may take. -/
def msgEvents (m : Msg) : List (State → Result) :=
  (match m.stage with | .own => [State.crossStep m.id] | .buffer => [execMergeBufferFlush m.id] | _ => []) ++
  match m.body with
  | .store .. | .bits .. | .amo .. | .deps .. | .push .. | .flit .. => [execApply m.id]
  | .cstart _ _ _ _ => [execStart m.id]
  | .xbset _ _ _ => [execXbsetApply m.id]
  | .contrib _ _ => [execContributionEvaluate m.id false]
  | .tile _ _ => [execTileRequestServe m.id]
  | .routed _ _ => [execRoutedMessageDeliver m.id]
  | .ship _ _ => [execShipLanding m.id]

/-- The steps that may be due in the rest of the module. -/
def State.moduleEvents (s : State) : List (State → Result) :=
  (s.flight.flatMap msgEvents)
    ++ ((List.range s.dieN.length).map execAppliedVectorBroadcast)
    ++ ((List.range s.episodes.length).flatMap fun n =>
      execBarrierCommit n :: ((s.episodes[n]?).toList.flatMap fun e => e.arrived.flatMap fun a => [execBarrierRelease n a.1, execBarrierWithdrawAccept n a.1]))
    ++ (s.wqueues.map fun q => execWpopWake q.1)
    ++ ((List.range s.torus.mcast.length).map execMulticastAck)
    ++ (s.torus.mcast.map fun e => execMulticastTimeout e.core e.ctx e.ticket)
    ++ ((s.torus.owedAcks.map (·.peer)).eraseDups.map execPeerTimeout)
    ++ (s.moves.map fun m => execPageMove m.asid m.va 0)
    ++ ((List.range s.hub.jobs.length).map execJobCompletionWrite)
    ++ (if s.hub.queues.isEmpty then [] else [execBindRound, execDispatchCycle])
    ++ (if s.hub.mailbox.go then [execResync, execResyncSample, execVifcfg, execQcreate, execQdestroy, execPreempt, execResume, execWindow] else [])
    ++ (s.vifs.flatMap fun p => (List.range p.2.trays.length).map fun t => execTraySave p.1 t)

/-- The first step of a list that changes more of the state than its view, or stops. -/
def State.firstDue (s : State) : List (State → Result) → Option Result
  | [] => none
  | f :: l =>
    match f s with
    | .next t => if t.focus s.id s.core.k = s then s.firstDue l else some (.next t)
    | r => some r

/-- The order that stands in for an empty `sched`: the first step that is due, else the first core that can issue, else a cycle. -/
def State.byDefault (s : State) : Result :=
  match s.firstDue (s.sites.flatMap s.coreEvents ++ s.moduleEvents) with
  | some r => r
  | none =>
    match s.firstDue (s.sites.map fun id s => s.issueTurn id) with
    | some r => r
    | none => if s.torus.inject.isEmpty then .next (s.advance 1) else execTorusHop [] (s.advance 1)

/-- An act of the schedule. -/
def State.act (s : State) (a : Act) : Result :=
  match a with
  | .issue core => s.issueTurn core
  | .event i => if i.encodable then .next s else exec i s
  | .send core => State.sendStep core s
  | .enter item place => State.enterStep item place s
  | .cross item => State.crossStep item s
  | .select core ctx => .next (s.modHub fun h => { h with selected := (core, ctx) })
  | .examine main a => .next (s.examine main a)
  | .proof reg h el => .next (s.proof reg h el)
  | .upset w => .next (s.upsetWord w)
  | .powerLimit w => .next (s.setLimit w)
  | .powerGood => .next s.supplied
  | .dieLeaves d => .next (s.dieLeaves d)

/-- The next step: the next turn of the schedule, or the default order. -/
def State.turn (s : State) : Result :=
  match s.sched with
  | [] => s.byDefault
  | t :: rest => ({ s with sched := rest }.advance t.dt).act t.act

/-- Bytes written at the start of core 0's user instruction store, its control context Ready there, its issue the next turn. -/
def State.placed (s : State) (bytes : List Byte) : State :=
  let t := s.focus 0 0
  { t with
    mem := Memory.putBytes t.mem (sramKey 0 0x0800) bytes
    cx := { t.cx with st := .ready, pc := 0x0800 }
    core := { t.core with ptr := 0, issued := none }
    sched := [⟨0, .issue 0⟩] }

end Sys2Proof.Machine
end

