-- ==== Sys2Proof/Machine/Step.lean ====
section
/-!
DEFINITION. The step, and how a word is placed so that it is the next instruction to run (notes/assumptions/2.md).
-/
namespace Sys2Proof.Machine

/-- One step: the next turn of the order that `sched` gives. -/
def step (s : State) : Host.Outcome State Fault Refusal := s.turn

/-- `s` with an instruction's bytes at offset 0x0800 of core 0, its control context Ready there, and its issue as the next step. -/
def State.withFetchWord (s : State) (nbits w : Nat) : State := s.placed (tableBytes nbits w)

end Sys2Proof.Machine
end

