-- ==== Sys2Proof/Safety.lean ====
section
/-!
DEFINITION. The words claims are stated in: sound states, and what an instruction leaves as it was.
-/
namespace Sys2Proof.Machine

/-- Every memory of the module is in its canonical form: device memory, the host's memory and the mailbox's argument words. -/
def State.canonical (s : State) : Prop :=
  Memory.wf s.mem = true ∧ Memory.wf s.hub.hostMem = true ∧ Memory.wf s.hub.mailbox.args = true

/-- `n` steps from a state end in a state: no fault and no refusal stops them. -/
def State.runsSafe (s : State) (n : Nat) : Prop := ∃ t, Host.Core.run Sys2Proof.core n s = .next t

/-- Every leaf a walk ends at names a frame below 96 GiB of its stack (R290): what `Fault.frameBeyondStack` needs to be absent. -/
def State.framesOk (s : State) : Prop :=
  ∀ asid va pa level e, s.walkOf asid va = .leaf pa level e → (pteAddr e + va % 2 ^ leafSize level) % 2 ^ 40 < 0x1800000000

/-! ## Frames -/

/-- The context in view is Ready at `p` with no instruction in progress; one further in its stream when it is in a phalanx. -/
def State.readyAt (s t : State) (p : Pc) : Prop :=
  t.cx.pc = p ∧ t.cx.st = .ready ∧ t.cx.await = none ∧ t.cx.watch = none ∧ t.cx.walk = none ∧ t.cx.reply = none
    ∧ t.cx.asked = false ∧ t.cx.arrived = false ∧ t.cx.popped = none ∧ t.cx.pos = if s.cx.inPhlx then s.cx.pos + 1 else s.cx.pos

/-- `c` with the general registers of `d`, and with what the end of an instruction sets taken from `d`. -/
def Context.withRegsOf (c d : Context) : Context :=
  { c with g := d.g, pc := d.pc, st := d.st, await := d.await, watch := d.watch, walk := d.walk, reply := d.reply,
           asked := d.asked, arrived := d.arrived, popped := d.popped, held := d.held, waited := d.waited, pos := d.pos }

/-- Between `s` and `t` nothing changes but general registers of the context in view, its PC and the instruction in progress: the
status register, the flags, every control, exception and tempo register, the tensor identifiers, the rest of the core, every other
core, and every byte of memory are as before. -/
structure State.RegsOnly (s t : State) : Prop where
  status : t.cx.status = s.cx.status
  flags : t.cx.fflags = s.cx.fflags
  context : t.cx = s.cx.withRegsOf t.cx
  core : t.core = s.core
  memory : ∀ a, Memory.get t.mem a = Memory.get s.mem a
  rest : t = { s with cx := t.cx }

/-- `i` completes with `v` in g(d): every other general register and everything else is as before (a write to g0 is discarded). -/
def completesG (i : Instr) (s : State) (d : GReg) (v : Word) : Prop :=
  ∃ t, exec i s = .next t ∧ t.g d = (if d = 0 then 0 else v) ∧ (∀ r, r ≠ d → t.g r = s.g r)
    ∧ s.readyAt t (s.cx.pc + BitVec.ofNat 15 i.size) ∧ s.RegsOnly t

/-- `i` completes at `p` and changes no register. -/
def completesAt (i : Instr) (s : State) (p : Pc) : Prop :=
  ∃ t, exec i s = .next t ∧ (∀ r, t.g r = s.g r) ∧ s.readyAt t p ∧ s.RegsOnly t

/-- The PC of the next instruction. -/
def State.after (s : State) (i : Instr) : Pc := s.cx.pc + BitVec.ofNat 15 i.size

/-- `i` completes and its result `v` is written to g(d) `n` cycles after issue, g0 taking none: nothing else changes. -/
def completesLater (i : Instr) (s : State) (d : GReg) (v : Word) (n : Nat) : Prop :=
  ∃ t, exec i s = .next t ∧ (∀ r, t.g r = s.g r)
    ∧ t.cx.pend = (if d = 0 then s.cx.pend else s.cx.pend ++ [⟨.g d, [v], s.cy + n⟩])
    ∧ s.readyAt t (s.after i) ∧ (s.setCx { s.cx with pend := t.cx.pend }).RegsOnly t

/-- `i` takes the trap of that code and TVAL at the instruction (R251): the exception entry is the next state. -/
def trapsWith (i : Instr) (s : State) (code : Nat) (tval : Word) : Prop := exec i s = .next (s.trapEntry code 0 false tval)

/-! ## Places and accesses -/

/-- An address of the data part of the own local SRAM of a core of the module, through LOC. -/
abbrev State.ownData (s : State) (ea : Word) (size : Nat) : Prop :=
  s.id < siteCount ∧ 0xF000000000000 ≤ ea.toNat ∧ ea.toNat + size ≤ 0xF000000008000 ∧ ea.toNat % size = 0
    ∧ s.core.xbound.toNat ≤ ea.toNat - 0xF000000000000

/-- The place of such an address in memory. -/
def State.ownKey (s : State) (ea : Word) : Nat := sramKey s.id (ea.toNat - 0xF000000000000)

/-- A read of the core's own SRAM by the context in view may be served at once: from the core's own buffers, or because no store of the core
to it is on its way and no AMO or FLD of the context to it is unanswered (R265). -/
abbrev State.servedHere (s : State) (key size : Nat) : Prop := s.core.ownsAll key size = true ∨ s.readLocal key size = true

/-- No acquire point and no SC access of the context is open, so that an access of ORD other than SC issues (R267, R271). -/
abbrev State.accessFree (s : State) : Prop := s.cx.acqOpen = false ∧ s.scOpen = false

/-- No general register, flag, status bit or byte of memory differs, and the context in view stays where it is. -/
structure State.Holds (s t : State) : Prop where
  regs : ∀ r, t.g r = s.g r
  pc : t.cx.pc = s.cx.pc
  status : t.cx.status = s.cx.status
  flags : t.cx.fflags = s.cx.fflags
  memory : ∀ a, Memory.get t.mem a = Memory.get s.mem a

/-- `i` waits with kind `w`: nothing of its effect happens, the context stays at it. -/
def waitsWith (i : Instr) (s : State) (w : Wait) : Prop := ∃ t, exec i s = .next t ∧ t.cx.st = .waiting w ∧ s.Holds t ∧ t.core = s.core

/-- No general register other than g(d), flag, status bit or byte of memory differs, and the context in view goes on after `i`. -/
structure State.Went (s t : State) (i : Instr) (d : GReg) : Prop where
  regs : ∀ r, r ≠ d → t.g r = s.g r
  ready : s.readyAt t (s.after i)
  status : t.cx.status = s.cx.status
  flags : t.cx.fflags = s.cx.fflags
  memory : ∀ a, Memory.get t.mem a = Memory.get s.mem a

/-- g(d) takes a value; g0 takes none. -/
def State.took (t : State) (d : GReg) (v : Word) : Prop := t.g d = if d = 0 then 0 else v

end Sys2Proof.Machine
end

