-- ==== Sys2Proof/Certificates/Slice0/Obligations.lean ====
section
/-!
DEFINITION. The statements for the provers, each a proposition about the model; the sentences of spec/ they formalise stand in
OBLIGATIONS.json. `completesG`, `completesAt`, `completesLater` and `State.RegsOnly` (Sys2Proof/Safety.lean) carry the frames.
-/
open Sys2Proof Sys2Proof.Machine

/-! ## Scalar instructions (spec/05_scalar.md) -/

/-- R94: NOP only goes on. -/
def Claims.NopOnlyAdvances : Prop := ∀ s : State, completesAt .nop s (s.cx.pc + 4)

/-- The shift amount of R103: b[5:0]. -/
def shiftOf (b : Word) : Nat := b.toNat % 64

/-- R103: the result of every register form that does not clamp, on the operands read at issue; nothing else changes. -/
def Claims.RegisterArithmeticResults : Prop :=
  ∀ (s : State) (d a b : GReg),
    let x := s.g a
    let y := s.g b
    let sh := shiftOf y
    completesG (.add d a b) s d (BitVec.ofNat 64 (x.toNat + y.toNat))
    ∧ completesG (.sub d a b) s d (BitVec.ofInt 64 ((x.toNat : Int) - y.toNat))
    ∧ completesG (.and d a b) s d (x &&& y) ∧ completesG (.or d a b) s d (x ||| y) ∧ completesG (.xor d a b) s d (x ^^^ y)
    ∧ completesG (.andn d a b) s d (x &&& ~~~y)
    ∧ completesG (.sll d a b) s d (BitVec.ofNat 64 (x.toNat * 2 ^ sh))
    ∧ completesG (.srl d a b) s d (BitVec.ofNat 64 (x.toNat / 2 ^ sh))
    ∧ completesG (.sra d a b) s d (BitVec.ofInt 64 (x.toInt / 2 ^ sh))
    ∧ completesG (.rol d a b) s d (BitVec.ofNat 64 (x.toNat % 2 ^ (64 - sh) * 2 ^ sh + x.toNat / 2 ^ (64 - sh)))
    ∧ completesG (.ror d a b) s d (BitVec.ofNat 64 (x.toNat % 2 ^ sh * 2 ^ (64 - sh) + x.toNat / 2 ^ sh))
    ∧ completesG (.min d a b) s d (if x.toInt ≤ y.toInt then x else y)
    ∧ completesG (.max d a b) s d (if x.toInt ≤ y.toInt then y else x)
    ∧ completesG (.minZ d a b) s d (if x.toNat ≤ y.toNat then x else y)
    ∧ completesG (.maxZ d a b) s d (if x.toNat ≤ y.toNat then y else x)
    ∧ completesG (.slt d a b) s d (if x.toInt < y.toInt then 1 else 0)
    ∧ completesG (.sltZ d a b) s d (if x.toNat < y.toNat then 1 else 0)

/-- A saturating form that does not end in FPEXC: the clamped value, SV merged when it clamped, all else as before. -/
def completesSat (i : Instr) (s : State) (d : GReg) (exact lo hi : Int) : Prop :=
  ∃ t, exec i s = .next t
    ∧ t.g d = (if d = 0 then 0 else BitVec.ofInt 64 (max lo (min hi exact)))
    ∧ (∀ r, r ≠ d → t.g r = s.g r)
    ∧ t.cx.fflags = (if lo ≤ exact ∧ exact ≤ hi then s.cx.fflags else s.cx.fflags ||| 0x20)
    ∧ s.readyAt t (s.after i) ∧ (s.setCx { s.cx with fflags := t.cx.fflags }).RegsOnly t

/-- R102, R103: the `.SAT` forms clamp and set SV, in every state in which SV does not newly raise FPEXC (SV set already, or its
enable bit ARITH[10] clear). -/
def Claims.SaturatingFormsClamp : Prop :=
  ∀ (s : State) (d a b : GReg), (bit s.cx.fflags 5 = true ∨ bit s.cx.arith 10 = false) →
    completesSat (.addSat d a b) s d ((s.g a).toInt + (s.g b).toInt) (-(2 ^ 63)) (2 ^ 63 - 1)
    ∧ completesSat (.addZSat d a b) s d ((s.g a).toNat + (s.g b).toNat) 0 (2 ^ 64 - 1)
    ∧ completesSat (.subSat d a b) s d ((s.g a).toInt - (s.g b).toInt) (-(2 ^ 63)) (2 ^ 63 - 1)
    ∧ completesSat (.subZSat d a b) s d ((s.g a).toNat - (s.g b).toNat) 0 (2 ^ 64 - 1)

/-- A clamping form that newly sets SV while ARITH enables it: the clamped result and SV are there, and FPEXC has entered the user handler. -/
def clampTraps (i : Instr) (s : State) (d : GReg) (exact lo hi : Int) : Prop :=
  exact < lo ∨ hi < exact →
    ∃ t, exec i s = .next t ∧ t.g d = (if d = 0 then 0 else BitVec.ofInt 64 (max lo (min hi exact))) ∧ t.cx.fflags = s.cx.fflags ||| 0x20
      ∧ t.cx.epc = zext s.cx.pc ∧ t.cx.cause = 0x15 ∧ t.cx.tval = 0x20 ∧ t.cx.inTrap = true
      ∧ t.cx.pc = BitVec.ofNat 15 (bits s.cx.trapvec 14 2 * 4) ∧ (∀ r, r ≠ d → t.g r = s.g r)
      ∧ (∀ k, Memory.get t.mem k = Memory.get s.mem k)

/-- R21, R33, R102: a `.SAT` form that newly sets SV while ARITH enables it writes its clamped result and takes FPEXC at itself: below
supervisor level, outside a phalanx and with FPEXC delegated and no user handler running, the user handler is entered with EPC at
the instruction and TVAL the newly set bit; one that does not clamp completes as ever. (That EPC is the PC of the instruction that set the flag: notes/assumptions/10.md.) -/
def Claims.SaturationTrapsWhenEnabled : Prop :=
  ∀ (s : State) (d a b : GReg), bit s.cx.fflags 5 = false → bit s.cx.arith 10 = true →
    let all (p : Instr → Int → Int → Int → Prop) : Prop :=
      p (.addSat d a b) ((s.g a).toInt + (s.g b).toInt) (-(2 ^ 63)) (2 ^ 63 - 1)
      ∧ p (.addZSat d a b) ((s.g a).toNat + (s.g b).toNat) 0 (2 ^ 64 - 1)
      ∧ p (.subSat d a b) ((s.g a).toInt - (s.g b).toInt) (-(2 ^ 63)) (2 ^ 63 - 1)
      ∧ p (.subZSat d a b) ((s.g a).toNat - (s.g b).toNat) 0 (2 ^ 64 - 1)
    (s.cx.super = false → s.cx.inPhlx = false → s.cx.inTrap = false → bit s.cx.trapdeleg 0x15 = true → all fun i v lo hi => clampTraps i s d v lo hi)
    ∧ all fun i v lo hi => lo ≤ v → v ≤ hi → completesG i s d (BitVec.ofInt 64 v)

/-- R104: products, quotients and remainders, written 3 and 36 cycles after issue; neither a zero divisor nor overflow traps or
sets a flag. -/
def Claims.MultiplyDivideResults : Prop :=
  ∀ (s : State) (d a b : GReg),
    let x := s.g a
    let y := s.g b
    completesLater (.mul d a b) s d (BitVec.ofNat 64 (x.toNat * y.toNat)) 3
    ∧ completesLater (.mulh d a b) s d (BitVec.ofInt 64 ((x.toInt * y.toInt) / 2 ^ 64)) 3
    ∧ completesLater (.mulhZ d a b) s d (BitVec.ofNat 64 ((x.toNat * y.toNat) / 2 ^ 64)) 3
    ∧ completesLater (.div d a b) s d
        (if y = 0 then -1 else if x.toInt = -(2 ^ 63) ∧ y.toInt = -1 then BitVec.ofInt 64 (-(2 ^ 63)) else BitVec.ofInt 64 (x.toInt.tdiv y.toInt)) 36
    ∧ completesLater (.divZ d a b) s d (if y = 0 then BitVec.ofNat 64 (2 ^ 64 - 1) else BitVec.ofNat 64 (x.toNat / y.toNat)) 36
    ∧ completesLater (.rem d a b) s d
        (if y = 0 then x else if x.toInt = -(2 ^ 63) ∧ y.toInt = -1 then 0 else BitVec.ofInt 64 (x.toInt - y.toInt * x.toInt.tdiv y.toInt)) 36
    ∧ completesLater (.remZ d a b) s d (if y = 0 then x else BitVec.ofNat 64 (x.toNat - y.toNat * (x.toNat / y.toNat))) 36

/-- The number of zero bits above the most significant 1 of `x`, 64 for 0. -/
def IsLeadingZeros (x : Word) (n : Nat) : Prop :=
  (x = 0 ∧ n = 64) ∨ (n < 64 ∧ x.getLsbD (63 - n) = true ∧ ∀ i, 63 - n < i → x.getLsbD i = false)

/-- The number of zero bits below the least significant 1 of `x`, 64 for 0. -/
def IsTrailingZeros (x : Word) (n : Nat) : Prop :=
  (x = 0 ∧ n = 64) ∨ (n < 64 ∧ x.getLsbD n = true ∧ ∀ i, i < n → x.getLsbD i = false)

/-- R105, R106, R107: SEL, ADDX and the bit counts. -/
def Claims.SelectScaleAndCountResults : Prop :=
  ∀ (s : State) (d a b c : GReg) (sh : BitVec 3),
    completesG (.sel d a b c) s d (if s.g c = 0 then s.g b else s.g a)
    ∧ completesG (.addx d a b sh) s d (BitVec.ofNat 64 ((s.g a).toNat + (s.g b).toNat * 2 ^ sh.toNat))
    ∧ (∃ n, IsLeadingZeros (s.g a) n ∧ completesG (.clz d a) s d (BitVec.ofNat 64 n))
    ∧ (∃ n, IsTrailingZeros (s.g a) n ∧ completesG (.ctz d a) s d (BitVec.ofNat 64 n))
    ∧ completesG (.popc d a) s d (BitVec.ofNat 64 ((List.range 64).filter fun i => (s.g a).getLsbD i).length)
    ∧ (∃ v : Word, (∀ i, i < 64 → v.getLsbD (63 - i) = (s.g a).getLsbD i) ∧ completesG (.brev d a) s d v)

/-- R108: the I-format results. -/
def Claims.ImmediateFormsResults : Prop :=
  ∀ (s : State) (d a : GReg) (imm : BitVec 14) (sh : BitVec 6),
    let x := s.g a
    completesG (.addi d a imm) s d (BitVec.ofInt 64 (x.toInt + imm.toInt))
    ∧ completesG (.andi d a imm) s d (x &&& BitVec.ofInt 64 imm.toInt)
    ∧ completesG (.ori d a imm) s d (x ||| BitVec.ofNat 64 imm.toNat)
    ∧ completesG (.xori d a imm) s d (x ^^^ BitVec.ofNat 64 imm.toNat)
    ∧ completesG (.slli d a sh) s d (BitVec.ofNat 64 (x.toNat * 2 ^ sh.toNat))
    ∧ completesG (.srli d a sh) s d (BitVec.ofNat 64 (x.toNat / 2 ^ sh.toNat))
    ∧ completesG (.srai d a sh) s d (BitVec.ofInt 64 (x.toInt / 2 ^ sh.toNat))
    ∧ completesG (.slti d a imm) s d (if x.toInt < imm.toInt then 1 else 0)

/-- R109: LI, LIH and the two forms of ADPC. -/
def Claims.LiteralFormsResults : Prop :=
  ∀ (s : State) (d : GReg) (lit : BitVec 32),
    let off := (((s.cx.pc.toNat : Int) + lit.toInt) % 2 ^ 15).toNat
    completesG (.li d lit) s d (BitVec.ofInt 64 lit.toInt)
    ∧ completesG (.lih d lit) s d (BitVec.ofNat 64 (lit.toNat * 2 ^ 32 + (s.g d).toNat % 2 ^ 32))
    ∧ completesG (.adpc d lit) s d (BitVec.ofNat 64 off)
    ∧ completesG (.adpcLoc d lit) s d (BitVec.ofNat 64 (0xF000000000000 + off))

/-- The target of R88 for a displacement of a branch at the PC. -/
def branchTarget {n : Nat} (pc : Pc) (disp : BitVec n) : Pc := BitVec.ofInt 15 ((pc.toNat : Int) + 4 * disp.toInt)

/-- R110, R124: the branches go to their target when the condition holds and on otherwise; they change no register. -/
def Claims.BranchesFollowTheirConditions : Prop :=
  ∀ (s : State) (a b : GReg) (n : BitVec 5) (t : TaReg) (disp : BitVec 14),
    let goes (c : Bool) : Pc := if c then branchTarget s.cx.pc disp else s.cx.pc + 4
    let x := s.g a
    let y := s.g b
    completesAt (.beq a b disp) s (goes (decide (x = y))) ∧ completesAt (.bne a b disp) s (goes (decide (x ≠ y)))
    ∧ completesAt (.blt a b disp) s (goes (decide (x.toInt < y.toInt))) ∧ completesAt (.bge a b disp) s (goes (decide (x.toInt ≥ y.toInt)))
    ∧ completesAt (.bltZ a b disp) s (goes (decide (x.toNat < y.toNat))) ∧ completesAt (.bgeZ a b disp) s (goes (decide (x.toNat ≥ y.toNat)))
    ∧ completesAt (.bbs a n disp) s (goes (x.getLsbD n.toNat)) ∧ completesAt (.bbsHi a n disp) s (goes (x.getLsbD (32 + n.toNat)))
    ∧ completesAt (.bbc a n disp) s (goes (!x.getLsbD n.toNat)) ∧ completesAt (.bbcHi a n disp) s (goes (!x.getLsbD (32 + n.toNat)))
    ∧ completesAt (.btempo t disp) s (goes (decide ((s.taImage t).toNat % 256 ≠ 0)))
    ∧ completesAt (.bntempo t disp) s (goes (decide ((s.taImage t).toNat % 256 = 0)))

/-- R111: LOOP counts g(A) down, wrapping, and branches unless it reached 0 (A is not g0 in any encoding). -/
def Claims.LoopCountsDown : Prop :=
  ∀ (s : State) (a : GReg) (disp : BitVec 14), a ≠ 0 →
    ∃ t, exec (.loop a disp) s = .next t ∧ t.g a = BitVec.ofInt 64 ((s.g a).toInt - 1) ∧ (∀ r, r ≠ a → t.g r = s.g r)
      ∧ s.readyAt t (if (s.g a).toNat = 1 then s.cx.pc + 4 else branchTarget s.cx.pc disp) ∧ s.RegsOnly t

/-- R112: JMP and JMPX; JMPX with bits [1:0] set raises ALIGN with TVAL the register and does not jump. -/
def Claims.JumpsGoToTheirTargets : Prop :=
  ∀ (s : State) (a : GReg) (disp : BitVec 24),
    completesAt (.jmp disp) s (branchTarget s.cx.pc disp)
    ∧ ((s.g a).toNat % 4 = 0 → completesAt (.jmpx a) s (BitVec.ofNat 15 ((s.g a).toNat % 2 ^ 15)))
    ∧ ((s.g a).toNat % 4 ≠ 0 → trapsWith (.jmpx a) s 0x05 (s.g a))

/-- R12, R101: g0 reads 0 in every state, and an instruction that names it as destination writes no register. -/
def Claims.RegisterZeroReadsZero : Prop :=
  ∀ (s : State), s.g 0 = 0 ∧ ∀ v, s.setG 0 v = s

/-! ## Encodings of the scalar instructions (spec/04_formats.md R87, R89, spec/05_scalar.md) -/

/-- A parcel in the T format (R87). -/
def tForm (op f6 f3 : Nat) (d a b : BitVec 5) : Parcel := BitVec.ofNat 6 f6 ++ BitVec.ofNat 3 f3 ++ b ++ a ++ d ++ BitVec.ofNat 6 op ++ 0#2

/-- A parcel in the I or B format (R87): the two fields of bits 12:8 and 17:13, and the 14 bits above them. -/
def iForm (op : Nat) (lo hi : BitVec 5) (imm : BitVec 14) : Parcel := imm ++ hi ++ lo ++ BitVec.ofNat 6 op ++ 0#2

/-- R94: the parcel of NOP. -/
def Claims.NopIsTheZeroParcel : Prop := decode [0x00000000] = .ok .nop

/-- R103: OP 0x00, F6 and F3 of each register form; other values of F6 and F3 are no instruction. -/
def Claims.RegisterFormsEncode : Prop :=
  ∀ (d a b : GReg),
    (d ≠ 0 ∨ a ≠ 0 ∨ b ≠ 0 → decode [tForm 0x00 0 0 d a b] = .ok (.add d a b))
    ∧ decode [tForm 0x00 0 1 d a b] = .ok (.addSat d a b) ∧ decode [tForm 0x00 0 2 d a b] = .ok (.addZSat d a b)
    ∧ decode [tForm 0x00 1 0 d a b] = .ok (.sub d a b) ∧ decode [tForm 0x00 1 1 d a b] = .ok (.subSat d a b)
    ∧ decode [tForm 0x00 1 2 d a b] = .ok (.subZSat d a b) ∧ decode [tForm 0x00 2 0 d a b] = .ok (.and d a b)
    ∧ decode [tForm 0x00 3 0 d a b] = .ok (.or d a b) ∧ decode [tForm 0x00 4 0 d a b] = .ok (.xor d a b)
    ∧ decode [tForm 0x00 5 0 d a b] = .ok (.andn d a b) ∧ decode [tForm 0x00 6 0 d a b] = .ok (.sll d a b)
    ∧ decode [tForm 0x00 7 0 d a b] = .ok (.srl d a b) ∧ decode [tForm 0x00 8 0 d a b] = .ok (.sra d a b)
    ∧ decode [tForm 0x00 9 0 d a b] = .ok (.rol d a b) ∧ decode [tForm 0x00 10 0 d a b] = .ok (.ror d a b)
    ∧ decode [tForm 0x00 11 0 d a b] = .ok (.min d a b) ∧ decode [tForm 0x00 12 0 d a b] = .ok (.max d a b)
    ∧ decode [tForm 0x00 13 0 d a b] = .ok (.minZ d a b) ∧ decode [tForm 0x00 14 0 d a b] = .ok (.maxZ d a b)
    ∧ decode [tForm 0x00 15 0 d a b] = .ok (.slt d a b) ∧ decode [tForm 0x00 16 0 d a b] = .ok (.sltZ d a b)
    ∧ (∀ f6 f3, 17 ≤ f6 → f6 < 64 → f3 < 8 → decode [tForm 0x00 f6 f3 d a b] = .error .unknownOpcode)
    ∧ (∀ f6 f3, f6 ≤ 1 → 3 ≤ f3 → f3 < 8 → decode [tForm 0x00 f6 f3 d a b] = .error .fieldsBad)
    ∧ (∀ f6 f3, 2 ≤ f6 → f6 ≤ 16 → 1 ≤ f3 → f3 < 8 → decode [tForm 0x00 f6 f3 d a b] = .error .fieldsBad)

/-- R104: OP 0x01 with F6 0 to 6 and F3 0. -/
def Claims.MultiplyDivideEncode : Prop :=
  ∀ (d a b : GReg),
    decode [tForm 0x01 0 0 d a b] = .ok (.mul d a b) ∧ decode [tForm 0x01 1 0 d a b] = .ok (.mulh d a b) ∧ decode [tForm 0x01 2 0 d a b] = .ok (.mulhZ d a b)
    ∧ decode [tForm 0x01 3 0 d a b] = .ok (.div d a b) ∧ decode [tForm 0x01 4 0 d a b] = .ok (.divZ d a b) ∧ decode [tForm 0x01 5 0 d a b] = .ok (.rem d a b)
    ∧ decode [tForm 0x01 6 0 d a b] = .ok (.remZ d a b)

/-- R105, R106, R107: SEL with its condition register in F6[4:0], ADDX with its shift in F3, and the bit counts. -/
def Claims.SelectScaleAndCountEncode : Prop :=
  ∀ (d a b c : GReg) (sh : BitVec 3),
    decode [tForm 0x02 c.toNat 0 d a b] = .ok (.sel d a b c) ∧ decode [tForm 0x03 0 sh.toNat d a b] = .ok (.addx d a b sh)
    ∧ decode [tForm 0x04 0 0 d a 0] = .ok (.clz d a) ∧ decode [tForm 0x04 1 0 d a 0] = .ok (.ctz d a)
    ∧ decode [tForm 0x04 2 0 d a 0] = .ok (.popc d a) ∧ decode [tForm 0x04 3 0 d a 0] = .ok (.brev d a)

/-- R108, R109: the I format, with bits 13:6 of a shift's immediate 0; the 96-bit literal forms. -/
def Claims.ImmediateAndLiteralEncode : Prop :=
  ∀ (d a : GReg) (imm : BitVec 14) (sh : BitVec 6) (lit : BitVec 32),
    let x (min : Nat) (f3 : Nat) : List Parcel := [0#11 ++ d ++ BitVec.ofNat 8 min ++ 0x00#6 ++ 2#2, 0#24 ++ BitVec.ofNat 3 f3 ++ 0#5, lit]
    decode [iForm 0x08 d a imm] = .ok (.addi d a imm) ∧ decode [iForm 0x09 d a imm] = .ok (.andi d a imm) ∧ decode [iForm 0x0A d a imm] = .ok (.ori d a imm)
    ∧ decode [iForm 0x0B d a imm] = .ok (.xori d a imm) ∧ decode [iForm 0x0F d a imm] = .ok (.slti d a imm)
    ∧ decode [iForm 0x0C d a (0#8 ++ sh)] = .ok (.slli d a sh) ∧ decode [iForm 0x0D d a (0#8 ++ sh)] = .ok (.srli d a sh)
    ∧ decode [iForm 0x0E d a (0#8 ++ sh)] = .ok (.srai d a sh)
    ∧ (∀ op ∈ [0x0C, 0x0D, 0x0E], 64 ≤ imm.toNat → decode [iForm op d a imm] = .error .fieldsBad)
    ∧ decode (x 0 0) = .ok (.li d lit) ∧ decode (x 1 0) = .ok (.lih d lit) ∧ decode (x 2 0) = .ok (.adpc d lit) ∧ decode (x 2 1) = .ok (.adpcLoc d lit)

/-- R110, R111, R112: the branches, LOOP, which with A = 0 is no instruction, JMP and JMPX. -/
def Claims.BranchesEncode : Prop :=
  ∀ (a b : GReg) (disp : BitVec 14) (far : BitVec 24),
    decode [iForm 0x10 a b disp] = .ok (.beq a b disp) ∧ decode [iForm 0x11 a b disp] = .ok (.bne a b disp) ∧ decode [iForm 0x12 a b disp] = .ok (.blt a b disp)
    ∧ decode [iForm 0x13 a b disp] = .ok (.bge a b disp) ∧ decode [iForm 0x14 a b disp] = .ok (.bltZ a b disp) ∧ decode [iForm 0x15 a b disp] = .ok (.bgeZ a b disp)
    ∧ decode [iForm 0x16 a b disp] = .ok (.bbs a b disp) ∧ decode [iForm 0x17 a b disp] = .ok (.bbsHi a b disp)
    ∧ decode [iForm 0x18 a b disp] = .ok (.bbc a b disp) ∧ decode [iForm 0x19 a b disp] = .ok (.bbcHi a b disp)
    ∧ (a ≠ 0 → decode [iForm 0x1A a 0 disp] = .ok (.loop a disp)) ∧ decode [iForm 0x1A 0 0 disp] = .error .fieldsBad
    ∧ decode [far ++ 0x1B#6 ++ 0#2] = .ok (.jmp far) ∧ decode [tForm 0x1D 0 0 0 a 0] = .ok (.jmpx a)

/-- R253: the parcels of ERET. -/
def Claims.ReturnEncodes : Prop := decode [0x000001E9, 0x00000000] = .ok .eret

/-! ## Control registers, exceptions and returns (spec/01_machine_state.md, spec/10_engines_system.md) -/

/-- R17: the reset values the register table gives, in the state at power-good. -/
def Claims.ResetControlRegisters : Prop :=
  let s := State.reset
  s.creg 0x00 = some 0 ∧ s.creg 0x02 = some 0 ∧ s.creg 0x03 = some 0 ∧ s.creg 0x04 = some 0 ∧ s.creg 0x05 = some 0
  ∧ s.creg 0x06 = some 0 ∧ s.creg 0x08 = some 0x4000 ∧ s.creg 0x09 = some 0x0122 ∧ s.creg 0x0C = some 0 ∧ s.creg 0x0D = some 0
  ∧ s.creg 0x0E = some 0 ∧ s.creg 0x10 = some 0 ∧ s.creg 0x11 = some 0 ∧ s.creg 0x14 = some 0 ∧ s.creg 0x15 = some 0x00100000
  ∧ s.creg 0x16 = some 2 ∧ s.creg 0x17 = some 0 ∧ s.creg 0x18 = some 0
  ∧ s.creg 0x1C = some 0 ∧ s.creg 0x1D = some 0 ∧ s.creg 0x1E = some 0 ∧ s.creg 0x1F = some 0
  ∧ s.creg 0x27 = some 0 ∧ s.creg 0x2C = some 0 ∧ s.creg 0x2D = some 0 ∧ s.creg 0x30 = some 0 ∧ s.creg 0x34 = some 0
  ∧ s.creg 0xC0 = some 0 ∧ s.creg 0xC1 = some 0 ∧ s.creg 0xC3 = some 0x0800 ∧ s.creg 0xC4 = some 0x01F9CC3E
  ∧ (∀ r, s.g r = 0) ∧ (∀ r : TaReg, s.taImage r = 0) ∧ s.core.q = Vector.replicate 4 [] ∧ s.core.n5 = [] ∧ s.core.lanes = 0

/-- R115, R17: CRD writes the register's value; the registers that hold their value as written are read as held, TIME 4 cycles
later. -/
def Claims.ControlRegisterReads : Prop :=
  ∀ (s : State) (d : GReg),
    (∀ (sel : BitVec 8) (v : Word), (s.cx.super = true ∨ sel.toNat < 0xC0) → sel ≠ 0x20 → s.creg sel.toNat = some v →
      completesG (.crd d sel) s d v)
    ∧ completesLater (.crd d 0x20) s d (BitVec.ofNat 64 s.time) 4
    ∧ completesG (.crd d 0x02) s d s.cx.epc ∧ completesG (.crd d 0x03) s d s.cx.cause ∧ completesG (.crd d 0x04) s d s.cx.tval
    ∧ completesG (.crd d 0x05) s d s.cx.trapvec ∧ completesG (.crd d 0x06) s d s.cx.ovlhand
    ∧ completesG (.crd d 0x08) s d s.core.xbound ∧ completesG (.crd d 0x09) s d s.cx.memdef
    ∧ completesG (.crd d 0x0C) s d s.cx.arith ∧ completesG (.crd d 0x0D) s d s.cx.fflags ∧ completesG (.crd d 0x0E) s d s.cx.amax
    ∧ completesG (.crd d 0x11) s d s.core.vsetl ∧ completesG (.crd d 0x14) s d s.cx.domain
    ∧ completesG (.crd d 0x15) s d s.cx.btimeout ∧ completesG (.crd d 0x16) s d s.core.skew
    ∧ completesG (.crd d 0x18) s d s.cx.slotmask
    ∧ (∀ k : Fin 4, completesG (.crd d (0x1C + BitVec.ofNat 8 k.val)) s d s.cx.breg[k])
    ∧ completesG (.crd d 0x2C) s d s.cx.ssp ∧ completesG (.crd d 0x2D) s d s.cx.sslim
    ∧ completesG (.crd d 0x30) s d s.cx.pattern ∧ completesG (.crd d 0x34) s d s.cx.errpend
    ∧ (s.cx.super = true → completesG (.crd d 0xC0) s d s.cx.asid ∧ completesG (.crd d 0xC1) s d s.cx.gen
        ∧ completesG (.crd d 0xC3) s d s.core.sbound ∧ completesG (.crd d 0xC4) s d s.cx.trapdeleg)

/-- The context-owned registers of R17 that take any value within their bits: selector and bits. -/
def plainRegisters : List (BitVec 8 × Word) :=
  [(0x02, 0x7FFC), (0x03, 0xFFF), (0x04, 0xFFFFFFFFFFFFFFFF), (0x05, 0x7FFC), (0x06, 0x7FFC), (0x0C, 0xFFF), (0x0D, 0x3F),
   (0x0E, 0xFFFFFFFF), (0x15, 0xFFFFFFFF), (0x18, 0xFFFFFFFFFFFFFFFF), (0x30, 0xFFFFFFFFFFFFFFF)]

/-- A control-register write that completes: the register reads `new`, g(D) takes the old value, and no other general or control
register and no byte of memory changes. -/
def writesRegister (i : Instr) (s : State) (d : GReg) (sel : BitVec 8) (old new : Word) : Prop :=
  ∃ t, exec i s = .next t ∧ t.creg sel.toNat = some new ∧ t.g d = (if d = 0 then 0 else old) ∧ (∀ r, r ≠ d → t.g r = s.g r)
    ∧ (∀ n, n ≠ sel.toNat → t.creg n = s.creg n) ∧ (∀ a, Memory.get t.mem a = Memory.get s.mem a) ∧ s.readyAt t (s.after i)

/-- R115, R116, R26: CWR, CSET and CCLR of the plain registers form their value and return the old one when they write no reserved
bit, in a cycle in which hardware records nothing of its own. -/
def Claims.PlainControlRegisterWrites : Prop :=
  ∀ (s : State) (d a : GReg) (sel : BitVec 8) (m old : Word), s.cx.st.live = true → (sel, m) ∈ plainRegisters → s.creg sel.toNat = some old →
    s.cx.lateCy ≠ s.cy →
    (s.g a &&& ~~~m = 0 → writesRegister (.cwr d a sel) s d sel old (s.g a))
    ∧ ((old ||| s.g a) &&& ~~~m = 0 → writesRegister (.cset d a sel) s d sel old (old ||| s.g a))
    ∧ ((old &&& ~~~(s.g a)) &&& ~~~m = 0 → writesRegister (.cclr d a sel) s d sel old (old &&& ~~~(s.g a)))
    ∧ (s.g a &&& ~~~m ≠ 0 → trapsWith (.cwr d a sel) s 0x01 (zext sel))

/-- R17, R96, R100, R115: what a control-register instruction is refused for: at user level a selector of 0xC0 or above is PRIV (a phalanx's
followers make no decode check of their own); a selector not listed, at either level, and a write of a read-only register are ILLEGAL; TVAL is the
selector. -/
def Claims.ControlRegisterRefusals : Prop :=
  ∀ (s : State) (d a : GReg) (sel : BitVec 8),
    (s.cx.super = false → (s.cx.inPhlx = false ∨ s.cx.leader = true) → 0xC0 ≤ sel.toNat →
      trapsWith (.crd d sel) s 0x0C (zext sel) ∧ trapsWith (.cwr d a sel) s 0x0C (zext sel)
      ∧ trapsWith (.cset d a sel) s 0x0C (zext sel) ∧ trapsWith (.cclr d a sel) s 0x0C (zext sel))
    ∧ (sel.toNat < 0xC0 → sel ∉ ([0x00, 0x01, 0x02, 0x03, 0x04, 0x05, 0x06, 0x08, 0x09, 0x0C, 0x0D, 0x0E, 0x10, 0x11, 0x14, 0x15, 0x16,
          0x17, 0x18, 0x1C, 0x1D, 0x1E, 0x1F, 0x20, 0x21, 0x24, 0x25, 0x26, 0x27, 0x28, 0x29, 0x2C, 0x2D, 0x30, 0x34] : List (BitVec 8)) →
      trapsWith (.crd d sel) s 0x01 (zext sel) ∧ trapsWith (.cwr d a sel) s 0x01 (zext sel)
      ∧ trapsWith (.cset d a sel) s 0x01 (zext sel) ∧ trapsWith (.cclr d a sel) s 0x01 (zext sel))
    ∧ (0xC5 ≤ sel.toNat → s.cx.super = true →
      trapsWith (.crd d sel) s 0x01 (zext sel) ∧ trapsWith (.cwr d a sel) s 0x01 (zext sel)
      ∧ trapsWith (.cset d a sel) s 0x01 (zext sel) ∧ trapsWith (.cclr d a sel) s 0x01 (zext sel))
    ∧ (sel ∈ ([0x01, 0x10, 0x17, 0x20, 0x21, 0x24, 0x25, 0x26, 0x28, 0x29] : List (BitVec 8)) ∨ (sel = 0xC2 ∧ s.cx.super = true) →
      trapsWith (.cwr d a sel) s 0x01 (zext sel) ∧ trapsWith (.cset d a sel) s 0x01 (zext sel)
      ∧ trapsWith (.cclr d a sel) s 0x01 (zext sel))

/-- R20, R26, R115: at user level STATUS.SSE cannot be changed and, while it is set, SSP and SSLIM cannot be written (PRIV); an ORD, SCOPE
or CACHE code that MEMDEF does not accept is ILLEGAL. -/
def Claims.ProtectedFieldsAreRefused : Prop :=
  ∀ (s : State) (d a : GReg),
    (s.cx.super = false → (s.cx.inPhlx = false ∨ s.cx.leader = true) → s.cx.sse = true →
      trapsWith (.cwr d a 0x2C) s 0x0C 0x2C ∧ trapsWith (.cset d a 0x2C) s 0x0C 0x2C ∧ trapsWith (.cclr d a 0x2C) s 0x0C 0x2C
      ∧ trapsWith (.cwr d a 0x2D) s 0x0C 0x2D ∧ trapsWith (.cset d a 0x2D) s 0x0C 0x2D ∧ trapsWith (.cclr d a 0x2D) s 0x0C 0x2D)
    ∧ (s.cx.super = false → s.g a = 8 → s.cx.sse = false → trapsWith (.cwr d a 0x00) s 0x0C 0x00)
    ∧ ((s.g a).toNat < 2 ^ 11 →
        ((s.g a).toNat % 8 = 0 ∨ (s.g a).toNat % 8 = 7 ∨ (s.g a).toNat / 8 % 8 = 0 ∨ (s.g a).toNat / 8 % 8 ≥ 6 ∨ (s.g a).toNat / 256 % 4 = 0) →
        trapsWith (.cwr d a 0x09) s 0x01 0x09)

/-- R251, R32, R33, R252: TRAP n. EPC, CAUSE and TVAL are saved; a delegated cause enters the user handler at TRAPVEC unless one is
running, any other the supervisor at 0; no other register and no memory changes; the context is benched no longer. (A context outside a
phalanx; R45 gives the rest.) -/
def Claims.TrapEntrySequence : Prop :=
  ∀ (s : State) (n : BitVec 24), s.cx.super = false → s.cx.inPhlx = false →
    ∃ t, exec (.trap n) s = .next t ∧ t.cx.epc = zext s.cx.pc ∧ t.cx.cause = 0x0B ∧ t.cx.tval = zext n ∧ t.cx.st = .ready
      ∧ (bit s.cx.trapdeleg 0x0B = true ∧ s.cx.inTrap = false →
          t.cx.pc = BitVec.ofNat 15 (bits s.cx.trapvec 14 2 * 4) ∧ t.cx.status = (s.cx.status &&& ~~~2) ||| 4)
      ∧ (bit s.cx.trapdeleg 0x0B = false ∨ s.cx.inTrap = true →
          t.cx.pc = 0 ∧ t.cx.status = (s.cx.status &&& ~~~2) ||| 1)
      ∧ (∀ r, t.g r = s.g r) ∧ t.core = { s.core with benched := s.core.benched.filter fun b => b.2 != s.core.k }
      ∧ (∀ k, k ∉ [0x00, 0x02, 0x03, 0x04] → t.creg k = s.creg k)
      ∧ (∀ k, Memory.get t.mem k = Memory.get s.mem k)

/-- R251: a trap at supervisor level is CoreFault: every live context of the core halts where it is, its engines freeze, hub firmware is
told; EPC, CAUSE and TVAL are those of the trap. -/
def Claims.TrapAtSupervisorLevelHaltsCore : Prop :=
  ∀ (s : State) (n : BitVec 24), s.cx.super = true → s.cx.inPhlx = false → s.core.k < 11 →
    ∃ t, exec (.trap n) s = .next t ∧ t.core.faulted = true ∧ t.core.frozen = true ∧ t.cx.pc = s.cx.pc
      ∧ t.cx.epc = zext s.cx.pc ∧ t.cx.cause = 0x0B ∧ t.cx.tval = zext n
      ∧ (∀ k, k < 11 → (t.cxAt s.id k).st = if (s.cxAt s.id k).st.live then .halted else (s.cxAt s.id k).st)
      ∧ t.hub.reports = s.hub.reports ++ [(s.id, 0x0B, zext n)]
      ∧ (∀ k, Memory.get t.mem k = Memory.get s.mem k)

/-- R253: ERET. -/
def Claims.ExceptionReturn : Prop :=
  ∀ (s : State),
    (s.cx.super = true → ∃ t, exec .eret s = .next t ∧ t.cx.super = bit s.cx.status 1 ∧ t.cx.inTrap = s.cx.inTrap
      ∧ s.readyAt t (BitVec.ofNat 15 (bits s.cx.epc 14 2 * 4)) ∧ (∀ r, t.g r = s.g r)
      ∧ (s.setCx { s.cx with status := t.cx.status }).RegsOnly t)
    ∧ (s.cx.super = false → s.cx.inTrap = true → ∃ t, exec .eret s = .next t ∧ t.cx.super = false ∧ t.cx.inTrap = false
      ∧ s.readyAt t (BitVec.ofNat 15 (bits s.cx.epc 14 2 * 4)) ∧ (∀ r, t.g r = s.g r)
      ∧ (s.setCx { s.cx with status := t.cx.status }).RegsOnly t)
    ∧ (s.cx.super = false → s.cx.inTrap = false → trapsWith .eret s 0x01 0x1E9)

/-- R252: BRK. Without `jdb` it is Trap(BREAK, n); with it every live context of the core halts at its boundary, the BRK not executed,
and a resume goes on past it. (A core whose control context is in no domain above core level.) -/
def Claims.BreakInstruction : Prop :=
  ∀ (s : State) (n : BitVec 24),
    (s.cx.passBrk = false → s.myVif.attached = false → trapsWith (.brk n) s 0x0A (zext n))
    ∧ (s.cx.passBrk = false → s.myVif.attached = true → s.core.k = 0 → s.cx.st = .ready → bits s.cx.domain 2 0 < 2 →
        (s.episodes.all fun e => e.k != 5) = true →
        ∃ t, exec (.brk n) s = .next t ∧ t.core.debugged = true ∧ t.core.frozen = true ∧ t.cx.st = .halted ∧ t.cx.pc = s.cx.pc
          ∧ (∀ k, k < 11 → (s.cxAt s.id k).st.live = true → (t.cxAt s.id k).st = .halted)
          ∧ t.hub.reports = s.hub.reports ++ [(s.id, 0x0A, zext n)] ∧ (∀ r, t.g r = s.g r)
          ∧ (∀ k, Memory.get t.mem k = Memory.get s.mem k))
    ∧ (s.cx.passBrk = true → ∃ t, exec (.brk n) s = .next t ∧ s.readyAt t (s.cx.pc + 8) ∧ (∀ r, t.g r = s.g r)
        ∧ (s.setCx { s.cx with passBrk := false }).RegsOnly t)

/-- R113: CALL and CALLX with their stack in the core's own data: the return address enters the store buffer at g2 − 8, with SSE also the
shadow stack, and g2, g1 and the PC follow; under CHK = 1 the call waits for the store's acknowledgement first (R130). -/
def Claims.CallPushesReturnAddress : Prop :=
  ∀ (s : State) (a : GReg) (disp : BitVec 24),
    let sp := s.g 2
    let ret : Pc := s.cx.pc + 4
    let shadow := sramKey s.id ((s.cx.ssp.toNat - 8) % 0x8000)
    let pushes (i : Instr) (p : Pc) : Prop := ∃ t, exec i s = .next t ∧ t.g 2 = sp - 8 ∧ t.g 1 = zext ret
      ∧ (∀ r, r ≠ 1 → r ≠ 2 → t.g r = s.g r) ∧ s.readyAt t p ∧ t.cx.status = s.cx.status ∧ t.cx.fflags = s.cx.fflags
      ∧ (∃ e : Entry, t.core.sbuf = s.core.sbuf ++ [e] ∧ e.body = .store (s.ownKey (sp - 8)) 8 ret.toNat ∧ e.ord = 1 ∧ e.scope = 1)
      ∧ (s.cx.sse = false → t.cx.ssp = s.cx.ssp ∧ ∀ k, Memory.get t.mem k = Memory.get s.mem k)
      ∧ (s.cx.sse = true → t.cx.ssp = s.cx.ssp - 8 ∧ Memory.getN t.mem shadow 8 = ret.toNat
          ∧ ∀ k, k < shadow ∨ shadow + 8 ≤ k → Memory.get t.mem k = Memory.get s.mem k)
    sp.toNat % 8 = 0 → s.ownData (sp - 8) 8 → s.core.inShadow s.cx ((sp - 8).toNat - 0xF000000000000) 8 = false →
    (s.cx.sse = true → bits s.cx.sslim 15 0 + 8 ≤ s.cx.ssp.toNat) → s.accessFree → bits s.cx.memdef 7 6 < 2 →
      (bit s.cx.memdef 10 = false → pushes (.call disp) (branchTarget s.cx.pc disp)
        ∧ ((s.g a).toNat % 4 = 0 → pushes (.callx a) (BitVec.ofNat 15 ((s.g a).toNat % 2 ^ 15))))
      ∧ (bit s.cx.memdef 10 = true → ∃ t, ∃ x : Await, exec (.call disp) s = .next t ∧ t.cx.st = .waiting .reply ∧ t.cx.await = some x
        ∧ x.fin = .call (branchTarget s.cx.pc disp) sp ∧ s.Holds t)

/-- R113, R114: the traps of calls and returns before any effect: a misaligned target or stack pointer is ALIGN, a shadow stack that would
leave SSLIM is CTLINT with TVAL SSP. -/
def Claims.CallAndReturnRefusals : Prop :=
  ∀ (s : State) (a : GReg) (disp : BitVec 24),
    ((s.g a).toNat % 4 ≠ 0 → trapsWith (.callx a) s 0x05 (s.g a))
    ∧ ((s.g 2).toNat % 8 ≠ 0 → trapsWith (.call disp) s 0x05 (s.g 2) ∧ trapsWith .ret s 0x05 (s.g 2))
    ∧ ((s.g 2).toNat % 8 = 0 → s.cx.sse = true → s.cx.ssp.toNat < bits s.cx.sslim 15 0 + 8 → trapsWith (.call disp) s 0x09 s.cx.ssp)
    ∧ ((s.g 2).toNat % 8 = 0 → s.cx.sse = true → bits s.cx.sslim 31 16 < s.cx.ssp.toNat + 8 → trapsWith .ret s 0x09 s.cx.ssp)

/-- R114: RET with its stack in the core's own data: it compares with the shadow stack under SSE, then g2, SSP and the PC follow; when the
two addresses differ it raises CTLINT with TVAL the shadow copy, and with its shadow word poisoned MEMERR, and changes neither stack pointer. -/
def Claims.ReturnChecksShadowStack : Prop :=
  ∀ (s : State),
    let sp := s.g 2
    let key := s.ownKey sp
    let a := s.peekN key 8
    let sh := Memory.getN s.mem (sramKey s.id (s.cx.ssp.toNat % 0x8000)) 8
    let clean := ∀ w ∈ wordsOf (sramKey s.id (s.cx.ssp.toNat % 0x8000)) 8, w ∉ s.poison
    sp.toNat % 8 = 0 → s.ownData sp 8 → (s.cx.sse = true → s.cx.ssp.toNat + 8 ≤ bits s.cx.sslim 31 16) → s.accessFree →
    bits s.cx.memdef 7 6 < 2 → s.servedHere key 8 → s.poisoned key 8 = false →
      (a % 4 = 0 → a < 2 ^ 15 → (s.cx.sse = true → sh = a ∧ clean) →
        ∃ t, exec .ret s = .next t ∧ t.g 2 = sp + 8 ∧ (∀ r, r ≠ 2 → t.g r = s.g r) ∧ s.readyAt t (BitVec.ofNat 15 a)
          ∧ t.cx.ssp = (if s.cx.sse then s.cx.ssp + 8 else s.cx.ssp) ∧ t.cx.status = s.cx.status ∧ t.cx.fflags = s.cx.fflags
          ∧ t.core = s.core ∧ ∀ k, Memory.get t.mem k = Memory.get s.mem k)
      ∧ (s.cx.sse = true → ¬ clean → s.cx.super = false → s.cx.inPhlx = false →
        ∃ t, exec .ret s = .next t ∧ t.cx.cause = 0x11 ∧ t.cx.tval = BitVec.ofNat 64 (0xF000000000000 + s.cx.ssp.toNat % 0x8000) ∧ t.cx.epc = zext s.cx.pc
          ∧ (∀ r, t.g r = s.g r) ∧ t.cx.ssp = s.cx.ssp ∧ ∀ k, Memory.get t.mem k = Memory.get s.mem k)
      ∧ (s.cx.sse = true → clean → sh ≠ a → s.cx.super = false → s.cx.inPhlx = false →
        ∃ t, exec .ret s = .next t ∧ t.cx.cause = 0x09 ∧ t.cx.tval = BitVec.ofNat 64 sh ∧ t.cx.epc = zext s.cx.pc ∧ t.cx.pc = 0
          ∧ t.cx.super = true ∧ (∀ r, t.g r = s.g r) ∧ t.cx.ssp = s.cx.ssp ∧ ∀ k, Memory.get t.mem k = Memory.get s.mem k)

/-! ## Queues, ports, tempo registers and helper contexts (spec/05_scalar.md R117–R127, R36, R254) -/

/-- R117, R47: the queue instructions; QPUT once every earlier access is performed at CORE scope (R118), no context before this one in
the order of waits (R38). -/
def Claims.QueueInstructions : Prop :=
  ∀ (s : State) (d a : GReg) (q : QReg),
    let l := s.core.q[q.toFin]
    (s.performed 1 = true → l.length < 8 → s.behind (4 + q.toNat) = false → ∃ t w, exec (.qput a q) s = .next t ∧ w.val = s.g a
      ∧ t.core.q = s.core.q.set q.toFin (l ++ [w]) ∧ s.Went t (.qput a q) 0)
    ∧ (s.performed 1 = true → 8 ≤ l.length → waitsWith (.qput a q) s .queue)
    ∧ (∀ w r, l = w :: r → s.behind q.toNat = false →
        (∃ t, exec (.qget d q) s = .next t ∧ t.took d w.val ∧ t.core.q = s.core.q.set q.toFin r ∧ s.Went t (.qget d q) d)
        ∧ (∃ t, exec (.qpeek d q) s = .next t ∧ t.took d w.val ∧ t.core = s.core ∧ s.Went t (.qpeek d q) d))
    ∧ (l = [] → waitsWith (.qget d q) s .queue ∧ waitsWith (.qpeek d q) s .queue)
    ∧ completesG (.qcnt d q) s d (BitVec.ofNat 64 l.length)

/-- R119, R13, R326: NPUT to n0–n3 puts the word on the way to the neighbour's opposite FIFO, or raises PERM with TVAL the port where there
is none; NGET and NTRY act on the words that have arrived. -/
def Claims.NeighbourPortInstructions : Prop :=
  ∀ (s : State) (d a : GReg) (n : BitVec 3),
    let port := n.toNat
    let far := (port + 2) % 4
    (port ≤ 3 → s.neighbour s.id port = none → trapsWith (.nput a n) s 0x07 (BitVec.ofNat 64 port))
    ∧ (∀ id, port ≤ 3 → s.neighbour s.id port = some id → id ≠ s.id →
        ((s.land id far).coreAt id).fifoUsed far < 4 → (s.land id far).behind (16 + port) = false →
        ∃ t, ∃ w : WireWord, exec (.nput a n) s = .next t ∧ w.port = far ∧ w.val = s.g a
          ∧ (t.coreAt id).nFly = ((s.land id far).coreAt id).nFly ++ [w] ∧ s.Went t (.nput a n) 0)
    ∧ ((port ≤ 3 ∨ port = 5) →
        let u := s.land s.id port
        (∀ w r, u.core.portWords port = w :: r → u.behind (8 + port) = false →
          ∃ t, exec (.nget d n) s = .next t ∧ t.took d w ∧ t.core.portWords port = r ∧ s.Went t (.nget d n) d)
        ∧ (u.core.portWords port = [] → ∃ t, exec (.nget d n) s = .next t ∧ t.cx.st = .waiting .port ∧ s.Holds t)
        ∧ ∃ t, exec (.ntry d n) s = .next t ∧ t.took d (BitVec.ofNat 64 (u.core.portWords port).length) ∧ s.Went t (.ntry d n) d)

/-- R119, R120, R121: NPUT to n4. A header opens a message of LEN payload words and gives n4 to the context; each word takes one of its four
places, and while they are full, or n4 is another context's, the NPUT waits with kind PORT; the word with which the fabric has the last
payload word sends the message to the destination of the header; a header with LEN 0 or a reserved bit is ILLEGAL, one to no core of the
tray is PERM with TVAL 4. -/
def Claims.RoutedMessagesAreBuilt : Prop :=
  ∀ (s : State) (a : GReg),
    let v := s.g a
    let len := bits v 21 18
    let dest := s.siteAt (bits v 3 0) (bits v 10 4) (bits v 17 11)
    (s.core.n4.owner = none → (len = 0 ∨ bits v 63 22 ≠ 0) → trapsWith (.nput a 4) s 0x01 (zext (Instr.first (.nput a 4))))
    ∧ (s.core.n4.owner = none → len ≠ 0 → bits v 63 22 = 0 → dest = none → trapsWith (.nput a 4) s 0x07 4)
    ∧ (∀ id, s.core.n4.owner = none → len ≠ 0 → bits v 63 22 = 0 → dest = some id →
        (s.behind 20 = false → s.core.n4.fifo.length < 4 → s.matching (.core id) = [] →
          ∃ t, exec (.nput a 4) s = .next t ∧ t.core.n4 = ⟨some s.core.k, len, s.core.n4.fifo ++ [(s.core.k, v)], s.core.n4.words⟩
            ∧ t.flight = s.flight ∧ s.Went t (.nput a 4) 0)
        ∧ (s.behind 20 = true ∨ 4 ≤ s.core.n4.fifo.length → waitsWith (.nput a 4) s .port))
    ∧ (s.core.n4.owner = some s.core.k → s.core.n4.fifo.length < 4 →
        ∃ t, exec (.nput a 4) s = .next t ∧ t.core.n4.left = s.core.n4.left - 1 ∧ t.core.n4.fifo = s.core.n4.fifo ++ [(s.core.k, v)]
          ∧ t.core.n4.words = s.core.n4.words ∧ t.core.n4.owner = (if s.core.n4.left ≤ 1 then none else some s.core.k) ∧ t.flight = s.flight
          ∧ s.Went t (.nput a 4) 0)
    ∧ (∀ o, s.core.n4.owner = some o → (o ≠ s.core.k ∨ 4 ≤ s.core.n4.fifo.length) → waitsWith (.nput a 4) s .port)
    ∧ (∀ k w f h r id, s.core.n4.fifo = (k, w) :: f → s.core.n4.words = h :: r → s.siteAt (bits h 3 0) (bits h 10 4) (bits h 17 11) = some id →
        (bits h 21 18 ≤ r.length + 1 → ∃ m : Msg, s.takeWord.flight = s.flight ++ [m] ∧ m.dest = .core id ∧ m.src = .ctx s.id k
          ∧ m.body = .routed id (s.routedHeader (bits h 21 18) :: (r ++ [w])) ∧ s.takeWord.core.n4 = { s.core.n4 with fifo := f, words := [] })
        ∧ (r.length + 1 < bits h 21 18 → s.takeWord.flight = s.flight ∧ s.takeWord.core.n4 = { s.core.n4 with fifo := f, words := h :: (r ++ [w]) }))

/-- R122, R14: TBIND stores the destination image with BOUND, or clears the register for KIND 0, and TRD reads the image with ALLOW; an
operand the rule names is ILLEGAL with TVAL the first parcel. -/
def Claims.TempoBinding : Prop :=
  ∀ (s : State) (d a : GReg) (k : TaReg),
    (s.bindOk (s.g a) = true → ∃ t, exec (.tbind k a) s = .next t
      ∧ t.cx.ta = s.cx.ta.set k.toFin (if bits (s.g a) 11 9 = 0 then 0 else s.g a ||| 256) ∧ s.Went t (.tbind k a) 0)
    ∧ (s.bindOk (s.g a) = false → trapsWith (.tbind k a) s 0x01 (zext (Instr.first (.tbind k a))))
    ∧ completesG (.trd d k) s d (s.taImage k)
    ∧ ((s.g a).toNat % 512 ≠ 0 ∨ 2 ^ 39 ≤ (s.g a).toNat ∨ (s.g a).toNat / 512 % 8 ≥ 5 → s.bindOk (s.g a) = false)

/-- R36, R37, R125: HSTART starts the lowest Free slot at g(A) with g3 = g(B) and every other register 0, and answers 0 when no slot is
Free; a helper may not start one, and a misaligned PC is ALIGN. -/
def Claims.HelperStart : Prop :=
  ∀ (s : State) (d a b : GReg),
    (s.core.k ≠ 0 ∨ s.cx.inPhlx = true → trapsWith (.hstart d a b) s 0x01 (zext (Instr.first (.hstart d a b))))
    ∧ (s.core.k = 0 → s.cx.inPhlx = false → (s.g a).toNat % 4 ≠ 0 → trapsWith (.hstart d a b) s 0x05 (s.g a))
    ∧ (s.core.k = 0 → s.cx.inPhlx = false → (s.g a).toNat % 4 = 0 → s.performed 1 = true →
        (∀ k, 1 ≤ k → k ≤ 10 → (s.cxAt s.id k).st = .free → (∀ j, 1 ≤ j → j < k → (s.cxAt s.id j).st ≠ .free) →
          ∃ t, exec (.hstart d a b) s = .next t ∧ t.took d (BitVec.ofNat 64 k) ∧ s.Went t (.hstart d a b) d
            ∧ (let h := t.cxAt s.id k
               h.st = .ready ∧ h.pc = BitVec.ofNat 15 ((s.g a).toNat % 2 ^ 15)
               ∧ h.g = (Vector.replicate 32 0).set 3 (s.g b) ∧ h.ta = Vector.replicate 16 0 ∧ h.tid = [] ∧ h.super = false
               ∧ h.memdef = s.cx.memdef ∧ h.arith = s.cx.arith ∧ h.trapvec = s.cx.trapvec ∧ h.asid = s.cx.asid ∧ h.gen = s.cx.gen
               ∧ h.sse = s.cx.sse ∧ h.fflags = 0)
            ∧ ∀ j, j ≠ k → j ≠ 0 → t.cxAt s.id j = s.cxAt s.id j)
        ∧ ((∀ k, 1 ≤ k → k ≤ 10 → (s.cxAt s.id k).st ≠ .free) → ∃ t, exec (.hstart d a b) s = .next t ∧ t.took d 0 ∧ s.Went t (.hstart d a b) d))

/-- R36, R125, R126: HJOIN takes the exit value of an Exited helper and frees its slot, waits for a live one, and is ILLEGAL in a helper, for
a number outside 1–10 and for a Free slot; HEXIT ends a helper with its value once its accesses are checked and performed. -/
def Claims.HelperJoinAndExit : Prop :=
  ∀ (s : State) (d a : GReg),
    let k := (s.g a).toNat
    (s.core.k = 0 → 1 ≤ k → k ≤ 10 → (s.cxAt s.id k).st = .exited →
      ∃ t, exec (.hjoin d a) s = .next t ∧ t.took d (s.cxAt s.id k).exitValue ∧ (t.cxAt s.id k).st = .free ∧ s.Went t (.hjoin d a) d)
    ∧ (s.core.k = 0 → 1 ≤ k → k ≤ 10 → (s.cxAt s.id k).st ≠ .exited → (s.cxAt s.id k).st ≠ .free → waitsWith (.hjoin d a) s .join)
    ∧ (s.core.k ≠ 0 ∨ k = 0 ∨ 10 < k ∨ (s.cxAt s.id k).st = .free → trapsWith (.hjoin d a) s 0x01 (zext (Instr.first (.hjoin d a))))
    ∧ (s.core.k = 0 → trapsWith (.hexit a) s 0x01 (zext (Instr.first (.hexit a))))
    ∧ (s.core.k ≠ 0 → s.checked = true → s.performed 1 = true → s.core.heldSlotRead s.core.k = false → s.core.node = none →
        bit s.cx.errpend 0 = false → s.core.recallAt = none →
        ∃ t, exec (.hexit a) s = .next t ∧ t.cx.st = .exited ∧ t.cx.exitValue = s.g a ∧ t.cx.ta = Vector.replicate 16 0
          ∧ t.core.holder ≠ some s.core.k ∧ (∀ o, o < 8 → (t.core.o.getD o OSlot.free).holder ≠ some s.core.k)
          ∧ (∀ r, t.g r = s.g r) ∧ ∀ k, Memory.get t.mem k = Memory.get s.mem k)

/-- R127, R254: YIELD changes no register; PAUSE makes the next instruction wait 8 cycles; HALT of a control context with no helper, node or
pending arrival stops it and gives back its lanes, slots and bindings. -/
def Claims.HintsAndHalt : Prop :=
  ∀ (s : State),
    (∃ t, exec .yield s = .next t ∧ t.core = s.core ∧ s.Went t .yield 0)
    ∧ (∃ t, exec .pause s = .next t ∧ t.cx.st = .waiting .operand ∧ t.cx.pauseEnd = s.cy + 8 ∧ t.cx.pc = s.cx.pc + 4 ∧ (∀ r, t.g r = s.g r)
        ∧ ∀ k, Memory.get t.mem k = Memory.get s.mem k)
    ∧ (s.core.k ≠ 0 ∨ s.cx.inPhlx = true ∨ s.core.node.isSome = true ∨ (∃ k, 1 ≤ k ∧ k ≤ 10 ∧ (s.cxAt s.id k).st ≠ .free)
        ∨ s.cx.barPending = true →
        trapsWith .halt s 0x01 0x3E9)
    ∧ (s.core.k = 0 → s.cx.inPhlx = false → s.core.node = none → (∀ k, 1 ≤ k → k ≤ 10 → (s.cxAt s.id k).st = .free) →
        s.cx.barPending = false → s.checked = true → s.performed 4 = true → s.core.heldSlotRead 0 = false → bit s.cx.errpend 0 = false →
        ∃ t, exec .halt s = .next t ∧ t.cx.st = .stopped ∧ t.core.holder ≠ some 0 ∧ t.cx.ta = Vector.replicate 16 0
          ∧ (∀ o, o < 8 → (t.core.o.getD o OSlot.free).holder ≠ some 0) ∧ (∀ r, t.g r = s.g r)
          ∧ ∀ k, Memory.get t.mem k = Memory.get s.mem k)

/-! ## Loads, stores, atomics, fences and the watch (spec/06_memory_sync.md) and the steps of ordering (spec/11_ordering.md) -/

/-- The address of the M format (R88): g(A) plus the displacement scaled by the size. -/
def addressM (s : State) (a : GReg) (disp : BitVec 11) (size : Nat) : Word := BitVec.ofInt 64 ((s.g a).toInt + disp.toInt * size)

/-- The address of the X layout (R89): g(A) plus the displacement. -/
def addressX (s : State) (a : GReg) (disp : BitVec 24) : Word := BitVec.ofInt 64 ((s.g a).toInt + disp.toInt)

/-- The register value of a loaded number (R133): sign- or zero-extended from its size. -/
def extended (size : Nat) (signed : Bool) (v : Nat) : Word :=
  if signed then BitVec.ofInt 64 (Int.bmod v (2 ^ (8 * size))) else BitVec.ofNat 64 v

/-- What a result on its way to g(d) adds to the results on their way: nothing for g0. -/
def onItsWay (s : State) (d : GReg) (v : Word) (n : Nat) : List Pending := if d = 0 then [] else [⟨.g d, [v], s.cy + n⟩]

/-- R133, R134, R97: LD and LDP from the data part of the core's own local SRAM. The value is the one the core sees at the address, extended
as the width says, and reaches its register 2 cycles after issue; every other register, flag and byte of memory is as before. -/
def Claims.LoadsOfOwnSram : Prop :=
  ∀ (s : State) (p : Option Mods) (w : LdWidth) (d a : GReg) (disp : BitVec 11) (e : Eff),
    effOf .load p s.cx.memdef = some e → spaceOk e.space .loc = true → s.gate e.ord e.scope = true →
    (let ea := addressM s a disp (ldBytes w)
     s.ownData ea (ldBytes w) → s.servedHere (s.ownKey ea) (ldBytes w) → s.poisoned (s.ownKey ea) (ldBytes w) = false →
      ∃ t, exec (.ld p w d a disp) s = .next t ∧ s.Went t (.ld p w d a disp) d ∧ t.g d = s.g d ∧ t.core = s.core
        ∧ t.cx.pend = s.cx.pend ++ onItsWay s d (extended (ldBytes w) (ldSigned w) (s.peekN (s.ownKey ea) (ldBytes w))) 2)
    ∧ (let ea := addressM s a disp 16
       bit d 0 = false → s.ownData ea 16 → s.servedHere (s.ownKey ea) 16 → s.poisoned (s.ownKey ea) 16 = false →
        ∃ t, exec (.ldp p d a disp) s = .next t ∧ s.Went t (.ldp p d a disp) d ∧ t.g d = s.g d ∧ t.core = s.core
          ∧ t.cx.pend = s.cx.pend ++ onItsWay s d (BitVec.ofNat 64 (s.peekN (s.ownKey ea) 8)) 2
              ++ onItsWay s (d + 1) (BitVec.ofNat 64 (s.peekN (s.ownKey ea + 8) 8)) 2)

/-- R133, R265, R272: a load of a place homed elsewhere that hits the L1 is delivered 5 cycles after issue; any other issues and waits with
kind REPLY, its read not yet served. -/
def Claims.LoadsHomedElsewhereWait : Prop :=
  ∀ (s : State) (p : Option Mods) (w : LdWidth) (d a : GReg) (disp : BitVec 11) (e : Eff) (key : Nat),
    let ea := addressM s a disp (ldBytes w)
    effOf .load p s.cx.memdef = some e → s.gate e.ord e.scope = true → s.check .load e.space ea (ldBytes w) = .ok key → homeOf key ≠ .core s.id →
      (s.hit? e.ord e.cache key (ldBytes w) = none →
        ∃ t x, exec (.ld p w d a disp) s = .next t ∧ t.cx.st = .waiting .reply ∧ t.cx.await = some x ∧ x.els = [⟨key, ea, ldBytes w, .asked⟩]
          ∧ x.fin = .load d (ldBytes w) (ldSigned w) ∧ s.Holds t)
      ∧ (∀ v, s.hit? e.ord e.cache key (ldBytes w) = some (v, false) →
        ∃ t, exec (.ld p w d a disp) s = .next t ∧ s.Went t (.ld p w d a disp) d ∧ t.g d = s.g d
          ∧ t.cx.pend = s.cx.pend ++ onItsWay s d (extended (ldBytes w) (ldSigned w) v) 5)

/-- R129, R132, R28, R23: what an access is refused for, in order: an ORD its prefix may not carry (ILLEGAL), a region that may not be accessed
(PERM, PEER), a misaligned address (ALIGN), and the instruction store at user level (XONLY), with TVAL the address. -/
def Claims.AccessRefusals : Prop :=
  ∀ (s : State) (m : Mods) (w : LdWidth) (v : StWidth) (d a : GReg) (disp : BitVec 11),
    let la := addressM s a disp (ldBytes w)
    let sa := addressM s a disp (stBytes v)
    (m.ord = 4 ∨ m.ord = 5 → trapsWith (.ld (some m) w d a disp) s 0x01 (zext (Instr.first (.ld (some m) w d a disp))))
    ∧ (m.ord = 3 ∨ m.ord = 5 → trapsWith (.st (some m) v d a disp) s 0x01 (zext (Instr.first (.st (some m) v d a disp))))
    ∧ (2 ^ 52 ≤ la.toNat → trapsWith (.ld none w d a disp) s 0x07 la)
    ∧ (0xF000000008000 ≤ la.toNat → la.toNat < 0xF800000000000 → trapsWith (.ld none w d a disp) s 0x07 la)
    ∧ (0xF800000000000 ≤ la.toNat → la.toNat < 2 ^ 52 → trapsWith (.ld none w d a disp) s 0x08 la)
    ∧ (bits s.cx.memdef 7 6 = 0 → la.toNat < 0xF000000008000 → la.toNat % ldBytes w ≠ 0 → trapsWith (.ld none w d a disp) s 0x05 la)
    ∧ (bits s.cx.memdef 7 6 = 0 → 0xF000000000000 ≤ la.toNat → la.toNat < 0xF000000008000 → la.toNat % ldBytes w = 0 → s.cx.super = false →
        la.toNat - 0xF000000000000 < s.core.xbound.toNat → trapsWith (.ld none w d a disp) s 0x04 la)
    ∧ (bits s.cx.memdef 7 6 = 0 → 0xF000000000000 ≤ sa.toNat → sa.toNat < 0xF000000008000 → sa.toNat % stBytes v = 0 → s.cx.super = false →
        sa.toNat - 0xF000000000000 < s.core.xbound.toNat → trapsWith (.st none v d a disp) s 0x04 sa)

/-- R133, R134, R264, R130: ST and STP of a place that passes the checks, outside a Running node: the store enters the core's buffer with the
place its address gives and the low bytes of the register; no byte of memory changes before its APPLY, and no register at all. Without
CHK the instruction is done; with it the context waits for the acknowledgement. -/
def Claims.StoresEnterTheBuffer : Prop :=
  ∀ (s : State) (p : Option Mods) (wd : StWidth) (d a : GReg) (disp : BitVec 11) (e : Eff) (key : Nat),
    effOf .store p s.cx.memdef = some e → s.gate e.ord e.scope = true → s.core.node = none →
    let ends (t : State) (i : Instr) (x : Entry) : Prop := x.chk = e.chk
      ∧ (e.chk = false → s.Went t i 0) ∧ (e.chk = true → t.cx.st = .waiting .reply ∧ s.Holds t)
    (s.check .store e.space (addressM s a disp (stBytes wd)) (stBytes wd) = .ok key →
      ∃ t, ∃ x : Entry, exec (.st p wd d a disp) s = .next t ∧ t.core.sbuf = s.core.sbuf ++ [x] ∧ x.body = .store key (stBytes wd) (s.g d).toNat
        ∧ x.ord = e.ord ∧ x.scope = e.scope ∧ x.src = .ctx s.id s.core.k ∧ ends t (.st p wd d a disp) x)
    ∧ (s.check .store e.space (addressM s a disp 16) 16 = .ok key →
      ∃ t, ∃ x : Entry, exec (.stp p d a disp) s = .next t ∧ t.core.sbuf = s.core.sbuf ++ [x]
        ∧ x.body = .store key 16 ((s.g d).toNat + (s.g (d + 1)).toNat * 2 ^ 64) ∧ x.ord = e.ord ∧ x.scope = e.scope
        ∧ ends t (.stp p d a disp) x)

/-- R351, R157: in a Running node a store outside the core's own local SRAM is staged, and one that would overflow the 256 entries raises
STAGEFULL with TVAL its address. -/
def Claims.NodeStoresAreStaged : Prop :=
  ∀ (s : State) (p : Option Mods) (wd : StWidth) (d a : GReg) (disp : BitVec 11) (e : Eff) (key : Nat),
    let ea := addressM s a disp (stBytes wd)
    effOf .store p s.cx.memdef = some e → s.gate e.ord e.scope = true → s.core.node.isSome = true → homeOf key ≠ .core s.id →
    s.check .store e.space ea (stBytes wd) = .ok key →
      (s.core.stageUsed < 256 → ∃ t, ∃ x : Staged, exec (.st p wd d a disp) s = .next t ∧ t.core.staging = s.core.staging ++ [x] ∧ t.core.sbuf = s.core.sbuf
        ∧ x.e.body = .store key (stBytes wd) (s.g d).toNat ∧ x.cost = 1 ∧ s.Went t (.st p wd d a disp) 0)
      ∧ (256 ≤ s.core.stageUsed → trapsWith (.st p wd d a disp) s 0x14 ea)

/-- An AMO that does not wait (R135, R136): with D = 0, no acquiring ORD and no CHK it enters the buffer with its operation and operand and the
context goes on; with D ≠ 0 the context waits for the old value. -/
def amoEnters (s : State) (i : Instr) (p : Option Mods) (op : AmoOp) (size : Nat) (d b : GReg) (exp : Word) (ea : Word) : Prop :=
  ∀ (e : Eff) (key : Nat), effOf .amo p s.cx.memdef = some e → s.gate e.ord e.scope = true → s.check .amo e.space ea size = .ok key →
    ∃ t, ∃ x : Entry, exec i s = .next t ∧ t.core.sbuf = s.core.sbuf ++ [x]
      ∧ x.body = .amo op key size ((s.g b).toNat % 256 ^ size) (exp.toNat % 256 ^ size) [] (d != 0) (bit s.cx.arith 11)
      ∧ x.ord = e.ord ∧ x.scope = e.scope
      ∧ (d = 0 ∧ e.chk = false ∧ (e.ord = 1 ∨ e.ord = 2 ∨ e.ord = 4) → s.Went t i 0)
      ∧ (d ≠ 0 → t.cx.st = .waiting .reply ∧ s.Holds t ∧ ∃ y, t.cx.await = some y ∧ y.els = [⟨key, ea, size, .asked⟩]
          ∧ y.fin = .amo d size (match op with | .minZ => false | .maxZ => false | .fadd => false | _ => true))

/-- R135, R136: every AMO form. -/
def Claims.AtomicsEnterTheBuffer : Prop :=
  ∀ (s : State) (p : Option Mods) (w : Bool) (d b c a : GReg) (disp : BitVec 24),
    let ea := addressX s a disp
    let n := if w then 4 else 8
    amoEnters s (.amoAdd p w d b a disp) p .add n d b 0 ea ∧ amoEnters s (.amoAnd p w d b a disp) p .and n d b 0 ea
    ∧ amoEnters s (.amoOr p w d b a disp) p .or n d b 0 ea ∧ amoEnters s (.amoXor p w d b a disp) p .xor n d b 0 ea
    ∧ amoEnters s (.amoMin p w d b a disp) p .min n d b 0 ea ∧ amoEnters s (.amoMax p w d b a disp) p .max n d b 0 ea
    ∧ amoEnters s (.amoMinZ p w d b a disp) p .minZ n d b 0 ea ∧ amoEnters s (.amoMaxZ p w d b a disp) p .maxZ n d b 0 ea
    ∧ amoEnters s (.amoSwp p w d b a disp) p .swp n d b 0 ea ∧ amoEnters s (.amoCas p w d b c a disp) p .cas n d b (s.g c) ea
    ∧ amoEnters s (.amoFadd p d b a disp) p .fadd 4 d b 0 ea

/-- R135: what an AMO leaves at its location of `size` bytes, for the integer operations; CAS stores only on equality. -/
def Claims.AtomicResults : Prop :=
  ∀ (size old x e : Nat), (size = 4 ∨ size = 8) → old < 256 ^ size → x < 256 ^ size → e < 256 ^ size →
    let m := 256 ^ size
    amoNew .add size old x e = (old + x) % m ∧ amoNew .and size old x e = old &&& x ∧ amoNew .or size old x e = old ||| x
    ∧ amoNew .xor size old x e = old ^^^ x ∧ amoNew .swp size old x e = x ∧ amoNew .cas size old x e = (if old = e then x else old)
    ∧ amoNew .minZ size old x e = min old x ∧ amoNew .maxZ size old x e = max old x
    ∧ amoNew .min size old x e = (if Int.bmod old m ≤ Int.bmod x m then old else x)
    ∧ amoNew .max size old x e = (if Int.bmod old m ≤ Int.bmod x m then x else old)

/-- R137, R270: a FENCE whose condition holds goes on; FULL and ACQ make the clock the join of the clock and the pending join and are acquire
points, REL and SS change no clock; one whose condition does not hold waits with kind REPLY. -/
def Claims.FencesOrderTheContext : Prop :=
  ∀ (s : State) (k : FenceKind) (sc : BitVec 3),
    let scope := if sc = 0 then bits s.cx.memdef 5 3 else sc.toNat
    (s.fenceReady k scope = true → ∃ t, exec (.fence k sc) s = .next t ∧ s.Went t (.fence k sc) 0 ∧ t.core = s.core
      ∧ ((k = .full ∨ k = .acq) → t.cx.clk = Clock.join s.cx.clk s.cx.joinJ ∧ t.cx.joinJ = [] ∧ t.cx.acqOpen = true)
      ∧ ((k = .rel ∨ k = .ss) → t.cx.clk = s.cx.clk ∧ t.cx.joinJ = s.cx.joinJ ∧ t.cx.acqOpen = s.cx.acqOpen))
    ∧ (s.fenceReady k scope = false → waitsWith (.fence k sc) s .reply)

/-- R138, R33, R349: ECHK goes on when every earlier access is checked and no error is pending; a pending error is taken there as an imprecise
trap with the recorded code, source and TVAL; before that it waits. (Outside a phalanx and below supervisor level; no error of a node.) -/
def Claims.CheckTakesPendingErrors : Prop :=
  ∀ (s : State), s.core.nodeErr = none →
    (s.checked = true → bit s.cx.errpend 0 = false → completesAt .echk s (s.cx.pc + 8))
    ∧ (s.checked = false → waitsWith .echk s .reply)
    ∧ (s.checked = true → bit s.cx.errpend 0 = true → s.cx.super = false → s.cx.inPhlx = false →
        ∃ t, exec .echk s = .next t ∧ t.cx.epc = zext s.cx.pc ∧ t.cx.tval = s.cx.errTval
          ∧ t.cx.cause = BitVec.ofNat 64 (bits s.cx.errpend 15 8 + 256 + s.cx.errSource * 512) ∧ (∀ r, t.g r = s.g r)
          ∧ ∀ k, Memory.get t.mem k = Memory.get s.mem k)

/-- R139: WAITA, whose reads are ACQ at MOD scope, starts to watch its word, and ends with the value read once that differs from g(B) or its time has passed; a value that is still
equal goes on waiting. -/
def Claims.WatchWaitsForAChange : Prop :=
  ∀ (s : State) (d b c a : GReg) (disp : BitVec 24),
    let i := Instr.waita d b c a disp
    (∀ key, s.cx.watch = none → s.gate 3 4 = true → s.check .load (bits s.cx.memdef 7 6) (addressX s a disp) 8 = .ok key →
      ∃ t w, exec i s = .next t ∧ t.cx.st = .waiting .watch ∧ t.cx.watch = some w ∧ w.key = key ∧ w.val = s.g b ∧ w.timeout = s.g c ∧ w.t0 = s.cy
        ∧ s.Holds t)
    ∧ (∀ w v, s.cx.watch = some w → s.cx.reply = some v →
        ((v ≠ w.val ∨ (w.timeout ≠ 0 ∧ w.timeout.toNat ≤ s.cy - w.t0)) → completesG i s d v)
        ∧ (v = w.val → w.timeout = 0 → ∃ t, exec i s = .next t ∧ t.cx.st = .waiting .watch ∧ t.cx.watch = some w ∧ s.Holds t))

/-- R139, R265: WAITA_WAKE and WAITA_TIMEOUT read the watched word for the waiting context, seen from that context: its own newest bytes, or what
the home holds, become its reply. -/
def Claims.WatchedWordIsRead : Prop :=
  ∀ (s : State) (w : Watch), s.cx.watch = some w → s.cx.st = .waiting .watch → s.cx.reply = none →
    s.check .load (bits s.cx.memdef 7 6) w.va 8 = .ok w.key → s.gate 3 4 = true → s.poisoned w.key 8 = false →
    let own := s.core.ownsAll w.key 8 = true ∨ (homeOf w.key = .core s.id ∧ s.readLocal w.key 8 = true)
    let home := s.core.ownsAll w.key 8 = false ∧ homeOf w.key ≠ .core s.id ∧ s.readOk w.key 8 = true
    let reads (i : Instr) : Prop := ∀ v, (own ∧ v = s.peekN w.key 8) ∨ (home ∧ v = s.homeN w.key 8) →
      ∃ t, exec i s = .next t ∧ t.cx.reply = some (BitVec.ofNat 64 v) ∧ t.cx.st = .waiting .watch ∧ s.Holds t
    ((w.hit = false ∨ BitVec.ofNat 64 (s.peekN w.key 8) ≠ w.val) → reads (.waitaWake s.id s.core.k))
    ∧ (w.timeout ≠ 0 → w.timeout.toNat ≤ s.cy - w.t0 → reads (.waitaTimeout s.id s.core.k))

/-- R263, R264: DRAIN of an entry that may leave its buffer: it becomes a message of the same body and place on its way, and a memory write takes
the next write number of its die. -/
def Claims.DrainSendsABufferedWrite : Prop :=
  ∀ (s : State) (item : Nat) (e : Entry), s.core.entry item = some e → s.drainable s.id e = true → e.dest.isPeer = false →
    (∀ f, e.body ≠ .flit f) →
    ∃ t, ∃ m : Msg, exec (.drain s.id item) s = .next t ∧ t.flight = s.flight ++ [m] ∧ m.id = e.id ∧ m.body = e.body ∧ m.dest = e.dest ∧ m.src = e.src
      ∧ t.core.sbuf = s.core.sbuf.filter (fun x => x.id != item)
      ∧ (e.body.isWrite = true → m.ident = [(pdieOf s.id, Clock.at s.dieN (pdieOf s.id) + 1)]
          ∧ Clock.at t.dieN (pdieOf s.id) = Clock.at s.dieN (pdieOf s.id) + 1)
      ∧ ∀ a, Memory.get t.mem a = Memory.get s.mem a

/-- R266, R135: APPLY of a write that is at the head of its route, released and not refused at its target: a store changes exactly the bytes it
covers, an AMO of an unpoisoned word leaves there the operation's result; every other byte of memory is as before. -/
def Claims.ApplyWritesExactlyItsBytes : Prop :=
  ∀ (s : State) (item : Nat) (m : Msg), s.msg item = some m → s.atHead m = true → s.released m = true →
    (∀ key size val, m.body = .store key size val → (s.dropMsg item).dropCode m key size = none →
      ∃ t, exec (.apply item) s = .next t ∧ Memory.getN t.mem key size = val % 256 ^ size
        ∧ ∀ a, a < key ∨ key + size ≤ a → Memory.get t.mem a = Memory.get s.mem a)
    ∧ (∀ op key size x e more res det, m.body = .amo op key size x e more res det → (s.dropMsg item).dropCode m key size = none →
        key / 8 ∉ s.poison →
        ∃ t, exec (.apply item) s = .next t ∧ Memory.getN t.mem key size = amoNew op size (Memory.getN s.mem key size) x e % 256 ^ size
          ∧ ∀ a, a < key ∨ key + size ≤ a → Memory.get t.mem a = Memory.get s.mem a)
    ∧ (∀ key size val mask, m.body = .bits key size val mask → (s.dropMsg item).dropCode m key size = none →
      ∃ t, exec (.apply item) s = .next t ∧ Memory.getN t.mem key size = blend (Memory.getN s.mem key size) val mask % 256 ^ size
        ∧ ∀ a, a < key ∨ key + size ≤ a → Memory.get t.mem a = Memory.get s.mem a)
    ∧ (∀ key, m.body = .deps key → bits (s.nodeWord key 0) 43 20 ≠ 1 →
        ∃ t, exec (.apply item) s = .next t
          ∧ Memory.getN t.mem key 8 = (setBits (s.nodeWord key 0) 43 20 (bits (s.nodeWord key 0) 43 20 - 1)).toNat
          ∧ ∀ a, a < key ∨ key + 8 ≤ a → Memory.get t.mem a = Memory.get s.mem a)

/-- R265, R267: the steps that serve a load that waits, seen from its context: FORWARD gives the core's own newest bytes, READ the bytes of
the home; REPLY of a one-element load writes the extended value and the context goes on. -/
def Claims.WaitingLoadsAreServed : Prop :=
  ∀ (s : State) (d : GReg) (size : Nat) (signed : Bool) (key : Nat) (va : Word) (x : Await),
    s.cx.await = some x → x.fin = .load d size signed → s.cx.st = .waiting .reply → x.due ≤ s.cy →
    (x.els = [⟨key, va, size, .asked⟩] → s.core.ownsAll key size = true →
      ∃ t, exec (.forward s.id s.core.k 0) s = .next t ∧ t.took d (ldValue size signed (s.peekN key size)) ∧ t.cx.st = .ready
        ∧ t.cx.pc = s.cx.pc + BitVec.ofNat 15 x.len ∧ (∀ r, r ≠ d → t.g r = s.g r) ∧ ∀ a, Memory.get t.mem a = Memory.get s.mem a)
    ∧ (x.els = [⟨key, va, size, .asked⟩] → s.readOk key size = true →
        ∃ t y ws ls, exec (.read s.id s.core.k 0 false) s = .next t ∧ t.cx.await = some y
          ∧ y.els = [⟨key, va, size, .served (s.homeN key size) ws ls (s.badHome key size)⟩] ∧ s.Holds t)
    ∧ (∀ v ws ls, x.els = [⟨key, va, size, .served v ws ls false⟩] →
        ∃ t, exec (.reply s.id s.core.k 0) s = .next t ∧ t.took d (ldValue size signed v) ∧ t.cx.st = .ready ∧ t.cx.await = none
          ∧ t.cx.pc = s.cx.pc + BitVec.ofNat 15 x.len ∧ (∀ r, r ≠ d → t.g r = s.g r) ∧ ∀ a, Memory.get t.mem a = Memory.get s.mem a)

/-- R272, R192: HIT serves the element of a vector load whose line was filled after the last acquire point: the lane takes its value and, as it
was the only one, the context goes on. -/
def Claims.WaitingVectorLoadsHit : Prop :=
  ∀ (s : State) (d : VReg) (size : Nat) (signed : Bool) (key v : Nat) (va : Word) (x : Await),
    s.cx.await = some x → x.fin = .vload d size signed → s.cx.st = .waiting .reply → x.due ≤ s.cy → x.els = [⟨key, va, size, .asked⟩] →
    s.hit? x.ord x.cache key size = some (v, false) →
      ∃ t, exec (.hit s.id s.core.k 0) s = .next t ∧ t.core.v = (s.core.putLanes d [vldLane size signed v]).v ∧ t.cx.st = .ready
        ∧ t.cx.await = none ∧ t.cx.pc = s.cx.pc + BitVec.ofNat 15 x.len ∧ (∀ r, t.g r = s.g r)
        ∧ ∀ a, Memory.get t.mem a = Memory.get s.mem a

/-- R272, R334, R101: EVICT takes a line out of an L1; APPLIED_VECTOR_BROADCAST tells every die how far a die's writes have been applied;
RESULT_WRITEBACK writes the results of the context in view that are due and no other. -/
def Claims.EvictBroadcastAndWriteback : Prop :=
  ∀ (s : State) (line die : Nat),
    (∃ t, exec (.evict s.id line) s = .next t ∧ t.core.l1 = s.core.l1.filter (fun l => l.addr != line) ∧ s.Holds t)
    ∧ (∃ t, exec (.appliedVectorBroadcast die) s = .next t ∧ (∀ h, h < 16 → Clock.at (t.dieV.getD h []) die = s.appliedOf die) ∧ s.Holds t)
    ∧ (∀ d v c, s.cx.pend = [⟨.g d, [v], c⟩] →
        ∃ t, exec (.resultWriteback s.id s.core.k) s = .next t ∧ (∀ r, r ≠ d → t.g r = s.g r) ∧ (∀ a, Memory.get t.mem a = Memory.get s.mem a)
          ∧ (c ≤ s.cy → t.took d v ∧ t.cx.pend = []) ∧ (s.cy < c → t.g d = s.g d ∧ t.cx.pend = s.cx.pend))
    ∧ (∀ d vs c, s.cx.pend = [⟨.v d, vs, c⟩] → c ≤ s.cy →
        ∃ t, exec (.resultWriteback s.id s.core.k) s = .next t ∧ t.core.v = (s.core.putLanes d (vs.map fun x => x.setWidth 32)).v ∧ t.cx.pend = []
          ∧ s.Holds t)
    ∧ (∀ n v c w, s.cx.pend = [⟨.tid n, [v], c⟩] → c ≤ s.cy → Table.find s.cx.tid n = some w →
        ∃ t, exec (.resultWriteback s.id s.core.k) s = .next t ∧ Table.find t.cx.tid n = some (setBits w.1 23 16 v.toNat, w.2) ∧ t.cx.pend = []
          ∧ t.core = s.core ∧ s.Holds t)

/-! ## Fabric, barriers, phases, work queues and lanes (spec/06_memory_sync.md R141–R157, spec/02_execution_model.md, spec/08_vector.md R183–R188) -/

/-- R141, R143: FLD sends its read under the lowest free ticket and returns the number, to a place of this module or, as a flit of the core's
injection queue, to a peer; FWAIT takes the answer of its
ticket, waits while there is none and is ILLEGAL for a number that is not outstanding. -/
def Claims.RemoteLoadsUseTickets : Prop :=
  ∀ (s : State) (acq : Bool) (d a : GReg) (disp : BitVec 24),
    let ea := addressX s a disp
    (∀ n key, s.cx.freeTicket = some n → (regionOf ea = .main ∨ regionOf ea = .coord) →
      s.check .load (bits s.cx.memdef 7 6) ea 8 = .ok key → (homeOf key).isPeer = false → s.gate 1 4 = true →
      ∃ t, ∃ x : Ticket, exec (.fld acq d a disp) s = .next t ∧ t.cx.tickets = s.cx.tickets ++ [x] ∧ x.num = n ∧ x.key = key ∧ x.acq = acq ∧ x.answer = none
        ∧ t.took d (BitVec.ofNat 64 n) ∧ s.Went t (.fld acq d a disp) d)
    ∧ (∀ n, s.cx.freeTicket = some n → regionOf ea = .peer → bits s.cx.memdef 7 6 = 0 → ea.toNat % 8 = 0 → s.peerOk (peerOf ea) = true →
      s.gate 1 4 = true → s.peerOpen (peerOf ea) ea = false → s.injectFull 1 = false → s.recvFull 1 = false →
      ∃ t, ∃ x : Ticket, ∃ f : Flit, exec (.fld acq d a disp) s = .next t ∧ t.cx.tickets = s.cx.tickets ++ [x] ∧ x.num = n
        ∧ x.peer = some (peerOf ea) ∧ x.acq = acq ∧ x.answer = none ∧ t.torus.inject = s.torus.inject ++ [(s.id, f)] ∧ f.op = .read
        ∧ f.dest = s.peerModule (peerOf ea) ∧ f.ticket = n ∧ f.offset = peerOff ea ∧ t.took d (BitVec.ofNat 64 n) ∧ s.Went t (.fld acq d a disp) d)
    ∧ (s.cx.freeTicket = none → ∀ key, (regionOf ea = .main ∨ regionOf ea = .coord) → s.check .load (bits s.cx.memdef 7 6) ea 8 = .ok key →
        ∃ t, exec (.fld acq d a disp) s = .next t ∧ t.cx.st = .waiting .reply ∧ s.Holds t)
    ∧ (∀ x v, (s.cx.tickets.find? fun t => t.num == (s.g a).toNat) = some x → x.answer = some v →
        ∃ t, exec (.fwait d a) s = .next t ∧ t.took d v ∧ t.cx.tickets = s.cx.tickets.filter (fun y => y.num != x.num) ∧ s.Went t (.fwait d a) d)
    ∧ (∀ x, (s.cx.tickets.find? fun t => t.num == (s.g a).toNat) = some x → x.answer = none → waitsWith (.fwait d a) s .reply)
    ∧ ((s.cx.tickets.find? fun t => t.num == (s.g a).toNat) = none → trapsWith (.fwait d a) s 0x01 (zext (Instr.first (.fwait d a))))

/-- R142: FST and FAMO outside a Running node and with no tempo binding towards their destination, a place of this module or a peer's window: the
operation enters the core's buffer as a class P packet and the instruction completes at issue; LOC is PERM. -/
def Claims.RemoteStoresCompleteAtIssue : Prop :=
  ∀ (s : State) (rel : Bool) (op : FamoOp) (d a : GReg) (disp : BitVec 24),
    let ea := addressX s a disp
    let size := if op = .fadd then 4 else 8
    (∀ key, (regionOf ea = .main ∨ regionOf ea = .coord) → s.check .store (bits s.cx.memdef 7 6) ea 8 = .ok key → (homeOf key).isPeer = false →
      s.core.node = none → s.matching (homeOf key) = [] → s.gate (if rel then 4 else 1) (if rel then 5 else 4) = true → (rel = true → s.performed 5 = true) →
      ∃ t, ∃ x : Entry, exec (.fst rel d a disp) s = .next t ∧ t.core.sbuf = s.core.sbuf ++ [x] ∧ x.body = .store key 8 (s.g d).toNat ∧ x.cls = .p
        ∧ x.ord = (if rel then 4 else 1) ∧ x.scope = (if rel then 5 else 4) ∧ s.Went t (.fst rel d a disp) 0)
    ∧ (∀ key, (regionOf ea = .main ∨ regionOf ea = .coord) → s.check .amo (bits s.cx.memdef 7 6) ea size = .ok key → (homeOf key).isPeer = false →
        s.core.node = none → s.matching (homeOf key) = [] → s.gate 1 4 = true →
        ∃ t, ∃ x : Entry, ∃ o, exec (.famo op d a disp) s = .next t ∧ t.core.sbuf = s.core.sbuf ++ [x] ∧ x.cls = .p
          ∧ x.body = .amo o key size ((s.g d).toNat % 256 ^ size) 0 [] false (bit s.cx.arith 11) ∧ o = famoAmo op ∧ s.Went t (.famo op d a disp) 0)
    ∧ (regionOf ea = .peer → bits s.cx.memdef 7 6 = 0 → ea.toNat % 8 = 0 → s.peerOk (peerOf ea) = true → s.core.node = none →
        s.matching (.peer (peerOf ea)) = [] → s.injectFull 1 = false →
        (s.gate (if rel then 4 else 1) (if rel then 5 else 4) = true → (rel = true → s.performed 5 = true) →
          ∃ t, ∃ x : Entry, ∃ f : Flit, exec (.fst rel d a disp) s = .next t ∧ t.core.sbuf = s.core.sbuf ++ [x] ∧ x.body = .flit f ∧ x.cls = .p
            ∧ x.dest = .peer (peerOf ea) ∧ f.op = .store ∧ f.dest = s.peerModule (peerOf ea) ∧ f.offset = peerOff ea ∧ f.data = s.g d
            ∧ s.Went t (.fst rel d a disp) 0)
        ∧ (s.gate 1 4 = true →
          ∃ t, ∃ x : Entry, ∃ f : Flit, exec (.famo op d a disp) s = .next t ∧ t.core.sbuf = s.core.sbuf ++ [x] ∧ x.body = .flit f ∧ x.cls = .p
            ∧ x.dest = .peer (peerOf ea) ∧ f.op = .amo op ∧ f.dest = s.peerModule (peerOf ea) ∧ f.offset = peerOff ea ∧ f.data = s.g d
            ∧ s.Went t (.famo op d a disp) 0))
    ∧ (regionOf ea = .loc → trapsWith (.fst rel d a disp) s 0x07 ea ∧ trapsWith (.famo op d a disp) s 0x07 ea ∧ trapsWith (.fld rel d a disp) s 0x07 ea)

/-- R143, R144: FMCAST to a group of the interface, with no tempo binding and room to inject, puts one flit for the group behind the core's
earlier class P packets, under the lowest free ticket; FFENCE writes the bitmap of failed peers as 64 bytes, returns how many there were and
forgets them (that a later FFENCE does not count them again is the model's choice, notes/assumptions/75.md). -/
def Claims.MulticastAndFabricFence : Prop :=
  ∀ (s : State) (d b c a : GReg) (disp : BitVec 24),
    let ea := addressX s a disp
    (∀ ms n, s.core.node = none → (s.g c).toNat < 512 → Table.find s.myVif.groups (s.g c).toNat = some ms → ms ≠ [] → regionOf ea = .peer → bits s.cx.memdef 7 6 = 0 →
      ea.toNat % 8 = 0 → peerOf ea = 0 → s.cx.freeTicket = some n → s.gate 1 4 = true → s.injectFull 1 = false → s.recvFull 1 = false →
      (ms.all fun m => (s.matching (.peer m)).isEmpty) = true →
      ∃ t, ∃ x : Ticket, ∃ y : Entry, ∃ f : Flit, exec (.fmcast d b c a disp) s = .next t ∧ t.cx.tickets = s.cx.tickets ++ [x] ∧ x.num = n
        ∧ x.multi = true ∧ t.core.sbuf = s.core.sbuf ++ [y] ∧ y.body = .flit f ∧ y.cls = .p ∧ f.op = .mcast ∧ f.data = s.g b ∧ f.offset = peerOff ea
        ∧ f.dest = (s.g c).toNat ∧ f.ticket = n ∧ f.members = lowBits ms.length
        ∧ t.took d (BitVec.ofNat 64 n) ∧ s.Went t (.fmcast d b c a disp) d)
    ∧ (∀ e key, effOf .store none s.cx.memdef = some e → (regionOf ea = .coord ∨ regionOf ea = .loc) → s.check .store e.space ea 64 = .ok key → s.gate e.ord e.scope = true →
        s.core.node = none → s.peersOpen = false → s.cx.failedPeers ≠ [] →
        ∃ t, ∃ x : Entry, exec (.ffence d a disp) s = .next t ∧ t.cx.failedPeers = [] ∧ t.core.sbuf = s.core.sbuf ++ [x]
          ∧ x.body = .store key 64 (peerBits s.cx.failedPeers) ∧ t.took d (BitVec.ofNat 64 s.cx.failedPeers.eraseDups.length) ∧ s.Went t (.ffence d a disp) d)

/-- R145–R148: the barrier instructions, while no BARTIME is owed. BSET writes BREGk keeping SENSE; BARRIVE records an arrival; BWAIT ends a released
episode and waits in a pending one; BAR does both; each is ILLEGAL where its entry says so; BSTAT reads the member's state. -/
def Claims.BarrierInstructions : Prop :=
  ∀ (s : State) (k : BitVec 2) (a d : GReg),
    let b := s.cx.bar k.toNat
    let old := s.cx.breg[bregIdx k]
    (s.crTrap (0x1C + k.toNat) old (s.g a) = none →
      ∃ t, exec (.bset k a) s = .next t ∧ t.cx.breg[bregIdx k] = (s.g a &&& ~~~2) ||| (old &&& 2) ∧ s.Went t (.bset k a) 0)
    ∧ (b.owed = false → b.pend = false → bit old 0 = true →
        (∃ t, exec (.barrive k) s = .next t ∧ (t.cx.bar k.toNat).pend = true ∧ (t.cx.bar k.toNat).reld = false ∧ (t.cx.bar k.toNat).tmo = false
          ∧ (t.cx.bar k.toNat).t0 = s.cy ∧ t.core = s.core ∧ s.Went t (.barrive k) 0)
        ∧ (s.cx.arrived = false → ∃ t, exec (.bar k) s = .next t ∧ (t.cx.bar k.toNat).pend = true ∧ t.cx.arrived = true ∧ t.cx.st = .waiting .barrier ∧ s.Holds t))
    ∧ (b.owed = false → b.pend = true ∨ bit old 0 = false → trapsWith (.barrive k) s 0x01 (zext (Instr.first (.barrive k))))
    ∧ (b.owed = false → b.reld = true →
        (∃ t, exec (.bwait k) s = .next t ∧ (t.cx.bar k.toNat).reld = false ∧ t.core = s.core ∧ s.Went t (.bwait k) 0)
        ∧ (s.cx.arrived = true → ∃ t, exec (.bar k) s = .next t ∧ (t.cx.bar k.toNat).reld = false ∧ t.core = s.core ∧ s.Went t (.bar k) 0))
    ∧ (b.owed = false → b.reld = false → b.pend = true → waitsWith (.bwait k) s .barrier)
    ∧ (b.owed = false → b.reld = false → b.pend = false → trapsWith (.bwait k) s 0x01 (zext (Instr.first (.bwait k))))
    ∧ (∃ v : Word, completesG (.bstat d k) s d v ∧ bit v 0 = b.pend ∧ bit v 1 = b.reld ∧ bit v 2 = bit old 1 ∧ bit v 3 = b.tmo)

/-- R147, R33: BARTIME owed by a withdrawn episode is taken at the next BARRIVE, BWAIT or BAR on it, with TVAL the barrier register and no other
effect. -/
def Claims.OwedBarrierTimeoutIsTaken : Prop :=
  ∀ (s : State) (k : BitVec 2), (s.cx.bar k.toNat).owed = true → s.cx.super = false → s.cx.inPhlx = false →
    let takes (i : Instr) : Prop := ∃ t, exec i s = .next t ∧ t.cx.epc = zext s.cx.pc ∧ t.cx.cause = 0x0F ∧ t.cx.tval = BitVec.ofNat 64 k.toNat
      ∧ (t.cx.bar k.toNat).owed = false ∧ (t.cx.bar k.toNat).pend = (s.cx.bar k.toNat).pend ∧ (∀ r, t.g r = s.g r)
      ∧ t.core = { s.core with benched := s.core.benched.filter fun b => b.2 != s.core.k }
      ∧ ∀ m, Memory.get t.mem m = Memory.get s.mem m
    takes (.barrive k) ∧ takes (.bwait k) ∧ takes (.bar k)

/-- R146, R327, R328, R147: the steps of a barrier. An arrival whose context's earlier accesses are performed enters the sweep and its episode, or is held at the next core, where that has no member; a complete episode commits; its
release ends the wait of a member and inverts SENSE; a member whose time has passed and whose arrival never entered the sweep has withdrawn; a withdrawal that
reaches the corner before the commit ends the arrival. -/
def Claims.BarrierSteps : Prop :=
  ∀ (s : State) (k n : Nat) (e : Episode),
    (k < 6 → (s.cx.bar k).pend = true → (s.cx.bar k).sent = false →
      s.performedTo 3 (fun m => decide (m < (s.cx.bar k).from_)) = true → s.heldAt s.id k (s.cx.barRect k) = none →
      ∃ t x, exec (.barrierArrivalSend s.id s.core.k k) s = .next t ∧ (t.cx.bar k).sent = true ∧ x ∈ t.episodes ∧ x.k = k ∧ x.rect = s.cx.barRect k
        ∧ (s.id, s.core.k, (s.cx.bar k).arg) ∈ x.arrived ∧ s.Holds t)
    ∧ (∀ id, k < 6 → (s.cx.bar k).pend = true → (s.cx.bar k).sent = false → s.performedTo 3 (fun m => decide (m < (s.cx.bar k).from_)) = true →
        s.heldAt s.id k (s.cx.barRect k) = some id → (s.coreAt id).signals.length < 64 → id ≠ s.id →
        ∃ t g, exec (.barrierArrivalSend s.id s.core.k k) s = .next t ∧ (t.cx.bar k).sent = true ∧ t.episodes = s.episodes ∧ (t.coreAt id).signals = (s.coreAt id).signals ++ [g]
          ∧ g.k = k ∧ g.core = s.id ∧ g.ctx = s.core.k ∧ rectOf g.rect = s.cx.barRect k ∧ s.Holds t)
    ∧ (s.episodes[n]? = some e → e.committed = false → s.complete e = true →
        ∃ t, exec (.barrierCommit n) s = .next t ∧ t.episodes[n]? = some { e with committed := true } ∧ s.Holds t)
    ∧ (∀ arg, s.episodes[n]? = some e → e.committed = true → e.released = [] → e.arrived = [(s.id, s.core.k, arg)] → e.k < 4 → s.cx.st = .waiting .barrier → s.cx.want = 32 + e.k →
        ∃ t, exec (.barrierRelease n s.id) s = .next t ∧ t.cx.st = .ready ∧ t.cx.pc = s.cx.pc + 8 ∧ (t.cx.bar e.k).pend = false
          ∧ (t.cx.breg.getD e.k 0) = (s.cx.breg.getD e.k 0) ^^^ 2 ∧ t.episodes = dropAt s.episodes n ∧ (∀ r, t.g r = s.g r)
          ∧ ∀ m, Memory.get t.mem m = Memory.get s.mem m)
    ∧ (k < 6 → (s.cx.bar k).pend = true → (s.cx.bar k).leaving = false → s.suspended s.id = false → s.cx.barrierLimit ≤ s.cy - (s.cx.bar k).t0 →
        s.inEpisode s.id s.core.k k = false →
        ∃ t, exec (.barrierTimeout s.id s.core.k k) s = .next t ∧ (t.cx.bar k).pend = false ∧ (t.cx.bar k).tmo = true ∧ (t.cx.bar k).owed = true ∧ s.Holds t)
    ∧ (∀ arg, s.episodes[n]? = some e → e.committed = false → e.k < 6 → e.arrived = [(s.id, s.core.k, arg)] → (s.cx.bar e.k).leaving = true →
        ∃ t, exec (.barrierWithdrawAccept n s.id) s = .next t ∧ (t.cx.bar e.k).pend = false ∧ (t.cx.bar e.k).tmo = true ∧ (t.cx.bar e.k).owed = true ∧ s.Holds t)

/-- R52, R150, R41, R153, R45: DPHASE and PHLX record their arrival and wait, and go on when the arrival is no longer pending; a step that the table of R52 does not
have is ILLEGAL; SPLIT outside a phalanx only goes on, in one it leaves it. -/
def Claims.PhaseAndPhalanxInstructions : Prop :=
  ∀ (s : State) (ph : BitVec 2) (a : GReg),
    (2 ≤ bits s.cx.domain 2 0 → (s.cx.bar 4).owed = false → s.cx.arrived = false → phaseStep s.phase ph.toNat = true → (s.phase = 2 → s.armedLater = false) →
      ∃ t, exec (.dphase ph) s = .next t ∧ t.cx.st = .waiting .barrier ∧ (t.cx.bar 4).pend = true ∧ bits (t.cx.bar 4).arg 63 62 ≥ ph.toNat ∧ s.Holds t)
    ∧ (2 ≤ bits s.cx.domain 2 0 → (s.cx.bar 4).owed = false → s.cx.arrived = true → (s.cx.bar 4).pend = false → completesAt (.dphase ph) s (s.cx.pc + 8))
    ∧ (bits s.cx.domain 2 0 < 2 → trapsWith (.dphase ph) s 0x01 (zext (Instr.first (.dphase ph))))
    ∧ (2 ≤ bits s.cx.domain 2 0 → (s.cx.bar 4).owed = false → s.cx.arrived = false → phaseStep s.phase ph.toNat = false →
        trapsWith (.dphase ph) s 0x01 (zext (Instr.first (.dphase ph))))
    ∧ (s.core.k = 0 → (s.cx.bar 5).owed = false → s.cx.arrived = false → s.cx.inPhlx = false → s.phlxOk (s.g a) = true →
        (∀ k, 1 ≤ k → k ≤ 10 → (s.cxAt s.id k).st = .free) →
        ∃ t, exec (.phlx a) s = .next t ∧ t.cx.st = .waiting .barrier ∧ (t.cx.bar 5).pend = true ∧ (t.cx.bar 5).arg = s.g a ∧ s.Holds t)
    ∧ ((s.cx.bar 5).owed = false → s.cx.arrived = true → (s.cx.bar 5).pend = false → completesAt (.phlx a) s (s.cx.pc + 8))
    ∧ (s.cx.inPhlx = false → completesAt .split s (s.cx.pc + 8))
    ∧ (s.cx.inPhlx = true → s.core.k = 0 → ∃ t, exec .split s = .next t ∧ t.cx.inPhlx = false ∧ t.cx.leader = false ∧ t.cx.st = .ready ∧ t.cx.pc = s.cx.pc + 8
        ∧ (∀ r, t.g r = s.g r) ∧ (t.phalanxes.any fun p => p.members.contains s.id) = false)

/-- R52, R54, R152: XMIT, XMIT.R and XSEL of a transfer phase arm a wire or the latch for a slot that has not passed; a slot that has passed, or that SLOTMASK
does not allow to drive, raises SLOT with TVAL the slot; outside a transfer phase they are ILLEGAL. -/
def Claims.TransferInstructions : Prop :=
  ∀ (s : State) (w : BitVec 2) (n : BitVec 22) (a d : GReg),
    (s.transferOk = false → trapsWith (.xmit w n a) s 0x01 (zext (Instr.first (.xmit w n a))) ∧ trapsWith (.xmitR w n) s 0x01 (zext (Instr.first (.xmitR w n)))
      ∧ trapsWith (.xsel d w n) s 0x01 (zext (Instr.first (.xsel d w n))))
    ∧ (s.transferOk = true → (n.toNat < s.slot ∨ bit s.cx.slotmask (n.toNat % 64) = false) →
        trapsWith (.xmit w n a) s 0x0E (BitVec.ofNat 64 n.toNat) ∧ trapsWith (.xmitR w n) s 0x0E (BitVec.ofNat 64 n.toNat))
    ∧ (s.transferOk = true → s.slot ≤ n.toNat → bit s.cx.slotmask (n.toNat % 64) = true → s.neighbour s.id w.toNat = none →
        trapsWith (.xmit w n a) s 0x07 (BitVec.ofNat 64 w.toNat))
    ∧ (s.transferOk = true → s.slot ≤ n.toNat → bit s.cx.slotmask (n.toNat % 64) = true → (s.neighbour s.id w.toNat).isSome = true →
        (s.cx.arms.any fun x => x.1 == w.toNat) = false →
        (∃ t, exec (.xmit w n a) s = .next t ∧ t.cx.arms = s.cx.arms ++ [(w.toNat, n.toNat, some (s.g a))] ∧ s.Went t (.xmit w n a) 0)
        ∧ (∃ t, exec (.xmitR w n) s = .next t ∧ t.cx.arms = s.cx.arms ++ [(w.toNat, n.toNat, none)] ∧ s.Went t (.xmitR w n) 0))
    ∧ (s.transferOk = true → s.slot ≤ n.toNat → s.cx.selArm = none →
        ∃ t, exec (.xsel d w n) s = .next t ∧ t.cx.selArm = some (w.toNat, n.toNat, d) ∧ s.Went t (.xsel d w n) 0)

/-- R152: XMIT_DRIVE puts the armed word on the neighbour's opposite wire in its slot; XSEL_LATCH, once the core has issued in the slot and with nothing armed
to drive, takes the word driven towards the core in the slot before, or 0, into the latch and g(D). (The control context in view.) -/
def Claims.TransferSteps : Prop :=
  ∀ (s : State) (x : Domain), s.core.k = 0 → s.halted s.id = false → s.domainOf s.id s.cx = some x → x.phase = 2 →
    (∀ (w : BitVec 2) v id, s.cx.arms = [(w.toNat, x.slotNow s.cy, some v)] → s.neighbour s.id w.toNat = some id →
      ∃ t, exec (.xmitDrive s.id w) s = .next t ∧ t.cx.arms = []
        ∧ (∃ y, t.domainOf s.id t.cx = some y ∧ y.drives = x.drives ++ [(id, (w.toNat + 2) % 4, v)]) ∧ s.Holds t)
    ∧ (∀ (w : Nat) (d : GReg), s.cx.arms = [] → s.cx.selArm = some (w, x.slotNow s.cy, d) → x.issued.contains s.id = true →
        let v := ((x.wires.find? fun y => y.1 == s.id && y.2.1 == w).map (·.2.2)).getD 0
        ∃ t, exec (.xselLatch s.id) s = .next t ∧ t.core.latch = v ∧ t.took d v ∧ t.cx.selArm = none ∧ (∀ r, r ≠ d → t.g r = s.g r) ∧ t.cx.pc = s.cx.pc
          ∧ ∀ m, Memory.get t.mem m = Memory.get s.mem m)
    ∧ (x.issued.contains s.id = false → exec (.xselLatch s.id) s = .next s)

/-- R154, R55, R57, R315: WPOP takes the head of a queue no context waits for, making its node Running and owned by the core; an empty queue gives 0 to
the non-blocking form, 1 when drained, and otherwise the context waits in order; a queue the interface does not have, or a core that owns a Running node, is ILLEGAL
(for one that waits already when another context of its core takes a node, the model's choice: notes/assumptions/74.md). WPOP_WAKE gives the head to the oldest waiter. -/
def Claims.WorkQueuePops : Prop :=
  ∀ (s : State) (nb : Bool) (d a : GReg),
    let q := (s.g a).toNat
    let i := Instr.wpop nb d a
    s.cx.popped = none →
    ((¬ q < 4096 ∨ s.myVif.wqs.contains q = false ∨ s.core.node.isSome = true) → trapsWith i s 0x01 (zext (Instr.first i)))
    ∧ (q < 4096 → s.myVif.wqs.contains q = true → s.core.node = none →
        s.gate 3 4 = true →
        let others := (s.waitersOf q).filter (· != (s.id, s.core.k))
        (∀ key l, (s.wqueue q).items = key :: l → others = [] →
          ∃ t, exec i s = .next t ∧ t.took d (s.nodeAddr s.id key) ∧ (∃ ran, t.core.node = some (key, ran)) ∧ (t.wqueue q).items = l
            ∧ bits (t.nodeWord key 0) 2 0 = 2 ∧ (∀ r, r ≠ d → t.g r = s.g r) ∧ s.readyAt t (s.after i)
            ∧ ∀ m, m < key ∨ key + 8 ≤ m → Memory.get t.mem m = Memory.get s.mem m)
        ∧ ((s.wqueue q).items = [] → s.drained q = true → completesG i s d 1)
        ∧ ((s.wqueue q).items = [] ∨ others ≠ [] → s.drained q = false → nb = true → completesG i s d 0)
        ∧ ((s.wqueue q).items = [] ∨ others ≠ [] → s.drained q = false → nb = false → s.cx.st ≠ .waiting .work → ∃ t, exec i s = .next t ∧ t.cx.st = .waiting .work
            ∧ (s.id, s.core.k) ∈ (t.wqueue q).waiters ∧ s.Holds t))

/-- R315: WPOP_WAKE for a waiter that the view is on. -/
def Claims.WorkQueueWake : Prop :=
  ∀ (s : State) (q key : Nat) (l : List Nat), (s.wqueue q).items = key :: l → s.waitersOf q = [(s.id, s.core.k)] → s.core.node = none →
    ∃ t, exec (.wpopWake q) s = .next t ∧ t.cx.popped = some (s.nodeAddr s.id key) ∧ t.cx.st = .ready ∧ t.cx.pc = s.cx.pc ∧ (∃ ran, t.core.node = some (key, ran))
      ∧ (t.wqueue q).items = l ∧ (t.wqueue q).waiters = [] ∧ (∀ r, t.g r = s.g r)
      ∧ ∀ m, m < key ∨ key + 8 ≤ m → Memory.get t.mem m = Memory.get s.mem m

/-- R155, R56, R57, R273: outside a Running node WPUSH of a new record sends the REL write of its STATE, whose application queues it at the tail with DEPS 0 and makes
it wait with DEPS above 0 (that the step which applies the write does all of it: notes/assumptions/16.md); WPUSH.CLOSE closes an open queue of the interface; inside one both are held; a record that may not be pushed is ILLEGAL, a misaligned
address ALIGN, one that is no pantry slice PERM. -/
def Claims.WorkQueuePushes : Prop :=
  ∀ (s : State) (a : GReg),
    let ea := s.g a
    let q := ea.toNat % 4096
    (ea.toNat % 64 ≠ 0 → trapsWith (.wpush a) s 0x05 ea)
    ∧ (ea.toNat % 64 = 0 → regionOf ea = .loc → trapsWith (.wpush a) s 0x07 ea)
    ∧ (∀ key, ea.toNat % 64 = 0 → regionOf ea = .coord → 126 ≤ coordRow ea → s.coordKey ea = some key →
        (s.core.node = none → s.gate 4 4 = true →
          (s.pushable key = true → ∃ t, ∃ x : Entry, exec (.wpush a) s = .next t ∧ t.core.sbuf = s.core.sbuf ++ [x] ∧ x.body = .push key (s.pushWq key)
            ∧ x.ord = 4 ∧ x.scope = 4 ∧ s.Went t (.wpush a) 0)
          ∧ (s.pushable key = false → trapsWith (.wpush a) s 0x01 (zext (Instr.first (.wpush a)))))
        ∧ (s.core.node.isSome = true → s.pushable key = true → ∃ t, exec (.wpush a) s = .next t ∧ t.core.pushes = s.core.pushes ++ [(false, key)]
            ∧ s.Went t (.wpush a) 0))
    ∧ (∀ item m key wq, s.msg item = some m → s.atHead m = true → s.released m = true → m.body = .push key wq →
        ∃ t, exec (.apply item) s = .next t ∧ bits (t.nodeWord key 0) 2 0 = (if s.nodeDeps key = 0 then 1 else 0)
          ∧ (s.nodeDeps key = 0 → (t.wqueue wq).items = (s.wqueue wq).items ++ [key]) ∧ (s.nodeDeps key ≠ 0 → t.wqueues = s.wqueues)
          ∧ (∀ r, t.g r = s.g r) ∧ t.cx.pc = s.cx.pc ∧ ∀ n, n < key ∨ key + 48 ≤ n → Memory.get t.mem n = Memory.get s.mem n)
    ∧ (s.myVif.wqs.contains q = true → (s.wqueue q).closed = false →
        (s.core.node = none → ∃ t, exec (.wpushClose a) s = .next t ∧ (t.wqueue q).closed = true ∧ (t.wqueue q).items = (s.wqueue q).items ∧ s.Went t (.wpushClose a) 0)
        ∧ (s.core.node.isSome = true → ∃ t, exec (.wpushClose a) s = .next t ∧ t.core.pushes = s.core.pushes ++ [(true, q)] ∧ s.Went t (.wpushClose a) 0))

/-- R156, R157, R57, R58: NDONE of the core's Running node, once its accesses are checked, waits; each staged write then enters the buffer when the core's writes before
it are done (one to main memory is translated again first), and after the last the node is Done and the core owns none; NABORT puts the node at the tail of its queue again with RETRY as it was and discards what was staged; any other record is ILLEGAL. (A node with no successor,
push or held command; no error pending.) An error recorded against the node while NDONE waits still rolls it back, queued again with RETRY one higher below 3 (R353). (What NDONE and a fence in
a node wait for: notes/assumptions/14.md.) -/
def Claims.NodeEndings : Prop :=
  ∀ (s : State) (a : GReg),
    (s.myNode (s.g a) = none → trapsWith (.ndone a) s 0x01 (zext (Instr.first (.ndone a))) ∧ trapsWith (.nabort a) s 0x01 (zext (Instr.first (.nabort a))))
    ∧ (∀ key, s.myNode (s.g a) = some key → s.cx.asked = false → s.checked = true → s.core.nodeErr = none → bit s.cx.errpend 0 = false →
        (∃ t, exec (.ndone a) s = .next t ∧ t.cx.st = .waiting .reply ∧ t.cx.asked = true ∧ t.core = s.core ∧ s.Holds t)
        ∧ ∃ t, exec (.nabort a) s = .next t ∧ t.core.node = none ∧ t.core.staging = [] ∧ t.core.sbuf = s.core.sbuf ∧ t.core.pushes = []
            ∧ bits (t.nodeWord key 0) 2 0 = 1 ∧ bits (t.nodeWord key 0) 4 3 = bits (s.nodeWord key 0) 4 3
            ∧ (t.wqueue (s.nodeWq key)).items = (s.wqueue (s.nodeWq key)).items ++ [key] ∧ (∀ r, t.g r = s.g r) ∧ s.readyAt t (s.after (.nabort a)))
    ∧ (∀ key, s.myNode (s.g a) = some key → s.cx.asked = true →
        (∀ e, s.core.nodeErr = some e → bits (s.nodeWord key 0) 4 3 < 3 →
          ∃ t, exec (.ndone a) s = .next t ∧ t.core.node = none ∧ t.core.staging = [] ∧ bits (t.nodeWord key 0) 2 0 = 1 ∧ bits (t.nodeWord key 0) 4 3 = bits (s.nodeWord key 0) 4 3 + 1)
        ∧ (s.core.nodeErr = none → s.coreWritesOpen = true → waitsWith (.ndone a) s .reply)
        ∧ (∀ x l, s.core.nodeErr = none → s.coreWritesOpen = false → s.core.staging = x :: l → (∀ d, x.e.dest ≠ .die d) →
          ∃ t, exec (.ndone a) s = .next t ∧ t.core.sbuf = s.core.sbuf ++ [{ x.e with src := .ctx s.id x.ctx }] ∧ t.core.staging = l
            ∧ t.cx.st = .waiting .reply ∧ s.Holds t)
        ∧ (∀ x l d pa, s.core.nodeErr = none → s.coreWritesOpen = false → s.core.staging = x :: l → x.e.dest = .die d →
            s.translate (if x.e.body.isStore then .store else .amo) x.e.va = .ok pa →
          ∃ t, ∃ y : Entry, exec (.ndone a) s = .next t ∧ t.core.sbuf = s.core.sbuf ++ [y] ∧ y.body = x.e.body.atKey pa ∧ y.dest = homeOf pa
            ∧ y.src = .ctx s.id x.ctx ∧ t.core.staging = l ∧ t.cx.st = .waiting .reply ∧ s.Holds t))
    ∧ (∀ key, s.myNode (s.g a) = some key → s.cx.asked = true → s.core.nodeErr = none → s.core.staging = [] → s.coreWritesOpen = false → s.gate 5 4 = true → s.core.pushes = [] → s.successors key = [] →
        ∃ t, exec (.ndone a) s = .next t ∧ t.core.node = none ∧ bits (t.nodeWord key 0) 2 0 = 3 ∧ (∀ r, t.g r = s.g r) ∧ s.readyAt t (s.after (.ndone a))
          ∧ ∀ m, m < key ∨ key + 8 ≤ m → Memory.get t.mem m = Memory.get s.mem m)

/-- R184, R185, R16, R26: while no other context of the core holds the grant and no recall is posted. VCLAIM grants the most it can in steps of 8 lanes when that reaches the
least it accepts, and else answers 0 with the request pending, or with `.t` traps and leaves nothing behind (R9, R33: notes/assumptions/72.md); a protected request refused 4,160 cycles ago takes
lanes reserved for others and waits for the recalls (R187, notes/assumptions/71.md); VYIELD keeps the lowest lanes; VSETL sets VL to at most the grant. Another holder raises NOLANES. -/
def Claims.LaneInstructions : Prop :=
  ∀ (s : State) (tr : Bool) (d a : GReg),
    (∀ w l, claimArgs (s.g a) = some (w, l) → s.heldByOther = true → trapsWith (.vclaim tr d a) s 0x16 (BitVec.ofNat 64 w))
    ∧ (s.heldByOther = true → trapsWith (.vyield d) s 0x16 0 ∧ trapsWith (.vsetl d a) s 0x16 0)
    ∧ (claimArgs (s.g a) = none → s.heldByOther = true ∨ s.core.recallAt = none → trapsWith (.vclaim tr d a) s 0x01 (zext (Instr.first (.vclaim tr d a))))
    ∧ (s.heldByOther = false → s.core.recallAt = none →
        (∀ w l, claimArgs (s.g a) = some (w, l) →
          let n := 8 * (min w (s.freeLanes s.id + s.core.reserved + s.core.lanes) / 8)
          (l ≤ n → ∃ t, exec (.vclaim tr d a) s = .next t ∧ t.core.lanes = n ∧ t.core.holder = some s.core.k ∧ t.core.vsetl = BitVec.ofNat 64 n ∧ t.core.claim = none
              ∧ t.took d (BitVec.ofNat 64 n) ∧ s.Went t (.vclaim tr d a) d)
          ∧ (n < l → s.claimDue w l = false → tr = false → ∃ t, exec (.vclaim tr d a) s = .next t ∧ t.core.lanes = s.core.lanes ∧ t.core.claim = some (w, l) ∧ t.core.lastReq = w
              ∧ t.took d 0 ∧ s.Went t (.vclaim tr d a) d)
          ∧ (n < l → s.claimDue w l = false → tr = true → trapsWith (.vclaim tr d a) s 0x16 (BitVec.ofNat 64 w))
          ∧ (n < l → s.claimDue w l = true →
              let u := s.yieldReserved (l - s.lanesAvailable)
              (l ≤ u.claimable w → ∃ t, exec (.vclaim tr d a) s = .next t ∧ t.core.lanes = u.claimable w ∧ t.core.holder = some s.core.k ∧ t.took d (BitVec.ofNat 64 (u.claimable w))
                ∧ s.Went t (.vclaim tr d a) d)
              ∧ (u.claimable w < l → s.recallOpen s.id = true → waitsWith (.vclaim tr d a) s .operand)))
        ∧ (let n := (s.g d).toNat % 256
           n % 8 = 0 → n ≤ s.core.lanes → ∃ t, exec (.vyield d) s = .next t ∧ t.core.lanes = n ∧ t.core.claim = none
             ∧ (n = 0 → t.core.holder = none) ∧ s.Went t (.vyield d) 0)
        ∧ ((s.g d).toNat % 256 % 8 ≠ 0 ∨ s.core.lanes < (s.g d).toNat % 256 → trapsWith (.vyield d) s 0x01 (zext (Instr.first (.vyield d))))
        ∧ ∃ t, exec (.vsetl d a) s = .next t ∧ t.core.vsetl = BitVec.ofNat 64 (min (s.g a).toNat s.core.lanes)
            ∧ t.took d (BitVec.ofNat 64 (min (s.g a).toNat s.core.lanes)) ∧ s.Went t (.vsetl d a) d)

/-- R186: a recall posted 4,096 cycles ago cuts the grant to the core's share, once no vector instruction of the holder is in progress; a reservation that has stood
full for 8,192 cycles lapses, and its request with it (the model's choice, notes/assumptions/73.md). -/
def Claims.LaneTimeouts : Prop :=
  ∀ (s : State) (c : Nat),
    (s.core.recallAt = some c → 4096 ≤ s.cy - c → s.vectorBusy s.id = false → ∃ t, exec (.recallTimeout s.id) s = .next t ∧ t.core.recallAt = none
      ∧ t.core.lanes = min s.core.lanes (s.laneShare s.id) ∧ s.Holds t)
    ∧ (s.core.reservedAt = some c → 8192 ≤ s.cy - c → ∃ t, exec (.reservationLapse s.id) s = .next t ∧ t.core.claim = none ∧ t.core.reserved = 0 ∧ s.Holds t)

/-! ## Vector instructions (spec/08_vector.md R188–R212) -/

/-- No enabled exception bit is newly set by these flags (R21). -/
abbrev quietFlags (s : State) (f : Fl) : Prop := s.cx.newFlags f &&& word (bits s.cx.arith 10 5) = 0

/-- The results on their way after an instruction whose result is `vals`, due `n` cycles after issue; no value, no result. -/
def withResult (s : State) (d : Dest) (vals : List Word) (n : Nat) : List Pending :=
  if vals = [] then s.cx.pend else s.cx.pend ++ [⟨d, vals, s.cy + n⟩]

/-- The result of an instruction for g(d): none for g0, a write to which is discarded (R12). -/
def toG (d : GReg) (v : Word) : List Word := if d = 0 then [] else [v]

/-- A computing instruction completes (R190, R169, R170): its result is on its way, its flags are merged, nothing else changes; when an
enabled flag is newly set, FPEXC is taken at it with the result and the flags already there (R21, R33; that EPC is the instruction's: notes/assumptions/10.md). -/
def computes (i : Instr) (s : State) (d : Dest) (vals : List Word) (f : Fl) (n : Nat) : Prop :=
  (quietFlags s f → ∃ t, exec i s = .next t ∧ t.cx.pend = withResult s d vals n ∧ t.cx.fflags = s.cx.fflags ||| f.bits ∧ (∀ r, t.g r = s.g r)
    ∧ s.readyAt t (s.after i) ∧ (s.setCx { s.cx with pend := t.cx.pend, fflags := t.cx.fflags }).RegsOnly t)
  ∧ (¬ quietFlags s f → ∃ u : State, exec i s = .next (u.trapEntry 0x15 0 false (s.cx.newFlags f)) ∧ u.cx.pend = withResult s d vals n
    ∧ u.cx.fflags = s.cx.fflags ||| f.bits ∧ u.cx.pc = s.cx.pc ∧ (∀ r, u.g r = s.g r))

/-- Lane i of a second operand: of a v register, or the low half of a g register in every lane (R190). -/
def operandLane (s : State) (b : VSrc) (i : Nat) : Lane := match b with | .v r => s.lane r i | .g r => BitVec.ofNat 32 (s.g r).toNat

/-- The lanes `f 0` to `f (VL − 1)`, each without flags, reach v(d) n cycles after issue. -/
def laneResult (i : Instr) (s : State) (d : VReg) (n : Nat) (f : Nat → Lane) : Prop :=
  computes i s (.v d) ((List.range s.core.vsetl.toNat).map fun j => zext (f j)) Fl.none n

/-- Lanes with flags. -/
def laneResultFl (i : Instr) (s : State) (d : VReg) (n : Nat) (f : Nat → Lane × Fl) : Prop :=
  computes i s (.v d) ((List.range s.core.vsetl.toNat).map fun j => zext (f j).1) (flagsOf ((List.range s.core.vsetl.toNat).map f)) n

/-- The lane of a loaded element (R191). -/
def loadedLane (size : Nat) (signed : Bool) (v : Nat) : Lane :=
  if signed then BitVec.ofInt 32 (Int.bmod v (2 ^ (8 * size))) else BitVec.ofNat 32 v

/-- A vector load of these lane addresses: when all lie in the own data of the core, the lanes reach v(d) 3 cycles after issue; when one is homed
elsewhere, or an acquiring ORD has each of several elements wait for the one before, the context waits with kind REPLY, no element served yet. -/
def loadsLanes (i : Instr) (s : State) (e : Eff) (w : VLdWidth) (d : VReg) (addr : Nat → Word) : Prop :=
  let n := s.core.vsetl.toNat
  let size := vldBytes w
  (∀ ks, s.checkAll .load e.space ((List.range n).map fun j => (addr j, size)) = .ok ks →
    (ks.all fun p => homeOf p.2.2 == .core s.id) = false ∨ (ordAcquires e.ord = true ∧ 1 < n) →
    ∃ t x, exec i s = .next t ∧ t.cx.st = .waiting .reply ∧ t.cx.await = some x ∧ x.els = ks.map (fun p => ⟨p.2.2, p.1, p.2.1, .asked⟩)
      ∧ x.fin = .vload d size (vldSigned w) ∧ s.Holds t)
  ∧ ((ordAcquires e.ord = false ∨ n ≤ 1) → (∀ j, j < n → s.ownData (addr j) size ∧ s.servedHere (s.ownKey (addr j)) size ∧ s.poisoned (s.ownKey (addr j)) size = false) →
    ∃ t, exec i s = .next t ∧ s.Went t i 0 ∧ t.core = s.core
      ∧ t.cx.pend = withResult s (.v d) ((List.range n).map fun j => zext (loadedLane size (vldSigned w) (s.peekN (s.ownKey (addr j)) size))) 3)

/-- A vector store of these lane addresses: the low bytes of the lanes enter the store buffer in increasing lane order; under CHK the context then waits
for the acknowledgements. -/
def storesLanes (i : Instr) (s : State) (e : Eff) (w : VStWidth) (d : VReg) (addr : Nat → Word) : Prop :=
  let n := s.core.vsetl.toNat
  let size := vstBytes w
  ∀ ks, s.checkAll .store e.space ((List.range n).map fun j => (addr j, size)) = .ok ks →
    ∃ t, ∃ es : List Entry, exec i s = .next t ∧ (e.chk = false ∨ n = 0 → s.Went t i 0) ∧ (e.chk = true → n ≠ 0 → t.cx.st = .waiting .reply ∧ s.Holds t)
      ∧ t.core.sbuf = s.core.sbuf ++ es
      ∧ es.map (·.body) = List.zipWith (fun k j => Body.store k.2.2 size ((s.lane d j).toNat % 256 ^ size)) ks (List.range n)

/-- R191, R192, R190, R130: the vector loads, and the vector stores outside a Running node. -/
def Claims.VectorMemory : Prop :=
  ∀ (s : State) (p : Option Mods) (w : VLdWidth) (v : VStWidth) (d x : VReg) (a b : GReg) (disp : BitVec 24), s.noLanes = false →
    let base := addressX s a disp
    (∀ e, effOf .load p s.cx.memdef = some e → spaceOk e.space .loc = true → s.gate e.ord e.scope = true →
      loadsLanes (.vld p w d a disp) s e w d (fun j => base + BitVec.ofNat 64 (j * vldBytes w))
      ∧ loadsLanes (.vlds p w d b a disp) s e w d (fun j => base + BitVec.ofNat 64 j * s.g b)
      ∧ loadsLanes (.vgath p w d x a disp) s e w d (fun j => base + BitVec.ofInt 64 ((s.lane x j).toInt * vldBytes w)))
    ∧ (∀ e, effOf .store p s.cx.memdef = some e → s.gate e.ord e.scope = true → s.core.node = none →
      storesLanes (.vst p v d a disp) s e v d (fun j => base + BitVec.ofNat 64 (j * vstBytes v))
      ∧ storesLanes (.vsts p v d b a disp) s e v d (fun j => base + BitVec.ofNat 64 j * s.g b)
      ∧ storesLanes (.vscat p v d x a disp) s e v d (fun j => base + BitVec.ofInt 64 ((s.lane x j).toInt * vstBytes v)))

/-- R188: without lanes a vector instruction raises NOLANES with TVAL 0. -/
def Claims.VectorsNeedLanes : Prop :=
  ∀ (s : State) (p : Option Mods) (w : VLdWidth) (v : VStWidth) (d x y z : VReg) (a b : GReg) (o : VSrc) (disp : BitVec 24) (sat u : Bool), s.noLanes = true →
    ∀ i ∈ [Instr.vld p w d a disp, .vst p v d a disp, .vlds p w d b a disp, .vsts p v d b a disp, .vgath p w d x a disp, .vscat p v d x a disp,
      .vbcast d a, .vmovg a x b, .vmovgSet d a b, .vadd sat u d x o, .vsub sat u d x o, .vmul d x o, .vmulh u d x o, .vmin u d x o, .vmax u d x o,
      .vand d x o, .vor d x o, .vxor d x o, .vshl d x o, .vshr d x o, .vsra d x o, .vsel d x y z, .vfadd d x o, .vfsub d x o, .vfmul d x o,
      .vfma d x o y, .vfmin d x o, .vfmax d x o, .vrcp d x, .vrsq d x, .vexp2 d x, .vlog2 d x, .vsig d x, .vidot sat u d x y z, .vdotr a x y b,
      .vamax a x, .vperm d x y], trapsWith i s 0x16 0

/-- A sum or difference in the lanes of a saturating form: the clamped value, SV in the lanes that clamp (R194, R102). -/
def clampedLane (lo hi v : Int) : Lane × Fl := (BitVec.ofInt 32 (max lo (min hi v)), if lo ≤ v ∧ v ≤ hi then Fl.none else { Fl.none with sv := true })

/-- R194: the integer element operations, 2 cycles after issue. -/
def Claims.VectorIntegerResults : Prop :=
  ∀ (s : State) (d a : VReg) (b : VSrc), s.noLanes = false →
    let x := s.lane a
    let y := operandLane s b
    let k := fun j => (y j).toNat % 32
    (∀ z, laneResult (.vadd false z d a b) s d 2 (fun j => BitVec.ofNat 32 ((x j).toNat + (y j).toNat))
      ∧ laneResult (.vsub false z d a b) s d 2 (fun j => BitVec.ofInt 32 (((x j).toNat : Int) - (y j).toNat)))
    ∧ laneResultFl (.vadd true false d a b) s d 2 (fun j => clampedLane (-(2 ^ 31)) (2 ^ 31 - 1) ((x j).toInt + (y j).toInt))
    ∧ laneResultFl (.vsub true false d a b) s d 2 (fun j => clampedLane (-(2 ^ 31)) (2 ^ 31 - 1) ((x j).toInt - (y j).toInt))
    ∧ laneResultFl (.vadd true true d a b) s d 2 (fun j => clampedLane 0 (2 ^ 32 - 1) ((x j).toNat + (y j).toNat))
    ∧ laneResultFl (.vsub true true d a b) s d 2 (fun j => clampedLane 0 (2 ^ 32 - 1) ((x j).toNat - (y j).toNat))
    ∧ laneResult (.vmul d a b) s d 2 (fun j => BitVec.ofNat 32 ((x j).toNat * (y j).toNat))
    ∧ laneResult (.vmulh false d a b) s d 2 (fun j => BitVec.ofInt 32 ((x j).toInt * (y j).toInt / 2 ^ 32))
    ∧ laneResult (.vmulh true d a b) s d 2 (fun j => BitVec.ofNat 32 ((x j).toNat * (y j).toNat / 2 ^ 32))
    ∧ laneResult (.vmin false d a b) s d 2 (fun j => if (x j).toInt ≤ (y j).toInt then x j else y j)
    ∧ laneResult (.vmin true d a b) s d 2 (fun j => if (x j).toNat ≤ (y j).toNat then x j else y j)
    ∧ laneResult (.vmax false d a b) s d 2 (fun j => if (x j).toInt ≤ (y j).toInt then y j else x j)
    ∧ laneResult (.vmax true d a b) s d 2 (fun j => if (x j).toNat ≤ (y j).toNat then y j else x j)
    ∧ laneResult (.vand d a b) s d 2 (fun j => x j &&& y j) ∧ laneResult (.vor d a b) s d 2 (fun j => x j ||| y j)
    ∧ laneResult (.vxor d a b) s d 2 (fun j => x j ^^^ y j)
    ∧ laneResult (.vshl d a b) s d 2 (fun j => BitVec.ofNat 32 ((x j).toNat * 2 ^ k j))
    ∧ laneResult (.vshr d a b) s d 2 (fun j => BitVec.ofNat 32 ((x j).toNat / 2 ^ k j))
    ∧ laneResult (.vsra d a b) s d 2 (fun j => BitVec.ofInt 32 ((x j).toInt / 2 ^ k j))

/-- R193, R195: moves, permutes, comparison and selection, 2 cycles after issue. -/
def Claims.VectorMovesAndSelection : Prop :=
  ∀ (s : State) (d x y z : VReg) (a b dg : GReg) (o : VSrc) (k : BitVec 8), s.noLanes = false →
    let n := s.core.vsetl.toNat
    let idx := (s.g b).toNat
    let low (r : GReg) : Lane := BitVec.ofNat 32 (s.g r).toNat
    let slide (fill : Lane) (j : Nat) : Lane := let m : Int := (j : Int) + k.toInt; if 0 ≤ m ∧ m < n then s.lane x m.toNat else fill
    let test (c : Bool) : Lane := if c then 0xFFFFFFFF else 0
    laneResult (.vbcast d a) s d 2 (fun _ => low a)
    ∧ (idx < n → computes (.vmovg dg x b) s (.g dg) (toG dg (BitVec.ofInt 64 (s.lane x idx).toInt)) Fl.none 2
        ∧ laneResult (.vmovgSet d a b) s d 2 (fun j => if j = idx then low a else s.lane d j))
    ∧ (n ≤ idx → trapsWith (.vmovg dg x b) s 0x01 (zext (Instr.first (.vmovg dg x b)))
        ∧ trapsWith (.vmovgSet d a b) s 0x01 (zext (Instr.first (.vmovgSet d a b))))
    ∧ laneResult (.vperm d x y) s d 2 (fun j => if (s.lane y j).toNat < n then s.lane x (s.lane y j).toNat else 0)
    ∧ laneResult (.vslide none d x k) s d 2 (slide 0) ∧ laneResult (.vslide (some a) d x k) s d 2 (slide (low a))
    ∧ laneResult (.vsel d x y z) s d 2 (fun j => if s.lane z j ≠ 0 then s.lane x j else s.lane y j)
    ∧ laneResult (.vcmp .eq d x o) s d 2 (fun j => test (decide (s.lane x j = operandLane s o j)))
    ∧ laneResult (.vcmp .ne d x o) s d 2 (fun j => test (decide (s.lane x j ≠ operandLane s o j)))
    ∧ laneResult (.vcmp .lt d x o) s d 2 (fun j => test (decide ((s.lane x j).toInt < (operandLane s o j).toInt)))
    ∧ laneResult (.vcmp .ge d x o) s d 2 (fun j => test (decide ((s.lane x j).toInt ≥ (operandLane s o j).toInt)))
    ∧ laneResult (.vcmp .ltZ d x o) s d 2 (fun j => test (decide ((s.lane x j).toNat < (operandLane s o j).toNat)))
    ∧ laneResult (.vcmp .geZ d x o) s d 2 (fun j => test (decide ((s.lane x j).toNat ≥ (operandLane s o j).toNat)))
    ∧ (∀ cc, laneResultFl (.vcmp cc d x o) s d 2 (fun j => (test (cmpLane cc (s.lane x j) (operandLane s o j)).1, (cmpLane cc (s.lane x j) (operandLane s o j)).2)))

/-- R168: rounding of m / 2^sh to a whole number by each mode, and when it is inexact. -/
def Claims.RoundingModes : Prop :=
  ∀ (neg : Bool) (m sh : Nat), 0 < sh →
    let r (rm : Rm) : Nat := (roundQ rm neg m 0 sh).1
    (∀ rm, (roundQ rm neg m 0 sh).2 = decide (m % 2 ^ sh ≠ 0))
    ∧ r .rtz = m / 2 ^ sh
    ∧ r .rup = (if neg ∨ m % 2 ^ sh = 0 then m / 2 ^ sh else m / 2 ^ sh + 1)
    ∧ r .rdn = (if neg ∧ m % 2 ^ sh ≠ 0 then m / 2 ^ sh + 1 else m / 2 ^ sh)
    ∧ 2 * (r .rne * 2 ^ sh) ≤ 2 * m + 2 ^ sh ∧ 2 * m ≤ 2 * (r .rne * 2 ^ sh) + 2 ^ sh
    ∧ (2 * (m % 2 ^ sh) = 2 ^ sh → r .rne % 2 = 0)

/-- R160, R168: a binary32 number that is neither infinite nor a NaN is rounded to itself, without flags. -/
def Claims.RoundingKeepsRepresentable : Prop :=
  ∀ (rm : Rm) (sat : Bool) (x : Nat), x < 2 ^ 32 → x % 2 ^ 31 < 0x7F800000 → f32.ofFp rm sat (f32.decode x) = (x, Fl.none)

/-- A unary floating operation, 12 cycles after issue. -/
def unaryResult (i : Instr) (s : State) (d a : VReg) (f : Rm → Nat → Nat × Fl) : Prop :=
  laneResultFl i s d 12 fun j => let r := f s.cx.rm (s.lane a j).toNat; (BitVec.ofNat 32 r.1, r.2)

/-- R196, R197: the floating element operations: sum, difference, product and fused product of the binary32 lanes under ARITH.RM, minimum and maximum,
4 cycles after issue, and the unary functions, 12 cycles after issue. -/
def Claims.VectorFloatResults : Prop :=
  ∀ (s : State) (d a c : VReg) (b : VSrc), s.noLanes = false →
    let x := fun j => (s.lane a j).toNat
    let y := fun j => (operandLane s b j).toNat
    let out (r : Nat × Fl) : Lane × Fl := (BitVec.ofNat 32 r.1, r.2)
    laneResultFl (.vfadd d a b) s d 4 (fun j => out (f32.add s.cx.rm (x j) (y j)))
    ∧ laneResultFl (.vfsub d a b) s d 4 (fun j => out (f32.sub s.cx.rm (x j) (y j)))
    ∧ laneResultFl (.vfmul d a b) s d 4 (fun j => out (f32.mul s.cx.rm (x j) (y j)))
    ∧ laneResultFl (.vfma d a b c) s d 4 (fun j => out (f32.fma s.cx.rm (x j) (y j) (s.lane c j).toNat))
    ∧ laneResultFl (.vfmin d a b) s d 4 (fun j => out (f32.minMax false (x j) (y j)))
    ∧ laneResultFl (.vfmax d a b) s d 4 (fun j => out (f32.minMax true (x j) (y j)))
    ∧ unaryResult (.vrcp d a) s d a rcp32 ∧ unaryResult (.vrsq d a) s d a rsq32 ∧ unaryResult (.vexp2 d a) s d a exp2_32
    ∧ unaryResult (.vlog2 d a) s d a log2_32 ∧ unaryResult (.vsig d a) s d a sig32

/-- A wide lane of w(r). -/
def wideLane (s : State) (r : WReg) (j : Nat) : Word := s.core.w[r.toFin].getD j 0

/-- The sum of the products of the four bytes of two lanes, signed or unsigned (R200). -/
def byteDot (z : Bool) (x y : Lane) : Int :=
  ((List.range 4).map fun k =>
    let u := BitVec.ofNat 8 (x.toNat / 256 ^ k)
    let v := BitVec.ofNat 8 (y.toNat / 256 ^ k)
    if z then (u.toNat : Int) * v.toNat else u.toInt * v.toInt).sum

/-- R198, R199, R200: the wide accumulators and the integer dot product. (The 2 cycles of VWCLR: notes/assumptions/69.md.) -/
def Claims.WideAndIntegerDotResults : Prop :=
  ∀ (s : State) (d a b c : VReg) (w : WReg) (m : NarrowMode) (sh : BitVec 6) (z : Bool), s.noLanes = false →
    let n := s.core.vsetl.toNat
    let x := s.lane a
    let y := s.lane b
    let prod (j : Nat) : Int := if z then ((x j).toNat : Int) * (y j).toNat else (x j).toInt * (y j).toInt
    let wideRes (i : Instr) (k : Nat) (f : Nat → Word × Fl) : Prop := computes i s (.w w) ((List.range n).map fun j => (f j).1) (flagsOf ((List.range n).map f)) k
    let clamp64 (v : Int) : Word × Fl := (BitVec.ofInt 64 (max (-(2 ^ 63)) (min (2 ^ 63 - 1) v)), if -(2 ^ 63) ≤ v ∧ v ≤ 2 ^ 63 - 1 then Fl.none else { Fl.none with sv := true })
    wideRes (.vmacw false z w a b) 4 (fun j => (BitVec.ofInt 64 ((wideLane s w j).toInt + prod j), Fl.none))
    ∧ wideRes (.vmacw true z w a b) 4 (fun j => clamp64 ((wideLane s w j).toInt + prod j))
    ∧ wideRes (.vfmacw w a b) 4 (fun j => let r := f64.fmaV s.cx.rm (f32.decode (x j).toNat) (f32.decode (y j).toNat) (f64.decode (wideLane s w j).toNat); (BitVec.ofNat 64 r.1, r.2))
    ∧ wideRes (.vwclr w) 2 (fun _ => (0, Fl.none))
    ∧ laneResultFl (.vnarrow m d w sh) s d 4 (fun j => narrowLane s.cx m sh.toNat (wideLane s w j))
    ∧ laneResult (.vidot false z d a b c) s d 4 (fun j => BitVec.ofInt 32 ((s.lane c j).toInt + byteDot z (x j) (y j)))
    ∧ laneResultFl (.vidot true z d a b c) s d 4 (fun j => clampedLane (-(2 ^ 31)) (2 ^ 31 - 1) ((s.lane c j).toInt + byteDot z (x j) (y j)))

/-- R180, R181, R201, R202: the dot products. With FPORD clear VFDOT adds the two terms of a lane in the two chains, VFDOT.C keeps the chains apart, VDOTR sums
the lanes; with FPORD set VFDOT adds the sum of the two rounded products to the lane, VDOTR sums by the tree; VFDOT.C is ILLEGAL for an odd D or under FPORD. -/
def Claims.FloatDotResults : Prop :=
  ∀ (s : State) (h : Bool) (d a b c : VReg) (dg cg : GReg), s.noLanes = false →
    let n := s.core.vsetl.toNat
    let dec (v : Nat) : Fp := (if h then f16 else bf16).decode v
    let lo (r : VReg) (j : Nat) : Fp := dec ((s.lane r j).toNat % 65536)
    let hi (r : VReg) (j : Nat) : Fp := dec ((s.lane r j).toNat / 65536)
    let fma (x y : Fp) (z : Nat) : Nat × Fl := f32.fmaV s.cx.rm x y (f32.decode z)
    (s.cx.fpord = false →
      laneResultFl (.vfdot h d a b c) s d 4 (fun j =>
        let e := fma (lo a j) (lo b j) (s.lane c j).toNat
        let o := fma (hi a j) (hi b j) 0
        let r := f32.add s.cx.rm e.1 o.1
        (BitVec.ofNat 32 r.1, Fl.or (Fl.or e.2 o.2) r.2))
      ∧ (let l := (List.range n).map fun j => (f32.decode (s.lane a j).toNat, f32.decode (s.lane b j).toNat)
          let r := if n = 0 then ((s.g cg).toNat % 2 ^ 32, Fl.none) else dotMain f32 s.cx.rm ((s.g cg).toNat % 2 ^ 32) l
          computes (.vdotr dg a b cg) s (.g dg) (toG dg (BitVec.ofNat 64 r.1)) r.2 8)
      ∧ (bit d 0 = false → n ≠ 0 →
          let ev := (List.range n).map fun j => fma (lo a j) (lo b j) (s.lane d j).toNat
          let od := (List.range n).map fun j => fma (hi a j) (hi b j) (s.lane (d + 1) j).toNat
          let f := Fl.or (ev.foldl (fun f p => Fl.or f p.2) Fl.none) (od.foldl (fun f p => Fl.or f p.2) Fl.none)
          quietFlags s f → ∃ t, exec (.vfdotC h d a b) s = .next t ∧ t.cx.fflags = s.cx.fflags ||| f.bits
            ∧ t.cx.pend = s.cx.pend ++ [⟨.v d, ev.map fun p => BitVec.ofNat 64 (p.1 % 2 ^ 32), s.cy + 4⟩, ⟨.v (d + 1), od.map fun p => BitVec.ofNat 64 (p.1 % 2 ^ 32), s.cy + 4⟩]
            ∧ (∀ r, t.g r = s.g r) ∧ s.readyAt t (s.after (.vfdotC h d a b)) ∧ t.core = s.core ∧ ∀ k, Memory.get t.mem k = Memory.get s.mem k))
    ∧ (s.cx.fpord = true →
      laneResultFl (.vfdot h d a b c) s d 4 (fun j =>
        let p := f32.mulV s.cx.rm (lo a j) (lo b j)
        let q := f32.mulV s.cx.rm (hi a j) (hi b j)
        let t := f32.add s.cx.rm p.1 q.1
        let r := f32.add s.cx.rm (s.lane c j).toNat t.1
        (BitVec.ofNat 32 r.1, Fl.or (Fl.or p.2 q.2) (Fl.or t.2 r.2)))
      ∧ (let l := (List.range n).map fun j => (f32.decode (s.lane a j).toNat, f32.decode (s.lane b j).toNat)
          let r := if n = 0 then ((s.g cg).toNat % 2 ^ 32, Fl.none) else dotTree f32 s.cx.rm ((s.g cg).toNat % 2 ^ 32) l
          computes (.vdotr dg a b cg) s (.g dg) (toG dg (BitVec.ofNat 64 r.1)) r.2 8))
    ∧ (s.cx.fpord = true ∨ bit d 0 = true → trapsWith (.vfdotC h d a b) s 0x01 (zext (Instr.first (.vfdotC h d a b))))

/-- R203, R207: VCVT converts every lane; VAMAX gives the largest binary32 magnitude, with NV for a signalling NaN lane. (AMAX of the `.amax` form: R175; that it
stays with VL = 0 is the model's choice, notes/assumptions/70.md.) -/
def Claims.ConversionsAndAmax : Prop :=
  ∀ (s : State) (y x : VFmt) (d a : VReg) (dg : GReg), s.noLanes = false →
    let n := s.core.vsetl.toNat
    let mags := (List.range n).map fun j => (s.lane a j).toNat % 2 ^ 31
    let nv := if (List.range n).any fun j => (f32.decode (s.lane a j).toNat).signals then Fl.invalid else Fl.none
    laneResultFl (.vcvt false y x d a) s d 4 (fun j => cvtLane s.cx y x (s.lane a j))
    ∧ (n ≠ 0 → quietFlags s (flagsOf ((List.range n).map fun j => cvtLane s.cx y x (s.lane a j))) →
        ∃ t, exec (.vcvt true y x d a) s = .next t ∧ t.cx.amax = (s.cx.updateAmax ((s.lanesOf a n).map (fmtValue x))).amax
          ∧ t.cx.pend = s.cx.pend ++ [⟨.v d, (List.range n).map fun j => zext (cvtLane s.cx y x (s.lane a j)).1, s.cy + 4⟩]
          ∧ (∀ r, t.g r = s.g r) ∧ s.readyAt t (s.after (.vcvt true y x d a)) ∧ ∀ k, Memory.get t.mem k = Memory.get s.mem k)
    ∧ (n = 0 → completesAt (.vcvt true y x d a) s (s.after (.vcvt true y x d a)))
    ∧ (((∃ m ∈ mags, 0x7F800000 < m) → s.cx.amaxnan = true → computes (.vamax dg a) s (.g dg) (toG dg 0x7FC00000) nv 8)
        ∧ (((∀ m ∈ mags, m ≤ 0x7F800000) ∨ s.cx.amaxnan = false) →
            ∃ v, computes (.vamax dg a) s (.g dg) (toG dg (BitVec.ofNat 64 v)) nv 8 ∧ (v = 0 ∨ v ∈ mags) ∧ v ≤ 0x7F800000 ∧ ∀ m ∈ mags, m ≤ 0x7F800000 → m ≤ v))

/-- An integer operation of VRED and VSCAN on lanes. -/
def intLane (op : RedOp) (x y : Lane) : Lane :=
  match op with
  | .add => BitVec.ofNat 32 (x.toNat + y.toNat)
  | .min => if x.toInt ≤ y.toInt then x else y
  | .max => if x.toInt ≤ y.toInt then y else x
  | .minZ => if x.toNat ≤ y.toNat then x else y
  | .maxZ => if x.toNat ≤ y.toNat then y else x
  | .and => x &&& y
  | .or => x ||| y
  | .xor => x ^^^ y
  | _ => 0

/-- R208, R209: VRED and VSCAN, 8 cycles after issue: the 64-bit sum of the signed lanes, the smallest, the largest; every inclusive prefix. -/
def Claims.ReductionsWithinACore : Prop :=
  ∀ (s : State) (op : RedOp) (d : GReg) (v a : VReg), s.noLanes = false →
    let n := s.core.vsetl.toNat
    let x := s.lane a
    (computes (.vred .add d a) s (.g d) (toG d (BitVec.ofInt 64 ((List.range n).map fun j => (x j).toInt).sum)) Fl.none 8
      ∧ (0 < n → ∃ m : Int, computes (.vred .min d a) s (.g d) (toG d (BitVec.ofInt 64 m)) Fl.none 8 ∧ (∃ j, j < n ∧ m = (x j).toInt) ∧ ∀ j, j < n → m ≤ (x j).toInt)
      ∧ (0 < n → ∃ m : Nat, computes (.vred .maxZ d a) s (.g d) (toG d (BitVec.ofNat 64 m)) Fl.none 8 ∧ (∃ j, j < n ∧ m = (x j).toNat) ∧ ∀ j, j < n → (x j).toNat ≤ m)
      ∧ computes (.vred op d a) s (.g d) (toG d (redLanes s.cx.rm op (s.lanesOf a n)).1) (redLanes s.cx.rm op (s.lanesOf a n)).2 8)
    ∧ (redFloat op = false → ∃ r : Nat → Lane, laneResult (.vscan op v a) s v 8 r ∧ (0 < n → r 0 = x 0) ∧ ∀ j, j + 1 < n → r (j + 1) = intLane op (r j) (x (j + 1)))
    ∧ computes (.vscan op v a) s (.v v) ((scanLanes s.cx.rm op (s.lanesOf a n)).map fun p => zext p.1) (flagsOf (scanLanes s.cx.rm op (s.lanesOf a n))) 8

/-- R210, R212: VNRED starts with the own lanes as the core's partial and waits with kind BARRIER; it ends when its partial has gone; a context in no domain above core
level is ILLEGAL. VNRED_COMBINE at a core with a partial to take, to send or to write; VNRED_TIMEOUT, while a child has not
sent and no halt of the tray stops it, raises BARTIME with TVAL 6, but of a member with VL = 0 does nothing (notes/assumptions/91.md). -/
def Claims.InNetworkReduction : Prop :=
  ∀ (s : State) (op : NredOp) (e : Bool) (d a b c : VReg), s.noLanes = false →
    let n := s.core.vsetl.toNat
    let lanes := (List.range n).map fun j => if op = .add then BitVec.ofInt 64 (s.lane a j).toInt else BitVec.ofNat 64 (s.lane a j).toNat
    (bits s.cx.domain 2 0 < 2 → trapsWith (.vnred op d a) s 0x01 (zext (Instr.first (.vnred op d a)))
      ∧ trapsWith (.vnredMx e d a b c) s 0x01 (zext (Instr.first (.vnredMx e d a b c))))
    ∧ (2 ≤ bits s.cx.domain 2 0 → s.cx.arrived = false →
        (∃ t v, exec (.vnred op d a) s = .next t ∧ t.core.vnred = some v ∧ v.own.lanes = lanes ∧ v.own.vl = n ∧ v.own.op = nredCode op ∧ v.d = d ∧ v.t0 = s.cy
          ∧ t.cx.st = .waiting .barrier ∧ t.cx.arrived = true ∧ s.Holds t)
        ∧ (n ≠ 0 → n % 8 = 0 → d ≠ c → ∃ t v, exec (.vnredMx e d a b c) s = .next t ∧ t.core.vnred = some v ∧ v.own.op = 6
          ∧ v.own.lanes = (List.range n).map (fun j => zext (s.lane a j)) ∧ v.own.scales = (List.range (n / 8)).map (fun j => zext (s.lane b j)) ∧ v.d = d ∧ v.c = c
          ∧ t.cx.st = .waiting .barrier ∧ t.cx.arrived = true ∧ s.Holds t))
    ∧ (2 ≤ bits s.cx.domain 2 0 → s.cx.arrived = true → s.core.vnred = none →
        completesAt (.vnred op d a) s (s.cx.pc + 8) ∧ (n ≠ 0 → n % 8 = 0 → d ≠ c → completesAt (.vnredMx e d a b c) s (s.cx.pc + 8)))
    ∧ (∀ v, s.core.vnred = some v → s.core.holder = some s.core.k → s.cx.st = .waiting .barrier → s.treeParent s.id (rectOf s.cx.domain) = none → v.own.op ≠ 0 → v.own.op ≠ 6 →
        v.own.flags = 0 → s.needEast v = false → s.needSouth v = false →
        ∃ t, exec (.vnredCombine s.id) s = .next t ∧ t.core.vnred = none ∧ t.cx.st = .ready ∧ t.cx.pc = s.cx.pc + 8 ∧ (∀ r, t.g r = s.g r)
          ∧ (∀ j, j < v.own.lanes.length → j < s.core.lanes → t.lane v.d j = (v.own.lanes.getD j 0).setWidth 32) ∧ ∀ k, Memory.get t.mem k = Memory.get s.mem k)
    ∧ (∀ v x, s.core.vnred = some v → s.core.holder = some s.core.k → s.needEast v = true → s.core.early = [(true, x)] →
        ∃ t, exec (.vnredCombine s.id) s = .next t ∧ t.core.vnred = some { v with own := combinePartials v.sat v.own x, gotEast := true } ∧ t.core.early = [] ∧ s.Holds t)
    ∧ (∀ v, s.core.vnred = some v → s.core.holder = some s.core.k → s.cx.st = .waiting .barrier → s.childLate v = true → v.own.vl ≠ 0 → s.suspended s.id = false →
        s.cx.barrierLimit ≤ s.cy - v.t0 → s.cx.super = false → s.cx.inPhlx = false →
        ∃ t, exec (.vnredTimeout s.id) s = .next t ∧ t.core.vnred = none ∧ t.cx.cause = 0x0F ∧ t.cx.tval = 6 ∧ t.cx.epc = zext s.cx.pc ∧ (∀ r, t.g r = s.g r)
          ∧ ∀ k, Memory.get t.mem k = Memory.get s.mem k)
    ∧ (∀ v, s.core.vnred = some v → v.own.vl = 0 → ∃ t, exec (.vnredTimeout s.id) s = .next t ∧ t.core.vnred = some v ∧ s.Holds t)

/-- The stores of a tensor form outside a Running node: the listed units enter the store buffer in order; without CHK flags and AMAX follow at once, with it
when the acknowledgements the context waits for have arrived. -/
def tensorStores (i : Instr) (s : State) (ws : List (Word × Nat × Nat)) (f : Fl) (amax : Word) : Prop :=
  ∀ e ks, effOf .store none s.cx.memdef = some e → s.core.node = none → s.gate e.ord e.scope = true →
    s.checkAll .store e.space (ws.map fun w => (w.1, w.2.1)) = .ok ks →
    let enters (t : State) : Prop := ∃ es : List Entry, t.core.sbuf = s.core.sbuf ++ es
      ∧ es.map (·.body) = List.zipWith (fun k w => Body.store k.2.2 w.2.1 w.2.2) ks ws
    (e.chk = false → quietFlags s f →
      ∃ t, exec i s = .next t ∧ enters t ∧ t.cx.fflags = s.cx.fflags ||| f.bits ∧ t.cx.amax = amax ∧ (∀ r, t.g r = s.g r) ∧ s.readyAt t (s.after i)
        ∧ ∀ k, Memory.get t.mem k = Memory.get s.mem k)
    ∧ (e.chk = true → ws ≠ [] →
      ∃ t y, exec i s = .next t ∧ enters t ∧ t.cx.st = .waiting .reply ∧ t.cx.await = some y ∧ y.fin = .ackFl f.bits.toNat (some amax)
        ∧ t.cx.amax = s.cx.amax ∧ s.Holds t)

/-- Block j of a conversion into MX elements: scale, elements, flags. -/
def mxBlock (s : State) (x : Tensor) (b : Blk) (d : VReg) (k0 j : Nat) : Nat × List Nat × Fl := b.convert s.cx.sat (s.blockIn d x k0 j)
/-- What VCVT.MX stores for nb blocks: the units of the elements, then the scale bytes. -/
def mxUnits (s : State) (x : Tensor) (b : Blk) (d : VReg) (row k0 nb : Nat) : List (Word × Nat × Nat) :=
  ((List.range nb).flatMap fun j =>
    (unitsOf (elemBits x.fmt) (pad32 (mxBlock s x b d k0 j).2.1)).map fun u => (x.elemAddr row (k0 + 32 * j) + BitVec.ofNat 64 (4 * u.1), 4, u.2))
  ++ (List.range nb).map fun j => (x.scaleAddr row (k0 + 32 * j), 1, (mxBlock s x b d k0 j).1)
/-- Block j of a conversion into BNI planes. -/
def bniBlock (s : State) (x : Tensor) (d : VReg) (k0 j : Nat) : Nat × List Nat × Fl := bniConvert s.cx.sat x.sbase (s.blockIn d x k0 j)
/-- What VBNI stores for nb blocks: the units of the planes, then the scale bytes. -/
def bniUnits (s : State) (x : Tensor) (d : VReg) (row k0 nb : Nat) : List (Word × Nat × Nat) :=
  ((List.range nb).flatMap fun j => (List.range x.pst).map fun q => (x.planeAddr row (k0 + 32 * j) q, 4, planeUnit (pad32 (bniBlock s x d k0 j).2.1) q))
  ++ (List.range nb).map fun j => (x.scaleAddr row (k0 + 32 * j), 1, (bniBlock s x d k0 j).1)
/-- The flags of a list. -/
def orFlags (l : List Fl) : Fl := l.foldl Fl.or Fl.none

/-- R204, R205, R206: the tensor conversions on a position that VL lanes may take: VCVT.MX stores elements and scale bytes, VCVT.MXD reads them and its REPLY
writes the lanes, VBNI.SCAN raises SBASE 4 cycles after issue, VBNI stores planes and scale bytes; an entry that is invalid or of another format is TIDBAD, a position that does not fit ILLEGAL. -/
def Claims.TensorConversions : Prop :=
  ∀ (s : State) (m : Bool) (d : VReg) (a : GReg) (tid : BitVec 8), s.noLanes = false →
    let n := s.core.vsetl.toNat
    let row := (s.g a).toNat % 2 ^ 16
    let k0 := (s.g a).toNat / 2 ^ 16 % 2 ^ 24
    let all := [Instr.vcvtMx m d a tid, .vcvtMxd d a tid, .vbniScan m d a tid, .vbni m d a tid]
    (s.tensor tid.toNat = none → ∀ i ∈ all, trapsWith i s 0x18 (zext tid))
    ∧ (∀ x, s.tensor tid.toNat = some x → posOk (s.g a) x n = false →
        (x.fmt = 0 → ∀ i ∈ [Instr.vcvtMxd d a tid, .vbniScan m d a tid, .vbni m d a tid], trapsWith i s 0x01 (zext i.first))
        ∧ (1 ≤ x.fmt → x.fmt ≤ 4 → trapsWith (.vcvtMx m d a tid) s 0x01 (zext (Instr.first (.vcvtMx m d a tid)))))
    ∧ (∀ x b, s.tensor tid.toNat = some x → posOk (s.g a) x n = true → Blk.ofFmt x.fmt = some b →
        let blk (j : Nat) := s.blockIn d x k0 j
        let js := List.range (n / 32)
        let newMax := if m then (s.cx.updateAmax (js.flatMap blk)).amax else s.cx.amax
        (x.fmt ≠ 0 → tensorStores (.vcvtMx m d a tid) s (mxUnits s x b d row k0 (n / 32)) (orFlags (js.map fun j => (mxBlock s x b d k0 j).2.2)) newMax)
        ∧ (x.fmt = 0 → tensorStores (.vbni m d a tid) s (bniUnits s x d row k0 (n / 32)) (orFlags (js.map fun j => (bniBlock s x d k0 j).2.2)) newMax)
        ∧ (x.fmt = 0 → ∃ t, ∃ sb : Nat, exec (.vbniScan m d a tid) s = .next t
            ∧ t.cx.pend = s.cx.pend ++ [⟨.tid tid.toNat, [BitVec.ofNat 64 sb], s.cy + 4⟩] ∧ x.sbase ≤ sb
            ∧ (∀ j ex, j < n / 32 → bniExp s.cx.sat (blk j) = some ex → ex ≤ sb)
            ∧ (sb = x.sbase ∨ ∃ j, j < n / 32 ∧ bniExp s.cx.sat (blk j) = some sb) ∧ t.cx.amax = newMax ∧ t.cx.tid = s.cx.tid ∧ t.core = s.core
            ∧ s.Went t (.vbniScan m d a tid) 0)
        ∧ (∀ e ks vs, effOf .load none s.cx.memdef = some e → s.gate e.ord e.scope = true → s.checkAll .load e.space (mxdReads x row k0 n).2 = .ok ks →
            (ks.all fun p => homeOf p.2.2 == .core s.id) = true → s.serveLocal ks = some vs → firstBad ks vs = none →
            let r := mxdLanes s.cx.sat x k0 n (vs.map (·.1))
            quietFlags s (flagsOf r) → ∃ t u, exec (.vcvtMxd d a tid) s = .next t ∧ t.cx.st = .waiting .reply ∧ s.Holds t
              ∧ exec (.reply t.id t.core.k 0) t = .next u ∧ u.core.v = (s.core.putLanes d (r.map (·.1))).v
              ∧ u.cx.fflags = s.cx.fflags ||| (flagsOf r).bits ∧ (∀ q, u.g q = s.g q) ∧ s.readyAt u (s.after (.vcvtMxd d a tid))
              ∧ ∀ k, Memory.get u.mem k = Memory.get s.mem k))
/-! ## Operand memory, matrix engine, accumulator tiles (spec/09_matrix.md) -/

/-- R214, R31, R217: the slots of operand memory and the tensor identifiers. OCLAIM takes a free slot (1), keeps an own one (1) and answers 0 for another's; the other slot
instructions on a slot not held raise OMSLOT; OREL frees, OZERO fills with zeros, both wait while the engine reads the slot; TDEF from the own data writes a valid image,
deletes on a zero one and is ILLEGAL otherwise; TQRY reads a word or 0. -/
def Claims.SlotsAndTensorIdentifiers : Prop :=
  ∀ (s : State) (k : OReg) (d a : GReg) (tid : BitVec 8) (p : BitVec 4) (j : BitVec 2),
    let o := s.core.slot k
    (o.holder = none → ∃ t, exec (.oclaim d k) s = .next t ∧ (t.core.slot k).holder = some s.core.k ∧ (t.core.slot k).loaded = false ∧ t.took d 1
      ∧ (∀ q, q ≠ k → t.core.slot q = s.core.slot q) ∧ s.Went t (.oclaim d k) d)
    ∧ (∀ h, o.holder = some h → completesG (.oclaim d k) s d (if h = s.core.k then 1 else 0))
    ∧ (o.holder ≠ some s.core.k → trapsWith (.orel k) s 0x17 (zext k) ∧ trapsWith (.ozero k tid) s 0x17 (zext k) ∧ trapsWith (.oload k a tid p) s 0x17 (zext k))
    ∧ (o.holder = some s.core.k →
        (s.tensor tid.toNat = none → trapsWith (.ozero k tid) s 0x18 (zext tid) ∧ trapsWith (.oload k a tid p) s 0x18 (zext tid))
        ∧ (s.core.slotRead k.toNat = true → waitsWith (.orel k) s .operand)
        ∧ (s.core.slotRead k.toNat = false →
            (∃ t, exec (.orel k) s = .next t ∧ (t.core.slot k).holder = none ∧ (t.core.slot k).loaded = false ∧ (∀ q, q ≠ k → t.core.slot q = s.core.slot q) ∧ s.Went t (.orel k) 0)
            ∧ ∀ x, s.tensor tid.toNat = some x → x.fmt = 0 ∨ x.fmt = 10 →
              ∃ t, exec (.ozero k tid) s = .next t ∧ (t.core.slot k).holder = o.holder ∧ (t.core.slot k).loaded = true ∧ (t.core.slot k).fmt = x.fmt ∧ (t.core.slot k).bytes = []
                ∧ (t.core.slot k).scales = [] ∧ (t.core.slot k).sbase = x.sbase ∧ (t.core.slot k).planes = (if x.fmt = 10 then 1 else 8)
                ∧ (∀ q, q ≠ k → t.core.slot q = s.core.slot q) ∧ s.Went t (.ozero k tid) 0))
    ∧ completesG (.tqry d tid j) s d (match Table.find s.cx.tid tid.toNat with
        | none => 0 | some w => if j = 0 then w.1 else if j = 1 then w.2.1 else if j = 2 then w.2.2.1 else w.2.2.2)
    ∧ (∀ e, effOf .load none s.cx.memdef = some e → spaceOk e.space .loc = true → s.gate e.ord e.scope = true → s.ownData (s.g a) 32 →
        s.servedHere (s.ownKey (s.g a)) 32 → s.poisoned (s.ownKey (s.g a)) 32 = false →
        let w (q : Nat) : Word := BitVec.ofNat 64 (s.peekN (s.ownKey (s.g a)) 32 / 2 ^ (64 * q))
        ((w 0).toNat % 2 = 1 → tidOk (w 0) (w 1) (w 2) (w 3) = true → ∃ t, exec (.tdef tid a) s = .next t ∧ Table.find t.cx.tid tid.toNat = some (w 0, w 1, w 2, w 3)
          ∧ (∀ q, q ≠ tid.toNat → Table.find t.cx.tid q = Table.find s.cx.tid q) ∧ t.core = s.core ∧ s.Went t (.tdef tid a) 0)
        ∧ (w 0 = 0 ∧ w 1 = 0 ∧ w 2 = 0 ∧ w 3 = 0 → ∃ t, exec (.tdef tid a) s = .next t ∧ t.cx.tid = Table.del s.cx.tid tid.toNat ∧ t.core = s.core ∧ s.Went t (.tdef tid a) 0)
        ∧ ((w 0).toNat % 2 = 1 → tidOk (w 0) (w 1) (w 2) (w 3) = false →
            ∃ u : State, exec (.tdef tid a) s = .next (u.trapEntry 0x01 0 false (zext (Instr.first (.tdef tid a)))) ∧ u.cx.pc = s.cx.pc ∧ u.cx.tid = s.cx.tid ∧ u.core = s.core))

/-- R215: OLOAD of an operand block in the own data, dense or SPARSE, into a slot no accepted instruction reads: the context waits with kind REPLY, and from 8 cycles a plane and 4
more after issue the REPLY fills the slot: it holds the planes with the positions outside the tensor cleared, the scale bytes, SBASE and the planes loaded, of a SPARSE block also the index array that
stands at PST · 256 of the block, an index nibble whose first position is not below its second setting POISON and posting MATERR; a position that is no multiple of 16 rows and 256 columns, or lies outside, is ILLEGAL. -/
def Claims.OperandLoads : Prop :=
  ∀ (s : State) (k : OReg) (a : GReg) (tid : BitVec 8) (p : BitVec 4) (x : Tensor), (s.core.slot k).holder = some s.core.k → s.tensor tid.toNat = some x →
    let row := (s.g a).toNat % 2 ^ 16
    let k0 := (s.g a).toNat / 2 ^ 16 % 2 ^ 24
    let planes := if x.fmt = 10 then 1 else if p = 0 then x.prd else p.toNat
    let rd := oloadReads x row k0 planes
    (x.fmt ≠ 0 ∧ x.fmt ≠ 10 → trapsWith (.oload k a tid p) s 0x18 (zext tid))
    ∧ (x.fmt = 0 ∨ x.fmt = 10 → (row % 16 ≠ 0 ∨ k0 % 256 ≠ 0 ∨ x.rows ≤ row ∨ x.kext ≤ k0 ∨ 2 ^ 40 ≤ (s.g a).toNat) → trapsWith (.oload k a tid p) s 0x01 (zext (Instr.first (.oload k a tid p))))
    ∧ (∀ e, x.fmt = 0 ∨ (x.fmt = 10 ∧ p.toNat ≤ 1) → row % 16 = 0 → k0 % 256 = 0 → row < x.rows → k0 < x.kext → (s.g a).toNat < 2 ^ 40 →
        (x.fmt = 0 → planes ≤ x.pst) → effOf .load none s.cx.memdef = some e → spaceOk e.space .loc = true → s.gate e.ord e.scope = true → s.core.slotRead k.toNat = false → rd ≠ [] →
        (∀ q ∈ rd, s.ownData q.1 q.2 ∧ s.servedHere (s.ownKey q.1) q.2 ∧ s.poisoned (s.ownKey q.1) q.2 = false) →
        ∃ t, exec (.oload k a tid p) s = .next t ∧ t.cx.st = .waiting .reply ∧ t.core = s.core ∧ s.Holds t
          ∧ ∀ cy, s.cy + 8 * planes + 4 ≤ cy → ∃ u, exec (.reply t.id t.core.k 0) { t with cy := cy } = .next u
              ∧ s.Went u (.oload k a tid p) 0 ∧ (∀ q, q ≠ k → u.core.slot q = s.core.slot q)
              ∧ u.core.slot k = oloadSlot (some s.core.k) x row k0 planes (rd.map fun q => s.peekN (s.ownKey q.1) q.2) false
              ∧ (u.core.slot k).loaded = true ∧ (u.core.slot k).planes = planes ∧ (u.core.slot k).sbase = x.sbase ∧ (u.core.slot k).sparse = x.sparse
              ∧ (x.sparse = false → (u.core.slot k).poison = false)
              ∧ (x.sparse = true →
                  (∀ n, n < 512 → ((Table.find (u.core.slot k).index n).getD 0).toNat
                    = s.peekN (s.ownKey (BitVec.ofNat 64 (x.blockBase row k0 + x.pst * 256 + 4 * (n / 4)))) 4 / 2 ^ (8 * (n % 4)) % 256)
                  ∧ ((u.core.slot k).poison = false ↔ ∀ r g, r < 16 → g < 64 → nibbleAt (u.core.slot k).index r g % 4 < nibbleAt (u.core.slot k).index r g / 4 % 4)
                  ∧ ((u.core.slot k).poison = true → bit u.cx.errpend 0 = true)))

/-- The engine accepts an instruction (R218, R219, R225): it is the last of the queue, with the tile's COUNT and ANCHOR. -/
def accepts (i : Instr) (s : State) (k : MReg) (op a b kb ke pa pb : Nat) (acc : Bool) (count : Nat) (anchor : Option Int) : Prop :=
  (s.core.tile k.toNat).readUntil ≤ s.cy → s.core.mqFull = false →
    ∃ t, ∃ q : MCmd, exec i s = .next t ∧ t.core.mq = s.core.mq ++ [q] ∧ q.op = op ∧ q.m = k.toNat ∧ q.a = a ∧ q.b = b ∧ q.kb = kb ∧ q.ke = ke ∧ q.pa = pa ∧ q.pb = pb ∧ q.acc = acc
      ∧ q.ctx = s.core.k ∧ q.running = false ∧ q.step = 0 ∧ (t.core.tile k.toNat).count = count ∧ (t.core.tile k.toNat).anchor = anchor
      ∧ (t.core.tile k.toNat).acc = (s.core.tile k.toNat).acc ∧ (t.core.tile k.toNat).bin = (decide (3 ≤ op) || (acc && (s.core.tile k.toNat).bin)) ∧ s.Went t i 0

/-- R218, R221, R222, R224: the matrix instructions: which slots and bounds a product takes, the ANCHOR it sets, that MMP.acc onto a tile of an MBIN is ILLEGAL, and that a
full queue makes it wait with kind ENGINE. -/
def Claims.MatrixInstructions : Prop :=
  ∀ (s : State) (acc xor : Bool) (k : MReg) (a b : OReg) (kb : BitVec 8) (ke : BitVec 9) (pa pb : BitVec 3),
    let x := s.core.slot a
    let y := s.core.slot b
    let t := s.core.tile k.toNat
    let held := x.holder = some s.core.k ∧ y.holder = some s.core.k
    let range := kb.toNat < ke.toNat ∧ ke.toNat ≤ 256 ∧ (acc = true → t.count ≠ 65535)
    let anchor : Int := (x.sbase : Int) + y.sbase - 62
    let planes := pa.toNat + 1 ≤ x.planes ∧ pb.toNat + 1 ≤ y.planes
    let count := if acc then t.count + 1 else 1
    let all := [Instr.mmp acc k a b kb ke pa pb, .msp acc k a b kb ke pa pb, .mbin xor acc k a b kb ke]
    accepts (.mclr k) s k 0 0 0 0 0 0 0 false 0 none
    ∧ (held → x.loaded = true → y.loaded = true → x.fmt = 0 → y.fmt = 0 → x.sparse = false → range → planes → (acc = true → t.anchor = none ∨ t.anchor = some anchor) →
        (y.sparse = false → (acc = true → t.bin = false) → accepts (.mmp acc k a b kb ke pa pb) s k 1 a.toNat b.toNat kb.toNat ke.toNat (pa.toNat + 1) (pb.toNat + 1) acc count (some anchor))
        ∧ (y.sparse = true → accepts (.msp acc k a b kb ke pa pb) s k 2 a.toNat b.toNat kb.toNat ke.toNat (pa.toNat + 1) (pb.toNat + 1) acc count (some anchor)))
    ∧ (held → x.loaded = true → y.loaded = true → x.fmt = 10 → y.fmt = 10 → range → 1 ≤ x.planes → 1 ≤ y.planes → (acc = true → t.anchor = none ∨ t.anchor = some 266) →
        accepts (.mbin xor acc k a b kb ke) s k (if xor then 4 else 3) a.toNat b.toNat kb.toNat ke.toNat 1 1 acc count (some 266))
    ∧ (held → t.bin = true → trapsWith (.mmp true k a b kb ke pa pb) s 0x01 (zext (Instr.first (.mmp true k a b kb ke pa pb))))
    ∧ (x.holder ≠ some s.core.k → ∀ i ∈ all, trapsWith i s 0x17 (zext a))
    ∧ (x.holder = some s.core.k → y.holder ≠ some s.core.k → ∀ i ∈ all, trapsWith i s 0x17 (zext b))
    ∧ (held → ke.toNat ≤ kb.toNat ∨ 256 < ke.toNat ∨ x.loaded = false ∨ y.loaded = false → ∀ i ∈ all, trapsWith i s 0x01 (zext i.first))
    ∧ (t.readUntil ≤ s.cy → s.core.mqFull = true → waitsWith (.mclr k) s .engine)

/-- R225, R227, R226: MSTAT reads the tile's state; MCHK waits while the tile is BUSY and takes a pending MATERR; MRD of idle, sound tiles stores the narrowed elements and
scale bytes, outside a Running node: without CHK its flags follow at once, with it when the acknowledgements it waits for have come; a poisoned tile posts MATERR and stores
nothing. -/
def Claims.MatrixReading : Prop :=
  ∀ (s : State) (d a : GReg) (k : MReg) (w : Bool) (tid : BitVec 8),
    let t := s.core.tile k.toNat
    (t.count < 65536 → ∃ v : Word, completesG (.mstat d k) s d v ∧ bit v 0 = s.core.tileBusy k.toNat ∧ bit v 1 = t.anchor.isSome ∧ bit v 2 = t.poison
      ∧ bit v 3 = !t.marks.isEmpty ∧ bits v 31 16 = t.count ∧ (bits v 15 6 : Int) = (t.anchor.getD 0) % 1024)
    ∧ (s.core.tileBusy k.toNat = true → waitsWith (.mchk k) s .operand)
    ∧ (s.core.tileBusy k.toNat = false → bit s.cx.errpend 0 = false → s.core.nodeErr = none → completesAt (.mchk k) s (s.cx.pc + 8))
    ∧ (s.core.tileBusy k.toNat = false → bit s.cx.errpend 0 = true → bits s.cx.errpend 15 8 = 0x12 → s.core.nodeErr = none → s.cx.super = false → s.cx.inPhlx = false →
        ∃ u, exec (.mchk k) s = .next u ∧ u.cx.epc = zext s.cx.pc ∧ u.cx.tval = s.cx.errTval ∧ u.cx.cause = BitVec.ofNat 64 (0x112 + s.cx.errSource * 512) ∧ (∀ r, u.g r = s.g r))
    ∧ (s.tensor tid.toNat = none → trapsWith (.mrd w k a tid) s 0x18 (zext tid))
    ∧ (∀ x, s.tensor tid.toNat = some x → x.fmt ≠ 10 → narrowPosOk (s.g a) x w = false ∨ (w = true ∧ bit k 0 = true) →
        trapsWith (.mrd w k a tid) s 0x01 (zext (Instr.first (.mrd w k a tid))))
    ∧ (∀ x e ks, s.tensor tid.toNat = some x → x.fmt ≠ 10 → narrowPosOk (s.g a) x w = true → (w = true → bit k 0 = false) →
        let tiles := if w then [k.toNat, k.toNat + 1] else [k.toNat]
        let nw := narrowWrites s.cx x (tiles.map fun n => (s.core.tile n).source) (posRow (s.g a)) (posK (s.g a)) (if w then 32 else 16)
        effOf .store none s.cx.memdef = some e → s.core.node = none → s.gate e.ord e.scope = true → (∀ n ∈ tiles, s.core.tileBusy n = false) →
        s.checkAll .store e.space (nw.1.map fun q => (q.1, q.2.1)) = .ok ks →
        let enters (u : State) : Prop := ∃ es : List Entry, u.core.sbuf = s.core.sbuf ++ es ∧ es.map (·.body) = List.zipWith (fun q (v : NarrowWrite) => v.body q.2.2) ks nw.1
        ((∀ n ∈ tiles, (s.core.tile n).poison = false) → e.chk = false → quietFlags s nw.2 → ∃ u, exec (.mrd w k a tid) s = .next u ∧ enters u
          ∧ u.cx.fflags = s.cx.fflags ||| nw.2.bits ∧ (∀ r, u.g r = s.g r) ∧ s.readyAt u (s.after (.mrd w k a tid)) ∧ ∀ q, Memory.get u.mem q = Memory.get s.mem q)
        ∧ ((∀ n ∈ tiles, (s.core.tile n).poison = false) → e.chk = true → nw.1 ≠ [] → ∃ u y, exec (.mrd w k a tid) s = .next u ∧ enters u ∧ u.cx.st = .waiting .reply
          ∧ u.cx.await = some y ∧ y.fin = .ackFl nw.2.bits.toNat none ∧ s.Holds u)
        ∧ (t.poison = true → ∃ u, exec (.mrd w k a tid) s = .next u ∧ u.core.sbuf = s.core.sbuf ∧ (s.cx.st.live = true → bit u.cx.errpend 0 = true) ∧ s.Went u (.mrd w k a tid) 0))

/-- R221: the plane passes of a dense product together give the exact sum of the products of the elements' two's-complement values, each scaled by its block offsets. -/
def Claims.PlanePassesGiveTheProduct : Prop :=
  ∀ (q : MCmd) (x y : OSlot) (row col : Nat), q.op = 1 → 0 < q.pb →
    let value (o : OSlot) (r k n : Nat) : Int := ((List.range n).map fun i => if o.useBit i r k then planeWeight i else 0).sum
    ((List.range (q.pa * q.pb)).map fun n => passTerm { q with step := n } x y row col).sum
      = (q.positions.map fun k => value x row k q.pa * value y col k q.pb * 2 ^ (62 - x.off row (k / 32) - y.off col (k / 32))).sum

/-- R216, R220, R221, R224, R352: the steps of the engine, seen from the core. MATRIX_PASS adds the next pass to every element of the tile, starting the oldest instruction first; a
checksum or a metadata copy that fails abandons it with POISON and leaves the elements, and counts for the core's Running node when the instruction was accepted since the core took the node; MATRIX_COMPLETE ends an instruction that has run its passes; both do nothing while the engine is frozen. -/
def Claims.MatrixEngineSteps : Prop :=
  ∀ (s : State) (q : MCmd) (l : List MCmd) (e : PassEvent), s.core.mq = q :: l →
    let x := s.core.slot (BitVec.ofNat 3 q.a)
    let y := s.core.slot (BitVec.ofNat 3 q.b)
    let elem (t : State) (n : Nat) : Acc := (Table.find (t.core.tile q.m).acc n).getD 0
    (s.core.frozen = true → exec (.matrixPass s.id e) s = .next s ∧ exec (.matrixComplete s.id) s = .next s)
    ∧ (s.core.frozen = false → q.running = true → q.abandoned = false → q.step < q.passes → q.m < 4 →
        (x.metaBad q = false → y.metaBad q = false → x.poison = false → y.poison = false →
          ∃ t, exec (.matrixPass s.id .ok) s = .next t ∧ t.core.mq = { q with step := q.step + 1 } :: l
            ∧ (∀ n, n < 256 → elem t n = elem s n + BitVec.ofInt 144 (passTerm q x y (n / 16) (n % 16)))
            ∧ (t.core.tile q.m).marks = (s.core.tile q.m).marks ∧ (∀ j, j ≠ q.m → t.core.tile j = s.core.tile j) ∧ s.Holds t)
        ∧ (∀ b, x.metaBad q = false → y.metaBad q = false → ∀ f ∈ [PassEvent.checksumTwice b, .metadata b],
          ∃ t, exec (.matrixPass s.id f) s = .next t ∧ t.core.mq = { q with abandoned := true } :: l ∧ (t.core.tile q.m).poison = true
            ∧ (s.core.node.isSome = true → s.core.nodeErr = none → (t.core.nodeErr.isSome = true ↔ s.core.nodeFrom ≤ q.at_))
            ∧ (∀ n, n < 256 → elem t n = elem s n) ∧ s.Holds t))
    ∧ (s.core.frozen = false → q.running = true → q.abandoned = true ∨ q.passes ≤ q.step →
        ∃ t, exec (.matrixComplete s.id) s = .next t ∧ t.core.mq = l ∧ (∀ n, n < 256 → elem t n = elem s n) ∧ s.Holds t)

/-- A request to an accumulator tile (R233, R234): on its first issue one message of class T to the slice, and the context waits with kind REPLY; then it waits for the answer,
and completes with the answer in g(d). -/
def tileRequests (i : Instr) (s : State) (d : GReg) (n : Nat) (q : TileReq) : Prop :=
  (s.cx.asked = false → ∃ t, ∃ m : Msg, exec i s = .next t ∧ t.cx.st = .waiting .reply ∧ t.cx.asked = true ∧ t.flight = s.flight ++ [m] ∧ m.body = .tile n q ∧ m.dest = .slice n
    ∧ m.cls = .t ∧ m.src = .ctx s.id s.core.k ∧ s.Holds t ∧ t.core = s.core)
  ∧ (s.cx.asked = true → s.cx.reply = none → waitsWith i s .reply)
  ∧ (∀ v, s.cx.asked = true → s.cx.reply = some v → completesG i s d v)

/-- R229, R234, R235: the request instructions. A handle that names no slice of the tray is PERM with TVAL the handle. -/
def Claims.TileRequestInstructions : Prop :=
  ∀ (s : State) (d a b c : GReg) (j : Option (BitVec 3)),
    let h := s.g a
    (∀ n, s.handleSlice h = some n →
      tileRequests (.ardy d a) s d n (.ardy h) ∧ tileRequests (.aknock d a) s d n (.aknock h) ∧ tileRequests (.arel d a) s d n (.arel h)
      ∧ tileRequests (.astat j d a) s d n (.astat h (j.map (·.toNat))))
    ∧ (s.handleSlice h = none → s.cx.asked = false → ∀ i ∈ [Instr.ardy d a, .aknock d a, .arel d a, .astat j d a], trapsWith i s 0x07 h)
    ∧ (∀ n anc, (s.g a).toNat ≥ 1 → (s.g a).toNat ≤ 2 ^ 24 → (s.g b).toNat < 2 ^ 16 → (s.g c).toNat < 2 ^ 18 →
        s.sliceAt (bits (s.g c) 3 0) (bits (s.g c) 10 4) (bits (s.g c) 17 11) = some n → s.claimAnchor (bits (s.g b) 7 0) (bits (s.g b) 15 8) = .ok anc →
        tileRequests (.aclaim d a b c) s d n (.aclaim (s.g a).toNat anc (bits (s.g c) 3 0) (bits (s.g c) 10 4) (bits (s.g c) 17 11) false))
    ∧ (∀ anc, s.cx.asked = false → s.claimAnchor (bits (s.g b) 7 0) (bits (s.g b) 15 8) = .ok anc → ((s.g a).toNat = 0 ∨ 2 ^ 24 < (s.g a).toNat ∨ 2 ^ 16 ≤ (s.g b).toNat ∨ 2 ^ 19 ≤ (s.g c).toNat) →
        trapsWith (.aclaim d a b c) s 0x01 (zext (Instr.first (.aclaim d a b c))))

/-- R234: ARD and ARDV end with the status of their reply and the flags of the narrowing: ARD once its stores are performed; ARDV of a row below 16 with at least 16 lanes asks
the slice. (That ARD merges its flags and raises no FPEXC: notes/assumptions/31.md.) -/
def Claims.TileReads : Prop :=
  ∀ (s : State) (w z : Bool) (d a b c : GReg) (v : VReg) (tid : BitVec 8) (r : Word), s.cx.reply = some r →
    let status : Word := BitVec.ofNat 64 (r.toNat % 256)
    let fl := Fl.ofBits (r.toNat / 256 % 64)
    (s.cx.asked = true → s.unapplied s.mine = false →
      ∃ t, exec (.ard w d a b c tid) s = .next t ∧ t.took d status ∧ t.cx.fflags = s.cx.fflags ||| fl.bits ∧ (∀ q, q ≠ d → t.g q = s.g q) ∧ s.readyAt t (s.after (.ard w d a b c tid))
        ∧ t.core = s.core ∧ ∀ k, Memory.get t.mem k = Memory.get s.mem k)
    ∧ (s.cx.asked = true → s.unapplied s.mine = true → waitsWith (.ard w d a b c tid) s .reply)
    ∧ (s.cx.asked = true → quietFlags s fl →
      ∃ t, exec (.ardv z v a b c) s = .next t ∧ t.took c status ∧ t.cx.fflags = s.cx.fflags ||| fl.bits ∧ (∀ q, q ≠ c → t.g q = s.g q) ∧ s.readyAt t (s.after (.ardv z v a b c))
        ∧ t.core = s.core ∧ ∀ k, Memory.get t.mem k = Memory.get s.mem k)
    ∧ (∀ n, s.cx.asked = false → s.noLanes = false → 16 ≤ s.core.vsetl.toNat → (s.g b).toNat ≤ 15 → s.handleSlice (s.g a) = some n →
      ∃ t, ∃ m : Msg, exec (.ardv z v a b c) s = .next t ∧ t.cx.st = .waiting .reply ∧ t.cx.asked = true ∧ t.flight = s.flight ++ [m] ∧ m.body = .tile n (.ardv (s.g a) (s.g b).toNat z v)
        ∧ m.cls = .t ∧ s.Holds t)
    ∧ (s.cx.asked = false → s.noLanes = false → (s.core.vsetl.toNat < 16 ∨ 15 < (s.g b).toNat) → trapsWith (.ardv z v a b c) s 0x01 (zext (Instr.first (.ardv z v a b c))))

/-- R230: ACONTRIB of an idle, sound tile with no tempo binding towards the slice: one packet with the interval, the tile's ANCHOR and the 128 architectural bits of its
elements; an empty interval, one beyond 2^24, reserved handle bits or a COUNT above 4,096 are ILLEGAL; a poisoned tile posts MATERR and sends nothing. -/
def Claims.ContributionsAreSent : Prop :=
  ∀ (s : State) (k : MReg) (a b c : GReg),
    let h := s.g a
    let lo := (s.g b).toNat
    let hi := (s.g c).toNat
    let t := s.core.tile k.toNat
    (hi ≤ lo ∨ 2 ^ 24 < hi ∨ bits h 31 28 ≠ 0 ∨ 4096 < t.count → trapsWith (.acontrib k a b c) s 0x01 (zext (Instr.first (.acontrib k a b c))))
    ∧ (lo < hi → hi ≤ 2 ^ 24 → bits h 31 28 = 0 → t.count ≤ 4096 →
        (s.handleSlice h = none → trapsWith (.acontrib k a b c) s 0x07 h)
        ∧ ∀ n, s.handleSlice h = some n →
          (s.core.tileBusy k.toNat = true → waitsWith (.acontrib k a b c) s .operand)
          ∧ (s.core.tileBusy k.toNat = false → t.poison = true →
              ∃ u, exec (.acontrib k a b c) s = .next u ∧ u.flight = s.flight ∧ (s.cx.st.live = true → bit u.cx.errpend 0 = true) ∧ s.Went u (.acontrib k a b c) 0)
          ∧ (s.core.tileBusy k.toNat = false → t.poison = false → s.matching (.slice n) = [] →
              ∃ u, ∃ m : Msg, ∃ p, exec (.acontrib k a b c) s = .next u ∧ u.flight = s.flight ++ [m] ∧ m.body = .contrib n p ∧ m.dest = .slice n ∧ m.cls = .t ∧ p.handle = h
                ∧ p.spans = [(lo, hi)] ∧ p.n = 1 ∧ p.anchor = t.anchor ∧ p.from_ = [(s.id, s.core.k)]
                ∧ (t.anchor.isSome = true → p.marks = t.marks ∧ p.acc = t.acc.map fun e => (e.1, (e.2.setWidth 128).signExtend 144))
                ∧ (u.core.tile k.toNat).readUntil = s.cy + 16 ∧ s.Went u (.acontrib k a b c) 0))

/-- R231: an accepted contribution is of the current generation, inside [0, K), of the tile's ANCHOR, disjoint from everything recorded, and leaves at most 6 intervals; the
record after it covers it. -/
def Claims.AcceptedContributionsAreDisjoint : Prop :=
  ∀ (t : AccTile) (p : Packet) (g : Bool), outcome t p g = 0 →
    bits p.handle 7 0 = t.gen ∧ (∀ x ∈ p.spans, x.2 ≤ t.k ∧ touches t.record x = false) ∧ (p.anchor = none ∨ p.anchor = some t.anchor)
      ∧ (addSpans t.record p.spans).length ≤ 6 ∧ t.count + p.n ≤ 65535 ∧ t.poison = false ∧ g = false
      ∧ (∀ x, p.spans = [x] → x.1 < x.2 → covered (addSpans t.record p.spans) x = true)

/-- R231: CONTRIBUTION_EVALUATE of the packet at the head of its route. At a tile with its CHECK the outcome is LAST; outcome 0 adds the elements, the record and COUNT, 1 and 5
count, and no outcome but 0 changes elements; with no such tile every contributor is posted ACCERR 8. -/
def Claims.ContributionsAreEvaluated : Prop :=
  ∀ (s : State) (item slice : Nat) (m : Msg) (p : Packet) (g : Bool), s.msg item = some m → m.body = .contrib slice p → s.atHead m = true →
    let key := tileKey slice (handleTile p.handle)
    (∀ x, s.tileOf slice p.handle = some x →
      ∃ t y, exec (.contributionEvaluate item g) s = .next t ∧ Table.find t.tiles key = some y ∧ y.last = outcome x p g ∧ y.k = x.k ∧ y.gen = x.gen ∧ y.check = x.check
        ∧ t.flight = s.flight.filter (fun q => q.id != item)
        ∧ (outcome x p g = 0 → y.acc = addTiles x.acc p.acc ∧ y.record = addSpans x.record p.spans ∧ y.count = x.count + p.n)
        ∧ (outcome x p g ≠ 0 → y.acc = x.acc ∧ y.record = x.record ∧ y.count = x.count)
        ∧ (outcome x p g = 1 → y.ndup = min 4095 (x.ndup + p.n)) ∧ (outcome x p g = 5 → y.nstale = min 4095 (x.nstale + p.n))
        ∧ (∀ r, t.g r = s.g r) ∧ ∀ k, Memory.get t.mem k = Memory.get s.mem k)
    ∧ (s.tileOf slice p.handle = none → Table.find s.tiles key = none → p.from_ = [(s.id, s.core.k)] → s.cx.st.live = true → bit s.cx.errpend 0 = false → p.handle.toNat < 2 ^ 63 →
        ∃ t, exec (.contributionEvaluate item g) s = .next t ∧ t.tiles = s.tiles ∧ bits t.cx.errpend 15 8 = 0x13 ∧ bits t.cx.errpend 23 16 = 8
          ∧ t.cx.errTval = BitVec.ofNat 64 (p.handle.toNat % 2 ^ 32) ∧ s.Holds t)

/-- R234, R235, R228: TILE_REQUEST_SERVE of a request of the context in view at the head of its route, no earlier packet of the context to the slice before it. ARDY answers 1 when the record is [0, K), else 0; AKNOCK clears the tile and
raises GEN; AREL frees it; ASTAT answers its state; a handle with another CHECK answers 8 to ARDY and AREL and 0 to AKNOCK and ASTAT; an old generation 5. -/
def Claims.TileRequestsAreServed : Prop :=
  ∀ (s : State) (item slice : Nat) (m : Msg) (h : Word), s.msg item = some m → m.src = .ctx s.id s.core.k → s.atHead m = true → s.aheadOf m (.slice slice) = false →
    let key := tileKey slice (handleTile h)
    let run (q : TileReq) (r : State → Prop) : Prop := m.body = .tile slice q → ∃ t, exec (.tileRequestServe item) s = .next t ∧ r t ∧ t.flight = s.flight.filter (fun q => q.id != item) ∧ s.Holds t
    (s.tileOf slice h = none → run (.ardy h) (fun t => t.cx.reply = some 8 ∧ t.tiles = s.tiles) ∧ run (.arel h) (fun t => t.cx.reply = some 8 ∧ t.tiles = s.tiles)
      ∧ run (.aknock h) (fun t => t.cx.reply = some 0 ∧ t.tiles = s.tiles) ∧ run (.astat h none) (fun t => t.cx.reply = some 0 ∧ t.tiles = s.tiles))
    ∧ (∀ x, s.tileOf slice h = some x →
        (bits h 7 0 ≠ x.gen → run (.ardy h) (fun t => t.cx.reply = some 5 ∧ t.tiles = s.tiles) ∧ run (.arel h) (fun t => t.cx.reply = some 5 ∧ t.tiles = s.tiles)
          ∧ run (.aknock h) (fun t => t.cx.reply = some 0 ∧ t.tiles = s.tiles))
        ∧ (bits h 7 0 = x.gen →
            (x.poison = false → run (.ardy h) (fun t => t.cx.reply = some (if x.record = [(0, x.k)] then 1 else 0) ∧ t.tiles = s.tiles))
            ∧ (x.poison = true → run (.ardy h) (fun t => t.cx.reply = some 10 ∧ t.tiles = s.tiles))
            ∧ run (.arel h) (fun t => t.cx.reply = some 0 ∧ t.tiles = Table.del s.tiles key)
            ∧ run (.aknock h) (fun t => t.cx.reply = some (setBits h 7 0 ((x.gen + 1) % 256)) ∧ ∃ y, Table.find t.tiles key = some y ∧ y.acc = [] ∧ y.record = [] ∧ y.count = 0
                ∧ y.gen = (x.gen + 1) % 256 ∧ y.check = x.check ∧ y.k = x.k ∧ y.anchor = x.anchor ∧ y.claimed = x.claimed))
        ∧ run (.astat h none) (fun t => t.cx.reply = some x.statWord ∧ t.tiles = s.tiles))
/-! ## Copy engine, core save, generations, page moves, starts (spec/10_engines_system.md, spec/17_memory_translation.md) -/

/-- The eight words of the descriptor at g(A) in the core's own data. -/
def descAt (s : State) (a : GReg) : List Word := (List.range 8).map fun j => BitVec.ofNat 64 (s.peekN (s.ownKey (s.g a) + 8 * j) 8)

/-- A command of this kind passes its checks: its descriptor, at g(A) in the own data, reads whole and unpoisoned, has no reserved field set and names ranges the
issuer may access, and nothing it stores matches a tempo binding. -/
abbrev soundCommand (s : State) (kind : CopyKind) (a : GReg) : Prop :=
  s.ownData (s.g a) 64 ∧ (∀ j, j < 8 → s.servedHere (s.ownKey (s.g a) + 8 * j) 8 ∧ s.poisoned (s.ownKey (s.g a) + 8 * j) 8 = false) ∧ s.gate 1 4 = true
    ∧ s.descOk kind (descAt s a) = true ∧ checkRegions kind (descAt s a) = none ∧ s.checkRanges kind (descAt s a) = none
    ∧ ((s.sendHomes kind (descAt s a)).all fun h => !routedHome s.id h || (s.matching h).isEmpty) = true

/-- A command instruction whose descriptor lies in the core's own data (R238, R242, R240): when it passes the checks, matches no tempo binding and finds a tag and a queue
word free, the engine holds the command under that tag (Held for a destination outside the core under a Running node), and g(D) takes the handle (SEQ 0 at a tag's first use: notes/assumptions/37.md); refused for a misaligned, a
foreign or an instruction-store descriptor address; without a free tag or queue word it waits with kind ENGINE. -/
def commands (s : State) (i : Instr) (kind : CopyKind) (d a : GReg) : Prop :=
  let w := descAt s a
  let homes := s.copyHomes kind w
  (∀ tag, soundCommand s kind a → s.pickTag = some tag → s.core.queuedWords < 2 →
    ∃ t m, exec i s = .next t ∧ m ∈ t.core.cmds ∧ m.tag = tag ∧ m.kind = kind ∧ m.desc = w ∧ m.ctx = s.core.k ∧ m.pattern = s.cx.pattern ∧ m.step = 0 ∧ m.taken = false
      ∧ m.seq = (match Table.find s.core.seqs tag with | none => 0 | some n => (n + 1) % 512)
      ∧ m.st = (if s.core.node.isSome && homes.any (heldHome s.id) then .held else .queued) ∧ (∀ x ∈ s.core.cmds, x.tag ≠ tag → x ∈ t.core.cmds)
      ∧ t.took d (BitVec.ofNat 64 (tag + m.seq * 128)) ∧ s.Went t i d)
  ∧ (soundCommand s kind a → s.pickTag = none ∨ 2 ≤ s.core.queuedWords → ∃ t, exec i s = .next t ∧ t.cx.st = .waiting .engine ∧ t.core.cmds = s.core.cmds ∧ s.Holds t)
  ∧ ((s.g a).toNat % 64 ≠ 0 → trapsWith i s 0x05 (s.g a))
  ∧ ((s.g a).toNat % 64 = 0 → regionOf (s.g a) ≠ .loc → trapsWith i s 0x07 (s.g a))
  ∧ ((s.g a).toNat % 64 = 0 → regionOf (s.g a) = .loc → bits (s.g a) 14 0 < s.core.xbound.toNat → trapsWith i s 0x04 (s.g a))

/-- R238, R241–R245, R248, R249: the command instructions, XCANCEL and XSTAT; a handle that is no longer current reads 0, one with reserved bits is ILLEGAL. -/
def Claims.CopyCommands : Prop :=
  ∀ (s : State) (d a : GReg) (n : BitVec 8),
    commands s (.xcopy d a) .copy d a ∧ commands s (.xcopyCode d a) .code d a ∧ commands s (.x2d d a) .twoD d a ∧ commands s (.xdeal d a) .deal d a
    ∧ commands s (.xgath d a) .gather d a ∧ commands s (.xput d a) .put d a ∧ commands s (.xget d a) .get d a ∧ commands s (.xkick d a n) (.kick n) d a
    ∧ (2 ^ 16 ≤ (s.g a).toNat → trapsWith (.xcancel d a) s 0x01 (zext (Instr.first (.xcancel d a))) ∧ trapsWith (.xstat d a) s 0x01 (zext (Instr.first (.xstat d a))))
    ∧ ((s.g a).toNat < 2 ^ 16 → s.core.cmdOf (s.g a) = none → completesG (.xcancel d a) s d 0 ∧ completesG (.xstat d a) s d 0)
    ∧ (∀ m, (s.g a).toNat < 2 ^ 16 → s.core.cmdOf (s.g a) = some m →
        (∃ t, exec (.xcancel d a) s = .next t ∧ t.took d (BitVec.ofNat 64 m.st.code) ∧ s.Went t (.xcancel d a) d
          ∧ t.core.cmds = s.core.cmds.map fun x => if x.tag = m.tag ∧ (x.st = .queued ∨ x.st = .held ∨ x.st = .running) then { x with cancel := true } else x)
        ∧ (m.code < 256 → m.sub < 256 → ∃ v : Word, completesG (.xstat d a) s d v ∧ bits v 2 0 = m.st.code ∧ bit v 3 = (s.core.frozen && m.st == .running)
            ∧ bits v 15 8 = m.code ∧ bits v 23 16 = m.sub ∧ bits v 63 24 = min m.doneb (2 ^ 40 - 1)))

/-- The command may take a step: the engine is not frozen, the command neither ends nor waits for answers, it runs or is the next to start, and the
clock its TAKE acquired is covered (R239, R246, R275). -/
abbrev mayStep (s : State) (m : Cmd) : Prop :=
  s.core.frozen = false ∧ m.cancel = false ∧ m.code = 0 ∧ m.awaits = [] ∧ (m.st = .running ∨ (m.st = .queued ∧ s.core.startNext = some m.tag))
    ∧ (m.acqOpen = true → s.covered (pdieOf s.id) m.clk = true)

/-- A step that moves n bytes from a to b: the stores of its pieces, read in `u`, enter the core's buffer as the engine thread's own up to the first piece that fails,
which fails the command. -/
def engineMoves (s u : State) (m : Cmd) (a b : Word) (n : Nat) : Prop :=
  let l := u.engineMove m a b n
  firstWait l = none →
  ∃ t, ∃ es : List Entry, exec (.engineStep s.id m.tag) s = .next t ∧ t.core.sbuf = s.core.sbuf ++ es ∧ es.map (·.body) = (upToFail l).1.map (fun p => Body.store p.1 p.2.2.1 p.2.2.2)
    ∧ (∀ e ∈ es, e.src = .engine s.id m.tag ∧ e.ord = 1)
    ∧ (∃ y ∈ t.core.cmds, y.tag = m.tag ∧ y.st = .running ∧ y.step = m.step + 1 ∧ y.doneb = m.doneb + ((upToFail l).1.map fun p => p.2.2.1).sum
        ∧ (y.code, y.sub, y.errAddr) = (match (upToFail l).2 with | some f => f | none => (m.code, m.sub, m.errAddr))) ∧ s.Holds t

/-- A step that sends n bytes from a to the peer at b: one flit of class P for each 64-byte unit, with its bytes and its place in the peer's window (R241, R338). -/
def enginePuts (s : State) (m : Cmd) (a b : Word) (n : Nat) : Prop :=
  let units := cutAt 64 n b.toNat 0 n
  let at_ (w : Word) (j : Nat) : Word := w + BitVec.ofNat 64 j
  let read (p : Nat × Nat) := s.engineRead m (at_ a p.1) p.2
  let sent (e : Entry) := match e.body with | .flit f => some (f.cls, f.op, f.offset) | _ => none
  (units.all fun p => (read p).toBool && s.peerOk (peerOf (at_ b p.1))) = true → s.injectFull units.length = false →
  ∃ t, ∃ es : List Entry, exec (.engineStep s.id m.tag) s = .next t ∧ t.core.sbuf = s.core.sbuf ++ es
    ∧ es.map sent = units.map (fun p => some (FlitClass.p, FlitOp.put (match read p with | .ok bs => bs | .error _ => []), peerOff (at_ b p.1)))
    ∧ es.map (·.dest) = units.map (fun p => Home.peer (peerOf (at_ b p.1))) ∧ (∀ e ∈ es, e.src = .engine s.id m.tag)
    ∧ (∃ y ∈ t.core.cmds, y.tag = m.tag ∧ y.st = .running ∧ y.step = m.step + 1) ∧ s.Holds t

/-- A step that reads n bytes of a peer from a: one read request of class R for each 64-byte unit; the step stays open for the answers, each of which has room in the
receive queue (R241, R246, R340). -/
def engineGets (s : State) (m : Cmd) (a b : Word) (n : Nat) : Prop :=
  let units := cutAt 64 n a.toNat 0 n
  let at_ (w : Word) (j : Nat) : Word := w + BitVec.ofNat 64 j
  (units.all fun p => s.peerOk (peerOf (at_ a p.1)) && (cutAt 8 p.2 (b.toNat + p.1) 0 p.2).all fun q => (s.engineKeys m .store (at_ b (p.1 + q.1)) q.2).toBool) = true →
  s.injectFull units.length = false → s.recvFull ((units.map fun p => (p.2 + 7) / 8).sum) = false →
  ∃ t, ∃ fs : List (Nat × Flit), exec (.engineStep s.id m.tag) s = .next t ∧ t.torus.inject = s.torus.inject ++ fs
    ∧ fs.map (fun f => (f.1, f.2.cls, f.2.op, f.2.offset)) = units.map (fun p => (s.id, FlitClass.r, FlitOp.get p.2, peerOff (at_ a p.1)))
    ∧ (∃ y ∈ t.core.cmds, y.tag = m.tag ∧ y.st = .running ∧ y.step = m.step ∧ y.awaits.length = units.length) ∧ t.core.sbuf = s.core.sbuf ∧ s.Holds t

/-- A step that fails the command with a code at an address (R247). -/
def engineFails (s : State) (m : Cmd) (code : Nat) (a : Word) : Prop :=
  ∃ t, exec (.engineStep s.id m.tag) s = .next t ∧ t.core.sbuf = s.core.sbuf ∧ (∃ y ∈ t.core.cmds, y.tag = m.tag ∧ y.code = code ∧ y.errAddr = a ∧ y.doneb = m.doneb) ∧ s.Holds t

/-- A step of an installed routine, whatever it asks for (R245, R246): a move between places, to or from a peer, a load whose value the routine receives, a store of 8 bytes,
a failure, or its end. -/
def routineStep (s : State) (m : Cmd) (act : Config.RoutineAct) : Prop :=
  match act with
  | .move a b n => if regionOf b = .peer then enginePuts s m a b n.toNat else if regionOf a = .peer then engineGets s m a b n.toNat else engineMoves s s m a b n.toNat
  | .load a => ∀ bs, s.engineRead m a 8 = .ok bs →
      ∃ t, exec (.engineStep s.id m.tag) s = .next t ∧ t.core.sbuf = s.core.sbuf
        ∧ (∃ y ∈ t.core.cmds, y.tag = m.tag ∧ y.step = m.step + 1 ∧ y.got = m.got ++ [BitVec.ofNat 64 (bytesNat bs)] ∧ y.doneb = m.doneb) ∧ s.Holds t
  | .store a v => ∀ k ks, s.engineKeys m .store (BitVec.ofNat 64 (a.toNat / 8 * 8)) 8 = .ok (k :: ks) →
      ∃ t, ∃ x : Entry, exec (.engineStep s.id m.tag) s = .next t ∧ t.core.sbuf = s.core.sbuf ++ [x] ∧ x.body = .store k 8 v.toNat ∧ x.src = .engine s.id m.tag ∧ x.ord = 1
        ∧ (∃ y ∈ t.core.cmds, y.tag = m.tag ∧ y.step = m.step + 1 ∧ y.doneb = m.doneb + 8) ∧ s.Holds t
  | .fail a => engineFails s m 0x01 a
  | .done => ∃ t, exec (.engineStep s.id m.tag) s = .next t ∧ t.core.sbuf = s.core.sbuf ∧ s.Holds t

/-- R239, R246, R247, R275: the steps of the engine for a command of the context in view. TAKE takes the oldest queued word once what the issuer did before it is done.
ENGINE_STEP of a command that may step moves its next piece: of a copy or a 2D copy, of the element an index names, of a deal's block to the core of
its turn, to or from a peer, or as an installed routine asks; frozen, with no step in progress, it does nothing. COMMAND_COMPLETE
ends a command whose payload is performed: Done, Failed or Cancelled, with one completion word of VALUE or FAIL VALUE when MBOX is not 0 and, failed, an error posted to the
issuer. A completion word below XBOUND of the issuer's own core is not written and fails the command with XONLY. (Readings of the
model: notes/assumptions/38.md, which pieces are written and in which order the end is decided; 78.md, the refused completion word.) -/
def Claims.CopyEngineSteps : Prop :=
  ∀ (s : State) (m : Cmd), m.ctx = s.core.k →
    ((s.core.cmds.find? fun x => x.st == .queued && !x.taken) = some m → s.takeReady m = true →
      ∃ t, exec (.take s.id m.tag) s = .next t ∧ (∃ x ∈ t.core.cmds, x.tag = m.tag ∧ x.taken = true ∧ x.clk = s.cx.clk ∧ x.acqOpen = true) ∧ s.Holds t)
    ∧ ((s.core.cmds.find? fun x => x.tag == m.tag) = some m →
        (s.core.frozen = true → s.core.stepOpen s.cy m = false → exec (.engineStep s.id m.tag) s = .next s)
        ∧ (mayStep s m →
          (∀ src dst n, m.chunk = some (.move src dst n) →
            (m.kind = .copy ∨ m.kind = .code ∨ m.kind = .twoD → engineMoves s s m (BitVec.ofNat 64 src.toNat) (BitVec.ofNat 64 dst.toNat) n)
            ∧ (m.kind = .put → enginePuts s m (BitVec.ofNat 64 src.toNat) (BitVec.ofNat 64 dst.toNat) n)
            ∧ (m.kind = .get → engineGets s m (BitVec.ofNat 64 src.toNat) (BitVec.ofNat 64 dst.toNat) n))
          ∧ (∀ i off n bs, m.chunk = some (.elem i off n) →
            let d := Desc.of m.desc
            let ix := BitVec.ofNat 64 (d.idx + 4 * i)
            s.engineRead m ix 4 = .ok bs →
            engineMoves s ((s.engineSaw m ix 4).engineTouch m ix 4) m (BitVec.ofInt 64 ((d.src : Int) + (BitVec.ofNat 32 (bytesNat bs)).toInt * d.len + off)) (BitVec.ofNat 64 (d.dst + i * d.len + off)) n)
          ∧ (∀ k off n, m.chunk = some (.block k off n) →
            let q := Deal.of m.pattern
            let src := BitVec.ofNat 64 ((Desc.of m.desc).src + k * q.blk + off)
            (s.lidxCore (q.start + k % q.count * q.stride) = none → engineFails s m 0x07 src)
            ∧ ∀ id, s.lidxCore (q.start + k % q.count * q.stride) = some id →
                engineMoves s s m src (coordAddr (s.myVif.vdOf (pdieOf id)) (rowOf id) (colOf id) (q.lbase + k / q.count * q.blk + off)) n)
          ∧ ∀ k, m.kind = .kick k → routineStep s m (Config.routine k.toNat (routineArgs m.desc) m.step m.got)))
    ∧ ((s.core.cmds.find? fun x => x.tag == m.tag && x.active) = some m → s.core.frozen = false → m.st = .running → (m.code ≠ 0 ∨ m.cancel = true ∨ m.chunk = none) →
        s.threadOpen s.id m.tag = false → m.awaits = [] →
        (s.mboxBelow m = true → (Desc.of m.desc).mbox ≠ 0 → m.code = 0 → m.cancel = false →
          ∃ t, exec (.commandComplete s.id m.tag) s = .next t ∧ (∃ x ∈ t.core.cmds, x.tag = m.tag ∧ x.st = .failed ∧ x.code = 4) ∧ t.core.sbuf = s.core.sbuf ∧ s.Holds t)
        ∧ (s.mboxBelow m = false →
        let e : CmdSt := if m.code ≠ 0 then .failed else if m.cancel then .cancelled else .done
        ∃ t, exec (.commandComplete s.id m.tag) s = .next t ∧ (∃ x ∈ t.core.cmds, x.tag = m.tag ∧ x.st = e ∧ x.doneb = m.doneb) ∧ m.tag ∈ t.core.freeTags
          ∧ ((Desc.of m.desc).mbox = 0 → t.core.sbuf = s.core.sbuf)
          ∧ (regionOf (BitVec.ofNat 64 (Desc.of m.desc).mbox) = .loc → ∃ x : Entry, t.core.sbuf = s.core.sbuf ++ [x] ∧ x.ord = 4 ∧ x.src = .engine s.id m.tag
              ∧ x.body = .store (sramKey s.id (bits (BitVec.ofNat 64 (Desc.of m.desc).mbox) 14 0)) 8 (if e = .done then (Desc.of m.desc).mval else (Desc.of m.desc).fval).toNat)
          ∧ (m.code ≠ 0 → s.cx.st.live = true → bit t.cx.errpend 0 = true) ∧ s.Holds t))

/-- R250, R331, R332: DHOPS and DWHO of virtual dies of the tray, 4 cycles after issue; with no die excluded the hops are the distance on the package grid. -/
def Claims.DieQueries : Prop :=
  ∀ (s : State) (d a b : GReg),
    let x := (s.g a).toNat
    let y := (s.g b).toNat
    ((s.vdCount ≤ x ∨ s.vdCount ≤ y) → trapsWith (.dhops d a b) s 0x01 (zext (Instr.first (.dhops d a b))))
    ∧ (x < s.vdCount → y < s.vdCount → completesLater (.dhops d a b) s d (BitVec.ofNat 64 (s.dieHops (s.myVif.pdie x) (s.myVif.pdie y))) 4)
    ∧ (s.vdCount ≤ x → trapsWith (.dwho d a) s 0x01 (zext (Instr.first (.dwho d a))))
    ∧ (x < s.vdCount → x < 16 → ∃ v : Word, completesLater (.dwho d a) s d v 4 ∧ bits v 3 0 = x ∧ bit v 4 = decide (x = s.myVd)
        ∧ bit v 5 = decide (s.myVif.pdie x / 4 = pdieOf s.id / 4) ∧ bits v 15 8 = s.dieHops (pdieOf s.id) (s.myVif.pdie x) ∧ bits v 23 16 = (s.myVif.dies.getD x (0, 0)).2 % 256)
    ∧ ((∀ e, e < 16 → s.excluded e = false) → ∀ p q, p < 16 → q < 16 →
        s.dieHops p q = ((diePos p).1 - (diePos q).1) + ((diePos q).1 - (diePos p).1) + (((diePos p).2 - (diePos q).2) + ((diePos q).2 - (diePos p).2)))

/-- R255, R256: CSAVE and CLOAD at supervisor level, their area translated. CSAVE of a core that cannot issue writes the 29,440 words of an image and ends with 235,520 in g(D)
when every one is performed; CLOAD of another, idle core from an area that holds an image whole puts that image there; below supervisor level both are PRIV, but at a phalanx's follower. -/
def Claims.CoreSaveAndRestore : Prop :=
  ∀ (s : State) (d a b : GReg),
    (s.cx.super = false → (s.cx.inPhlx = false ∨ s.cx.leader = true) → s.cx.asked = false → trapsWith (.csave d a b) s 0x0C (zext (Instr.first (.csave d a b))))
    ∧ (s.cx.super = false → (s.cx.inPhlx = false ∨ s.cx.leader = true) → trapsWith (.cload d a b) s 0x0C (zext (Instr.first (.cload d a b))))
    ∧ (s.cx.super = true → (s.g a).toNat % 4096 ≠ 0 → (s.cx.asked = false → trapsWith (.csave d a b) s 0x05 (s.g a)) ∧ trapsWith (.cload d a b) s 0x05 (s.g a))
    ∧ (s.cx.asked = true → s.unapplied s.mine = false → completesG (.csave d a b) s d 235520)
    ∧ (s.cx.asked = true → s.unapplied s.mine = true → waitsWith (.csave d a b) s .reply)
    ∧ (∀ id ks, s.cx.super = true → (s.g a).toNat % 4096 = 0 → regionOf (s.g a) = .main → s.vifCore (s.g b) = some id → s.gate 1 4 = true →
        (s.checkAll .store 0 (saveArea (s.g a)) = .ok ks → s.cx.asked = false →
          (s.saveable id = false → trapsWith (.csave d a b) s 0x01 (zext (Instr.first (.csave d a b))))
          ∧ (s.saveable id = true → id ≠ s.id → ∃ t, ∃ es : List Entry, ∃ x : Saved, exec (.csave d a b) s = .next t ∧ t.cx.st = .waiting .reply ∧ t.cx.asked = true ∧ t.core.sbuf = s.core.sbuf ++ es ∧ es.length = 29440
              ∧ t.hub.saved = s.hub.saved ++ [x] ∧ x.core = s.coreAt id ∧ x.cx = s.cxAt id (s.coreAt id).k ∧ s.Holds t))
        ∧ (s.checkAll .load 0 (saveArea (s.g a)) = .ok ks →
          (s.loadable id = false → trapsWith (.cload d a b) s 0x01 (zext (Instr.first (.cload d a b))))
          ∧ (∀ x, s.loadable id = true → id ≠ s.id → ((ks.map fun p => p.2.2).all fun k => s.readOk k 4096) = true → s.gate 1 4 = true → s.imageAt (ks.map fun p => p.2.2) = some x →
              ∃ t, exec (.cload d a b) s = .next t ∧ (t.cxAt id x.core.k).g = x.cx.g ∧ (t.cxAt id x.core.k).pc = x.cx.pc ∧ (t.coreAt id).q = x.core.q ∧ (t.coreAt id).frozen = true
                ∧ (t.cxAt id x.core.k).st = (if x.cx.st.live then .halted else x.cx.st) ∧ (t.coreAt id).tray = (s.coreAt id).tray ∧ s.Went t (.cload d a b) d)))

/-- R257, R258, R259: TLBGEN raises a generation, waits until every core of it has acknowledged and answers the generation it has raised to; MIGR asks firmware and ends with its answer; XBSET and
CSTART enter the store buffer for the core they name; with the traps their entries give. -/
def Claims.GenerationsMigrationAndStarts : Prop :=
  ∀ (s : State) (d a b c : GReg),
    let asid := (s.g a).toNat % 4096
    (s.cx.super = false → (s.cx.inPhlx = false ∨ s.cx.leader = true) → trapsWith (.tlbgen d a) s 0x0C (zext (Instr.first (.tlbgen d a))))
    ∧ (s.cx.super = true → 4096 ≤ (s.g a).toNat → trapsWith (.tlbgen d a) s 0x01 (zext (Instr.first (.tlbgen d a))))
    ∧ (s.cx.super = true → (s.g a).toNat < 4096 →
        (s.cx.asked = false → ∃ t, exec (.tlbgen d a) s = .next t ∧ t.cx.st = .waiting .reply ∧ t.cx.asked = true ∧ t.genOf asid = (s.genOf asid + 1) % 2 ^ 20 ∧ t.cx.raised = some (t.genOf asid)
          ∧ (∀ id ∈ s.asidCores asid, asid ∈ (t.coreAt id).genDue) ∧ s.Holds t)
        ∧ (s.cx.asked = true → s.genOpen asid = true → waitsWith (.tlbgen d a) s .reply)
        ∧ (∀ g, s.cx.asked = true → s.genOpen asid = false → s.cx.raised = some g → completesG (.tlbgen d a) s d (BitVec.ofNat 64 g)))
    ∧ (∀ v, s.cx.reply = some v → completesG (.migr d a b) s d v)
    ∧ (s.cx.reply = none → s.cx.asked = true → waitsWith (.migr d a b) s .reply)
    ∧ (s.cx.reply = none → s.cx.asked = false → regionOf (s.g a) ≠ .main → trapsWith (.migr d a b) s 0x07 (s.g a))
    ∧ (s.cx.reply = none → s.cx.asked = false → regionOf (s.g a) = .main → (s.vdCount ≤ bits (s.g b) 3 0 ∨ 16 ≤ (s.g b).toNat) →
        trapsWith (.migr d a b) s 0x01 (zext (Instr.first (.migr d a b))))
    ∧ (s.cx.reply = none → s.cx.asked = false → regionOf (s.g a) = .main → (s.g b).toNat < s.vdCount → (s.g b).toNat < 16 →
        ∃ t, ∃ m : Move, exec (.migr d a b) s = .next t ∧ t.cx.st = .waiting .reply ∧ t.cx.asked = true ∧ t.moves = s.moves ++ [m] ∧ m.asid = bits s.cx.asid 11 0
          ∧ m.va = (s.g a).toNat / 65536 * 65536 ∧ m.step = 0 ∧ s.Holds t)
    ∧ (s.startTarget (s.g a) = none → trapsWith (.xbset a b) s 0x07 (s.g a) ∧ trapsWith (.cstart a b c) s 0x07 (s.g a))
    ∧ (∀ id, s.startTarget (s.g a) = some id →
        (((s.g b).toNat < (s.coreAt id).sbound.toNat ∨ 0x8000 < (s.g b).toNat ∨ (s.g b).toNat % 32 ≠ 0) → trapsWith (.xbset a b) s 0x01 (zext (Instr.first (.xbset a b))))
        ∧ ((s.coreAt id).sbound.toNat ≤ (s.g b).toNat → (s.g b).toNat ≤ 0x8000 → (s.g b).toNat % 32 = 0 → s.gate 1 4 = true → s.matching (.core id) = [] →
            ∃ t, ∃ e : Entry, exec (.xbset a b) s = .next t ∧ t.core.sbuf = s.core.sbuf ++ [e] ∧ e.body = .xbset id (s.g b) (s.g a) ∧ e.dest = .core id ∧ s.Went t (.xbset a b) 0)
        ∧ ((s.g b).toNat % 4 ≠ 0 → trapsWith (.cstart a b c) s 0x05 (s.g b))
        ∧ ((s.g b).toNat % 4 = 0 → 2 ^ 15 ≤ (s.g b).toNat → trapsWith (.cstart a b c) s 0x01 (zext (Instr.first (.cstart a b c))))
        ∧ ((s.g b).toNat % 4 = 0 → (s.g b).toNat < 2 ^ 15 → s.gate 1 4 = true → s.matching (.core id) = [] →
            ∃ t, ∃ e : Entry, exec (.cstart a b c) s = .next t ∧ t.core.sbuf = s.core.sbuf ++ [e] ∧ e.body = .cstart id (BitVec.ofNat 15 (s.g b).toNat) (s.g c) (s.g a) ∧ e.ord = 4
              ∧ e.dest = .core id ∧ s.Went t (.cstart a b c) 0))

/-- R259, R276, R300, R302: XBSET_APPLY and START at a Stopped core with Free helpers and idle engines: XBOUND is written; the control
context is Ready at the PC with g3 the argument, other registers 0, SSLIM as firmware holds it and SSP at its top, queues empty, no lanes. A core that is not so refuses the message. -/
def Claims.RemoteStartSteps : Prop :=
  ∀ (s : State) (item id : Nat) (m : Msg), s.msg item = some m → s.atHead m = true →
    (∀ v ea, m.body = .xbset id v ea →
      (s.startable id = true → s.enginesIdle id = true → ∃ t, exec (.xbsetApply item) s = .next t ∧ (t.coreAt id).xbound = v ∧ t.flight = s.flight.filter (fun x => x.id != item) ∧ s.Holds t)
      ∧ (s.startable id = false → ∃ t, exec (.xbsetApply item) s = .next t ∧ (t.coreAt id).xbound = (s.coreAt id).xbound ∧ t.flight = s.flight.filter (fun x => x.id != item)
          ∧ (m.src = .ctx s.id s.core.k → s.cx.st.live = true → bit s.cx.errpend 0 = false → bits t.cx.errpend 15 8 = 0x07 ∧ t.cx.errTval = ea) ∧ s.Holds t)
      ∧ (s.startable id = true → s.enginesIdle id = false → exec (.xbsetApply item) s = .next s))
    ∧ (∀ pc v ea, m.body = .cstart id pc v ea → s.startable id = true → s.enginesIdle id = true → s.covered (pdieOf id) m.stamp.clock = true →
        ∃ t, exec (.start item) s = .next t ∧ (t.cxAt id 0).st = .ready ∧ (t.cxAt id 0).pc = pc ∧ (t.cxAt id 0).g = (Vector.replicate 32 0).set 3 v ∧ (t.cxAt id 0).status = 0
          ∧ (t.cxAt id 0).sslim = (Table.find (s.coreAt id).limits 0).getD 0 ∧ (t.cxAt id 0).ssp = BitVec.ofNat 64 (bits ((Table.find (s.coreAt id).limits 0).getD 0) 31 16) ∧ (t.cxAt id 0).asid = (s.cxAt id 0).asid ∧ (t.cxAt id 0).memdef = 0x0122
          ∧ (t.coreAt id).lastReq = 0
          ∧ (t.coreAt id).q = Vector.replicate 4 [] ∧ (t.coreAt id).lanes = 0 ∧ (t.coreAt id).xbound = (s.coreAt id).xbound ∧ ∀ a, Memory.get t.mem a = Memory.get s.mem a)

/-- R239, R300, R301, R302: TLBGEN_ACK of a core with no translated access open, or gated: its contexts and active commands of the ASID hold the new generation, and after a wrap its
TLB holds no entry of the ASID; with an access open it does nothing. -/
def Claims.GenerationAcknowledge : Prop :=
  ∀ (s : State) (asid core : Nat), asid ∈ (s.coreAt core).genDue →
    (s.oldAccess core = false ∨ (s.coreAt core).gated = true →
      ∃ t, exec (.tlbgenAck asid core) s = .next t ∧ asid ∉ (t.coreAt core).genDue
        ∧ (∀ m ∈ (t.coreAt core).cmds, m.asid = asid → m.active = true → m.gen = s.genOf asid)
        ∧ (∀ k, k < 11 → bits (s.cxAt core k).asid 11 0 = asid → (t.cxAt core k).gen = BitVec.ofNat 64 (s.genOf asid))
        ∧ (asid ∈ (s.coreAt core).sweepDue → ∀ e ∈ (t.coreAt core).tlb, e.asid ≠ asid) ∧ s.Holds t)
    ∧ (s.oldAccess core = true → (s.coreAt core).gated = false → exec (.tlbgenAck asid core) s = .next s)

/-- R297, R298: PAGE_WALK for the context in view, its walk one of its octet's four: a missing or invalid entry ends it with PAGE, a forbidden access with PERM; of a leaf in movement it is walked again; any other leaf has
A, and D for a store or AMO, set in its entry, no other byte of memory changed, and its translation installed in the core's TLB. -/
def Claims.PageWalks : Prop :=
  ∀ (s : State) (w : Walk), s.core.k < 11 → s.cx.walk = some w → w.fault = none →
    (s.walking s.id w = false → exec (.pageWalk s.id s.core.k) s = .next s)
    ∧ (s.walking s.id w = true →
    (s.walkOf w.asid w.va.toNat = .page →
      ∃ t, exec (.pageWalk s.id s.core.k) s = .next t ∧ t.cx.walk = some { w with fault := some 0x06 } ∧ s.Holds t)
    ∧ (∀ pa level e, s.walkOf w.asid w.va.toNat = .leaf pa level e →
        (bit e 6 = true → ∃ t, exec (.pageWalk s.id s.core.k) s = .next t ∧ t.cx.walk = some { w with at_ := s.seq } ∧ s.Holds t)
        ∧ (bit e 7 = true → bit e 6 = false → ∃ t, exec (.pageWalk s.id s.core.k) s = .next t ∧ t.cx.walk = some { w with fault := some 0x06 } ∧ s.Holds t)
        ∧ (bit e 7 = false → bit e 6 = false → leafPermits e w.kind = false →
            ∃ t, exec (.pageWalk s.id s.core.k) s = .next t ∧ t.cx.walk = some { w with fault := some 0x07 } ∧ s.Holds t)
        ∧ (bit e 7 = false → bit e 6 = false → leafPermits e w.kind = true →
            ∃ t, exec (.pageWalk s.id s.core.k) s = .next t ∧ t.cx.walk = none ∧ t.core.tlb.head? = some (tlbOf w level e) ∧ (∀ r, t.g r = s.g r)
              ∧ Memory.getN t.mem pa 8 = Memory.getN s.mem pa 8 ||| (if w.kind = 0 then 0x10 else 0x30)
              ∧ ∀ a, a < pa ∨ pa + 8 ≤ a → Memory.get t.mem a = Memory.get s.mem a)))

/-- R303, R304: PAGE_MOVE. Step 0 sets MOVE in the leaf and raises the generation; once every core has acknowledged and no write to the old frame is on its way, its
bytes stand at the new frame, the leaf names it with MOVE clear, and the generation is raised again. Firmware's refusal, as a new frame of 0, answers
the MIGR 1, a page already in movement 2. (The frame 0, and that the end of a move clears HINT: notes/assumptions/51.md.) -/
def Claims.PageMoves : Prop :=
  ∀ (s : State) (m : Move) (va newPa : Nat), (s.moves.find? fun x => x.asid == m.asid && x.va == va / 65536 * 65536 && x.step == m.step) = some m →
    (∀ pa e, m.step = 0 → s.walkOf m.asid m.va = .leaf pa 4 e → bit e 6 = false → newPa ≠ 0 → frameOk m newPa = true → s.frameGranted m.asid newPa = true →
      ∃ t, exec (.pageMove m.asid va newPa) s = .next t ∧ Memory.getN t.mem pa 8 = (setBit e 6 true).toNat ∧ t.genOf m.asid = (s.genOf m.asid + 1) % 2 ^ 20
        ∧ { m with newPa := newPa, leaf := pa, step := 1 } ∈ t.moves ∧ (∀ r, t.g r = s.g r) ∧ ∀ a, a < pa ∨ pa + 8 ≤ a → Memory.get t.mem a = Memory.get s.mem a)
    ∧ (∀ pa e, m.step = 0 → s.walkOf m.asid m.va = .leaf pa 4 e → bit e 6 = false → m.core = s.id → s.id < 102400 → m.ctx = s.core.k → s.cx.asked = true →
        ∃ t, exec (.pageMove m.asid va 0) s = .next t ∧ t.cx.reply = some 1 ∧ t.moves = s.moves.filter (fun x => x != m) ∧ s.Holds t)
    ∧ (∀ pa e, m.step = 0 → s.walkOf m.asid m.va = .leaf pa 4 e → bit e 6 = true → m.core = s.id → s.id < 102400 → m.ctx = s.core.k → s.cx.asked = true →
        ∃ t, exec (.pageMove m.asid va newPa) s = .next t ∧ t.cx.reply = some 2 ∧ t.moves = s.moves.filter (fun x => x != m) ∧ s.Holds t)
    ∧ (m.step = 1 → (∀ x ∈ s.moves, x.asid = m.asid → x.va = m.va → x.step = 1) → s.genOpen m.asid = true → exec (.pageMove m.asid va newPa) s = .next s)
    ∧ (m.step = 1 → (∀ x ∈ s.moves, x.asid = m.asid → x.va = m.va → x.step = 1) → s.genOpen m.asid = false →
        let e := s.pte m.leaf
        let old := pteAddr e
        s.frameBusy old = false → (m.leaf + 8 ≤ m.newPa ∨ m.newPa + 65536 ≤ m.leaf) →
        ∃ t, exec (.pageMove m.asid va newPa) s = .next t ∧ (∀ j, j < 65536 → Memory.get t.mem (m.newPa + j) = Memory.get s.mem (old + j))
          ∧ Memory.getN t.mem m.leaf 8 = (setBits (setBit (setBit e 6 false) 7 false) 43 16 (m.newPa / 65536)).toNat ∧ t.genOf m.asid = (s.genOf m.asid + 1) % 2 ^ 20
          ∧ t.moves = s.moves.filter (fun x => x != m)
          ∧ ∀ a, (a < m.newPa ∨ m.newPa + 65536 ≤ a) → (a < m.leaf ∨ m.leaf + 8 ≤ a) → Memory.get t.mem a = Memory.get s.mem a)

/-- R305: PAGE_MOVE of a page without a mapping that no MIGR names completes it: the level-4 entry of the page names the frame, and nothing else of memory changes; a context whose walk of the page had failed walks again. (That it becomes readable and writable: notes/assumptions/82.md.) -/
def Claims.MappingsAreCompleted : Prop :=
  ∀ (s : State) (asid va newPa pa : Nat),
    let page := va / 65536 * 65536
    (s.moves.all fun x => !(x.asid == asid && x.va == page)) = true → s.walkOf asid page = .page → s.slotOf asid page = some pa → bit (s.pte pa) 0 = false → frameFree newPa = true → s.frameGranted asid newPa = true →
    ∃ t, exec (.pageMove asid va newPa) s = .next t ∧ Memory.getN t.mem pa 8 = 0xF + newPa ∧ (∀ a, a < pa ∨ pa + 8 ≤ a → Memory.get t.mem a = Memory.get s.mem a)
      ∧ (∀ r, t.g r = s.g r) ∧ t.cx.pc = s.cx.pc ∧ t.cx.status = s.cx.status
      ∧ ∀ w c, s.id ∈ s.sites → s.core.k < 11 → s.cx.walk = some w → w.fault = some c → w.asid = asid → w.va.toNat / 65536 * 65536 = page → t.cx.walk = none

/-- R305, R306, R307: CONTEXT_SHIP of a control context with nothing that binds it to its site, at a failed translation of a page on another die: the context is Stopped and its
registers, every earlier result written, are on their way to the landing core with the fewest hops. SHIP_LANDING starts that core's control context at the same PC with the same registers. -/
def Claims.ContextShipping : Prop :=
  ∀ (s : State),
    (∀ w pa landing, s.cx.walk = some w → w.fault.isSome = true → s.pageOf w.asid w.va.toNat = some pa → s.cx.st = .waiting .reply → s.shippable = true → s.cx.pend = [] → s.performed 4 = true →
      s.bestLanding pa = some landing → pdieOf landing ≠ pdieOf s.id →
      ∃ t, ∃ x : Msg, ∃ c, exec (.contextShip s.id landing) s = .next t ∧ t.cx.st = .stopped ∧ t.flight = s.flight ++ [x] ∧ x.dest = .core landing ∧ x.body = .ship landing c ∧ c.pc = s.cx.pc
        ∧ c.g = s.cx.g ∧ c.memdef = s.cx.memdef ∧ c.fflags = s.cx.fflags ∧ s.Holds t)
    ∧ (∀ item m id c, s.msg item = some m → m.body = .ship id c → s.atHead m = true → s.startable id = true →
        ∃ t, exec (.shipLanding item) s = .next t ∧ (t.cxAt id 0).st = .ready ∧ (t.cxAt id 0).pc = c.pc ∧ (t.cxAt id 0).g = c.g ∧ (t.cxAt id 0).memdef = c.memdef
          ∧ (t.cxAt id 0).fflags = c.fflags ∧ (t.cxAt id 0).asid = (s.cxAt id 0).asid ∧ t.flight = s.flight.filter (fun x => x.id != item)
          ∧ ∀ a, Memory.get t.mem a = Memory.get s.mem a)

/-- R116, R115, R22, R23, R25, R26, R145, R127: the write effects of control registers as steps, seen from the context. A plain register takes a value within its bits, and no other
register changes; XBOUND takes a multiple of 32 from SBOUND to 0x8000 from a control context whose helpers are Free or Exited, else ILLEGAL; VSETL takes at most the grant and raises
NOLANES while another context holds it; DOMAIN and BREGk take acceptable values; ERRPEND is cleared, but for an error
posted in the same cycle, which is recorded after the write, as flags merged in the same cycle are. PAUSE_EXPIRY makes the context Ready once its cycles have passed. -/
def Claims.RegisterWriteSteps : Prop :=
  ∀ (s : State) (sel : BitVec 8) (m v : Word) (k : BitVec 2),
    let helpersDone := ∀ j, 1 ≤ j → j ≤ 10 → (s.core.ctx s.cx j).st = .free ∨ (s.core.ctx s.cx j).st = .exited
    let xok := s.core.k = 0 ∧ helpersDone ∧ s.core.sbound.toNat ≤ v.toNat ∧ v.toNat ≤ 0x8000 ∧ v.toNat % 32 = 0
    ((sel, m) ∈ plainRegisters → v &&& ~~~m = 0 → s.cx.lateCy ≠ s.cy →
      ∃ t, exec (.controlRegisterWrite s.id s.core.k sel v) s = .next t ∧ t.creg sel.toNat = some v ∧ (∀ n, n ≠ sel.toNat → t.creg n = s.creg n) ∧ (∀ r, t.g r = s.g r) ∧ t.cx.pc = s.cx.pc
        ∧ ∀ a, Memory.get t.mem a = Memory.get s.mem a)
    ∧ (xok → ∃ t, exec (.xboundWrite s.id s.core.k v) s = .next t ∧ t.core.xbound = v ∧ s.Holds t)
    ∧ (¬ xok → s.cx.super = false → s.cx.inPhlx = false → ∃ t, exec (.xboundWrite s.id s.core.k v) s = .next t ∧ t.core.xbound = s.core.xbound ∧ t.cx.cause = 0x01 ∧ t.cx.tval = 0x08
        ∧ t.cx.epc = zext s.cx.pc)
    ∧ (v.toNat < 256 → s.heldByOther = false → ∃ t, exec (.vsetlWrite s.id s.core.k v) s = .next t ∧ t.core.vsetl = BitVec.ofNat 64 (min v.toNat s.core.lanes) ∧ s.Holds t)
    ∧ (v.toNat < 256 → s.heldByOther = true → s.cx.super = false → s.cx.inPhlx = false →
        ∃ t, exec (.vsetlWrite s.id s.core.k v) s = .next t ∧ t.core.vsetl = s.core.vsetl ∧ t.cx.cause = 0x16 ∧ t.cx.epc = zext s.cx.pc)
    ∧ (v &&& ~~~(0xFFFFFFFF7 : Word) = 0 → s.acceptable 0x14 v = true → ∃ t, exec (.domainWrite s.id s.core.k v) s = .next t ∧ t.cx.domain = v ∧ s.Holds t)
    ∧ (s.crTrap (0x1C + k.toNat) s.cx.breg[bregIdx k] v = none →
        ∃ t, exec (.bregWrite s.id s.core.k k v) s = .next t ∧ t.cx.breg[bregIdx k] = (v &&& ~~~2) ||| (s.cx.breg[bregIdx k] &&& 2) ∧ (t.cx.bar k.toNat).pend = false ∧ s.Holds t)
    ∧ (s.cx.lateCy = s.cy → v &&& ~~~(0x3F : Word) = 0 → ∃ t, exec (.controlRegisterWrite s.id s.core.k 0x0D v) s = .next t ∧ t.cx.fflags = v ||| s.cx.lateFl ∧ ∀ r, t.g r = s.g r)
    ∧ (s.cx.lateCy ≠ s.cy ∨ s.cx.lateErr = [] → ∃ t, exec (.errpendClear s.id s.core.k) s = .next t ∧ bit t.cx.errpend 0 = false ∧ bit t.cx.errpend 1 = false
        ∧ (∀ r, t.g r = s.g r) ∧ t.cx.pc = s.cx.pc ∧ t.cx.status = s.cx.status ∧ ∀ a, Memory.get t.mem a = Memory.get s.mem a)
    ∧ (∀ c b q w, s.cx.lateCy = s.cy → s.cx.lateErr = [(c, b, q, w)] → ∃ t, exec (.errpendClear s.id s.core.k) s = .next t ∧ bit t.cx.errpend 0 = true
        ∧ bits t.cx.errpend 15 8 = c % 256 ∧ bits t.cx.errpend 23 16 = b % 256 ∧ t.cx.errTval = w ∧ t.cx.errSource = q)
    ∧ (s.cx.st = .waiting .operand → s.cx.pauseEnd ≠ 0 →
        (s.cx.pauseEnd ≤ s.cy → ∃ t, exec (.pauseExpiry s.id s.core.k) s = .next t ∧ t.cx.st = .ready ∧ s.Holds t)
        ∧ (s.cy < s.cx.pauseEnd → exec (.pauseExpiry s.id s.core.k) s = .next s))
/-! ## Ports, credits, merging, errors (spec/05_scalar.md, spec/19_fabric_dies.md, spec/20_reliability.md) -/

/-- R119, R120, R326, R262, R372: a routed message enters n5 whole when its places are free beside the room lent and the room that others' words on their way have used, in the order of its
route, else it stays on its way; a neighbour word enters its FIFO 2 cycles after it was sent. -/
def Claims.PortDeliveries : Prop :=
  ∀ (s : State) (item n port : Nat) (m : Msg) (ws : List Word) (v : Word) (c : Nat),
    (s.msg item = some m → m.body = .routed n ws →
      let used := (s.coreAt n).n5.length + s.lentBy m.core (.core n) + (s.usedOf m.core (.core n) - min ws.length (s.paidFor m (.core n))) + ws.length
      (m.stage = .home → ((s.flight.takeWhile fun x => x.id != item).any fun x => x.src == m.src && x.dest == m.dest && x.cls == .m) = false →
        used ≤ 16 →
        ∃ t, exec (.routedMessageDeliver item) s = .next t ∧ (t.coreAt n).n5 = (s.coreAt n).n5 ++ ws ∧ t.flight = s.flight.filter (fun x => x.id != item) ∧ s.Holds t)
      ∧ (16 < used ∨ m.stage ≠ .home → exec (.routedMessageDeliver item) s = .next s))
    ∧ (∀ h : port < 4, s.core.nFly = [⟨port, v, c, none⟩] → s.core.nIn[port].length < 4 →
        (c + 2 ≤ s.cy → ∃ t, exec (.neighbourWordArrive s.id port) s = .next t ∧ t.core.nIn[port] = s.core.nIn[port] ++ [v] ∧ t.core.nFly = [] ∧ s.Holds t)
        ∧ (s.cy < c + 2 → ∃ t, exec (.neighbourWordArrive s.id port) s = .next t ∧ t.core.nIn = s.core.nIn ∧ t.core.nFly = s.core.nFly ∧ s.Holds t))

/-- R48: a core all of whose contexts wait on its own queues. Before the cycle has lasted DLTIME nothing happens; then the waiting contexts take RCYCLE at
their instructions with TVAL 8 plus the queue's number. (No context at supervisor level, the one in view in no phalanx.) -/
def Claims.CyclesOfWaitsAreBroken : Prop :=
  ∀ (s : State), s.halted s.id = false → s.isCycle [s.id] = true →
    (s.cy - s.cycleSince [s.id] < (s.vif (s.vifOf s.id)).dltime → exec (.rcycle [s.id]) s = .next s)
    ∧ ((s.vif (s.vifOf s.id)).dltime ≤ s.cy - s.cycleSince [s.id] → s.core.k < 11 → s.cx.inCycleWait = true → s.cx.want < 8 → (∀ k, k < 11 → (s.cxAt s.id k).super = false) →
        s.cx.inPhlx = false →
        ∃ t, exec (.rcycle [s.id]) s = .next t ∧ t.cx.epc = zext s.cx.pc ∧ t.cx.cause = 0x10 ∧ t.cx.tval = BitVec.ofNat 64 (8 + s.cx.want % 4) ∧ (∀ r, t.g r = s.g r)
          ∧ ∀ a, Memory.get t.mem a = Memory.get s.mem a)

/-- R372: CREDIT_RETURN lends a word of its room to the core whose turn it is, of those that bind the destination with an allowance below 255; the next word is another's turn, when
another waits for one; several words are lent one at a time; a core that binds nothing there gets none. (That a step names how many words are lent, and the number from which the turns begin:
notes/assumptions/25.md.) -/
def Claims.CreditsAreLent : Prop :=
  ∀ (s : State) (n words : Nat), n < 102400 →
    (s.bound (.core n) = true → s.core.creditOf (.core n) < 255 → s.nextBorrower s.id (.core n) = some s.id → 1 ≤ s.roomOf s.id (.core n) →
      ∃ t, exec (.creditReturn n s.id 1) s = .next t ∧ t.core.creditOf (.core n) = s.core.creditOf (.core n) + 1 ∧ Table.find t.lendTurn n = some s.id ∧ s.Holds t
        ∧ exec (.creditReturn n s.id (words + 1)) s = exec (.creditReturn n s.id words) t)
    ∧ (∀ o, s.borrowers s.id (.core n) = [s.id, o] → s.id < o → Table.find s.lendTurn n = some s.id → exec (.creditReturn n s.id words) s = .next s)
    ∧ (s.bound (.core n) = false → exec (.creditReturn n s.id words) s = .next s)

/-- R136, R230, R232, R330, R333: PACKET_MERGE of two packets of one destination and class that wait in one queue, the second behind the first with no other of its route between them and neither
merged there before, both of one level if they go to a core, leaves the merged body and every issuer in the first and takes the second away; a merged contribution keeps handle and ANCHOR, adds the counts, is of disjoint parts and has at most 2
intervals and 4 contributors; MERGE_BUFFER_FLUSH lets a packet that may cross leave its buffer, a write for the apply queue of its home's die, any other for its home. -/
def Claims.PacketsMerge : Prop :=
  (∀ (s : State) (i j : Nat) (p q : Msg) (b : Body), s.msg i = some p → s.msg j = some q → s.mayMeet i j = true →
      p.dest = q.dest → p.cls = q.cls → s.between p q = false → mergeBodies p.body q.body = some b →
      (p.dest.isCore = false ∨ ∀ x ∈ p.parts ++ q.parts, x.user = p.user) →
      ∃ t x, exec (.packetMerge i j) s = .next t ∧ x ∈ t.flight ∧ x.id = i ∧ x.body = b ∧ x.also = p.also ++ q.parts ∧ x.ident = p.ident ++ q.ident
        ∧ (∀ y ∈ t.flight, y.id ≠ j) ∧ s.Holds t)
  ∧ (∀ p q r : Packet, mergePackets p q = some r → r.handle = p.handle ∧ q.handle = p.handle ∧ r.anchor = p.anchor ∧ q.anchor = p.anchor ∧ r.n = p.n + q.n ∧ r.spans.length ≤ 2
      ∧ r.from_ = p.from_ ++ q.from_ ∧ r.from_.length ≤ 4 ∧ (∀ x ∈ q.spans, touches p.spans x = false))
  ∧ (∀ (s : State) (item : Nat) (m : Msg), s.msg item = some m →
      (m.stage = .buffer → s.mayCross m = true →
        ∃ t, exec (.mergeBufferFlush item) s = .next t ∧ (∃ x ∈ t.flight, x.id = m.id ∧ x.body = m.body ∧ x.stage = (if m.body.applied then .arrived else .home)) ∧ s.Holds t)
      ∧ (m.stage ≠ .buffer ∨ s.mayCross m = false → exec (.mergeBufferFlush item) s = .next s))

/-- R136: operands combined on the way leave at the location what the two AMOs one after the other would have left, for every integer operation that may combine. -/
def Claims.CombinedAtomicsHaveTheSameEffect : Prop :=
  ∀ (op : AmoOp) (size old x y v e : Nat), op ≠ .fadd → combineAmo op size x y = some v → amoNew op size old v e = amoNew op size (amoNew op size old x e) y e

/-- Records in the error log of a die. -/
abbrev logSize (s : State) (d : Nat) : Nat := (s.hub.errlog.filter fun r => r.die == d).length

/-- One record more in the log of die `d`, of which it keeps 4,096; the other dies' logs as they were. -/
abbrev logsOne (s t : State) (d : Nat) : Prop := ∀ x, x < 16 → logSize t x = if x = d then min 4096 (logSize s x + 1) else logSize s x

/-- R25, R33, R345, R348, R349, R350, R352: ERROR_POST to the context in view: PIPE is precise, the trap of a context that can issue; a code that is not posted with that subcode and source does nothing;
with none pending ERRPEND takes VALID, the code and SUB, with TVAL and SOURCE kept beside it; with one pending only MORE is set; a context that is Stopped, Free or Exited takes none. The record
goes to the error log of the core's die, which keeps at most 4,096. MEMERR or MATERR of what has been issued or accepted since the core took its Running node is recorded against the node. -/
def Claims.ErrorsArePosted : Prop :=
  ∀ (s : State) (code sub source at_ : Nat) (tval : Word), code < 256 → sub < 256 → ¬ (code = 0x11 ∧ sub = 3) →
    (source ≠ 2 → s.cx.st = .ready → s.cx.asked = false → s.cx.arrived = false → s.cx.await = none → s.cx.super = false → s.cx.inPhlx = false →
      ∃ t, exec (.errorPost s.id s.core.k 0x0D sub source ⟨tval, at_⟩) s = .next t ∧ t.cx.cause = 0x0D ∧ t.cx.epc = zext s.cx.pc
        ∧ t.cx.tval = BitVec.ofNat 64 (Memory.getN s.mem (sramKey s.id s.cx.pc.toNat) 4) ∧ (∀ r, t.g r = s.g r) ∧ ∀ a, Memory.get t.mem a = Memory.get s.mem a)
    ∧ (code ≠ 0x0D → postable code sub source = false → exec (.errorPost s.id s.core.k code sub source ⟨tval, at_⟩) s = .next s)
    ∧ (postable code sub source = true → ∃ t, exec (.errorPost s.id s.core.k code sub source ⟨tval, at_⟩) s = .next t ∧ s.Holds t ∧ (pdieOf s.id < 16 → logsOne s t (pdieOf s.id))
      ∧ (s.cx.st.live = true → bit s.cx.errpend 0 = false →
          bit t.cx.errpend 0 = true ∧ bit t.cx.errpend 1 = false ∧ bits t.cx.errpend 15 8 = code ∧ bits t.cx.errpend 23 16 = sub ∧ t.cx.errTval = tval ∧ t.cx.errSource = source)
      ∧ (s.cx.st.live = true → bit s.cx.errpend 0 = true →
          t.cx.errpend = s.cx.errpend ||| 2 ∧ t.cx.errTval = s.cx.errTval ∧ t.cx.errSource = s.cx.errSource)
      ∧ (s.cx.st.live = false → t.cx = s.cx)
      ∧ ((code = 0x11 ∨ code = 0x12) → s.cx.st.live = true → s.core.node.isSome = true → s.core.nodeErr = none → s.core.nodeFrom ≤ at_ → t.core.nodeErr = some (code, sub, source, tval))
      ∧ (s.core.node = none ∨ at_ < s.core.nodeFrom ∨ s.cx.st.live = false → t.core.nodeErr = s.core.nodeErr))

/-- R346, R347, R350, R357: SCRUB of a word that cannot be corrected poisons it (a word of SRAM, the 8 words of a line, a slot, an m tile, an accumulator tile); of one that can be,
it changes nothing but the log. An error of a register or queue entry is PIPE at the instruction that reads it next. MARGIN_SAMPLE, 10 s after the last, records the smallest of each die's 256 slacks. -/
def Claims.ScrubAndMargins : Prop :=
  ∀ (s : State) (addr k : Nat) (slack : List Nat),
    (∃ t, exec (.scrub .sram addr true) s = .next t ∧ addr / 8 ∈ t.poison ∧ (∀ w, w ≠ addr / 8 → (w ∈ t.poison ↔ w ∈ s.poison)) ∧ s.Holds t)
    ∧ (∃ t, exec (.scrub .sram addr false) s = .next t ∧ t.poison = s.poison ∧ (keyPlace addr < 2 ^ 18 → logsOne s t (keyPlace addr / 2 ^ 14)) ∧ s.Holds t)
    ∧ (∃ t, exec (.scrub .dramLine addr true) s = .next t ∧ (∀ j, j < 8 → addr / 64 * 8 + j ∈ t.poison) ∧ s.Holds t)
    ∧ (k < 8 → ∃ t, exec (.scrub (.operandMem k) s.id true) s = .next t ∧ (t.core.slot (BitVec.ofNat 3 k)).poison = true ∧ s.Holds t)
    ∧ (k < 4 → ∃ t, exec (.scrub (.mTile k) s.id true) s = .next t ∧ (t.core.tile k).poison = true ∧ s.Holds t)
    ∧ (∀ x, Table.find s.tiles addr = some x → ∃ t y, exec (.scrub .accTile addr true) s = .next t ∧ Table.find t.tiles addr = some y ∧ y.poison = true ∧ y.acc = x.acc ∧ s.Holds t)
    ∧ (∀ i c, s.cx.st = .ready → s.cx.asked = false → s.cx.arrived = false → s.cx.await = none → s.nextInstr = some i → readsCell i c = true → s.cx.super = false → s.cx.inPhlx = false →
        ∃ t, exec (.scrub (.cell s.core.k c) s.id true) s = .next t ∧ t.cx.cause = 0x0D ∧ t.cx.epc = zext s.cx.pc ∧ (∀ r, t.g r = s.g r) ∧ ∀ a, Memory.get t.mem a = Memory.get s.mem a)
    ∧ (slack.length = 4096 → s.hub.sampledAt + 10000000000 ≤ s.time →
        ∃ t, exec (.marginSample slack) s = .next t ∧ s.Holds t ∧ ∀ d x, d < 16 → s.dies[d]? = some x → x.excluded = false →
          ∃ y j, t.dies[d]? = some y ∧ j < 256 ∧ y.slack = slack.getD (256 * d + j) 0 ∧ ∀ i, i < 256 → y.slack ≤ slack.getD (256 * d + i) 0)
    ∧ (s.time < s.hub.sampledAt + 10000000000 → exec (.marginSample slack) s = .next s)

/-! ## The hub, trays and the host (spec/18_scheduling.md, spec/21_host_bringup.md) -/

/-- R308: a doorbell write with no reserved bit that covers 1 to N entries becomes TAIL; any other counts in SKIPS and leaves TAIL. -/
def Claims.Doorbells : Prop :=
  ∀ (s : State) (u : Nat) (v : Word) (q : UserQueue), s.queue? u = some q →
    let n := (bits v 31 0 + 2 ^ 32 - q.head) % 2 ^ 32
    (bits v 63 32 = 0 → 1 ≤ n → n ≤ 2 ^ q.logN → ∃ t p, exec (.doorbellWrite u v) s = .next t ∧ t.queue? u = some p ∧ p.tail = bits v 31 0 ∧ s.Holds t)
    ∧ (bits v 63 32 ≠ 0 ∨ n = 0 ∨ 2 ^ q.logN < n →
        ∃ t p, exec (.doorbellWrite u v) s = .next t ∧ t.queue? u = some p ∧ p.tail = q.tail ∧ p.head = q.head ∧ p.skips = min (2 ^ 32 - 1) (q.skips + 1) ∧ s.Holds t)

/-- R311, R312, R313: BIND_ROUND every BINDQ gives a lone pending queue slot 0 when all slots are free; DISPATCH_CYCLE every 40 ns takes the eligible head entry of the bound queue: a
node is written to a pool record and queued, a close closes its work queue, a launch starts the tray's image at every enabled core of it with the argument in g3, or, where engines still hold work, sends its start; HEAD goes one on.
(That a launch on a tray too small for the image fails its job: notes/assumptions/83.md; which idle slot a queue gets: 101.md.) -/
def Claims.BindingAndDispatch : Prop :=
  ∀ (s : State) (u n : Nat) (q : UserQueue) (x : Slot) (e : List Word),
    (s.time < s.hub.lastBind + s.hub.bindq → exec .bindRound s = .next s)
    ∧ (s.hub.lastBind + s.hub.bindq ≤ s.time → s.hub.queues = [(u, q)] → s.hub.slots = [] → q.pending = true → s.settle u = s →
        ∃ t p, exec .bindRound s = .next t ∧ t.hub.slots = [(0, ⟨u, s.time, s.time, none⟩)] ∧ t.queue? u = some p ∧ p.slot = some 0 ∧ t.hub.lastBind = s.time ∧ s.Holds t)
    ∧ (s.time < s.hub.lastDispatch + 40 → exec .dispatchCycle s = .next s)
    ∧ (s.hub.lastDispatch + 40 ≤ s.time → s.hub.slots = [] → ∃ t, exec .dispatchCycle s = .next t ∧ t.hub.lastDispatch = s.time ∧ s.Holds t)
    ∧ (s.hub.lastDispatch + 40 ≤ s.time → s.hub.slots = [(n, x)] → n < 1024 → x.queue = u → s.queue? u = some q → s.settle u = s → s.eligible q = some e →
        ∃ t p, exec .dispatchCycle s = .next t ∧ t.queue? u = some p ∧ p.head = (q.head + 1) % 2 ^ 32 ∧ t.hub.dispatchPtr = (n + 1) % 1024
          ∧ (entryKind e = 3 → (t.wqueue (entryWq e)).closed = true ∧ (t.wqueue (entryWq e)).items = (s.wqueue (entryWq e)).items ∧ s.Holds t)
          ∧ (∀ key f, entryKind e = 1 → (s.vif q.vif).takeRecord q.vif = some (key, f) → (s.wqueue (entryWq e)).closed = false →
              (t.wqueue (entryWq e)).items = (s.wqueue (entryWq e)).items ++ [key] ∧ bits (t.nodeWord key 0) 2 0 = 1 ∧ bits (t.nodeWord key 0) 19 8 = entryWq e
              ∧ ∀ a, a < key ∨ key + 64 ≤ a → Memory.get t.mem a = Memory.get s.mem a)
          ∧ (entryKind e = 2 →
              let img := ((s.vif q.vif).trays.getD (entryTray e) Tray.empty).program
              let ids := s.trayCores q.vif (entryTray e)
              (s.meetsNeed q.vif (entryTray e) img = true → (∀ id ∈ ids, s.enginesIdle id = true) →
                ∀ id ∈ ids, (t.cxAt id 0).st = .ready ∧ (t.cxAt id 0).pc = img.entry ∧ (t.cxAt id 0).g = (Vector.replicate 32 0).set 3 (e.getD 1 0) ∧ (t.coreAt id).xbound = img.xbound)
              ∧ (s.meetsNeed q.vif (entryTray e) img = true → ∀ id ∈ ids, (s.coreAt id).tray = some (q.vif, entryTray e) → s.enginesIdle id = false →
                  ∃ m ∈ t.flight, m.body = .cstart id img.entry (e.getD 1 0) 0)
              ∧ (s.meetsNeed q.vif (entryTray e) img = false → (∃ j ∈ t.hub.jobs, j.kind = 2 ∧ j.vif = q.vif ∧ j.obj = entryTray e ∧ j.failed = true) ∧ s.Holds t)))

/-- R314, R361: a job that has ended writes CVAL or FVAL at CADDR in the host's memory, once, and is gone; one that runs writes nothing. -/
def Claims.JobCompletions : Prop :=
  ∀ (s : State) (n : Nat) (j : Job), s.hub.jobs[n]? = some j →
    (s.jobEnd j = none → exec (.jobCompletionWrite n) s = .next s)
    ∧ (∀ ok, s.jobEnd j = some ok → j.caddr ≠ 0 →
        ∃ t, exec (.jobCompletionWrite n) s = .next t ∧ Memory.getN t.hub.hostMem j.caddr 8 = (if ok then j.cval else j.fval).toNat ∧ t.hub.jobs = dropAt s.hub.jobs n
          ∧ (∀ a, a < j.caddr ∨ j.caddr + 8 ≤ a → Memory.get t.hub.hostMem a = Memory.get s.hub.hostMem a) ∧ s.Holds t)

/-- R317, R318, R320, R321: CORE_PREEMPT_HALT halts the core's live contexts in the first cycle at H; TRAY_SAVE saves a halted tray whose cores are quiet; CORE_RESUME lets the halted
contexts go on at Q: one that waited for replies waits on, one that paused waits out its pause, any other issues its instruction again. (A core with no PHLX arrival; no jdb halt.) -/
def Claims.PreemptionSteps : Prop :=
  ∀ (s : State),
    (∀ h, s.core.haltAt = some h → s.time < h → exec (.corePreemptHalt s.id) s = .next s)
    ∧ (∀ h, s.core.haltAt = some h → h ≤ s.time → s.core.resumeAt = none → (s.episodes.all fun e => e.k != 5) = true →
        ∃ t, exec (.corePreemptHalt s.id) s = .next t ∧ t.core.frozen = true ∧ t.core.haltAt = none ∧ (∀ k, k < 11 → (s.cxAt s.id k).st.live = true → (t.cxAt s.id k).st = .halted)
          ∧ (∀ r, t.g r = s.g r) ∧ t.cx.pc = s.cx.pc ∧ ∀ a, Memory.get t.mem a = Memory.get s.mem a)
    ∧ (∀ v n x w, s.tray? v n = some x → x.st = .halting w →
        ((s.coresOf v n).all s.quiet = false → exec (.traySave v n) s = .next s)
        ∧ ((s.coresOf v n).all s.quiet = true → ∃ t y, exec (.traySave v n) s = .next t ∧ t.tray? v n = some y ∧ y.st = .saved w ∧ y.image = (s.coresOf v n).map s.snapshot
            ∧ (w = false → s.hub.mailbox.go = true → s.hub.mailbox.op = 4 → s.hub.mailbox.arg 0x40 1 % 2 = 0 → s.hub.mailbox.vif = v → s.hub.mailbox.arg 0x48 1 = n →
                t.hub.mailbox.go = false ∧ t.hub.mailbox.status = 0) ∧ s.Holds t))
    ∧ (∀ q p, s.core.resumeAt = some q → s.core.tray = some p →
        (s.time < q → exec (.coreResume s.id) s = .next s)
        ∧ (q ≤ s.time → s.core.debugged = false → s.core.faulted = false → ∃ t, exec (.coreResume s.id) s = .next t ∧ t.core.frozen = false ∧ t.core.resumeAt = none
            ∧ (∀ k, k < 11 → (t.cxAt s.id k).st = (if (s.cxAt s.id k).st = .halted then
                (if (s.cxAt s.id k).await.isSome then .waiting .reply else if (s.cxAt s.id k).pauseEnd ≠ 0 then .waiting .operand else .ready) else (s.cxAt s.id k).st)) ∧ s.Holds t))

/-- R364: the mailbox has answered a command: GO is clear, STATUS and the response words stand. -/
def answered (t : State) (status resp0 resp1 : Nat) : Prop :=
  t.hub.mailbox.go = false ∧ t.hub.mailbox.status = status ∧ t.hub.mailbox.resp0 = BitVec.ofNat 64 resp0 ∧ t.hub.mailbox.resp1 = BitVec.ofNat 64 resp1

/-- R308, R365, R366, R369: the commands of the mailbox that queues, RESYNC and windows are. QCREATE takes the lowest free number and answers it; QDESTROY removes a queue of the
interface with TAIL = HEAD, and answers 1 for one that is not empty; RESYNC samples at the next multiple of 1,024 ns, and the sample stands in the host's buffer, its Header section first; WINDOW is refused for an excluded die. -/
def Claims.MailboxCommands : Prop :=
  ∀ (s : State),
    let m := s.hub.mailbox
    let ring := m.arg 0x48 8 % 2 ^ 52
    let w := m.arg 0x50 8
    let v := s.vif m.vif
    let good := ring % 4096 = 0 ∧ 4 ≤ w % 32 ∧ w % 32 ≤ 16 ∧ v.dies ≠ [] ∧ w / 2 ^ 16 % 16 < v.asids.length
    (∀ u, s.asks 3 (some 0) = true → good → (List.range 65536).find? (fun n => (s.queue? n).isNone) = some u →
      ∃ t q, exec .qcreate s = .next t ∧ t.queue? u = some q ∧ q.vif = m.vif ∧ q.ring = ring ∧ q.logN = w % 32 ∧ q.prio = w / 2 ^ 8 % 8 ∧ q.head = 0 ∧ q.tail = 0 ∧ answered t 0 u 0 ∧ s.Holds t)
    ∧ (s.asks 3 (some 0) = true → ¬ good → ∃ t, exec .qcreate s = .next t ∧ t.hub.queues = s.hub.queues ∧ answered t 3 0 0 ∧ s.Holds t)
    ∧ (∀ q, s.asks 3 (some 1) = true → s.queue? (m.arg 0x58 2) = some q → q.vif = m.vif →
        (q.count = 0 → ∃ t, exec .qdestroy s = .next t ∧ t.hub.queues = Table.del s.hub.queues (m.arg 0x58 2) ∧ answered t 0 0 0 ∧ s.Holds t)
        ∧ (q.count ≠ 0 → ∃ t, exec .qdestroy s = .next t ∧ t.hub.queues = s.hub.queues ∧ answered t 1 0 0 ∧ s.Holds t))
    ∧ (s.asks 1 none = true → m.sampling = none →
        (m.arg 0x40 8 % 64 = 0 → ∃ t c, exec .resync s = .next t ∧ t.hub.mailbox.sampling = some c ∧ c % 1024 = 0 ∧ s.time ≤ c ∧ c < s.time + 1024 ∧ t.hub.mailbox.go = true ∧ s.Holds t)
        ∧ (m.arg 0x40 8 % 64 ≠ 0 → ∃ t, exec .resync s = .next t ∧ answered t 3 0 0 ∧ s.Holds t))
    ∧ (∀ c, m.sampling = some c →
        (s.time < c → exec .resyncSample s = .next s)
        ∧ (c ≤ s.time →
            let l := s.summary c
            let base := m.arg 0x40 8
            let n := 8 * l.length
            l.take 2 = [32, c] ∧ (n ≤ m.arg 0x48 4 → ∃ t, exec .resyncSample s = .next t ∧ answered t 0 n 0
                ∧ (∀ j, j < l.length → Memory.getN t.hub.hostMem (base + 8 * j) 8 = l.getD j 0 % 2 ^ 64)
                ∧ (∀ a, a < base ∨ base + n ≤ a → Memory.get t.hub.hostMem a = Memory.get s.hub.hostMem a) ∧ s.Holds t)
            ∧ (m.arg 0x48 4 < n → ∃ t, exec .resyncSample s = .next t ∧ answered t 3 n 0 ∧ t.hub.hostMem = s.hub.hostMem ∧ s.Holds t)))
    ∧ (s.asks 5 none = true →
        (((List.range 16).any fun d => (m.arg 0x48 2).testBit d && s.excluded d) = false →
          ∃ t, exec .window s = .next t ∧ t.hub.windowAt = some (m.arg 0x40 8, m.arg 0x48 2) ∧ answered t 0 0 0 ∧ s.Holds t)
        ∧ (((List.range 16).any fun d => (m.arg 0x48 2).testBit d && s.excluded d) = true →
          ∃ t, exec .window s = .next t ∧ t.hub.windowAt = s.hub.windowAt ∧ answered t 2 0 4 ∧ s.Holds t))

/-- R362, R363, R365, R367, R300: VIFCFG checks the whole block before anything changes: a block too short or misaligned is STATUS 3; an interface with a context that has not ended is STATUS
2 reason 1; a block with no virtual die retires the interface; of an acceptable one the generations of its ASIDs are raised, GO standing until they are acknowledged; then it becomes the
configuration. -/
def Claims.InterfaceConfiguration : Prop :=
  ∀ (s : State), s.asks 2 none = true →
    let m := s.hub.mailbox
    let there := m.arg 0x40 8 % 4096 = 0 ∧ 0x16220 ≤ m.arg 0x48 4
    let checked (p : Prop) : Prop := m.config = none → p
    (∀ f, m.config = some f →
      ((f.asids.any s.genOpen) = true → exec .vifcfg s = .next s)
      ∧ ((f.asids.any s.genOpen) = false → ∃ t g, exec .vifcfg s = .next t ∧ answered t 0 0 0 ∧ Table.find t.vifs m.vif = some g ∧ { g with regions := f.regions } = f))
    ∧ checked (¬ there → ∃ t, exec .vifcfg s = .next t ∧ answered t 3 0 0 ∧ t.vifs = s.vifs ∧ s.Holds t)
    ∧ checked (there → s.blk 0 8 % 32 = 0 → s.vifIdle m.vif = false → ∃ t, exec .vifcfg s = .next t ∧ answered t 2 0 1 ∧ t.vifs = s.vifs ∧ s.Holds t)
    ∧ checked (there → s.blk 0 8 % 32 = 0 → s.vifIdle m.vif = true → ∃ t, exec .vifcfg s = .next t ∧ answered t 0 0 0 ∧ t.vifs = Table.del s.vifs m.vif ∧ s.Holds t)
    ∧ checked (there → s.blk 0 8 % 32 ≠ 0 → s.blkBad = true → ∃ t, exec .vifcfg s = .next t ∧ answered t 3 0 0 ∧ t.vifs = s.vifs ∧ s.Holds t)
    ∧ checked (there → s.blk 0 8 % 32 ≠ 0 → s.blkBad = false → s.vifIdle m.vif = false → ∃ t, exec .vifcfg s = .next t ∧ answered t 2 0 1 ∧ t.vifs = s.vifs ∧ s.Holds t)
    ∧ checked (there → s.blk 0 8 % 32 ≠ 0 → s.blkBad = false → s.vifIdle m.vif = true → (s.blkDies.any fun d => s.excluded d.1) = false → s.taken m.vif s.blkVif = false →
        ∃ t, exec .vifcfg s = .next t ∧ t.hub.mailbox.go = true ∧ t.hub.mailbox.config = some s.blkVif ∧ t.vifs = s.vifs
          ∧ (∀ a g, s.blkAsids = [(a, g)] → t.rootOf a = g ∧ t.genOf a = (s.genOf a + 1) % 2 ^ 20) ∧ s.Holds t)

/-- R317, R321, R358, R366: PREEMPT asks every core of a running tray to halt at TIME + 90; a saved tray is STATUS 2 reason 3. RESUME with no rebinding releases a saved tray whose sites
are free with Q = TIME + 90. MAINTENANCE_WINDOW waits for its TIME, halts the running trays of its dies, and with none left, at no more than 4,200 W, sets at each die the lowest voltage of
700 to 850 mV, in steps of 5 mV, at which its smallest slack is 50 ps, or 850 mV, and ends. -/
def Claims.TrayCommands : Prop :=
  ∀ (s : State),
    let m := s.hub.mailbox
    let n := m.arg 0x48 1
    (∀ x, s.asks 4 (some 0) = true → s.tray? m.vif n = some x →
      (x.st = .running → ∃ t y, exec .preempt s = .next t ∧ t.tray? m.vif n = some y ∧ y.st = .halting false ∧ (∀ id ∈ s.coresOf m.vif n, (t.coreAt id).haltAt = some (s.time + 90))
          ∧ t.hub.mailbox.go = true ∧ s.Holds t)
      ∧ (∀ b, x.st = .saved b → ∃ t, exec .preempt s = .next t ∧ answered t 2 0 3 ∧ s.Holds t))
    ∧ (∀ x b, s.asks 4 (some 1) = true → s.tray? m.vif n = some x →
        (x.st = .saved b → s.siteBusy m.vif n = false → s.rebinds (s.vif m.vif) = [] → s.rebindBad m.vif [] = none →
          ∃ t y, exec .resume s = .next t ∧ t.tray? m.vif n = some y ∧ y.st = .running ∧ y.image = [] ∧ (∀ id ∈ s.coresOf m.vif n, (t.coreAt id).resumeAt = some (s.time + 90))
            ∧ answered t 0 0 0)
        ∧ (x.st = .running → ∃ t, exec .resume s = .next t ∧ answered t 2 0 3 ∧ s.Holds t))
    ∧ (∀ slack watts off spare c dies, s.hub.windowAt = some (c, dies) →
        let i := Instr.maintenanceWindow slack watts ⟨off, spare⟩
        let at50 (d v : Nat) : Prop := 50 ≤ slack.getD (31 * d + (v - 700) / 5) 0
        (s.time < c → exec i s = .next s)
        ∧ (c ≤ s.time → (∃ p ∈ s.traysOn dies, ∃ x, s.tray? p.1 p.2 = some x ∧ x.st = .running) →
            ∃ t, exec i s = .next t ∧ t.hub.power = .window
              ∧ (∀ p ∈ s.traysOn dies, ∀ x, s.tray? p.1 p.2 = some x → x.st = .running → ∃ y, t.tray? p.1 p.2 = some y ∧ y.st = .halting true) ∧ s.Holds t)
        ∧ (c ≤ s.time → s.traysOn dies = [] → 4200 < watts → exec i s = .next s)
        ∧ (c ≤ s.time → s.traysOn dies = [] → watts ≤ 4200 → (s.flight.any fun x => dies.testBit x.dest.pdie) = false →
            ∃ t, exec i s = .next t ∧ t.hub.windowAt = none ∧ t.hub.power = .run
              ∧ (∀ d, dies.testBit d = true → s.excluded d = false → ∃ y, t.dies[d]? = some y ∧ 700 ≤ y.millivolts ∧ y.millivolts ≤ 850 ∧ y.millivolts % 5 = 0
                  ∧ (at50 d y.millivolts ∨ y.millivolts = 850) ∧ ∀ v, 700 ≤ v → v < y.millivolts → v % 5 = 0 → ¬ at50 d v) ∧ s.Holds t))

/-- R359, R360, R364: host accesses once the link is up. A mailbox word takes a write unless GO stands; GO with a known command and interface stands until it is answered; a doorbell
write rings; a write through MEM lands at the translated place, 8 bytes, and marks its leaf; a read gives the mailbox's, the queue's or the memory's word; one outside every window reads 0 and
writes nothing, as do the reserved words of a doorbell page, which are logged too. -/
def Claims.HostAccesses : Prop :=
  ∀ (s : State) (v : Word), s.linkUp = true →
    let m := s.hub.mailbox
    (m.go = true → ∀ off, off = 0 ∨ (0x40 ≤ off ∧ off ≤ 0xF8 ∧ off % 8 = 0) → exec (.hostWrite (.mgmt off) v) s = .next s)
    ∧ (m.go = false → bit v 16 = true → 1 ≤ bits v 7 0 → bits v 7 0 ≤ 5 → bits v 15 8 < 64 →
        ∃ t, exec (.hostWrite (.mgmt 0) v) s = .next t ∧ t.hub.mailbox.go = true ∧ t.hub.mailbox.op = bits v 7 0 ∧ t.hub.mailbox.vif = bits v 15 8 ∧ s.Holds t)
    ∧ (m.go = false → bit v 16 = true → (bits v 7 0 = 0 ∨ 5 < bits v 7 0) → ∃ t, exec (.hostWrite (.mgmt 0) v) s = .next t ∧ answered t 3 0 0 ∧ s.Holds t)
    ∧ (∀ off, m.go = false → 0x40 ≤ off → off ≤ 0xF8 → off % 8 = 0 → ∃ t, exec (.hostWrite (.mgmt off) v) s = .next t ∧ t.hub.mailbox.arg off 8 = v.toNat ∧ s.Holds t)
    ∧ (∀ u q, s.queue? u = some q → exec (.hostWrite (.bell u 0) v) s = exec (.doorbellWrite u v) s)
    ∧ (∀ i va pa leaf, s.hostWalk i va 1 = .ok pa leaf →
        ∃ t, exec (.hostWrite (.mem i va) v) s = .next t ∧ Memory.getN t.mem pa 8 = v.toNat
          ∧ ∀ a, (a < pa ∨ pa + 8 ≤ a) → (a < leaf ∨ leaf + 8 ≤ a) → Memory.get t.mem a = Memory.get s.mem a)
    ∧ (∃ t, exec (.hostRead (.mgmt 0)) s = .next t ∧ s.Holds t
        ∧ (m.op < 256 → m.vif < 256 → m.status < 256 → bits t.hub.hostSeen 7 0 = m.op ∧ bits t.hub.hostSeen 15 8 = m.vif ∧ bit t.hub.hostSeen 16 = m.go ∧ bits t.hub.hostSeen 31 24 = m.status))
    ∧ (∀ u q w, s.queue? u = some q → 3 ≤ w →
        (∃ t, exec (.hostRead (.bell u w)) s = .next t ∧ t.hub.hostSeen = 0 ∧ logSize t 0 = min 4096 (logSize s 0 + 1) ∧ s.Holds t)
        ∧ ∃ t, exec (.hostWrite (.bell u w) v) s = .next t ∧ t.hub.queues = s.hub.queues ∧ logSize t 0 = min 4096 (logSize s 0 + 1) ∧ s.Holds t)
    ∧ (∀ i va, (2 ^ 34 ≤ va ∨ 64 ≤ i) →
        (∃ t, exec (.hostRead (.mem i va)) s = .next t ∧ t.hub.hostSeen = 0 ∧ s.Holds t) ∧ ∃ t, exec (.hostWrite (.mem i va) v) s = .next t ∧ s.Holds t)
    ∧ (∀ u q, s.queue? u = some q → ∃ t, exec (.hostRead (.bell u 1)) s = .next t ∧ t.hub.hostSeen = BitVec.ofNat 64 q.head ∧ s.Holds t)
    ∧ (∀ i va pa leaf, s.hostWalk i va 0 = .ok pa leaf → pa / 8 ∉ s.poison →
        ∃ t, exec (.hostRead (.mem i va)) s = .next t ∧ t.hub.hostSeen = BitVec.ofNat 64 (Memory.getN t.mem pa 8)
          ∧ ∀ a, a < leaf ∨ leaf + 8 ≤ a → Memory.get t.mem a = Memory.get s.mem a)

/-! ## The torus (spec/19_fabric_dies.md R338–R343) -/

/-- R339, R341, R142: one hop-time. With nothing arriving and nothing to inject nothing leaves; a flit for another module takes its first productive port, else the first port in use, and grows older; none arrives by a port of a dimension
of size 1; the next FST in sequence of a source, inside the window exported to it, writes exactly its 8 bytes here. (How modules are numbered, and that a port whose link is down is not in
use: notes/assumptions/34.md.) -/
def Claims.TorusHops : Prop :=
  ∀ (s : State) (f : Flit) (port : Nat), s.torus.inject = [] →
    (∃ t, exec (.torusHop []) s = .next t ∧ t.torus.leaving = [] ∧ s.Holds t)
    ∧ (port % 6 ∈ livePorts ∨ exec (.torusHop [(port, f)]) s = exec (.torusHop []) s)
    ∧ (f.op ≠ .mcast → f.dest ≠ Config.torusSelf → f.dest ∉ s.torus.downPeers → port % 6 ∉ livePorts ∨
        ∃ t, exec (.torusHop [(port, f)]) s = .next t ∧ s.Holds t
          ∧ t.torus.leaving = (match (productive f.dest).find? livePorts.contains with
              | some p => [(p, { f with age := min 4095 (f.age + 1) })]
              | none => match livePorts with | p :: _ => [(p, { f with age := min 4095 (f.age + 1) })] | [] => []))
    ∧ (f.cls = .p → f.op = .store → f.dest = Config.torusSelf → f.dest ∉ s.torus.downPeers → s.torus.reorder = [] → f.ticket = seqOf s.torus.nextSeq f.src (sourceNo f) → s.inWindow f 8 = true → port % 6 ∉ livePorts ∨
        ∃ t, exec (.torusHop [(port, f)]) s = .next t ∧ Memory.getN t.mem (exportKey f f.offset) 8 = f.data.toNat ∧ seqOf t.torus.nextSeq f.src (sourceNo f) = f.ticket + 1
          ∧ ∀ a, a < exportKey f f.offset ∨ exportKey f f.offset + 8 ≤ a → Memory.get t.mem a = Memory.get s.mem a)

/-- R342, R343, R144: an acknowledgement entry with nothing owed forwards one acknowledgement, or at the issuer gives its ticket the bitmap; after FLTIME the members that have not
answered are marked failed; a peer that has not answered a context's operation in FLTIME is counted for FFENCE and MEMERR posted; links down and up. -/
def Claims.AcknowledgementsAndTimeLimits : Prop :=
  ∀ (s : State) (n peer : Nat) (e : McastEntry) (k : Ticket),
    (s.torus.mcast[n]? = some e → e.owed ≠ 0 → exec (.multicastAck n) s = .next s)
    ∧ (s.torus.mcast[n]? = some e → e.owed = 0 → e.src ≠ Config.torusSelf →
        ∃ t f, exec (.multicastAck n) s = .next t ∧ t.torus.mcast = dropAt s.torus.mcast n ∧ t.torus.inject = s.torus.inject ++ [(102400, f)] ∧ f.dest = e.src ∧ f.cls = .ack ∧ f.failed = e.failed
          ∧ s.Holds t)
    ∧ (s.torus.mcast[n]? = some e → e.owed = 0 → e.src = Config.torusSelf → e.core = s.id → e.ctx = s.core.k → s.cx.tickets = [k] → k.num = e.ticket → k.multi = true → k.answer = none →
        ∃ t, exec (.multicastAck n) s = .next t ∧ t.cx.tickets = [{ k with answer := some e.failed }] ∧ s.Holds t)
    ∧ (s.torus.mcast = [e] → e.src = Config.torusSelf → e.core = s.id → e.ctx = s.core.k → s.cx.tickets = [k] → k.num = e.ticket → k.multi = true → k.answer = none →
        (s.vif (s.vifOf s.id)).fltime ≤ (s.cy - k.t0) * 50 / 47 →
        ∃ t, exec (.multicastTimeout s.id s.core.k e.ticket) s = .next t ∧ t.cx.tickets = [{ k with answer := some (e.failed ||| e.owed) }] ∧ t.torus.mcast = [] ∧ s.Holds t)
    ∧ (∀ a, s.core.k < 11 → s.torus.owedAcks = [a] → a.core = s.id → a.ctx = s.core.k → a.peer = peer → a.multi = none → s.cx.tickets = [] →
        (s.vif (s.vifOf s.id)).fltime ≤ (s.cy - a.t0) * 50 / 47 → s.cx.st.live = true →
        bit s.cx.errpend 0 = false →
        ∃ t, exec (.peerTimeout peer) s = .next t ∧ t.torus.owedAcks = [] ∧ t.cx.failedPeers = s.cx.failedPeers ++ [peer] ∧ bits t.cx.errpend 15 8 = 0x11 ∧ bits t.cx.errpend 23 16 = 1
          ∧ t.cx.errSource = 3 ∧ t.cx.errTval = a.va ∧ s.Holds t)
    ∧ (∃ t, exec (.peerLinksDown peer) s = .next t ∧ peer ∈ t.torus.downPeers ∧ s.Holds t)
    ∧ (∃ t, exec (.peerLinksRecover peer) s = .next t ∧ peer ∉ t.torus.downPeers ∧ s.Holds t)

/-! ## Debugger, bring-up and power (spec/03_assembly_language.md, spec/21_host_bringup.md) -/

/-- R35, R46, R83: a jdb halt of a core whose interface permits it halts every live context; a resume lets them go on; a step lets the selected context issue n instructions, the others
staying halted. (A control context in no domain above core level, a core with no PHLX arrival.) -/
def Claims.DebuggerHalts : Prop :=
  ∀ (s : State) (n : Nat),
    let back (k : Nat) : Run :=
      if (s.cxAt s.id k).st = .halted then (if (s.cxAt s.id k).await.isSome then .waiting .reply else if (s.cxAt s.id k).pauseEnd ≠ 0 then .waiting .operand else .ready) else (s.cxAt s.id k).st
    (s.debuggable s.id = false → exec (.debugHalt s.id) s = .next s)
    ∧ (s.debuggable s.id = true → bits (s.cxAt s.id 0).domain 2 0 < 2 → (s.episodes.all fun e => e.k != 5) = true →
        ∃ t, exec (.debugHalt s.id) s = .next t ∧ t.core.debugged = true ∧ t.core.frozen = true ∧ (∀ k, k < 11 → (s.cxAt s.id k).st.live = true → (t.cxAt s.id k).st = .halted)
          ∧ t.hub.selected = (s.id, 0) ∧ (∀ r, t.g r = s.g r) ∧ t.cx.pc = s.cx.pc ∧ ∀ a, Memory.get t.mem a = Memory.get s.mem a)
    ∧ (s.core.debugged = true → s.trayRuns s.id = true → s.core.faulted = false →
        ∃ t, exec .debugResume s = .next t ∧ t.core.debugged = false ∧ t.core.frozen = false ∧ (∀ k, k < 11 → (t.cxAt s.id k).st = back k) ∧ s.Holds t)
    ∧ (s.hub.selected = (s.id, s.core.k) → s.core.debugged = true → n ≠ 0 → s.cx.st = .halted → s.trayRuns s.id = true →
        ∃ t, exec (.debugStep n) s = .next t ∧ t.cx.budget = some n ∧ t.cx.st = back s.core.k ∧ t.core.frozen = false
          ∧ (∀ k, k < 11 → k ≠ s.core.k → (t.cxAt s.id k).st = (s.cxAt s.id k).st) ∧ s.Holds t)

/-- R75, R83, R335, R80, R277, R286: held links, with the number of writes in the queue; a release, which applies them and reports the number, none of an empty queue; breakpoints;
the image in every core of a tray that meets its declarations and its start at a core with the argument in g3, refused on a tray that does not. -/
def Claims.DebuggerTools : Prop :=
  ∀ (s : State) (a b loc : Nat) (cores : List Nat) (arg : Word),
    (∀ p, s.debugDies a b = some p → 
        (∃ t, exec (.holdLink a b) s = .next t ∧ p ∈ t.holds ∧ t.hub.reports = s.hub.reports ++ [(0, 0x103, BitVec.ofNat 64 (writeCount (s.flight.filter (Msg.inQueue p))))] ∧ s.Holds t)
        ∧ (s.flight.filter (Msg.inQueue p) = [] → ∃ t, exec (.releaseLink a b) s = .next t ∧ p ∉ t.holds ∧ t.flight = s.flight
            ∧ t.hub.reports = s.hub.reports ++ [(0, 0x104, 0)] ∧ s.Holds t)
        ∧ (∀ m key size val, s.flight = [m] → m.inQueue p = true → s.atHead m = true → m.body = .store key size val → m.stamp = [] → (∀ x ∈ s.spots, x.queue = m.applyQueue → x.item = m.id) →
            (s.dropMsg m.id).dropCode m key size = none →
            ∃ t, exec (.releaseLink a b) s = .next t ∧ p ∉ t.holds ∧ t.flight = [] ∧ Memory.getN t.mem key size = val % 256 ^ size
              ∧ (∀ k, k < key ∨ key + size ≤ k → Memory.get t.mem k = Memory.get s.mem k) ∧ t.hub.reports = s.hub.reports ++ [(0, 0x104, BitVec.ofNat 64 (max 1 m.ident.length))]))
    ∧ (∃ t, exec (.breakpointSet loc cores) s = .next t ∧ (∀ id ∈ cores, s.debuggable id = true → loc ∈ (t.coreAt id).breakpoints) ∧ s.Holds t)
    ∧ (∃ t, exec (.breakpointDelete loc) s = .next t ∧ (∀ id ∈ s.sites, loc ∉ (t.coreAt id).breakpoints) ∧ s.Holds t)
    ∧ (∀ p, s.core.tray = some p → (s.vif p.1).debug = true → s.meetsNeed p.1 p.2 s.hub.image = true → s.startable s.id = true → s.enginesIdle s.id = true →
        ∃ t, exec (.jdbRun arg [s.id]) s = .next t ∧ (t.cxAt s.id 0).st = .ready ∧ (t.cxAt s.id 0).pc = s.hub.image.entry ∧ (t.cxAt s.id 0).g = (Vector.replicate 32 0).set 3 arg
          ∧ ∀ id ∈ s.coresOf p.1 p.2, (t.coreAt id).xbound = s.hub.image.xbound)
    ∧ (∀ p, s.core.tray = some p → s.meetsNeed p.1 p.2 s.hub.image = false → exec (.jdbRun arg [s.id]) s = .next s)

/-- R355, R356, R368, R370, R337, R37: bring-up from boot with an image that passes leaves every register, SRAM and tile cleared, main memory as it was and the dies that failed
excluded; one either of whose signatures fails is reported, and where an image was accepted before, that one boots. A brown-out leaves the reset state, the module off. Firmware ends a context trapped
at supervisor level for a cause it does not reflect to the user handler, which R354 names: a helper Exited with all ones, a control context Stopped. Power gating of an idle core with no store and
no access of an old generation left; the TIME broadcast. -/
def Claims.BringUpAndPower : Prop :=
  ∀ (s : State) (dies ids : List Bool) (fused : List Nat) (core : Nat) (ecdsa lms on : Bool),
    (s.hub.power = .boot →
      (∃ t, exec (.bringUp ⟨true, true⟩ dies ids fused) s = .next t ∧ t.hub.power = .run ∧ t.hub.booted = 1 ∧ (∀ r, t.g r = 0) ∧ t.core = State.reset.core ∧ t.others = [] ∧ t.tiles = [] ∧ t.fused = fused
        ∧ (∀ a, a < 2 ^ 52 → Memory.get t.mem a = Memory.get s.mem a) ∧ (∀ a, 2 ^ 52 ≤ a → Memory.get t.mem a = 0)
        ∧ (∀ d, d < 16 → t.excluded d = !(dies.getD d false && ids.getD d false)))
      ∧ ((ecdsa && lms) = false → s.hub.accepted = false →
          ∃ t, exec (.bringUp ⟨ecdsa, lms⟩ dies ids fused) s = .next t ∧ t.hub.power = .boot ∧ t.hub.imageFailed = true ∧ t.hub.reports = s.hub.reports ++ [(0, 0x100, 0)] ∧ s.Holds t)
      ∧ ((ecdsa && lms) = false → s.hub.accepted = true →
          ∃ t, exec (.bringUp ⟨ecdsa, lms⟩ dies ids fused) s = .next t ∧ t.hub.power = .run ∧ t.hub.booted = 2 ∧ t.hub.imageFailed = true ∧ t.hub.reports = s.hub.reports ++ [(0, 0x100, 0)]))
    ∧ (s.hub.power ≠ .boot → exec (.bringUp ⟨ecdsa, lms⟩ dies ids fused) s = .next s)
    ∧ (∃ t, exec .brownoutReset s = .next t ∧ t.cx = State.reset.cx ∧ t.core = State.reset.core ∧ t.others = [] ∧ t.mem = [] ∧ t.hub.power = .off ∧ t.hub.brownout = true)
    ∧ (s.cx.st.live = true → s.cx.super = true → s.core.faulted = true ∨ s.cx.reflects = false → s.core.k ≠ 0 →
        ∃ t, exec (.contextEndByFirmware s.id s.core.k) s = .next t ∧ t.cx.st = .exited ∧ t.cx.exitValue = BitVec.allOnes 64 ∧ s.Holds t)
    ∧ (s.cx.st.live = true → s.core.faulted = false → s.cx.reflects = true →
        ∃ t, exec (.contextEndByFirmware s.id s.core.k) s = .next t ∧ t.cx.pc = BitVec.ofNat 15 (bits s.cx.trapvec 14 2 * 4) ∧ t.cx.super = false ∧ t.cx.inTrap = true ∧ t.cx.st = .ready
          ∧ (∀ r, t.g r = s.g r) ∧ ∀ a, Memory.get t.mem a = Memory.get s.mem a)
    ∧ (s.cx.st.live = true → s.cx.super = true → s.core.faulted = true ∨ s.cx.reflects = false → s.core.k = 0 → s.core.node = none →
        ∃ t, exec (.contextEndByFirmware s.id 0) s = .next t ∧ t.cx.st = .stopped ∧ t.core.faulted = false ∧ (∀ r, t.g r = s.g r) ∧ ∀ a, Memory.get t.mem a = Memory.get s.mem a)
    ∧ (s.cx.super = false → s.core.faulted = false → exec (.contextEndByFirmware s.id s.core.k) s = .next s)
    ∧ (((s.ctxsAt core).all fun c => c.st == .stopped || c.st == .free) = true → s.enginesIdle core = true → (s.coreAt core).sbuf = [] → s.oldAccess core = false →
        ∃ t, exec (.corePowerGate core on) s = .next t ∧ (t.coreAt core).gated = on ∧ (on = true → (t.coreAt core).tlb = []) ∧ s.Holds t)
    ∧ (∃ t, exec .timeBroadcast s = .next t ∧ t.hub.timeBase = List.replicate 16 s.time ∧ s.Holds t)

/-! ## The whole machine -/

/-- R84–R97: for every well-formed instruction that has an encoding, decoding the parcels of its encoding gives it back, with every operand at every value the encoding admits. -/
def Claims.DecodeInvertsEncode : Prop := ∀ (i : Instr), i.wf = true → i.encodable = true → decode (encode i) = .ok i

/-- The memories of the module keep their canonical form, and the site in view is one of the module, over every step. -/
def Claims.StepsKeepTheFormOfTheState : Prop :=
  ∀ (s t : State), s.canonical → s.id < siteCount → step s = .next t → t.canonical ∧ t.id < siteCount

/-- The reset state is of that form. -/
def Claims.ResetStateHasItsForm : Prop := State.reset.canonical ∧ State.reset.id < siteCount

/-- A context that can issue and competes for the slot alone: Ready, in no phalanx, transfer phase or node error, not behind a YIELD, with nothing pending and no instruction held, no breakpoint, no write-back
open; every other context of the core Stopped, Free or Exited; the slot not used in this cycle, the pointer at it, no halt due. -/
abbrev issuesNow (s : State) : Prop :=
  s.id < siteCount ∧ s.core.k < 11 ∧ s.core.ptr = s.core.k ∧ s.core.issued ≠ some s.cy ∧ s.core.haltAt = none ∧ s.cx.st = .ready ∧ s.cx.inPhlx = false ∧ s.cx.yielding = [] ∧ s.cx.pend = []
    ∧ s.cx.trapNext = false ∧ s.cx.held = none ∧ s.cx.passBrk = false ∧ s.cx.budget = none ∧ s.core.breakpoints = [] ∧ s.domains = []
    ∧ ∀ k, k < 11 → k ≠ s.core.k → (s.core.ctx s.cx k).st.live = false ∧ (s.core.ctx s.cx k).yielding = []

/-- R38, R84, R99: when the schedule names the core's issue and the PC brings a decoded instruction to issue, the step is `exec` of that instruction: when it takes the slot, the step
notes the instruction in its context, and then notes that the core has issued in this cycle, the pointer standing behind the context; when it waits, the slot is offered to the other contexts of the core; a fault
is the step's. -/
def Claims.StepRunsTheFetchedInstruction : Prop :=
  ∀ (s : State) (i : Instr) (rest : List Turn), s.sched = ⟨0, .issue s.id⟩ :: rest → issuesNow s → s.fetch = .ok i →
    let u := { s with sched := rest }
    (∀ t, exec i u = .next t → s.cx.took t.cx = true → step s = .next ((t.setCx (s.cx.keep t.cx i)).noteIssue s.core.k))
    ∧ (∀ t, exec i u = .next t → s.cx.took t.cx = false → step s = State.issueFrom (s.issueOrder.drop 1) (t.setCx (s.cx.keep t.cx i)))
    ∧ (∀ r, exec i u = .fault r → step s = .fault r)

/-- R85, R86, R96, R99: what comes to issue: the parcels at the PC, with any prefix, in the instruction store from SBOUND (at user level) to XBOUND, inside one 32-byte line, none
poisoned, of a listed opcode that the level may run, decode to the instruction that is fetched. -/
def Claims.FetchReadsTheParcelsAtThePc : Prop :=
  ∀ (s : State) (i : Instr),
    let pc := s.cx.pc.toNat
    let parcels (a : Nat) : List Parcel := (List.range ((parcelL (s.parcel a)).toNat + 1)).map fun k => s.parcel (a + 4 * k)
    let whole (a : Nat) : Prop := parcelL (s.parcel a) ≠ 3 ∧ a % 32 + 4 * (parcels a).length ≤ 32 ∧ (∀ k, k < (parcels a).length → s.parcelBad (a + 4 * k) = false)
      ∧ opcodeKnown (s.parcel a) = true ∧ s.privTval (s.parcel a) ((parcels a).getD 1 0) = none
    (s.cx.super = true ∨ s.core.sbound.toNat ≤ pc) → pc < s.core.xbound.toNat →
      (whole pc → decode (parcels pc) = .ok i → s.fetch = .ok i)
      ∧ (parcelL (s.parcel pc) = 3 → s.parcelBad pc = false → pc % 32 ≠ 28 → Mods.parcelOk (s.parcel pc) = true → whole (pc + 4) → acceptsMods (s.parcel (pc + 4)) = true →
          decode (s.parcel pc :: parcels (pc + 4)) = .ok i → s.fetch = .ok i)

/-- R99, R86, R30: where the PC may not fetch: below SBOUND at user level PERM, at or beyond XBOUND the overlay handler's cause, a poisoned parcel a fetch error, each with TVAL the PC. -/
def Claims.FetchRefusals : Prop :=
  ∀ (s : State),
    (s.cx.super = false → s.cx.pc.toNat < s.core.sbound.toNat → s.fetch = .trap 0x07 (zext s.cx.pc))
    ∧ ((s.cx.super = true ∨ s.core.sbound.toNat ≤ s.cx.pc.toNat) → s.core.xbound.toNat ≤ s.cx.pc.toNat → s.fetch = .trap 0x03 (zext s.cx.pc))
    ∧ ((s.cx.super = true ∨ s.core.sbound.toNat ≤ s.cx.pc.toNat) → s.cx.pc.toNat < s.core.xbound.toNat → s.parcelBad s.cx.pc.toNat = true → s.fetch = .trap 0x19 (zext s.cx.pc))

/-- R85–R97: words written out from the encodings, one of each layout: `add g6, g5, g5`; `addi g2, g2, -64`; `sub.sat g7, g8, g9`; `ld.acq.die g7, [g6+8]` behind its prefix;
`beq g5, g0, +12`; `loop g9, -16`; `li g5, 0x1234`; `crd g5, TIME`; `qget g8, q0`; `hstart g7, g5, g6`; `vadd v1, v2, v3`; `vfma v4, v5, v6, v7`; `halt`. -/
def Claims.WordsDecodeAsWritten : Prop :=
  decode [0x0014A600] = .ok (.add 6 5 5) ∧ decode [0xFF004220] = .ok (.addi 2 2 0x3FC0) ∧ decode [0x04A50700] = .ok (.subSat 7 8 9)
  ∧ decode [0x6F, 0x0038C780] = .ok (.ld (some ⟨3, 3, 0, 0, false⟩) .d 7 6 1) ∧ decode [0x000C0540] = .ok (.beq 5 0 3) ∧ decode [0xFFF00968] = .ok (.loop 9 0x3FFC)
  ∧ decode [0x00050002, 0, 0x1234] = .ok (.li 5 0x1234) ∧ decode [0x00050005, 0x2000] = .ok (.crd 5 0x20) ∧ decode [0x04000890] = .ok (.qget 8 0)
  ∧ decode [0x0018A79C] = .ok (.hstart 7 5 6) ∧ decode [0x0C410085, 0] = .ok (.vadd false false 1 2 (.v 3)) ∧ decode [0x18A40389, 7] = .ok (.vfma 4 5 (.v 6) 7)
  ∧ decode [0x3E9, 0] = .ok .halt

/-! ## The obligations -/

/-- O1: NOP is the zero parcel and only goes on; g0 reads 0 and takes no write. -/
def Obligations.NopAndRegisterZero : Prop := Claims.NopOnlyAdvances ∧ Claims.NopIsTheZeroParcel ∧ Claims.RegisterZeroReadsZero

/-- O2: Every register form of OP 0x00 computes the result of its row, and its parcel decodes to it. That EPC of FPEXC is the PC of the instruction that set the flag is a reading (notes/assumptions/10.md). -/
def Obligations.RegisterFormsComputeTheirResults : Prop := Claims.RegisterArithmeticResults ∧ Claims.SaturatingFormsClamp ∧ Claims.SaturationTrapsWhenEnabled ∧ Claims.RegisterFormsEncode

/-- O3: Products, quotients and remainders, their latencies, their encodings. -/
def Obligations.MultiplyAndDivideComputeTheirResults : Prop := Claims.MultiplyDivideResults ∧ Claims.MultiplyDivideEncode

/-- O4: SEL, ADDX, CLZ, CTZ, POPC and BREV compute their results. -/
def Obligations.SelectScaleAndCountComputeTheirResults : Prop := Claims.SelectScaleAndCountResults ∧ Claims.SelectScaleAndCountEncode

/-- O5: The I-format and literal forms compute their results. -/
def Obligations.ImmediateAndLiteralFormsComputeTheirResults : Prop := Claims.ImmediateFormsResults ∧ Claims.LiteralFormsResults ∧ Claims.ImmediateAndLiteralEncode

/-- O6: Branches, LOOP and jumps: condition, target, ALIGN, encodings. -/
def Obligations.BranchesAndJumpsReachTheirTargets : Prop := Claims.BranchesFollowTheirConditions ∧ Claims.LoopCountsDown ∧ Claims.JumpsGoToTheirTargets ∧ Claims.BranchesEncode

/-- O7: The reset values the register table gives, and empty register files. -/
def Obligations.ResetGivesTheRegisterTable : Prop := Claims.ResetControlRegisters

/-- O8: CRD writes the value a control register holds; TIME is the model's clock relation (log 5). The value of TIME is the one the model computes from its cycle count (notes/assumptions/5.md). -/
def Obligations.ControlRegistersAreReadAsHeld : Prop := Claims.ControlRegisterReads

/-- O9: CWR, CSET and CCLR form their value, return the old one and change no other register. -/
def Obligations.ControlRegistersAreWritten : Prop := Claims.PlainControlRegisterWrites

/-- O10: What a control-register instruction is refused for, and with which TVAL. -/
def Obligations.ControlRegisterAccessesAreRefused : Prop := Claims.ControlRegisterRefusals ∧ Claims.ProtectedFieldsAreRefused

/-- O11: Taking an exception: saved registers, status, handler; CoreFault; BRK. -/
def Obligations.TrapEntryAndBreak : Prop := Claims.TrapEntrySequence ∧ Claims.TrapAtSupervisorLevelHaltsCore ∧ Claims.BreakInstruction

/-- O12: ERET returns to EPC at the saved level, leaves a user handler, or is ILLEGAL. -/
def Obligations.ReturnFromException : Prop := Claims.ExceptionReturn ∧ Claims.ReturnEncodes

/-- O13: CALL, CALLX and RET: stack, shadow stack, link register and their traps. -/
def Obligations.CallsAndReturns : Prop := Claims.CallPushesReturnAddress ∧ Claims.CallAndReturnRefusals ∧ Claims.ReturnChecksShadowStack

/-- O14: QPUT, QGET, QPEEK and QCNT on the queues of the core. -/
def Obligations.QueueInstructionsMoveWords : Prop := Claims.QueueInstructions

/-- O15: NPUT, NGET and NTRY on neighbour ports; routed messages are built word by word. The places of n4 that a message holds are the model's reading (notes/assumptions/18.md). -/
def Obligations.PortsAndRoutedMessages : Prop := Claims.NeighbourPortInstructions ∧ Claims.RoutedMessagesAreBuilt

/-- O16: TBIND stores a destination image, TRD reads it, bad operands are ILLEGAL. -/
def Obligations.TempoRegistersBind : Prop := Claims.TempoBinding

/-- O17: HSTART, HJOIN, HEXIT, YIELD, PAUSE and HALT. -/
def Obligations.HelpersAndHalt : Prop := Claims.HelperStart ∧ Claims.HelperJoinAndExit ∧ Claims.HintsAndHalt

/-- O18: Loads from the own SRAM complete with the extended value; others wait with kind REPLY. -/
def Obligations.LoadsReadOrWait : Prop := Claims.LoadsOfOwnSram ∧ Claims.LoadsHomedElsewhereWait

/-- O19: What an access is refused for: modifier, region, alignment, instruction store. -/
def Obligations.AccessesAreChecked : Prop := Claims.AccessRefusals

/-- O20: Stores enter the buffer or, in a Running node, the staging store; STAGEFULL. -/
def Obligations.StoresAreBuffered : Prop := Claims.StoresEnterTheBuffer ∧ Claims.NodeStoresAreStaged

/-- O21: Every AMO enters the buffer with its operation, and what each leaves at its location. -/
def Obligations.AtomicsComputeAtTheirHome : Prop := Claims.AtomicsEnterTheBuffer ∧ Claims.AtomicResults

/-- O22: FENCE orders the context, ECHK takes a pending error. -/
def Obligations.FencesAndErrorChecks : Prop := Claims.FencesOrderTheContext ∧ Claims.CheckTakesPendingErrors

/-- O23: WAITA waits for a change of its word or its timeout. -/
def Obligations.WatchedWords : Prop := Claims.WatchWaitsForAChange ∧ Claims.WatchedWordIsRead

/-- O24: A write that is applied changes exactly the bytes it covers. That a write is applied by a step of its own is the form of the model (notes/assumptions/1.md). -/
def Obligations.WritesChangeExactlyTheirBytes : Prop := Claims.ApplyWritesExactlyItsBytes

/-- O25: DRAIN sends a buffered write; EVICT, the applied vector, RESULT_WRITEBACK. -/
def Obligations.WritesLeaveTheirBuffers : Prop := Claims.DrainSendsABufferedWrite ∧ Claims.EvictBroadcastAndWriteback

/-- O26: FORWARD, READ, HIT and REPLY serve a load that waits. That these are steps of their own is the form of the model (notes/assumptions/1.md). -/
def Obligations.LoadsThatWaitAreServed : Prop := Claims.WaitingLoadsAreServed ∧ Claims.WaitingVectorLoadsHit

/-- O27: FLD, FWAIT, FST, FAMO, FMCAST and FFENCE. -/
def Obligations.FabricOperations : Prop := Claims.RemoteLoadsUseTickets ∧ Claims.RemoteStoresCompleteAtIssue ∧ Claims.MulticastAndFabricFence

/-- O28: BSET, BARRIVE, BWAIT, BAR and BSTAT; an owed BARTIME is taken. -/
def Obligations.BarriersAreEntered : Prop := Claims.BarrierInstructions ∧ Claims.OwedBarrierTimeoutIsTaken

/-- O29: Sweep, commit, release, timeout and withdrawal of a barrier episode. That these are steps of their own is the form of the model (notes/assumptions/1.md). -/
def Obligations.BarriersAreReleased : Prop := Claims.BarrierSteps

/-- O30: DPHASE, PHLX, SPLIT, and the wires of a transfer phase. -/
def Obligations.PhasesAndTransfers : Prop := Claims.PhaseAndPhalanxInstructions ∧ Claims.TransferInstructions ∧ Claims.TransferSteps

/-- O31: WPOP takes a node, answers 0 or 1, or waits; WPOP_WAKE serves the oldest waiter. That a WPOP waiting at a queue that goes traps is the model's choice (notes/assumptions/74.md). -/
def Obligations.WorkIsTaken : Prop := Claims.WorkQueuePops ∧ Claims.WorkQueueWake

/-- O32: WPUSH, WPUSH.CLOSE, NDONE and NABORT. Readings: notes/assumptions/14.md, 16.md. -/
def Obligations.WorkIsGivenAndEnded : Prop := Claims.WorkQueuePushes ∧ Claims.NodeEndings

/-- O33: VCLAIM, VYIELD, VSETL, the recall timeout and the lapse of a reservation. -/
def Obligations.LanesAreClaimed : Prop := Claims.LaneInstructions ∧ Claims.LaneTimeouts

/-- O34: Vector loads and stores, lane by lane; NOLANES without a grant. -/
def Obligations.VectorsMoveThroughMemory : Prop := Claims.VectorMemory ∧ Claims.VectorsNeedLanes

/-- O35: Vector integer operations, moves, permutes, comparison and selection. That EPC of FPEXC is the PC of the instruction that set the flag is a reading (notes/assumptions/10.md). -/
def Obligations.VectorIntegersCompute : Prop := Claims.VectorIntegerResults ∧ Claims.VectorMovesAndSelection

/-- O36: Vector floating operations, wide accumulators, dot products, conversions and AMAX. The unary functions' values are those of the model's method (notes/assumptions/8.md); the order of VFDOT (notes/assumptions/27.md) and EPC of FPEXC (notes/assumptions/10.md) are readings. -/
def Obligations.VectorFloatsCompute : Prop := Claims.VectorFloatResults ∧ Claims.WideAndIntegerDotResults ∧ Claims.FloatDotResults ∧ Claims.ConversionsAndAmax

/-- O37: Rounding by each mode; representable numbers round to themselves. -/
def Obligations.RoundingIsNearest : Prop := Claims.RoundingModes ∧ Claims.RoundingKeepsRepresentable

/-- O38: VRED, VSCAN, VNRED and the tensor conversions. Readings: EPC of FPEXC (notes/assumptions/10.md), the flags of the narrow formats (22.md), VNRED with VL = 0 (91.md). -/
def Obligations.ReductionsAndTensorConversions : Prop := Claims.ReductionsWithinACore ∧ Claims.InNetworkReduction ∧ Claims.TensorConversions

/-- O39: OCLAIM, OREL, OZERO, OLOAD, TDEF and TQRY. -/
def Obligations.OperandMemoryIsLoaded : Prop := Claims.SlotsAndTensorIdentifiers ∧ Claims.OperandLoads

/-- O40: Matrix instructions are accepted in order, passes add their terms, tiles are read. -/
def Obligations.MatrixEngineWorks : Prop := Claims.MatrixInstructions ∧ Claims.MatrixReading ∧ Claims.MatrixEngineSteps

/-- O41: The plane passes of a dense product sum to the exact scaled product. -/
def Obligations.PlanePassesSumToTheProduct : Prop := Claims.PlanePassesGiveTheProduct

/-- O42: Requests to accumulator tiles, tile reads and contributions. That ARD merges its flags and raises no FPEXC is a reading (notes/assumptions/31.md). -/
def Obligations.TilesAreAsked : Prop := Claims.TileRequestInstructions ∧ Claims.TileReads ∧ Claims.ContributionsAreSent

/-- O43: A tile accepts disjoint contributions only, and answers its requests. -/
def Obligations.TilesAnswer : Prop := Claims.ContributionsAreEvaluated ∧ Claims.AcceptedContributionsAreDisjoint ∧ Claims.TileRequestsAreServed

/-- O44: Copy commands are accepted, cancelled, read; the engine steps and completes them. Readings: notes/assumptions/37.md, 38.md and 78.md. -/
def Obligations.CopyEngineCopies : Prop := Claims.CopyCommands ∧ Claims.CopyEngineSteps

/-- O45: DHOPS, DWHO, CSAVE, CLOAD, TLBGEN, MIGR, XBSET and CSTART. -/
def Obligations.SystemQueriesSaveAndGenerations : Prop := Claims.DieQueries ∧ Claims.CoreSaveAndRestore ∧ Claims.GenerationsMigrationAndStarts

/-- O46: Remote starts, page walks, page moves, generations and shipping of a context. -/
def Obligations.StartsWalksMovesAndShipping : Prop := Claims.RemoteStartSteps ∧ Claims.GenerationAcknowledge ∧ Claims.PageWalks ∧ Claims.PageMoves ∧ Claims.MappingsAreCompleted ∧ Claims.ContextShipping

/-- O47: The write effects of control registers as steps of their own. -/
def Obligations.ControlRegisterEffectsAsSteps : Prop := Claims.RegisterWriteSteps

/-- O48: Port words arrive, cycles of waits end in RCYCLE, credits are lent. From when a cycle of waits counts (notes/assumptions/33.md) and how CREDIT_RETURN lends (25.md) are the model's readings. -/
def Obligations.PortsDeliverAndWaitsAreBroken : Prop := Claims.PortDeliveries ∧ Claims.CyclesOfWaitsAreBroken ∧ Claims.CreditsAreLent

/-- O49: Packets merge on the way without changing what they do. -/
def Obligations.PacketsAndAtomicsMerge : Prop := Claims.PacketsMerge ∧ Claims.CombinedAtomicsHaveTheSameEffect

/-- O50: Errors are posted to ERRPEND, uncorrectable words are poisoned. -/
def Obligations.ErrorsAreContained : Prop := Claims.ErrorsArePosted ∧ Claims.ScrubAndMargins

/-- O51: Doorbells, the binder, the dispatcher and the completion words. Model's choices: notes/assumptions/83.md, 101.md. -/
def Obligations.JobsAreDispatched : Prop := Claims.Doorbells ∧ Claims.BindingAndDispatch ∧ Claims.JobCompletions

/-- O52: Pre-emption, saving, resuming and maintenance windows. Readings: notes/assumptions/52.md, 53.md. -/
def Obligations.TraysAreHaltedAndResumed : Prop := Claims.PreemptionSteps ∧ Claims.TrayCommands

/-- O53: Mailbox commands, interface configuration and host accesses. Readings: notes/assumptions/43.md, 44.md, 45.md, 46.md, 90.md. -/
def Obligations.HostAndMailbox : Prop := Claims.MailboxCommands ∧ Claims.InterfaceConfiguration ∧ Claims.HostAccesses

/-- O54: Torus hops, multicast acknowledgements and time limits. Numbering of the modules, ports in use: notes/assumptions/34.md. -/
def Obligations.TorusTraffic : Prop := Claims.TorusHops ∧ Claims.AcknowledgementsAndTimeLimits

/-- O55: Debugger halts and tools, bring-up, brown-out, power gating. Readings: notes/assumptions/48.md, 54.md, 55.md, 84.md. -/
def Obligations.DebuggerAndBringUp : Prop := Claims.DebuggerHalts ∧ Claims.DebuggerTools ∧ Claims.BringUpAndPower

/-- O56: Decoding the encoding of a well-formed instruction gives it back. -/
def Obligations.DecodeInvertsEncode : Prop := Claims.DecodeInvertsEncode

/-- O57: Every step keeps the memories canonical and the view on a site of the module. The canonical form is the model's own invariant, no rule of the spec. -/
def Obligations.StepsKeepTheFormOfTheState : Prop := Claims.StepsKeepTheFormOfTheState

/-- O58: The reset state is of that form. The canonical form is the model's own invariant, no rule of the spec. -/
def Obligations.ResetStateHasItsForm : Prop := Claims.ResetStateHasItsForm

/-- O59: A step runs the instruction decoded from the parcels at the PC. That the schedule names whose turn it is, is the form of the model (notes/assumptions/1.md). -/
def Obligations.StepRunsTheFetchedInstruction : Prop := Claims.StepRunsTheFetchedInstruction ∧ Claims.FetchReadsTheParcelsAtThePc ∧ Claims.FetchRefusals

/-- O60: Parcels written out from the encodings decode to their instructions. -/
def Obligations.WordsDecodeAsWritten : Prop := Claims.WordsDecodeAsWritten
end

