-- ==== Sys2Proof/Laws/Layouts.lean ====
section
/-!
SUPPORT. The layouts of R87, R89 and R90: reading the fields of a packed parcel gives them back, whatever they hold.
-/
namespace Sys2Proof

/-- T format: every field of a parcel packed from fields (R87). -/
theorem TF.unpack_pack (t : TF) : TF.unpack t.pack = t := by
  obtain ⟨op, d, a, b, f3, f6⟩ := t
  simp only [TF.unpack, TF.pack, TF.mk.injEq]
  refine ⟨?_, ?_, ?_, ?_, ?_, ?_⟩ <;>
    (apply BitVec.eq_of_getLsbD_eq; intro i hi
     simp only [BitVec.getLsbD_extractLsb', BitVec.getLsbD_append, hi, decide_true, Bool.true_and]
     repeat' split
     all_goals first | omega | (congr 1; omega) | rfl)

/-- X layout: every field of the two parcels (R89). -/
theorem XF.unpack_pack (x : XF) (l : BitVec 2) : XF.unpack (x.pack0 l) x.pack1 = x := by
  obtain ⟨maj, min, d, a, b, c, f3, imm⟩ := x
  simp only [XF.unpack, XF.pack0, XF.pack1, XF.mk.injEq]
  refine ⟨?_, ?_, ?_, ?_, ?_, ?_, ?_, ?_⟩ <;>
    (apply BitVec.eq_of_getLsbD_eq; intro i hi
     simp only [BitVec.getLsbD_extractLsb', BitVec.getLsbD_append, hi, decide_true, Bool.true_and]
     repeat' split
     all_goals first | omega | (congr 1; omega) | rfl)

/-- The prefix parcel: every modifier (R90). -/
theorem Mods.unpack_pack (m : Mods) : Mods.unpack m.pack = m := by
  obtain ⟨ord, scope, space, cache, chk⟩ := m
  simp only [Mods.unpack, Mods.pack, Mods.mk.injEq]
  refine ⟨?_, ?_, ?_, ?_, ?_⟩
  rotate_right
  · rw [BitVec.getLsbD_append, if_neg (by decide)]
    repeat (rw [BitVec.getLsbD_append, if_neg (by decide)])
    rw [BitVec.getLsbD_append, if_pos (by decide)]
    cases chk <;> rfl
  all_goals
    (apply BitVec.eq_of_getLsbD_eq; intro i hi
     simp only [BitVec.getLsbD_extractLsb', BitVec.getLsbD_append, hi, decide_true, Bool.true_and]
     repeat' split
     all_goals first | omega | (congr 1; omega) | rfl)

/-- L of a parcel in T format is 0, of an X first parcel what was packed, of a prefix 3 (R84, R90). -/
theorem TF.parcelL_pack (t : TF) : parcelL t.pack = 0 := by
  apply BitVec.eq_of_getLsbD_eq; intro i hi
  simp only [parcelL, TF.pack, BitVec.getLsbD_extractLsb', BitVec.getLsbD_append, hi, decide_true, Bool.true_and]
  simp [hi]
theorem XF.parcelL_pack0 (x : XF) (l : BitVec 2) : parcelL (x.pack0 l) = l := by
  apply BitVec.eq_of_getLsbD_eq; intro i hi
  simp only [parcelL, XF.pack0, BitVec.getLsbD_extractLsb', BitVec.getLsbD_append, hi, decide_true, Bool.true_and]
  simp [hi]
theorem Mods.parcelL_pack (m : Mods) : parcelL m.pack = 3 := by
  apply BitVec.eq_of_getLsbD_eq; intro i hi
  simp only [parcelL, Mods.pack, BitVec.getLsbD_extractLsb', BitVec.getLsbD_append, hi, decide_true, Bool.true_and]
  simp [hi]

/-- The immediates of the I, J and M formats come back out of the fields that hold them (R87). -/
theorem TF.imm14_ofI (op : BitVec 6) (d a : BitVec 5) (imm : BitVec 14) : (TF.ofI op d a imm).imm14 = imm := by
  simp only [TF.imm14, TF.ofI]
  apply BitVec.eq_of_getLsbD_eq; intro i hi
  simp only [BitVec.getLsbD_append, BitVec.getLsbD_extractLsb']
  repeat' split
  all_goals
    rw [decide_eq_true (by omega), Bool.true_and]
    congr 1; omega
theorem TF.disp24_ofJ (op : BitVec 6) (disp : BitVec 24) : (TF.ofJ op disp).disp24 = disp := by
  simp only [TF.disp24, TF.ofJ]
  apply BitVec.eq_of_getLsbD_eq; intro i hi
  simp only [BitVec.getLsbD_append, BitVec.getLsbD_extractLsb']
  repeat' split
  all_goals
    rw [decide_eq_true (by omega), Bool.true_and]
    congr 1; omega
theorem TF.disp11_ofM (op : BitVec 6) (d a : BitVec 5) (w : BitVec 3) (disp : BitVec 11) : (TF.ofM op d a w disp).disp11 = disp := by
  simp only [TF.disp11, TF.ofM]
  apply BitVec.eq_of_getLsbD_eq; intro i hi
  simp only [BitVec.getLsbD_append, BitVec.getLsbD_extractLsb']
  repeat' split
  all_goals first
    | omega
    | (simp (disch := omega) only [decide_eq_true, Bool.true_and]; congr 1; omega)
theorem TF.w3_ofM (op : BitVec 6) (d a : BitVec 5) (w : BitVec 3) (disp : BitVec 11) : (TF.ofM op d a w disp).w3 = w := by
  simp only [TF.w3, TF.ofM]
  apply BitVec.eq_of_getLsbD_eq; intro i hi
  simp only [BitVec.getLsbD_append, BitVec.getLsbD_extractLsb']
  rw [if_pos (by omega), decide_eq_true (by omega), Bool.true_and]
  congr 1; omega

end Sys2Proof
end

