-- ==== Sys2Proof/Laws/Memory.lean ====
section
/-!
SUPPORT. Memory and sparse tables: every memory operation keeps the canonical form, and a read after a write gives the value written
or what stood there before.
-/
namespace Sys2Proof.Machine

/-! ## Reads after writes -/

theorem Memory.okFrom_mono {lo lo' : Nat} {m : List Host.Cell} (h : Memory.okFrom lo m = true) (hl : lo' ≤ lo) : Memory.okFrom lo' m = true := by
  cases m with
  | nil => rfl
  | cons c m =>
    simp only [Memory.okFrom, Bool.and_eq_true, decide_eq_true_eq] at h ⊢
    exact ⟨⟨Nat.le_trans hl h.1.1, h.1.2⟩, h.2⟩

/-- An address below every listed one reads 0. -/
theorem Memory.get_below {lo a : Nat} {m : List Host.Cell} (h : Memory.okFrom lo m = true) (ha : a < lo) : Memory.get m a = 0 := by
  induction m generalizing lo with
  | nil => rfl
  | cons c m ih =>
    simp only [Memory.okFrom, Bool.and_eq_true, decide_eq_true_eq] at h
    simp only [Memory.get, if_neg (show a ≠ c.1 by omega)]
    exact ih h.2 (by omega)

theorem Memory.get_list (m : List Host.Cell) (a b : Nat) (v : Byte) : Memory.get (Memory.list m a v) b = if b = a then v else Memory.get m b := by
  induction m with
  | nil => simp only [Memory.list, Memory.get]
  | cons c m ih =>
    simp only [Memory.list]
    split
    · simp only [Memory.get]
    · split
      · subst_vars; simp only [Memory.get]; split <;> rfl
      · simp only [Memory.get, ih]
        split
        · rw [if_neg (by omega)]
        · rfl

theorem Memory.get_filter (m : List Host.Cell) (a b : Nat) : Memory.get (m.filter fun c => c.1 != a) b = if b = a then 0 else Memory.get m b := by
  induction m with
  | nil => simp [Memory.get]
  | cons c m ih =>
    rw [List.filter_cons]
    split
    · rename_i h
      simp only [bne_iff_ne, ne_eq] at h
      simp only [Memory.get, ih]
      split
      · rw [if_neg (by omega)]
      · rfl
    · rename_i h
      simp only [bne_iff_ne, ne_eq, Decidable.not_not] at h
      rw [ih]
      split
      · rfl
      · simp only [Memory.get, if_neg (show b ≠ c.1 by omega)]

/-- Reading a byte after a write of one: the byte written at its address, any other as before. -/
theorem Memory.get_put (m : List Host.Cell) (a b : Nat) (v : Byte) : Memory.get (Memory.put m a v) b = if b = a then v else Memory.get m b := by
  unfold Memory.put
  split
  · subst_vars; exact Memory.get_filter m a b
  · exact Memory.get_list m a b v

theorem Memory.okFrom_filter {lo : Nat} {m : List Host.Cell} (h : Memory.okFrom lo m = true) (p : Host.Cell → Bool) :
    Memory.okFrom lo (m.filter p) = true := by
  induction m generalizing lo with
  | nil => rfl
  | cons c m ih =>
    simp only [Memory.okFrom, Bool.and_eq_true, decide_eq_true_eq] at h
    rw [List.filter_cons]
    split
    · simp only [Memory.okFrom, Bool.and_eq_true, decide_eq_true_eq]
      exact ⟨h.1, ih h.2⟩
    · exact Memory.okFrom_mono (ih h.2) (by omega)

theorem Memory.okFrom_list {lo : Nat} {m : List Host.Cell} (h : Memory.okFrom lo m = true) (a : Nat) (v : Byte) (ha : lo ≤ a) (hv : v ≠ 0) :
    Memory.okFrom lo (Memory.list m a v) = true := by
  induction m generalizing lo with
  | nil => simp [Memory.list, Memory.okFrom, ha]; exact hv
  | cons c m ih =>
    simp only [Memory.okFrom, Bool.and_eq_true, decide_eq_true_eq, bne_iff_ne] at h
    simp only [Memory.list]
    split
    · simp only [Memory.okFrom, Bool.and_eq_true, decide_eq_true_eq, bne_iff_ne]
      exact ⟨⟨ha, hv⟩, ⟨by omega, h.1.2⟩, h.2⟩
    · split
      · simp only [Memory.okFrom, Bool.and_eq_true, decide_eq_true_eq, bne_iff_ne]
        exact ⟨⟨ha, hv⟩, Memory.okFrom_mono h.2 (by omega)⟩
      · simp only [Memory.okFrom, Bool.and_eq_true, decide_eq_true_eq, bne_iff_ne]
        exact ⟨h.1, ih h.2 (by omega)⟩

/-! ## The canonical form -/

theorem Memory.wf_nil : Memory.wf [] = true := rfl

/-- A write of one byte keeps the canonical form. -/
theorem Memory.wf_put {m : List Host.Cell} (h : Memory.wf m = true) (a : Nat) (v : Byte) : Memory.wf (Memory.put m a v) = true := by
  unfold Memory.put
  split
  · exact Memory.okFrom_filter h _
  · exact Memory.okFrom_list h a v (Nat.zero_le a) (by assumption)

/-- A write of n bytes keeps it. -/
theorem Memory.wf_putN {m : List Host.Cell} (h : Memory.wf m = true) (a n v : Nat) : Memory.wf (Memory.putN m a n v) = true := by
  induction n generalizing m a v with
  | zero => exact h
  | succ n ih => exact ih (Memory.wf_put h a _) (a + 1) (v / 256)

/-- A write of a list of bytes keeps it. -/
theorem Memory.wf_putBytes {m : List Host.Cell} (h : Memory.wf m = true) (a : Nat) (l : List Byte) : Memory.wf (Memory.putBytes m a l) = true := by
  induction l generalizing m a with
  | nil => exact h
  | cons b l ih => exact ih (Memory.wf_put h a b) (a + 1)

/-- Cells taken away leave the rest in its form. -/
theorem Memory.wf_filter {m : List Host.Cell} (h : Memory.wf m = true) (p : Host.Cell → Bool) : Memory.wf (m.filter p) = true :=
  Memory.okFrom_filter h p

/-- Writes one after another keep it. -/
theorem Memory.wf_foldl {α : Type} (f : List Host.Cell → α → List Host.Cell) (hf : ∀ m x, Memory.wf m = true → Memory.wf (f m x) = true) (l : List α)
    {m : List Host.Cell} (h : Memory.wf m = true) : Memory.wf (l.foldl f m) = true := by
  induction l generalizing m with
  | nil => exact h
  | cons x l ih => exact ih (hf m x h)

/-! ## Wider accesses -/

/-- A write of n bytes leaves every byte outside them. -/
theorem Memory.get_putN_outside (m : List Host.Cell) (a n v b : Nat) (hb : b < a ∨ a + n ≤ b) :
    Memory.get (Memory.putN m a n v) b = Memory.get m b := by
  induction n generalizing m a v with
  | zero => rfl
  | succ n ih =>
    simp only [Memory.putN]
    rw [ih _ (a + 1) (v / 256) (by omega), Memory.get_put, if_neg (by omega)]

/-- Byte j of a write of n bytes is byte j of the value, lowest first (R8). -/
theorem Memory.get_putN_inside (m : List Host.Cell) (a n v j : Nat) (hj : j < n) :
    Memory.get (Memory.putN m a n v) (a + j) = BitVec.ofNat 8 (v / 256 ^ j) := by
  induction n generalizing m a v j with
  | zero => omega
  | succ n ih =>
    simp only [Memory.putN]
    cases j with
    | zero =>
      show Memory.get _ a = _
      rw [Memory.get_putN_outside _ (a + 1) n (v / 256) a (by omega), Memory.get_put, if_pos rfl]
      simp
    | succ j =>
      have := ih (Memory.put m a (BitVec.ofNat 8 v)) (a + 1) (v / 256) j (by omega)
      rw [show a + (j + 1) = a + 1 + j by omega, this, Nat.div_div_eq_div_mul, Nat.pow_succ']

/-- Two memories that agree on the bytes read give the same number. -/
theorem Memory.getN_congr {m m' : List Host.Cell} (a n : Nat) (h : ∀ b, a ≤ b → b < a + n → Memory.get m b = Memory.get m' b) :
    Memory.getN m a n = Memory.getN m' a n := by
  induction n generalizing a with
  | zero => rfl
  | succ n ih =>
    simp only [Memory.getN]
    rw [h a (by omega) (by omega), ih (a + 1) fun b h1 h2 => h b (by omega) (by omega)]

/-- A read of n bytes that shares none with a write of k. -/
theorem Memory.getN_putN_disjoint (m : List Host.Cell) (a n v b k : Nat) (hb : b + k ≤ a ∨ a + n ≤ b) :
    Memory.getN (Memory.putN m a n v) b k = Memory.getN m b k :=
  Memory.getN_congr b k fun c h1 h2 => Memory.get_putN_outside m a n v c (by omega)

/-- A read of n bytes is a number of n bytes. -/
theorem Memory.getN_lt (m : List Host.Cell) (a n : Nat) : Memory.getN m a n < 256 ^ n := by
  induction n generalizing a with
  | zero => simp [Memory.getN]
  | succ n ih =>
    simp only [Memory.getN]
    have h1 := ih (a + 1)
    have h2 := (Memory.get m a).isLt
    rw [Nat.pow_succ]
    omega

/-- A read of n bytes after a write of the same n gives the value written. -/
theorem Memory.getN_putN (m : List Host.Cell) (a n v : Nat) : Memory.getN (Memory.putN m a n v) a n = v % 256 ^ n := by
  induction n generalizing m a v with
  | zero => simp [Memory.getN, Nat.mod_one]
  | succ n ih =>
    have h0 := Memory.get_putN_inside m a (n + 1) v 0 (by omega)
    have h1 := ih (Memory.put m a (BitVec.ofNat 8 v)) (a + 1) (v / 256)
    simp only [Memory.getN]
    simp only [Nat.add_zero, Nat.pow_zero, Nat.div_one] at h0
    rw [h0]
    simp only [Memory.putN] at h1 ⊢
    rw [h1, Nat.pow_succ', Nat.mod_mul, BitVec.toNat_ofNat]

/-- Two canonical memories that read alike are the same list. -/
theorem Memory.ext {lo : Nat} {m m' : List Host.Cell} (h : Memory.okFrom lo m = true) (h' : Memory.okFrom lo m' = true)
    (e : ∀ a, Memory.get m a = Memory.get m' a) : m = m' := by
  induction m generalizing lo m' with
  | nil =>
    cases m' with
    | nil => rfl
    | cons c m' =>
      simp only [Memory.okFrom, Bool.and_eq_true, decide_eq_true_eq, bne_iff_ne] at h'
      have := e c.1
      simp [Memory.get] at this
      exact absurd this.symm h'.1.2
  | cons c m ih =>
    have hh := h
    simp only [Memory.okFrom, Bool.and_eq_true, decide_eq_true_eq, bne_iff_ne] at h
    cases m' with
    | nil =>
      have := e c.1
      simp [Memory.get] at this
      exact absurd this h.1.2
    | cons d m' =>
      have hh' := h'
      simp only [Memory.okFrom, Bool.and_eq_true, decide_eq_true_eq, bne_iff_ne] at h'
      have k1 : c.1 = d.1 := by
        rcases Nat.lt_trichotomy c.1 d.1 with x | x | x
        · have := e c.1
          simp only [Memory.get, if_true, if_neg (show c.1 ≠ d.1 by omega)] at this
          rw [Memory.get_below h'.2 (by omega)] at this
          exact absurd this h.1.2
        · exact x
        · have := e d.1
          simp only [Memory.get, if_true, if_neg (show d.1 ≠ c.1 by omega)] at this
          rw [Memory.get_below h.2 (by omega)] at this
          exact absurd this.symm h'.1.2
      have k2 : c.2 = d.2 := by
        have := e c.1
        simpa [Memory.get, k1] using this
      have k3 : m = m' := by
        refine ih h.2 (k1 ▸ h'.2) fun a => ?_
        have := e a
        simp only [Memory.get, k1] at this
        split at this
        · rw [Memory.get_below h.2 (by omega), Memory.get_below h'.2 (by omega)]
        · exact this
      rw [show c = d from Prod.ext k1 k2, k3]

/-! ## Sparse tables -/

/-- A lookup after an entry is set. -/
theorem Table.find_set {α : Type} (l : List (Nat × α)) (a b : Nat) (x : α) :
    Table.find (Table.set l a x) b = if b = a then some x else Table.find l b := by
  induction l with
  | nil => simp only [Table.set, Table.find]
  | cons c l ih =>
    simp only [Table.set]
    split
    · simp only [Table.find]
    · split
      · subst_vars; simp only [Table.find]; split <;> rfl
      · simp only [Table.find, ih]
        split
        · rw [if_neg (by omega)]
        · rfl

/-- A lookup of another key after an entry is taken away. -/
theorem Table.find_del_ne {α : Type} (l : List (Nat × α)) (a b : Nat) (h : b ≠ a) : Table.find (Table.del l a) b = Table.find l b := by
  induction l with
  | nil => rfl
  | cons c l ih =>
    simp only [Table.del]
    split
    · subst_vars; simp only [Table.find, if_neg h]
    · simp only [Table.find, ih]

end Sys2Proof.Machine
end

