-- ==== Sys2Proof/Laws/State.lean ====
section
/-!
SUPPORT. One lemma per field per update of the state: what each update of Machine/Ops.lean writes and what it leaves.
-/
namespace Sys2Proof.Machine

/-! ## State.setCx and State.setCore -/

@[simp] theorem State.setCx_id (s : State) (c : Context) : (s.setCx c).id = s.id := rfl
@[simp] theorem State.setCx_core (s : State) (c : Context) : (s.setCx c).core = s.core := rfl
@[simp] theorem State.setCx_others (s : State) (c : Context) : (s.setCx c).others = s.others := rfl
@[simp] theorem State.setCx_sched (s : State) (c : Context) : (s.setCx c).sched = s.sched := rfl
@[simp] theorem State.setCx_cy (s : State) (c : Context) : (s.setCx c).cy = s.cy := rfl
@[simp] theorem State.setCx_fresh (s : State) (c : Context) : (s.setCx c).fresh = s.fresh := rfl
@[simp] theorem State.setCx_seq (s : State) (c : Context) : (s.setCx c).seq = s.seq := rfl
@[simp] theorem State.setCx_cycleBase (s : State) (c : Context) : (s.setCx c).cycleBase = s.cycleBase := rfl
@[simp] theorem State.setCx_mem (s : State) (c : Context) : (s.setCx c).mem = s.mem := rfl
@[simp] theorem State.setCx_poison (s : State) (c : Context) : (s.setCx c).poison = s.poison := rfl
@[simp] theorem State.setCx_unseen (s : State) (c : Context) : (s.setCx c).unseen = s.unseen := rfl
@[simp] theorem State.setCx_stamps (s : State) (c : Context) : (s.setCx c).stamps = s.stamps := rfl
@[simp] theorem State.setCx_order (s : State) (c : Context) : (s.setCx c).order = s.order := rfl
@[simp] theorem State.setCx_flight (s : State) (c : Context) : (s.setCx c).flight = s.flight := rfl
@[simp] theorem State.setCx_spots (s : State) (c : Context) : (s.setCx c).spots = s.spots := rfl
@[simp] theorem State.setCx_paid (s : State) (c : Context) : (s.setCx c).paid = s.paid := rfl
@[simp] theorem State.setCx_lendTurn (s : State) (c : Context) : (s.setCx c).lendTurn = s.lendTurn := rfl
@[simp] theorem State.setCx_dieN (s : State) (c : Context) : (s.setCx c).dieN = s.dieN := rfl
@[simp] theorem State.setCx_dieC (s : State) (c : Context) : (s.setCx c).dieC = s.dieC := rfl
@[simp] theorem State.setCx_dieV (s : State) (c : Context) : (s.setCx c).dieV = s.dieV := rfl
@[simp] theorem State.setCx_holds (s : State) (c : Context) : (s.setCx c).holds = s.holds := rfl
@[simp] theorem State.setCx_fused (s : State) (c : Context) : (s.setCx c).fused = s.fused := rfl
@[simp] theorem State.setCx_disabled (s : State) (c : Context) : (s.setCx c).disabled = s.disabled := rfl
@[simp] theorem State.setCx_dies (s : State) (c : Context) : (s.setCx c).dies = s.dies := rfl
@[simp] theorem State.setCx_vifs (s : State) (c : Context) : (s.setCx c).vifs = s.vifs := rfl
@[simp] theorem State.setCx_wqueues (s : State) (c : Context) : (s.setCx c).wqueues = s.wqueues := rfl
@[simp] theorem State.setCx_nodes (s : State) (c : Context) : (s.setCx c).nodes = s.nodes := rfl
@[simp] theorem State.setCx_episodes (s : State) (c : Context) : (s.setCx c).episodes = s.episodes := rfl
@[simp] theorem State.setCx_domains (s : State) (c : Context) : (s.setCx c).domains = s.domains := rfl
@[simp] theorem State.setCx_phalanxes (s : State) (c : Context) : (s.setCx c).phalanxes = s.phalanxes := rfl
@[simp] theorem State.setCx_tiles (s : State) (c : Context) : (s.setCx c).tiles = s.tiles := rfl
@[simp] theorem State.setCx_tileGens (s : State) (c : Context) : (s.setCx c).tileGens = s.tileGens := rfl
@[simp] theorem State.setCx_asids (s : State) (c : Context) : (s.setCx c).asids = s.asids := rfl
@[simp] theorem State.setCx_tlb2 (s : State) (c : Context) : (s.setCx c).tlb2 = s.tlb2 := rfl
@[simp] theorem State.setCx_moves (s : State) (c : Context) : (s.setCx c).moves = s.moves := rfl
@[simp] theorem State.setCx_hub (s : State) (c : Context) : (s.setCx c).hub = s.hub := rfl
@[simp] theorem State.setCx_torus (s : State) (c : Context) : (s.setCx c).torus = s.torus := rfl
@[simp] theorem State.setCx_cx (s : State) (c : Context) : (s.setCx c).cx = c := rfl
@[simp] theorem State.setCore_id (s : State) (c : Core) : (s.setCore c).id = s.id := rfl
@[simp] theorem State.setCore_cx (s : State) (c : Core) : (s.setCore c).cx = s.cx := rfl
@[simp] theorem State.setCore_others (s : State) (c : Core) : (s.setCore c).others = s.others := rfl
@[simp] theorem State.setCore_sched (s : State) (c : Core) : (s.setCore c).sched = s.sched := rfl
@[simp] theorem State.setCore_cy (s : State) (c : Core) : (s.setCore c).cy = s.cy := rfl
@[simp] theorem State.setCore_fresh (s : State) (c : Core) : (s.setCore c).fresh = s.fresh := rfl
@[simp] theorem State.setCore_seq (s : State) (c : Core) : (s.setCore c).seq = s.seq := rfl
@[simp] theorem State.setCore_cycleBase (s : State) (c : Core) : (s.setCore c).cycleBase = s.cycleBase := rfl
@[simp] theorem State.setCore_mem (s : State) (c : Core) : (s.setCore c).mem = s.mem := rfl
@[simp] theorem State.setCore_poison (s : State) (c : Core) : (s.setCore c).poison = s.poison := rfl
@[simp] theorem State.setCore_unseen (s : State) (c : Core) : (s.setCore c).unseen = s.unseen := rfl
@[simp] theorem State.setCore_stamps (s : State) (c : Core) : (s.setCore c).stamps = s.stamps := rfl
@[simp] theorem State.setCore_order (s : State) (c : Core) : (s.setCore c).order = s.order := rfl
@[simp] theorem State.setCore_flight (s : State) (c : Core) : (s.setCore c).flight = s.flight := rfl
@[simp] theorem State.setCore_spots (s : State) (c : Core) : (s.setCore c).spots = s.spots := rfl
@[simp] theorem State.setCore_paid (s : State) (c : Core) : (s.setCore c).paid = s.paid := rfl
@[simp] theorem State.setCore_lendTurn (s : State) (c : Core) : (s.setCore c).lendTurn = s.lendTurn := rfl
@[simp] theorem State.setCore_dieN (s : State) (c : Core) : (s.setCore c).dieN = s.dieN := rfl
@[simp] theorem State.setCore_dieC (s : State) (c : Core) : (s.setCore c).dieC = s.dieC := rfl
@[simp] theorem State.setCore_dieV (s : State) (c : Core) : (s.setCore c).dieV = s.dieV := rfl
@[simp] theorem State.setCore_holds (s : State) (c : Core) : (s.setCore c).holds = s.holds := rfl
@[simp] theorem State.setCore_fused (s : State) (c : Core) : (s.setCore c).fused = s.fused := rfl
@[simp] theorem State.setCore_disabled (s : State) (c : Core) : (s.setCore c).disabled = s.disabled := rfl
@[simp] theorem State.setCore_dies (s : State) (c : Core) : (s.setCore c).dies = s.dies := rfl
@[simp] theorem State.setCore_vifs (s : State) (c : Core) : (s.setCore c).vifs = s.vifs := rfl
@[simp] theorem State.setCore_wqueues (s : State) (c : Core) : (s.setCore c).wqueues = s.wqueues := rfl
@[simp] theorem State.setCore_nodes (s : State) (c : Core) : (s.setCore c).nodes = s.nodes := rfl
@[simp] theorem State.setCore_episodes (s : State) (c : Core) : (s.setCore c).episodes = s.episodes := rfl
@[simp] theorem State.setCore_domains (s : State) (c : Core) : (s.setCore c).domains = s.domains := rfl
@[simp] theorem State.setCore_phalanxes (s : State) (c : Core) : (s.setCore c).phalanxes = s.phalanxes := rfl
@[simp] theorem State.setCore_tiles (s : State) (c : Core) : (s.setCore c).tiles = s.tiles := rfl
@[simp] theorem State.setCore_tileGens (s : State) (c : Core) : (s.setCore c).tileGens = s.tileGens := rfl
@[simp] theorem State.setCore_asids (s : State) (c : Core) : (s.setCore c).asids = s.asids := rfl
@[simp] theorem State.setCore_tlb2 (s : State) (c : Core) : (s.setCore c).tlb2 = s.tlb2 := rfl
@[simp] theorem State.setCore_moves (s : State) (c : Core) : (s.setCore c).moves = s.moves := rfl
@[simp] theorem State.setCore_hub (s : State) (c : Core) : (s.setCore c).hub = s.hub := rfl
@[simp] theorem State.setCore_torus (s : State) (c : Core) : (s.setCore c).torus = s.torus := rfl
@[simp] theorem State.setCore_core (s : State) (c : Core) : (s.setCore c).core = c := rfl

/-! ## Context.putG and State.setG -/

@[simp] theorem Context.putG_st (c : Context) (r : GReg) (v : Word) : (c.putG r v).st = c.st := by unfold Context.putG; split <;> rfl
@[simp] theorem Context.putG_since (c : Context) (r : GReg) (v : Word) : (c.putG r v).since = c.since := by unfold Context.putG; split <;> rfl
@[simp] theorem Context.putG_want (c : Context) (r : GReg) (v : Word) : (c.putG r v).want = c.want := by unfold Context.putG; split <;> rfl
@[simp] theorem Context.putG_pc (c : Context) (r : GReg) (v : Word) : (c.putG r v).pc = c.pc := by unfold Context.putG; split <;> rfl
@[simp] theorem Context.putG_status (c : Context) (r : GReg) (v : Word) : (c.putG r v).status = c.status := by unfold Context.putG; split <;> rfl
@[simp] theorem Context.putG_epc (c : Context) (r : GReg) (v : Word) : (c.putG r v).epc = c.epc := by unfold Context.putG; split <;> rfl
@[simp] theorem Context.putG_cause (c : Context) (r : GReg) (v : Word) : (c.putG r v).cause = c.cause := by unfold Context.putG; split <;> rfl
@[simp] theorem Context.putG_tval (c : Context) (r : GReg) (v : Word) : (c.putG r v).tval = c.tval := by unfold Context.putG; split <;> rfl
@[simp] theorem Context.putG_trapvec (c : Context) (r : GReg) (v : Word) : (c.putG r v).trapvec = c.trapvec := by unfold Context.putG; split <;> rfl
@[simp] theorem Context.putG_ovlhand (c : Context) (r : GReg) (v : Word) : (c.putG r v).ovlhand = c.ovlhand := by unfold Context.putG; split <;> rfl
@[simp] theorem Context.putG_memdef (c : Context) (r : GReg) (v : Word) : (c.putG r v).memdef = c.memdef := by unfold Context.putG; split <;> rfl
@[simp] theorem Context.putG_arith (c : Context) (r : GReg) (v : Word) : (c.putG r v).arith = c.arith := by unfold Context.putG; split <;> rfl
@[simp] theorem Context.putG_fflags (c : Context) (r : GReg) (v : Word) : (c.putG r v).fflags = c.fflags := by unfold Context.putG; split <;> rfl
@[simp] theorem Context.putG_amax (c : Context) (r : GReg) (v : Word) : (c.putG r v).amax = c.amax := by unfold Context.putG; split <;> rfl
@[simp] theorem Context.putG_domain (c : Context) (r : GReg) (v : Word) : (c.putG r v).domain = c.domain := by unfold Context.putG; split <;> rfl
@[simp] theorem Context.putG_btimeout (c : Context) (r : GReg) (v : Word) : (c.putG r v).btimeout = c.btimeout := by unfold Context.putG; split <;> rfl
@[simp] theorem Context.putG_slotmask (c : Context) (r : GReg) (v : Word) : (c.putG r v).slotmask = c.slotmask := by unfold Context.putG; split <;> rfl
@[simp] theorem Context.putG_breg (c : Context) (r : GReg) (v : Word) : (c.putG r v).breg = c.breg := by unfold Context.putG; split <;> rfl
@[simp] theorem Context.putG_hmapsel (c : Context) (r : GReg) (v : Word) : (c.putG r v).hmapsel = c.hmapsel := by unfold Context.putG; split <;> rfl
@[simp] theorem Context.putG_ssp (c : Context) (r : GReg) (v : Word) : (c.putG r v).ssp = c.ssp := by unfold Context.putG; split <;> rfl
@[simp] theorem Context.putG_sslim (c : Context) (r : GReg) (v : Word) : (c.putG r v).sslim = c.sslim := by unfold Context.putG; split <;> rfl
@[simp] theorem Context.putG_pattern (c : Context) (r : GReg) (v : Word) : (c.putG r v).pattern = c.pattern := by unfold Context.putG; split <;> rfl
@[simp] theorem Context.putG_errpend (c : Context) (r : GReg) (v : Word) : (c.putG r v).errpend = c.errpend := by unfold Context.putG; split <;> rfl
@[simp] theorem Context.putG_errTval (c : Context) (r : GReg) (v : Word) : (c.putG r v).errTval = c.errTval := by unfold Context.putG; split <;> rfl
@[simp] theorem Context.putG_errSource (c : Context) (r : GReg) (v : Word) : (c.putG r v).errSource = c.errSource := by unfold Context.putG; split <;> rfl
@[simp] theorem Context.putG_asid (c : Context) (r : GReg) (v : Word) : (c.putG r v).asid = c.asid := by unfold Context.putG; split <;> rfl
@[simp] theorem Context.putG_gen (c : Context) (r : GReg) (v : Word) : (c.putG r v).gen = c.gen := by unfold Context.putG; split <;> rfl
@[simp] theorem Context.putG_trapdeleg (c : Context) (r : GReg) (v : Word) : (c.putG r v).trapdeleg = c.trapdeleg := by unfold Context.putG; split <;> rfl
@[simp] theorem Context.putG_ta (c : Context) (r : GReg) (v : Word) : (c.putG r v).ta = c.ta := by unfold Context.putG; split <;> rfl
@[simp] theorem Context.putG_tid (c : Context) (r : GReg) (v : Word) : (c.putG r v).tid = c.tid := by unfold Context.putG; split <;> rfl
@[simp] theorem Context.putG_tickets (c : Context) (r : GReg) (v : Word) : (c.putG r v).tickets = c.tickets := by unfold Context.putG; split <;> rfl
@[simp] theorem Context.putG_failedPeers (c : Context) (r : GReg) (v : Word) : (c.putG r v).failedPeers = c.failedPeers := by unfold Context.putG; split <;> rfl
@[simp] theorem Context.putG_bars (c : Context) (r : GReg) (v : Word) : (c.putG r v).bars = c.bars := by unfold Context.putG; split <;> rfl
@[simp] theorem Context.putG_arms (c : Context) (r : GReg) (v : Word) : (c.putG r v).arms = c.arms := by unfold Context.putG; split <;> rfl
@[simp] theorem Context.putG_selArm (c : Context) (r : GReg) (v : Word) : (c.putG r v).selArm = c.selArm := by unfold Context.putG; split <;> rfl
@[simp] theorem Context.putG_clk (c : Context) (r : GReg) (v : Word) : (c.putG r v).clk = c.clk := by unfold Context.putG; split <;> rfl
@[simp] theorem Context.putG_joinJ (c : Context) (r : GReg) (v : Word) : (c.putG r v).joinJ = c.joinJ := by unfold Context.putG; split <;> rfl
@[simp] theorem Context.putG_acqTime (c : Context) (r : GReg) (v : Word) : (c.putG r v).acqTime = c.acqTime := by unfold Context.putG; split <;> rfl
@[simp] theorem Context.putG_acqOpen (c : Context) (r : GReg) (v : Word) : (c.putG r v).acqOpen = c.acqOpen := by unfold Context.putG; split <;> rfl
@[simp] theorem Context.putG_pend (c : Context) (r : GReg) (v : Word) : (c.putG r v).pend = c.pend := by unfold Context.putG; split <;> rfl
@[simp] theorem Context.putG_await (c : Context) (r : GReg) (v : Word) : (c.putG r v).await = c.await := by unfold Context.putG; split <;> rfl
@[simp] theorem Context.putG_watch (c : Context) (r : GReg) (v : Word) : (c.putG r v).watch = c.watch := by unfold Context.putG; split <;> rfl
@[simp] theorem Context.putG_walk (c : Context) (r : GReg) (v : Word) : (c.putG r v).walk = c.walk := by unfold Context.putG; split <;> rfl
@[simp] theorem Context.putG_pauseEnd (c : Context) (r : GReg) (v : Word) : (c.putG r v).pauseEnd = c.pauseEnd := by unfold Context.putG; split <;> rfl
@[simp] theorem Context.putG_yielding (c : Context) (r : GReg) (v : Word) : (c.putG r v).yielding = c.yielding := by unfold Context.putG; split <;> rfl
@[simp] theorem Context.putG_exitValue (c : Context) (r : GReg) (v : Word) : (c.putG r v).exitValue = c.exitValue := by unfold Context.putG; split <;> rfl
@[simp] theorem Context.putG_pos (c : Context) (r : GReg) (v : Word) : (c.putG r v).pos = c.pos := by unfold Context.putG; split <;> rfl
@[simp] theorem Context.putG_reply (c : Context) (r : GReg) (v : Word) : (c.putG r v).reply = c.reply := by unfold Context.putG; split <;> rfl
@[simp] theorem Context.putG_asked (c : Context) (r : GReg) (v : Word) : (c.putG r v).asked = c.asked := by unfold Context.putG; split <;> rfl
@[simp] theorem Context.putG_budget (c : Context) (r : GReg) (v : Word) : (c.putG r v).budget = c.budget := by unfold Context.putG; split <;> rfl
@[simp] theorem Context.putG_passBrk (c : Context) (r : GReg) (v : Word) : (c.putG r v).passBrk = c.passBrk := by unfold Context.putG; split <;> rfl
@[simp] theorem Context.putG_arrived (c : Context) (r : GReg) (v : Word) : (c.putG r v).arrived = c.arrived := by unfold Context.putG; split <;> rfl
@[simp] theorem Context.putG_popped (c : Context) (r : GReg) (v : Word) : (c.putG r v).popped = c.popped := by unfold Context.putG; split <;> rfl
@[simp] theorem Context.putG_trapNext (c : Context) (r : GReg) (v : Word) : (c.putG r v).trapNext = c.trapNext := by unfold Context.putG; split <;> rfl
@[simp] theorem Context.putG_held (c : Context) (r : GReg) (v : Word) : (c.putG r v).held = c.held := by unfold Context.putG; split <;> rfl
@[simp] theorem Context.putG_waitAt (c : Context) (r : GReg) (v : Word) : (c.putG r v).waitAt = c.waitAt := by unfold Context.putG; split <;> rfl
@[simp] theorem Context.putG_waited (c : Context) (r : GReg) (v : Word) : (c.putG r v).waited = c.waited := by unfold Context.putG; split <;> rfl
@[simp] theorem Context.putG_lateCy (c : Context) (r : GReg) (v : Word) : (c.putG r v).lateCy = c.lateCy := by unfold Context.putG; split <;> rfl
@[simp] theorem Context.putG_lateErr (c : Context) (r : GReg) (v : Word) : (c.putG r v).lateErr = c.lateErr := by unfold Context.putG; split <;> rfl
@[simp] theorem Context.putG_lateOld (c : Context) (r : GReg) (v : Word) : (c.putG r v).lateOld = c.lateOld := by unfold Context.putG; split <;> rfl
@[simp] theorem Context.putG_lateFl (c : Context) (r : GReg) (v : Word) : (c.putG r v).lateFl = c.lateFl := by unfold Context.putG; split <;> rfl
@[simp] theorem Context.putG_lateFlOld (c : Context) (r : GReg) (v : Word) : (c.putG r v).lateFlOld = c.lateFlOld := by unfold Context.putG; split <;> rfl
@[simp] theorem Context.putG_seen (c : Context) (r : GReg) (v : Word) : (c.putG r v).seen = c.seen := by unfold Context.putG; split <;> rfl
@[simp] theorem Context.putG_saw (c : Context) (r : GReg) (v : Word) : (c.putG r v).saw = c.saw := by unfold Context.putG; split <;> rfl
@[simp] theorem Context.putG_last (c : Context) (r : GReg) (v : Word) : (c.putG r v).last = c.last := by unfold Context.putG; split <;> rfl
@[simp] theorem Context.putG_raised (c : Context) (r : GReg) (v : Word) : (c.putG r v).raised = c.raised := by unfold Context.putG; split <;> rfl
@[simp] theorem State.setG_id (s : State) (r : GReg) (v : Word) : (s.setG r v).id = s.id := rfl
@[simp] theorem State.setG_core (s : State) (r : GReg) (v : Word) : (s.setG r v).core = s.core := rfl
@[simp] theorem State.setG_others (s : State) (r : GReg) (v : Word) : (s.setG r v).others = s.others := rfl
@[simp] theorem State.setG_sched (s : State) (r : GReg) (v : Word) : (s.setG r v).sched = s.sched := rfl
@[simp] theorem State.setG_cy (s : State) (r : GReg) (v : Word) : (s.setG r v).cy = s.cy := rfl
@[simp] theorem State.setG_fresh (s : State) (r : GReg) (v : Word) : (s.setG r v).fresh = s.fresh := rfl
@[simp] theorem State.setG_seq (s : State) (r : GReg) (v : Word) : (s.setG r v).seq = s.seq := rfl
@[simp] theorem State.setG_cycleBase (s : State) (r : GReg) (v : Word) : (s.setG r v).cycleBase = s.cycleBase := rfl
@[simp] theorem State.setG_mem (s : State) (r : GReg) (v : Word) : (s.setG r v).mem = s.mem := rfl
@[simp] theorem State.setG_poison (s : State) (r : GReg) (v : Word) : (s.setG r v).poison = s.poison := rfl
@[simp] theorem State.setG_unseen (s : State) (r : GReg) (v : Word) : (s.setG r v).unseen = s.unseen := rfl
@[simp] theorem State.setG_stamps (s : State) (r : GReg) (v : Word) : (s.setG r v).stamps = s.stamps := rfl
@[simp] theorem State.setG_order (s : State) (r : GReg) (v : Word) : (s.setG r v).order = s.order := rfl
@[simp] theorem State.setG_flight (s : State) (r : GReg) (v : Word) : (s.setG r v).flight = s.flight := rfl
@[simp] theorem State.setG_spots (s : State) (r : GReg) (v : Word) : (s.setG r v).spots = s.spots := rfl
@[simp] theorem State.setG_paid (s : State) (r : GReg) (v : Word) : (s.setG r v).paid = s.paid := rfl
@[simp] theorem State.setG_lendTurn (s : State) (r : GReg) (v : Word) : (s.setG r v).lendTurn = s.lendTurn := rfl
@[simp] theorem State.setG_dieN (s : State) (r : GReg) (v : Word) : (s.setG r v).dieN = s.dieN := rfl
@[simp] theorem State.setG_dieC (s : State) (r : GReg) (v : Word) : (s.setG r v).dieC = s.dieC := rfl
@[simp] theorem State.setG_dieV (s : State) (r : GReg) (v : Word) : (s.setG r v).dieV = s.dieV := rfl
@[simp] theorem State.setG_holds (s : State) (r : GReg) (v : Word) : (s.setG r v).holds = s.holds := rfl
@[simp] theorem State.setG_fused (s : State) (r : GReg) (v : Word) : (s.setG r v).fused = s.fused := rfl
@[simp] theorem State.setG_disabled (s : State) (r : GReg) (v : Word) : (s.setG r v).disabled = s.disabled := rfl
@[simp] theorem State.setG_dies (s : State) (r : GReg) (v : Word) : (s.setG r v).dies = s.dies := rfl
@[simp] theorem State.setG_vifs (s : State) (r : GReg) (v : Word) : (s.setG r v).vifs = s.vifs := rfl
@[simp] theorem State.setG_wqueues (s : State) (r : GReg) (v : Word) : (s.setG r v).wqueues = s.wqueues := rfl
@[simp] theorem State.setG_nodes (s : State) (r : GReg) (v : Word) : (s.setG r v).nodes = s.nodes := rfl
@[simp] theorem State.setG_episodes (s : State) (r : GReg) (v : Word) : (s.setG r v).episodes = s.episodes := rfl
@[simp] theorem State.setG_domains (s : State) (r : GReg) (v : Word) : (s.setG r v).domains = s.domains := rfl
@[simp] theorem State.setG_phalanxes (s : State) (r : GReg) (v : Word) : (s.setG r v).phalanxes = s.phalanxes := rfl
@[simp] theorem State.setG_tiles (s : State) (r : GReg) (v : Word) : (s.setG r v).tiles = s.tiles := rfl
@[simp] theorem State.setG_tileGens (s : State) (r : GReg) (v : Word) : (s.setG r v).tileGens = s.tileGens := rfl
@[simp] theorem State.setG_asids (s : State) (r : GReg) (v : Word) : (s.setG r v).asids = s.asids := rfl
@[simp] theorem State.setG_tlb2 (s : State) (r : GReg) (v : Word) : (s.setG r v).tlb2 = s.tlb2 := rfl
@[simp] theorem State.setG_moves (s : State) (r : GReg) (v : Word) : (s.setG r v).moves = s.moves := rfl
@[simp] theorem State.setG_hub (s : State) (r : GReg) (v : Word) : (s.setG r v).hub = s.hub := rfl
@[simp] theorem State.setG_torus (s : State) (r : GReg) (v : Word) : (s.setG r v).torus = s.torus := rfl
@[simp] theorem State.setG_cx (s : State) (r : GReg) (v : Word) : (s.setG r v).cx = s.cx.putG r v := rfl

/-! ## Context.retire and Context.addFlags -/

@[simp] theorem Context.retire_st (c : Context) (p : Pc) : (c.retire p).st = .ready := rfl
@[simp] theorem Context.retire_since (c : Context) (p : Pc) : (c.retire p).since = c.since := rfl
@[simp] theorem Context.retire_want (c : Context) (p : Pc) : (c.retire p).want = c.want := rfl
@[simp] theorem Context.retire_g (c : Context) (p : Pc) : (c.retire p).g = c.g := rfl
@[simp] theorem Context.retire_pc (c : Context) (p : Pc) : (c.retire p).pc = p := rfl
@[simp] theorem Context.retire_status (c : Context) (p : Pc) : (c.retire p).status = c.status := rfl
@[simp] theorem Context.retire_epc (c : Context) (p : Pc) : (c.retire p).epc = c.epc := rfl
@[simp] theorem Context.retire_cause (c : Context) (p : Pc) : (c.retire p).cause = c.cause := rfl
@[simp] theorem Context.retire_tval (c : Context) (p : Pc) : (c.retire p).tval = c.tval := rfl
@[simp] theorem Context.retire_trapvec (c : Context) (p : Pc) : (c.retire p).trapvec = c.trapvec := rfl
@[simp] theorem Context.retire_ovlhand (c : Context) (p : Pc) : (c.retire p).ovlhand = c.ovlhand := rfl
@[simp] theorem Context.retire_memdef (c : Context) (p : Pc) : (c.retire p).memdef = c.memdef := rfl
@[simp] theorem Context.retire_arith (c : Context) (p : Pc) : (c.retire p).arith = c.arith := rfl
@[simp] theorem Context.retire_fflags (c : Context) (p : Pc) : (c.retire p).fflags = c.fflags := rfl
@[simp] theorem Context.retire_amax (c : Context) (p : Pc) : (c.retire p).amax = c.amax := rfl
@[simp] theorem Context.retire_domain (c : Context) (p : Pc) : (c.retire p).domain = c.domain := rfl
@[simp] theorem Context.retire_btimeout (c : Context) (p : Pc) : (c.retire p).btimeout = c.btimeout := rfl
@[simp] theorem Context.retire_slotmask (c : Context) (p : Pc) : (c.retire p).slotmask = c.slotmask := rfl
@[simp] theorem Context.retire_breg (c : Context) (p : Pc) : (c.retire p).breg = c.breg := rfl
@[simp] theorem Context.retire_hmapsel (c : Context) (p : Pc) : (c.retire p).hmapsel = c.hmapsel := rfl
@[simp] theorem Context.retire_ssp (c : Context) (p : Pc) : (c.retire p).ssp = c.ssp := rfl
@[simp] theorem Context.retire_sslim (c : Context) (p : Pc) : (c.retire p).sslim = c.sslim := rfl
@[simp] theorem Context.retire_pattern (c : Context) (p : Pc) : (c.retire p).pattern = c.pattern := rfl
@[simp] theorem Context.retire_errpend (c : Context) (p : Pc) : (c.retire p).errpend = c.errpend := rfl
@[simp] theorem Context.retire_errTval (c : Context) (p : Pc) : (c.retire p).errTval = c.errTval := rfl
@[simp] theorem Context.retire_errSource (c : Context) (p : Pc) : (c.retire p).errSource = c.errSource := rfl
@[simp] theorem Context.retire_asid (c : Context) (p : Pc) : (c.retire p).asid = c.asid := rfl
@[simp] theorem Context.retire_gen (c : Context) (p : Pc) : (c.retire p).gen = c.gen := rfl
@[simp] theorem Context.retire_trapdeleg (c : Context) (p : Pc) : (c.retire p).trapdeleg = c.trapdeleg := rfl
@[simp] theorem Context.retire_ta (c : Context) (p : Pc) : (c.retire p).ta = c.ta := rfl
@[simp] theorem Context.retire_tid (c : Context) (p : Pc) : (c.retire p).tid = c.tid := rfl
@[simp] theorem Context.retire_tickets (c : Context) (p : Pc) : (c.retire p).tickets = c.tickets := rfl
@[simp] theorem Context.retire_failedPeers (c : Context) (p : Pc) : (c.retire p).failedPeers = c.failedPeers := rfl
@[simp] theorem Context.retire_bars (c : Context) (p : Pc) : (c.retire p).bars = c.bars := rfl
@[simp] theorem Context.retire_arms (c : Context) (p : Pc) : (c.retire p).arms = c.arms := rfl
@[simp] theorem Context.retire_selArm (c : Context) (p : Pc) : (c.retire p).selArm = c.selArm := rfl
@[simp] theorem Context.retire_clk (c : Context) (p : Pc) : (c.retire p).clk = c.clk := rfl
@[simp] theorem Context.retire_joinJ (c : Context) (p : Pc) : (c.retire p).joinJ = c.joinJ := rfl
@[simp] theorem Context.retire_acqTime (c : Context) (p : Pc) : (c.retire p).acqTime = c.acqTime := rfl
@[simp] theorem Context.retire_acqOpen (c : Context) (p : Pc) : (c.retire p).acqOpen = c.acqOpen := rfl
@[simp] theorem Context.retire_pend (c : Context) (p : Pc) : (c.retire p).pend = c.pend := rfl
@[simp] theorem Context.retire_await (c : Context) (p : Pc) : (c.retire p).await = none := rfl
@[simp] theorem Context.retire_watch (c : Context) (p : Pc) : (c.retire p).watch = none := rfl
@[simp] theorem Context.retire_walk (c : Context) (p : Pc) : (c.retire p).walk = none := rfl
@[simp] theorem Context.retire_pauseEnd (c : Context) (p : Pc) : (c.retire p).pauseEnd = c.pauseEnd := rfl
@[simp] theorem Context.retire_yielding (c : Context) (p : Pc) : (c.retire p).yielding = c.yielding := rfl
@[simp] theorem Context.retire_exitValue (c : Context) (p : Pc) : (c.retire p).exitValue = c.exitValue := rfl
@[simp] theorem Context.retire_pos (c : Context) (p : Pc) : (c.retire p).pos = if c.inPhlx then c.pos + 1 else c.pos := rfl
@[simp] theorem Context.retire_reply (c : Context) (p : Pc) : (c.retire p).reply = none := rfl
@[simp] theorem Context.retire_asked (c : Context) (p : Pc) : (c.retire p).asked = false := rfl
@[simp] theorem Context.retire_budget (c : Context) (p : Pc) : (c.retire p).budget = c.budget := rfl
@[simp] theorem Context.retire_passBrk (c : Context) (p : Pc) : (c.retire p).passBrk = c.passBrk := rfl
@[simp] theorem Context.retire_arrived (c : Context) (p : Pc) : (c.retire p).arrived = false := rfl
@[simp] theorem Context.retire_popped (c : Context) (p : Pc) : (c.retire p).popped = none := rfl
@[simp] theorem Context.retire_trapNext (c : Context) (p : Pc) : (c.retire p).trapNext = c.trapNext := rfl
@[simp] theorem Context.retire_held (c : Context) (p : Pc) : (c.retire p).held = none := rfl
@[simp] theorem Context.retire_waitAt (c : Context) (p : Pc) : (c.retire p).waitAt = c.waitAt := rfl
@[simp] theorem Context.retire_waited (c : Context) (p : Pc) : (c.retire p).waited = none := rfl
@[simp] theorem Context.retire_lateCy (c : Context) (p : Pc) : (c.retire p).lateCy = c.lateCy := rfl
@[simp] theorem Context.retire_lateErr (c : Context) (p : Pc) : (c.retire p).lateErr = c.lateErr := rfl
@[simp] theorem Context.retire_lateOld (c : Context) (p : Pc) : (c.retire p).lateOld = c.lateOld := rfl
@[simp] theorem Context.retire_lateFl (c : Context) (p : Pc) : (c.retire p).lateFl = c.lateFl := rfl
@[simp] theorem Context.retire_lateFlOld (c : Context) (p : Pc) : (c.retire p).lateFlOld = c.lateFlOld := rfl
@[simp] theorem Context.retire_seen (c : Context) (p : Pc) : (c.retire p).seen = c.seen := rfl
@[simp] theorem Context.retire_saw (c : Context) (p : Pc) : (c.retire p).saw = c.saw := rfl
@[simp] theorem Context.retire_last (c : Context) (p : Pc) : (c.retire p).last = c.last := rfl
@[simp] theorem Context.retire_raised (c : Context) (p : Pc) : (c.retire p).raised = c.raised := rfl
@[simp] theorem Context.addFlags_st (c : Context) (x : Fl) : (c.addFlags x).st = c.st := rfl
@[simp] theorem Context.addFlags_since (c : Context) (x : Fl) : (c.addFlags x).since = c.since := rfl
@[simp] theorem Context.addFlags_want (c : Context) (x : Fl) : (c.addFlags x).want = c.want := rfl
@[simp] theorem Context.addFlags_g (c : Context) (x : Fl) : (c.addFlags x).g = c.g := rfl
@[simp] theorem Context.addFlags_pc (c : Context) (x : Fl) : (c.addFlags x).pc = c.pc := rfl
@[simp] theorem Context.addFlags_status (c : Context) (x : Fl) : (c.addFlags x).status = c.status := rfl
@[simp] theorem Context.addFlags_epc (c : Context) (x : Fl) : (c.addFlags x).epc = c.epc := rfl
@[simp] theorem Context.addFlags_cause (c : Context) (x : Fl) : (c.addFlags x).cause = c.cause := rfl
@[simp] theorem Context.addFlags_tval (c : Context) (x : Fl) : (c.addFlags x).tval = c.tval := rfl
@[simp] theorem Context.addFlags_trapvec (c : Context) (x : Fl) : (c.addFlags x).trapvec = c.trapvec := rfl
@[simp] theorem Context.addFlags_ovlhand (c : Context) (x : Fl) : (c.addFlags x).ovlhand = c.ovlhand := rfl
@[simp] theorem Context.addFlags_memdef (c : Context) (x : Fl) : (c.addFlags x).memdef = c.memdef := rfl
@[simp] theorem Context.addFlags_arith (c : Context) (x : Fl) : (c.addFlags x).arith = c.arith := rfl
@[simp] theorem Context.addFlags_fflags (c : Context) (x : Fl) : (c.addFlags x).fflags = c.fflags ||| x.bits := rfl
@[simp] theorem Context.addFlags_amax (c : Context) (x : Fl) : (c.addFlags x).amax = c.amax := rfl
@[simp] theorem Context.addFlags_domain (c : Context) (x : Fl) : (c.addFlags x).domain = c.domain := rfl
@[simp] theorem Context.addFlags_btimeout (c : Context) (x : Fl) : (c.addFlags x).btimeout = c.btimeout := rfl
@[simp] theorem Context.addFlags_slotmask (c : Context) (x : Fl) : (c.addFlags x).slotmask = c.slotmask := rfl
@[simp] theorem Context.addFlags_breg (c : Context) (x : Fl) : (c.addFlags x).breg = c.breg := rfl
@[simp] theorem Context.addFlags_hmapsel (c : Context) (x : Fl) : (c.addFlags x).hmapsel = c.hmapsel := rfl
@[simp] theorem Context.addFlags_ssp (c : Context) (x : Fl) : (c.addFlags x).ssp = c.ssp := rfl
@[simp] theorem Context.addFlags_sslim (c : Context) (x : Fl) : (c.addFlags x).sslim = c.sslim := rfl
@[simp] theorem Context.addFlags_pattern (c : Context) (x : Fl) : (c.addFlags x).pattern = c.pattern := rfl
@[simp] theorem Context.addFlags_errpend (c : Context) (x : Fl) : (c.addFlags x).errpend = c.errpend := rfl
@[simp] theorem Context.addFlags_errTval (c : Context) (x : Fl) : (c.addFlags x).errTval = c.errTval := rfl
@[simp] theorem Context.addFlags_errSource (c : Context) (x : Fl) : (c.addFlags x).errSource = c.errSource := rfl
@[simp] theorem Context.addFlags_asid (c : Context) (x : Fl) : (c.addFlags x).asid = c.asid := rfl
@[simp] theorem Context.addFlags_gen (c : Context) (x : Fl) : (c.addFlags x).gen = c.gen := rfl
@[simp] theorem Context.addFlags_trapdeleg (c : Context) (x : Fl) : (c.addFlags x).trapdeleg = c.trapdeleg := rfl
@[simp] theorem Context.addFlags_ta (c : Context) (x : Fl) : (c.addFlags x).ta = c.ta := rfl
@[simp] theorem Context.addFlags_tid (c : Context) (x : Fl) : (c.addFlags x).tid = c.tid := rfl
@[simp] theorem Context.addFlags_tickets (c : Context) (x : Fl) : (c.addFlags x).tickets = c.tickets := rfl
@[simp] theorem Context.addFlags_failedPeers (c : Context) (x : Fl) : (c.addFlags x).failedPeers = c.failedPeers := rfl
@[simp] theorem Context.addFlags_bars (c : Context) (x : Fl) : (c.addFlags x).bars = c.bars := rfl
@[simp] theorem Context.addFlags_arms (c : Context) (x : Fl) : (c.addFlags x).arms = c.arms := rfl
@[simp] theorem Context.addFlags_selArm (c : Context) (x : Fl) : (c.addFlags x).selArm = c.selArm := rfl
@[simp] theorem Context.addFlags_clk (c : Context) (x : Fl) : (c.addFlags x).clk = c.clk := rfl
@[simp] theorem Context.addFlags_joinJ (c : Context) (x : Fl) : (c.addFlags x).joinJ = c.joinJ := rfl
@[simp] theorem Context.addFlags_acqTime (c : Context) (x : Fl) : (c.addFlags x).acqTime = c.acqTime := rfl
@[simp] theorem Context.addFlags_acqOpen (c : Context) (x : Fl) : (c.addFlags x).acqOpen = c.acqOpen := rfl
@[simp] theorem Context.addFlags_pend (c : Context) (x : Fl) : (c.addFlags x).pend = c.pend := rfl
@[simp] theorem Context.addFlags_await (c : Context) (x : Fl) : (c.addFlags x).await = c.await := rfl
@[simp] theorem Context.addFlags_watch (c : Context) (x : Fl) : (c.addFlags x).watch = c.watch := rfl
@[simp] theorem Context.addFlags_walk (c : Context) (x : Fl) : (c.addFlags x).walk = c.walk := rfl
@[simp] theorem Context.addFlags_pauseEnd (c : Context) (x : Fl) : (c.addFlags x).pauseEnd = c.pauseEnd := rfl
@[simp] theorem Context.addFlags_yielding (c : Context) (x : Fl) : (c.addFlags x).yielding = c.yielding := rfl
@[simp] theorem Context.addFlags_exitValue (c : Context) (x : Fl) : (c.addFlags x).exitValue = c.exitValue := rfl
@[simp] theorem Context.addFlags_pos (c : Context) (x : Fl) : (c.addFlags x).pos = c.pos := rfl
@[simp] theorem Context.addFlags_reply (c : Context) (x : Fl) : (c.addFlags x).reply = c.reply := rfl
@[simp] theorem Context.addFlags_asked (c : Context) (x : Fl) : (c.addFlags x).asked = c.asked := rfl
@[simp] theorem Context.addFlags_budget (c : Context) (x : Fl) : (c.addFlags x).budget = c.budget := rfl
@[simp] theorem Context.addFlags_passBrk (c : Context) (x : Fl) : (c.addFlags x).passBrk = c.passBrk := rfl
@[simp] theorem Context.addFlags_arrived (c : Context) (x : Fl) : (c.addFlags x).arrived = c.arrived := rfl
@[simp] theorem Context.addFlags_popped (c : Context) (x : Fl) : (c.addFlags x).popped = c.popped := rfl
@[simp] theorem Context.addFlags_trapNext (c : Context) (x : Fl) : (c.addFlags x).trapNext = c.trapNext := rfl
@[simp] theorem Context.addFlags_held (c : Context) (x : Fl) : (c.addFlags x).held = c.held := rfl
@[simp] theorem Context.addFlags_waitAt (c : Context) (x : Fl) : (c.addFlags x).waitAt = c.waitAt := rfl
@[simp] theorem Context.addFlags_waited (c : Context) (x : Fl) : (c.addFlags x).waited = c.waited := rfl
@[simp] theorem Context.addFlags_lateCy (c : Context) (x : Fl) : (c.addFlags x).lateCy = c.lateCy := rfl
@[simp] theorem Context.addFlags_lateErr (c : Context) (x : Fl) : (c.addFlags x).lateErr = c.lateErr := rfl
@[simp] theorem Context.addFlags_lateOld (c : Context) (x : Fl) : (c.addFlags x).lateOld = c.lateOld := rfl
@[simp] theorem Context.addFlags_lateFl (c : Context) (x : Fl) : (c.addFlags x).lateFl = c.lateFl := rfl
@[simp] theorem Context.addFlags_lateFlOld (c : Context) (x : Fl) : (c.addFlags x).lateFlOld = c.lateFlOld := rfl
@[simp] theorem Context.addFlags_seen (c : Context) (x : Fl) : (c.addFlags x).seen = c.seen := rfl
@[simp] theorem Context.addFlags_saw (c : Context) (x : Fl) : (c.addFlags x).saw = c.saw := rfl
@[simp] theorem Context.addFlags_last (c : Context) (x : Fl) : (c.addFlags x).last = c.last := rfl
@[simp] theorem Context.addFlags_raised (c : Context) (x : Fl) : (c.addFlags x).raised = c.raised := rfl

/-! ## State.waitOn -/

@[simp] theorem State.waitOn_id (s : State) (w : Wait) : (s.waitOn w).id = s.id := by unfold State.waitOn; split <;> rfl
@[simp] theorem State.waitOn_core (s : State) (w : Wait) : (s.waitOn w).core = s.core := by unfold State.waitOn; split <;> rfl
@[simp] theorem State.waitOn_others (s : State) (w : Wait) : (s.waitOn w).others = s.others := by unfold State.waitOn; split <;> rfl
@[simp] theorem State.waitOn_sched (s : State) (w : Wait) : (s.waitOn w).sched = s.sched := by unfold State.waitOn; split <;> rfl
@[simp] theorem State.waitOn_cy (s : State) (w : Wait) : (s.waitOn w).cy = s.cy := by unfold State.waitOn; split <;> rfl
@[simp] theorem State.waitOn_fresh (s : State) (w : Wait) : (s.waitOn w).fresh = s.fresh := by unfold State.waitOn; split <;> rfl
@[simp] theorem State.waitOn_cycleBase (s : State) (w : Wait) : (s.waitOn w).cycleBase = s.cycleBase := by unfold State.waitOn; split <;> rfl
@[simp] theorem State.waitOn_mem (s : State) (w : Wait) : (s.waitOn w).mem = s.mem := by unfold State.waitOn; split <;> rfl
@[simp] theorem State.waitOn_poison (s : State) (w : Wait) : (s.waitOn w).poison = s.poison := by unfold State.waitOn; split <;> rfl
@[simp] theorem State.waitOn_unseen (s : State) (w : Wait) : (s.waitOn w).unseen = s.unseen := by unfold State.waitOn; split <;> rfl
@[simp] theorem State.waitOn_stamps (s : State) (w : Wait) : (s.waitOn w).stamps = s.stamps := by unfold State.waitOn; split <;> rfl
@[simp] theorem State.waitOn_order (s : State) (w : Wait) : (s.waitOn w).order = s.order := by unfold State.waitOn; split <;> rfl
@[simp] theorem State.waitOn_flight (s : State) (w : Wait) : (s.waitOn w).flight = s.flight := by unfold State.waitOn; split <;> rfl
@[simp] theorem State.waitOn_spots (s : State) (w : Wait) : (s.waitOn w).spots = s.spots := by unfold State.waitOn; split <;> rfl
@[simp] theorem State.waitOn_paid (s : State) (w : Wait) : (s.waitOn w).paid = s.paid := by unfold State.waitOn; split <;> rfl
@[simp] theorem State.waitOn_lendTurn (s : State) (w : Wait) : (s.waitOn w).lendTurn = s.lendTurn := by unfold State.waitOn; split <;> rfl
@[simp] theorem State.waitOn_dieN (s : State) (w : Wait) : (s.waitOn w).dieN = s.dieN := by unfold State.waitOn; split <;> rfl
@[simp] theorem State.waitOn_dieC (s : State) (w : Wait) : (s.waitOn w).dieC = s.dieC := by unfold State.waitOn; split <;> rfl
@[simp] theorem State.waitOn_dieV (s : State) (w : Wait) : (s.waitOn w).dieV = s.dieV := by unfold State.waitOn; split <;> rfl
@[simp] theorem State.waitOn_holds (s : State) (w : Wait) : (s.waitOn w).holds = s.holds := by unfold State.waitOn; split <;> rfl
@[simp] theorem State.waitOn_fused (s : State) (w : Wait) : (s.waitOn w).fused = s.fused := by unfold State.waitOn; split <;> rfl
@[simp] theorem State.waitOn_disabled (s : State) (w : Wait) : (s.waitOn w).disabled = s.disabled := by unfold State.waitOn; split <;> rfl
@[simp] theorem State.waitOn_dies (s : State) (w : Wait) : (s.waitOn w).dies = s.dies := by unfold State.waitOn; split <;> rfl
@[simp] theorem State.waitOn_vifs (s : State) (w : Wait) : (s.waitOn w).vifs = s.vifs := by unfold State.waitOn; split <;> rfl
@[simp] theorem State.waitOn_wqueues (s : State) (w : Wait) : (s.waitOn w).wqueues = s.wqueues := by unfold State.waitOn; split <;> rfl
@[simp] theorem State.waitOn_nodes (s : State) (w : Wait) : (s.waitOn w).nodes = s.nodes := by unfold State.waitOn; split <;> rfl
@[simp] theorem State.waitOn_episodes (s : State) (w : Wait) : (s.waitOn w).episodes = s.episodes := by unfold State.waitOn; split <;> rfl
@[simp] theorem State.waitOn_domains (s : State) (w : Wait) : (s.waitOn w).domains = s.domains := by unfold State.waitOn; split <;> rfl
@[simp] theorem State.waitOn_phalanxes (s : State) (w : Wait) : (s.waitOn w).phalanxes = s.phalanxes := by unfold State.waitOn; split <;> rfl
@[simp] theorem State.waitOn_tiles (s : State) (w : Wait) : (s.waitOn w).tiles = s.tiles := by unfold State.waitOn; split <;> rfl
@[simp] theorem State.waitOn_tileGens (s : State) (w : Wait) : (s.waitOn w).tileGens = s.tileGens := by unfold State.waitOn; split <;> rfl
@[simp] theorem State.waitOn_asids (s : State) (w : Wait) : (s.waitOn w).asids = s.asids := by unfold State.waitOn; split <;> rfl
@[simp] theorem State.waitOn_tlb2 (s : State) (w : Wait) : (s.waitOn w).tlb2 = s.tlb2 := by unfold State.waitOn; split <;> rfl
@[simp] theorem State.waitOn_moves (s : State) (w : Wait) : (s.waitOn w).moves = s.moves := by unfold State.waitOn; split <;> rfl
@[simp] theorem State.waitOn_hub (s : State) (w : Wait) : (s.waitOn w).hub = s.hub := by unfold State.waitOn; split <;> rfl
@[simp] theorem State.waitOn_torus (s : State) (w : Wait) : (s.waitOn w).torus = s.torus := by unfold State.waitOn; split <;> rfl
@[simp] theorem State.waitOn_cx_want (s : State) (w : Wait) : (s.waitOn w).cx.want = s.cx.want := by unfold State.waitOn; split <;> rfl
@[simp] theorem State.waitOn_cx_g (s : State) (w : Wait) : (s.waitOn w).cx.g = s.cx.g := by unfold State.waitOn; split <;> rfl
@[simp] theorem State.waitOn_cx_pc (s : State) (w : Wait) : (s.waitOn w).cx.pc = s.cx.pc := by unfold State.waitOn; split <;> rfl
@[simp] theorem State.waitOn_cx_status (s : State) (w : Wait) : (s.waitOn w).cx.status = s.cx.status := by unfold State.waitOn; split <;> rfl
@[simp] theorem State.waitOn_cx_epc (s : State) (w : Wait) : (s.waitOn w).cx.epc = s.cx.epc := by unfold State.waitOn; split <;> rfl
@[simp] theorem State.waitOn_cx_cause (s : State) (w : Wait) : (s.waitOn w).cx.cause = s.cx.cause := by unfold State.waitOn; split <;> rfl
@[simp] theorem State.waitOn_cx_tval (s : State) (w : Wait) : (s.waitOn w).cx.tval = s.cx.tval := by unfold State.waitOn; split <;> rfl
@[simp] theorem State.waitOn_cx_trapvec (s : State) (w : Wait) : (s.waitOn w).cx.trapvec = s.cx.trapvec := by unfold State.waitOn; split <;> rfl
@[simp] theorem State.waitOn_cx_ovlhand (s : State) (w : Wait) : (s.waitOn w).cx.ovlhand = s.cx.ovlhand := by unfold State.waitOn; split <;> rfl
@[simp] theorem State.waitOn_cx_memdef (s : State) (w : Wait) : (s.waitOn w).cx.memdef = s.cx.memdef := by unfold State.waitOn; split <;> rfl
@[simp] theorem State.waitOn_cx_arith (s : State) (w : Wait) : (s.waitOn w).cx.arith = s.cx.arith := by unfold State.waitOn; split <;> rfl
@[simp] theorem State.waitOn_cx_fflags (s : State) (w : Wait) : (s.waitOn w).cx.fflags = s.cx.fflags := by unfold State.waitOn; split <;> rfl
@[simp] theorem State.waitOn_cx_amax (s : State) (w : Wait) : (s.waitOn w).cx.amax = s.cx.amax := by unfold State.waitOn; split <;> rfl
@[simp] theorem State.waitOn_cx_domain (s : State) (w : Wait) : (s.waitOn w).cx.domain = s.cx.domain := by unfold State.waitOn; split <;> rfl
@[simp] theorem State.waitOn_cx_btimeout (s : State) (w : Wait) : (s.waitOn w).cx.btimeout = s.cx.btimeout := by unfold State.waitOn; split <;> rfl
@[simp] theorem State.waitOn_cx_slotmask (s : State) (w : Wait) : (s.waitOn w).cx.slotmask = s.cx.slotmask := by unfold State.waitOn; split <;> rfl
@[simp] theorem State.waitOn_cx_breg (s : State) (w : Wait) : (s.waitOn w).cx.breg = s.cx.breg := by unfold State.waitOn; split <;> rfl
@[simp] theorem State.waitOn_cx_hmapsel (s : State) (w : Wait) : (s.waitOn w).cx.hmapsel = s.cx.hmapsel := by unfold State.waitOn; split <;> rfl
@[simp] theorem State.waitOn_cx_ssp (s : State) (w : Wait) : (s.waitOn w).cx.ssp = s.cx.ssp := by unfold State.waitOn; split <;> rfl
@[simp] theorem State.waitOn_cx_sslim (s : State) (w : Wait) : (s.waitOn w).cx.sslim = s.cx.sslim := by unfold State.waitOn; split <;> rfl
@[simp] theorem State.waitOn_cx_pattern (s : State) (w : Wait) : (s.waitOn w).cx.pattern = s.cx.pattern := by unfold State.waitOn; split <;> rfl
@[simp] theorem State.waitOn_cx_errpend (s : State) (w : Wait) : (s.waitOn w).cx.errpend = s.cx.errpend := by unfold State.waitOn; split <;> rfl
@[simp] theorem State.waitOn_cx_errTval (s : State) (w : Wait) : (s.waitOn w).cx.errTval = s.cx.errTval := by unfold State.waitOn; split <;> rfl
@[simp] theorem State.waitOn_cx_errSource (s : State) (w : Wait) : (s.waitOn w).cx.errSource = s.cx.errSource := by unfold State.waitOn; split <;> rfl
@[simp] theorem State.waitOn_cx_asid (s : State) (w : Wait) : (s.waitOn w).cx.asid = s.cx.asid := by unfold State.waitOn; split <;> rfl
@[simp] theorem State.waitOn_cx_gen (s : State) (w : Wait) : (s.waitOn w).cx.gen = s.cx.gen := by unfold State.waitOn; split <;> rfl
@[simp] theorem State.waitOn_cx_trapdeleg (s : State) (w : Wait) : (s.waitOn w).cx.trapdeleg = s.cx.trapdeleg := by unfold State.waitOn; split <;> rfl
@[simp] theorem State.waitOn_cx_ta (s : State) (w : Wait) : (s.waitOn w).cx.ta = s.cx.ta := by unfold State.waitOn; split <;> rfl
@[simp] theorem State.waitOn_cx_tid (s : State) (w : Wait) : (s.waitOn w).cx.tid = s.cx.tid := by unfold State.waitOn; split <;> rfl
@[simp] theorem State.waitOn_cx_tickets (s : State) (w : Wait) : (s.waitOn w).cx.tickets = s.cx.tickets := by unfold State.waitOn; split <;> rfl
@[simp] theorem State.waitOn_cx_failedPeers (s : State) (w : Wait) : (s.waitOn w).cx.failedPeers = s.cx.failedPeers := by unfold State.waitOn; split <;> rfl
@[simp] theorem State.waitOn_cx_bars (s : State) (w : Wait) : (s.waitOn w).cx.bars = s.cx.bars := by unfold State.waitOn; split <;> rfl
@[simp] theorem State.waitOn_cx_arms (s : State) (w : Wait) : (s.waitOn w).cx.arms = s.cx.arms := by unfold State.waitOn; split <;> rfl
@[simp] theorem State.waitOn_cx_selArm (s : State) (w : Wait) : (s.waitOn w).cx.selArm = s.cx.selArm := by unfold State.waitOn; split <;> rfl
@[simp] theorem State.waitOn_cx_clk (s : State) (w : Wait) : (s.waitOn w).cx.clk = s.cx.clk := by unfold State.waitOn; split <;> rfl
@[simp] theorem State.waitOn_cx_joinJ (s : State) (w : Wait) : (s.waitOn w).cx.joinJ = s.cx.joinJ := by unfold State.waitOn; split <;> rfl
@[simp] theorem State.waitOn_cx_acqTime (s : State) (w : Wait) : (s.waitOn w).cx.acqTime = s.cx.acqTime := by unfold State.waitOn; split <;> rfl
@[simp] theorem State.waitOn_cx_acqOpen (s : State) (w : Wait) : (s.waitOn w).cx.acqOpen = s.cx.acqOpen := by unfold State.waitOn; split <;> rfl
@[simp] theorem State.waitOn_cx_pend (s : State) (w : Wait) : (s.waitOn w).cx.pend = s.cx.pend := by unfold State.waitOn; split <;> rfl
@[simp] theorem State.waitOn_cx_await (s : State) (w : Wait) : (s.waitOn w).cx.await = s.cx.await := by unfold State.waitOn; split <;> rfl
@[simp] theorem State.waitOn_cx_watch (s : State) (w : Wait) : (s.waitOn w).cx.watch = s.cx.watch := by unfold State.waitOn; split <;> rfl
@[simp] theorem State.waitOn_cx_walk (s : State) (w : Wait) : (s.waitOn w).cx.walk = s.cx.walk := by unfold State.waitOn; split <;> rfl
@[simp] theorem State.waitOn_cx_pauseEnd (s : State) (w : Wait) : (s.waitOn w).cx.pauseEnd = s.cx.pauseEnd := by unfold State.waitOn; split <;> rfl
@[simp] theorem State.waitOn_cx_yielding (s : State) (w : Wait) : (s.waitOn w).cx.yielding = s.cx.yielding := by unfold State.waitOn; split <;> rfl
@[simp] theorem State.waitOn_cx_exitValue (s : State) (w : Wait) : (s.waitOn w).cx.exitValue = s.cx.exitValue := by unfold State.waitOn; split <;> rfl
@[simp] theorem State.waitOn_cx_pos (s : State) (w : Wait) : (s.waitOn w).cx.pos = s.cx.pos := by unfold State.waitOn; split <;> rfl
@[simp] theorem State.waitOn_cx_reply (s : State) (w : Wait) : (s.waitOn w).cx.reply = s.cx.reply := by unfold State.waitOn; split <;> rfl
@[simp] theorem State.waitOn_cx_asked (s : State) (w : Wait) : (s.waitOn w).cx.asked = s.cx.asked := by unfold State.waitOn; split <;> rfl
@[simp] theorem State.waitOn_cx_budget (s : State) (w : Wait) : (s.waitOn w).cx.budget = s.cx.budget := by unfold State.waitOn; split <;> rfl
@[simp] theorem State.waitOn_cx_passBrk (s : State) (w : Wait) : (s.waitOn w).cx.passBrk = s.cx.passBrk := by unfold State.waitOn; split <;> rfl
@[simp] theorem State.waitOn_cx_arrived (s : State) (w : Wait) : (s.waitOn w).cx.arrived = s.cx.arrived := by unfold State.waitOn; split <;> rfl
@[simp] theorem State.waitOn_cx_popped (s : State) (w : Wait) : (s.waitOn w).cx.popped = s.cx.popped := by unfold State.waitOn; split <;> rfl
@[simp] theorem State.waitOn_cx_trapNext (s : State) (w : Wait) : (s.waitOn w).cx.trapNext = s.cx.trapNext := by unfold State.waitOn; split <;> rfl
@[simp] theorem State.waitOn_cx_held (s : State) (w : Wait) : (s.waitOn w).cx.held = s.cx.held := by unfold State.waitOn; split <;> rfl
@[simp] theorem State.waitOn_cx_waited (s : State) (w : Wait) : (s.waitOn w).cx.waited = s.cx.waited := by unfold State.waitOn; split <;> rfl
@[simp] theorem State.waitOn_cx_lateCy (s : State) (w : Wait) : (s.waitOn w).cx.lateCy = s.cx.lateCy := by unfold State.waitOn; split <;> rfl
@[simp] theorem State.waitOn_cx_lateErr (s : State) (w : Wait) : (s.waitOn w).cx.lateErr = s.cx.lateErr := by unfold State.waitOn; split <;> rfl
@[simp] theorem State.waitOn_cx_lateOld (s : State) (w : Wait) : (s.waitOn w).cx.lateOld = s.cx.lateOld := by unfold State.waitOn; split <;> rfl
@[simp] theorem State.waitOn_cx_lateFl (s : State) (w : Wait) : (s.waitOn w).cx.lateFl = s.cx.lateFl := by unfold State.waitOn; split <;> rfl
@[simp] theorem State.waitOn_cx_lateFlOld (s : State) (w : Wait) : (s.waitOn w).cx.lateFlOld = s.cx.lateFlOld := by unfold State.waitOn; split <;> rfl
@[simp] theorem State.waitOn_cx_seen (s : State) (w : Wait) : (s.waitOn w).cx.seen = s.cx.seen := by unfold State.waitOn; split <;> rfl
@[simp] theorem State.waitOn_cx_saw (s : State) (w : Wait) : (s.waitOn w).cx.saw = s.cx.saw := by unfold State.waitOn; split <;> rfl
@[simp] theorem State.waitOn_cx_last (s : State) (w : Wait) : (s.waitOn w).cx.last = s.cx.last := by unfold State.waitOn; split <;> rfl
@[simp] theorem State.waitOn_cx_raised (s : State) (w : Wait) : (s.waitOn w).cx.raised = s.cx.raised := by unfold State.waitOn; split <;> rfl
@[simp] theorem State.waitOn_cx_st (s : State) (w : Wait) : (s.waitOn w).cx.st = .waiting w := by
  unfold State.waitOn; split <;> simp_all

/-! ## Registers -/

/-- g0 reads 0 (R12). -/
@[simp] theorem State.g_zero (s : State) : s.g 0 = 0 := rfl

/-- A write to g0 is discarded (R12). -/
@[simp] theorem Context.putG_zero (c : Context) (v : Word) : c.putG 0 v = c := rfl
@[simp] theorem State.setG_zero (s : State) (v : Word) : s.setG 0 v = s := rfl

/-- Reading a register after a write: the value at the register written, and what it held before elsewhere. -/
theorem Context.putG_g (c : Context) (d r : GReg) (v : Word) (hr : r ≠ 0) :
    (c.putG d v).g[r.toFin] = if r = d then v else c.g[r.toFin] := by
  by_cases h0 : d = 0
  · subst h0
    rw [Context.putG_zero, if_neg hr]
  · rw [Context.putG, if_neg h0]
    by_cases h : r = d
    · subst h
      simp
    · have hn : d.toNat ≠ r.toNat := fun e => h (BitVec.eq_of_toNat_eq e).symm
      simp [h, Vector.getElem_set_ne, hn]

theorem State.g_setG (s : State) (d r : GReg) (v : Word) :
    (s.setG d v).g r = if r = 0 then 0 else if r = d then v else s.g r := by
  unfold State.g
  by_cases hr : r = 0
  · rw [if_pos hr, if_pos hr]
  · rw [if_neg hr, if_neg hr, if_neg hr, State.setG_cx, Context.putG_g _ _ _ _ hr]

/-- Reading a register depends on the general registers alone. -/
theorem State.g_congr {s t : State} (h : s.cx.g = t.cx.g) (r : GReg) : s.g r = t.g r := by
  unfold State.g; rw [h]

@[simp] theorem State.g_setCx_retire (s : State) (c : Context) (p : Pc) (r : GReg) : (s.setCx (c.retire p)).g r = (s.setCx c).g r := rfl
@[simp] theorem State.g_setCx_self (s : State) (r : GReg) : (s.setCx s.cx).g r = s.g r := rfl

/-- The view is unchanged by setting the context in view to itself. -/
@[simp] theorem State.setCx_self (s : State) : s.setCx s.cx = s := rfl
@[simp] theorem State.setCore_self (s : State) : s.setCore s.core = s := rfl
@[simp] theorem State.setCx_setCx (s : State) (c d : Context) : (s.setCx c).setCx d = s.setCx d := rfl
@[simp] theorem State.setCore_setCore (s : State) (c d : Core) : (s.setCore c).setCore d = s.setCore d := rfl

end Sys2Proof.Machine
end

