-- ==== Sys2Proof/Laws/Ops.lean ====
section
/-!
SUPPORT. What each shared operation can do, said once: where it leaves the memories and the place in view, what an access, an
exception, a flag-setting end, a control-register write and a routed send answer.
-/
namespace Sys2Proof.Machine

/-! ## Operations that change no memory and no place -/

/-- The memories of the module and the place in view are the same in both states. -/
structure State.SameMemories (s t : State) : Prop where
  mem : t.mem = s.mem
  host : t.hub.hostMem = s.hub.hostMem
  mail : t.hub.mailbox = s.hub.mailbox
  place : t.id = s.id

theorem State.SameMemories.refl (s : State) : s.SameMemories s := ⟨rfl, rfl, rfl, rfl⟩
theorem State.SameMemories.trans {s t u : State} (h : s.SameMemories t) (k : t.SameMemories u) : s.SameMemories u :=
  ⟨k.mem.trans h.mem, k.host.trans h.host, k.mail.trans h.mail, k.place.trans h.place⟩
theorem State.SameMemories.canonical {s t : State} (h : s.SameMemories t) (c : s.canonical) : t.canonical := by
  unfold State.canonical at *; rw [h.mem, h.host, h.mail]; exact c

/-- A list of changes none of which touches a memory. -/
theorem State.sameMemories_foldl {α : Type} (f : State → α → State) (hf : ∀ (s : State) x, s.SameMemories (f s x)) (l : List α) (s : State) :
    s.SameMemories (l.foldl f s) := by
  induction l generalizing s with
  | nil => exact .refl s
  | cons x l ih => exact (hf s x).trans (ih (f s x))

/-- Either branch of a choice touches no memory. -/
theorem State.SameMemories.ite {s a b : State} (c : Prop) [Decidable c] (h : s.SameMemories a) (k : s.SameMemories b) :
    s.SameMemories (if c then a else b) := by split <;> assumption

theorem State.setCx_same (s : State) (c : Context) : s.SameMemories (s.setCx c) := ⟨rfl, rfl, rfl, rfl⟩
theorem State.setCore_same (s : State) (c : Core) : s.SameMemories (s.setCore c) := ⟨rfl, rfl, rfl, rfl⟩
theorem State.setG_same (s : State) (d : GReg) (v : Word) : s.SameMemories (s.setG d v) := ⟨rfl, rfl, rfl, rfl⟩
theorem State.retire_same (s : State) (i : Instr) : s.SameMemories (s.retire i) := ⟨rfl, rfl, rfl, rfl⟩
theorem State.jump_same (s : State) (p : Pc) : s.SameMemories (s.jump p) := ⟨rfl, rfl, rfl, rfl⟩
theorem State.later_same (s : State) (d : Dest) (l : List Word) (n : Nat) : s.SameMemories (s.later d l n) := ⟨rfl, rfl, rfl, rfl⟩
theorem State.waitOn_same (s : State) (w : Wait) : s.SameMemories (s.waitOn w) := by unfold State.waitOn; split <;> exact ⟨rfl, rfl, rfl, rfl⟩
theorem State.freeWord_same (s : State) : s.SameMemories s.freeWord.2 := ⟨rfl, rfl, rfl, rfl⟩
theorem State.toCtx_same (s : State) (k : Nat) : s.SameMemories (s.toCtx k) := by unfold State.toCtx; split <;> exact ⟨rfl, rfl, rfl, rfl⟩
theorem State.modCore_same (s : State) (id : Nat) (f : Core → Core) : s.SameMemories (s.modCore id f) := by
  unfold State.modCore; split <;> exact ⟨rfl, rfl, rfl, rfl⟩
theorem State.modCx_same (s : State) (id k : Nat) (f : Context → Context) : s.SameMemories (s.modCx id k f) := by
  unfold State.modCx; split <;> exact ⟨rfl, rfl, rfl, rfl⟩
theorem State.modAll_same (s : State) (id : Nat) (f : Nat → Context → Context) : s.SameMemories (s.modAll id f) :=
  State.sameMemories_foldl _ (fun s k => s.modCx_same id k (f k)) _ s
/-- A record added to the error log changes the log alone. -/
theorem State.logErr_eq (s : State) (c u code sub site a v x n : Nat) :
    ∃ l m k, s.logErr c u code sub site a v x n = { s with hub := { s.hub with errlog := l, logLost := m, logCount := k } } :=
  ⟨_, _, _, State.logErr.eq_1 ..⟩
theorem State.logErr_same (s : State) (c u code sub site a v x n : Nat) : s.SameMemories (s.logErr c u code sub site a v x n) := by
  obtain ⟨l, m, k, h⟩ := s.logErr_eq c u code sub site a v x n
  rw [h]; exact ⟨rfl, rfl, rfl, rfl⟩
/-- Dropping records of a die takes them from that die's log alone, the oldest first. -/
theorem dropOldest_size (d : Nat) : ∀ (n : Nat) (l : List LogRec) (x : Nat),
    ((dropOldest d n l).filter fun r => r.die == x).length = (l.filter fun r => r.die == x).length - (if x = d then n else 0)
  | 0, l, x => by simp [dropOldest]
  | n + 1, [], x => by simp [dropOldest]
  | n + 1, r :: l, x => by
    by_cases h : r.die = d
    · simp only [dropOldest, h, if_true, dropOldest_size d n l x, List.filter_cons]
      by_cases hx : x = d
      · subst hx; simp
      · have : (d == x) = false := by simpa using Ne.symm hx
        simp [this, hx]
    · simp only [dropOldest, h, if_false, List.filter_cons]
      have ih := dropOldest_size d (n + 1) l x
      by_cases hx : r.die = x
      · have hd : x ≠ d := fun e => h (hx.trans e)
        simp [hx, hd] at ih ⊢; omega
      · have : (r.die == x) = false := by simpa using hx
        simp [this, ih]
/-- The die of the record that `logErr` adds is that of its place (R350). -/
theorem recordDie (cls u code sub place : Nat) (hc : cls < 8) (hp : place < 2 ^ 18) :
    bits (word (cls + u % 32 * 8 + code % 256 * 256 + sub % 256 * 65536 + place * 2 ^ 24)) 41 38 = place / 2 ^ 14 := by
  simp only [bits, word, BitVec.toNat_ofNat, Nat.shiftRight_eq_div_pow]
  omega
/-- The place of a site of the module names its die. -/
theorem sitePlace_die (id : Nat) (h : pdieOf id < 16) : sitePlace id < 2 ^ 18 ∧ sitePlace id / 2 ^ 14 = pdieOf id := by
  have hr : rowOf id < 80 := by unfold rowOf; omega
  have hk : colOf id < 80 := by unfold colOf; omega
  unfold sitePlace
  omega
/-- What `logErr` makes of the logs: one record more of the place's die, of which 4,096 stay. -/
theorem State.logErr_size (s : State) (c u code sub place a v x n d : Nat) (hc : c < 8) (hp : place < 2 ^ 18) :
    ((s.logErr c u code sub place a v x n).hub.errlog.filter fun r => r.die == d).length =
      if d = place / 2 ^ 14 then min 4096 ((s.hub.errlog.filter fun r => r.die == d).length + 1) else (s.hub.errlog.filter fun r => r.die == d).length := by
  have e := recordDie c u code sub place hc hp
  unfold State.logErr
  simp only [LogRec.die, e]
  simp only [List.filter_append, List.length_append]
  have h := dropOldest_size (place / 2 ^ 14) ((s.hub.errlog.filter fun x => bits x.w1 41 38 == place / 2 ^ 14).length + 1 - 4096) s.hub.errlog d
  simp only [LogRec.die] at h
  rw [h]
  by_cases hd : d = place / 2 ^ 14
  · simp only [hd, e, if_true, List.filter_cons, List.filter_nil, beq_self_eq_true, List.length_cons, List.length_nil]
    omega
  · have h' : (place / 2 ^ 14 == d) = false := beq_eq_false_iff_ne.mpr (Ne.symm hd)
    simp only [e, h', hd, if_false, Bool.false_eq_true, List.filter_cons, List.filter_nil, List.length_nil, Nat.sub_zero, Nat.add_zero]
theorem State.postWith_same (s : State) (id k code sub source : Nat) (v : Word) (n : Option Nat) (u p a : Nat) :
    s.SameMemories (s.postWith id k code sub source v n u p a) := by
  unfold State.postWith
  refine .ite _ (.trans (.ite _ ?_ ?_) (State.modCx_same ..)) (State.logErr_same ..)
  · exact (State.logErr_same ..).trans (State.modCore_same ..)
  · exact State.logErr_same ..
theorem State.post_same (s : State) (id k code sub source : Nat) (v : Word) (n : Option Nat) : s.SameMemories (s.post id k code sub source v n) :=
  State.postWith_same ..
theorem State.postSrc_same (s : State) (src : Src) (code sub source : Nat) (v : Word) (n : Option Nat) (key : Nat) :
    s.SameMemories (s.postSrc src code sub source v n key) := by
  unfold State.postSrc
  split
  · exact s.postWith_same ..
  · split
    · exact s.postWith_same ..
    · exact .refl s
  · exact s.postWith_same ..
  · exact .refl s
theorem State.depart_same (s : State) (id : Nat) : s.SameMemories (s.depart id) := by
  have h := s.modCx_same id 0 Context.leavePhlx
  exact ⟨h.mem, h.host, h.mail, h.place⟩
theorem State.dissolve_same (s : State) (id : Nat) : s.SameMemories (s.dissolve id) := by
  unfold State.dissolve
  split
  · exact .refl s
  · have h := State.sameMemories_foldl (fun (s : State) m => s.modCx m 0 Context.leavePhlx) (fun s m => s.modCx_same m 0 _) (by assumption : Phalanx).members s
    exact ⟨h.mem, h.host, h.mail, h.place⟩
theorem State.trapPhlx_same (s : State) : s.SameMemories s.trapPhlx := by
  unfold State.trapPhlx
  split
  · split
    · exact s.dissolve_same _
    · exact s.depart_same _
  · exact .refl s
theorem State.coreFault_same (s : State) (code : Nat) (v : Word) : s.SameMemories (s.coreFault code v) := by
  have h := s.modAll_same s.id fun _ c => if c.st.live then { c with st := .halted } else c
  exact ⟨h.mem, h.host, h.mail, h.place⟩

/-- Taking an exception touches no memory (R251). -/
theorem State.trapEntry_same (s : State) (code source : Nat) (imp : Bool) (v : Word) : s.SameMemories (s.trapEntry code source imp v) := by
  unfold State.trapEntry
  simp only
  split
  · exact s.trapPhlx_same.trans ((State.setCore_same ..).trans ((State.setCx_same ..).trans (State.coreFault_same ..)))
  · exact s.trapPhlx_same.trans ((State.setCore_same ..).trans (State.setCx_same ..))

theorem State.touchTlb_same (s : State) (ea : Word) : s.SameMemories (s.touchTlb ea) := by
  unfold State.touchTlb
  simp only
  split
  · exact .refl s
  · split
    · exact s.setCore_same _
    · exact .refl s
theorem State.askWalk_same (s : State) (k : AccKind) (ea : Word) : s.SameMemories (s.askWalk k ea) := by
  unfold State.askWalk
  simp only
  split
  · exact .ite _ (.refl s) ⟨rfl, rfl, rfl, rfl⟩
  · exact ⟨rfl, rfl, rfl, rfl⟩
theorem State.startWalk_same (s : State) (k : AccKind) (ea : Word) : s.SameMemories (s.startWalk k ea) :=
  (s.waitOn_same _).trans (State.askWalk_same ..)
theorem State.passGate_same (s : State) : s.SameMemories s.passGate := ⟨rfl, rfl, rfl, rfl⟩
theorem State.enter_same (s : State) (src : Src) (key : Nat) (cls : Cls) (e : Eff) (va : Word) (b : Body) (chk : Bool) :
    s.SameMemories (s.enter src key cls e va b chk) := ⟨rfl, rfl, rfl, rfl⟩
theorem State.stage_same (s : State) (key : Nat) (cls : Cls) (e : Eff) (va : Word) (b : Body) (cost : Nat) :
    s.SameMemories (s.stage key cls e va b cost) := ⟨rfl, rfl, rfl, rfl⟩

/-- A store only enters a buffer: memory changes where it is applied (R264, R351). -/
theorem State.putCost_same (s : State) (e : Eff) (ea : Word) (key : Nat) (b : Body) (cost : Nat) : s.SameMemories (s.putCost e ea key b cost) := by
  unfold State.putCost; split <;> exact ⟨rfl, rfl, rfl, rfl⟩
theorem State.putStore_same (s : State) (e : Eff) (ea : Word) (size key val : Nat) : s.SameMemories (s.putStore e ea size key val) :=
  State.putCost_same ..
theorem State.awaiting_same (s : State) (i : Instr) (e : Eff) (els : List El) (fin : Finish) : s.SameMemories (s.awaiting i e els fin) :=
  (s.waitOn_same _).trans (State.setCx_same ..)
theorem State.localJoin_same (s : State) (ord key size : Nat) : s.SameMemories (s.localJoin ord key size) := ⟨rfl, rfl, rfl, rfl⟩

/-- A canonical device memory put in place of another. -/
theorem State.canonical_setMem {s : State} (h : s.canonical) {m : List Host.Cell} (hm : Memory.wf m = true) : ({ s with mem := m }).canonical :=
  ⟨hm, h.2.1, h.2.2⟩

/-- A write of device memory keeps it canonical. -/
theorem State.canonical_putN {s : State} (h : s.canonical) (a n v : Nat) : ({ s with mem := Memory.putN s.mem a n v }).canonical :=
  State.canonical_setMem h (Memory.wf_putN h.1 a n v)

/-! ## The view -/

/-- The view moves to the core asked for and leaves the memories. -/
theorem State.toCore_id (s : State) (id : Nat) : (s.toCore id).id = id := by unfold State.toCore; split <;> simp_all
theorem State.toCore_mem (s : State) (id : Nat) : (s.toCore id).mem = s.mem := by unfold State.toCore; split <;> rfl
theorem State.toCore_hub (s : State) (id : Nat) : (s.toCore id).hub = s.hub := by unfold State.toCore; split <;> rfl
theorem State.toCtx_hub (s : State) (k : Nat) : (s.toCtx k).hub = s.hub := by unfold State.toCtx; split <;> rfl
theorem State.focus_id (s : State) (id k : Nat) : (s.focus id k).id = id := by
  unfold State.focus; rw [(State.toCtx_same _ k).place, State.toCore_id]
theorem State.focus_mem (s : State) (id k : Nat) : (s.focus id k).mem = s.mem := by
  unfold State.focus; rw [(State.toCtx_same _ k).mem, State.toCore_mem]
theorem State.focus_hub (s : State) (id k : Nat) : (s.focus id k).hub = s.hub := by
  unfold State.focus; rw [State.toCtx_hub, State.toCore_hub]

/-- Moving the view keeps the memories canonical. -/
theorem State.toCore_canonical {s : State} (h : s.canonical) (id : Nat) : (s.toCore id).canonical := by
  unfold State.canonical; rw [State.toCore_mem, State.toCore_hub]; exact h
theorem State.focus_canonical {s : State} (h : s.canonical) (id k : Nat) : (s.focus id k).canonical :=
  (State.toCtx_same _ k).canonical (State.toCore_canonical h id)

/-- A change made from another view gives the view back. -/
theorem State.within_id (s : State) (id k : Nat) (f : State → State) : (s.within id k f).id = s.id := by
  unfold State.within
  rw [(State.toCtx_same _ _).place, State.toCore_id]

/-- A change that keeps memories canonical keeps them so when it is made from another view. -/
theorem State.within_canonical {s : State} (h : s.canonical) (id k : Nat) (f : State → State)
    (hf : ∀ t : State, t.canonical → (f t).canonical) : (s.within id k f).canonical := by
  unfold State.within
  exact (State.toCtx_same _ _).canonical (State.toCore_canonical ((State.toCtx_same _ _).canonical
    (State.toCore_canonical (hf _ (State.focus_canonical h id k)) id)) s.id)

/-! ## Ends of instructions -/

theorem Context.putG_inPhlx (c : Context) (d : GReg) (v : Word) : (c.putG d v).inPhlx = c.inPhlx := by simp [Context.inPhlx]

/-- The end of an instruction leaves the context Ready with nothing in progress. -/
theorem State.readyAt_retire (s : State) (c : Context) (p : Pc) (h : c.inPhlx = s.cx.inPhlx) (k : c.pos = s.cx.pos) :
    s.readyAt (s.setCx (c.retire p)) p := by
  simp [State.readyAt, h, k]

theorem State.regsOnly_retire (s : State) (d : GReg) (v : Word) (p : Pc) : s.RegsOnly (s.setCx ((s.cx.putG d v).retire p)) := by
  constructor <;> try simp
  · unfold Context.withRegsOf Context.putG Context.retire; split <;> rfl
  · rfl

/-- An instruction that ends in `doneG` completes with its value and its frame. -/
theorem completesG_of_doneG (i : Instr) (s : State) (d : GReg) (v : Word) (h : exec i s = s.doneG i d v) : completesG i s d v := by
  have e : (s.setG d v).retire i = s.setCx ((s.cx.putG d v).retire (s.cx.pc + BitVec.ofNat 15 i.size)) := by
    simp [State.retire, Context.next, State.setG]
  refine ⟨_, h, ?_, ?_, ?_, ?_⟩
  · rw [e, State.g_setCx_retire]
    exact (State.g_setG s d d v).trans (by split <;> simp_all)
  · intro r hr
    rw [e, State.g_setCx_retire]
    refine (State.g_setG s d r v).trans ?_
    rw [if_neg hr]
    split
    · subst_vars; rfl
    · rfl
  · rw [e]; exact State.readyAt_retire s _ _ (Context.putG_inPhlx ..) (by simp)
  · rw [e]; exact State.regsOnly_retire s d v _

/-- An instruction that only moves the PC completes there. -/
theorem completesAt_of_jump (i : Instr) (s : State) (p : Pc) (h : exec i s = .next (s.jump p)) : completesAt i s p :=
  ⟨_, h, fun _ => rfl, State.readyAt_retire s s.cx p rfl rfl, State.regsOnly_retire s 0 0 p⟩

/-- An instruction that waits has changed no register, flag or byte. -/
theorem waitsWith_of_wait (i : Instr) (s : State) (w : Wait) (h : exec i s = s.wait w) : waitsWith i s w :=
  ⟨_, h, State.waitOn_cx_st s w, ⟨fun r => State.g_congr (by simp) r, by simp, by simp, by simp, fun a => by simp⟩, by simp⟩

/-! ## What the shared operations answer -/

/-- Taking an exception (R251): the user handler, the supervisor, or CoreFault; in every case EPC, CAUSE and TVAL are saved. -/
theorem State.trapEntry_cases (s : State) (code source : Nat) (imp : Bool) (v : Word) :
    let t := s.trapPhlx.unbench
    let c := t.cx.saveTrap code source imp v
    (c.super = true ∧ s.trapEntry code source imp v = (t.setCx c).coreFault code v)
    ∨ (c.super = false ∧ (c.delegates code && !c.inTrap) = true ∧ s.trapEntry code source imp v =
        t.setCx (({ c with status := setBit (setBit c.status 1 false) 2 true }).retire
          (BitVec.ofNat 15 (bits (if code = 0x03 then c.ovlhand else c.trapvec) 14 2 * 4))))
    ∨ (c.super = false ∧ (c.delegates code && !c.inTrap) = false ∧ s.trapEntry code source imp v =
        t.setCx (({ c with status := setBit (setBit c.status 1 false) 0 true }).retire 0)) := by
  intro t c
  unfold State.trapEntry Context.enterTrap
  by_cases h : c.super = true
  · exact .inl ⟨h, by simp [t, c, h]⟩
  · have h' : c.super = false := by simpa using h
    by_cases k : (c.delegates code && !c.inTrap) = true
    · exact .inr (.inl ⟨h', k, by simp only [t, c] at *; simp only [h', k, if_true, Bool.false_eq_true, if_false]⟩)
    · have k' : (c.delegates code && !c.inTrap) = false := by simpa using k
      exact .inr (.inr ⟨h', k', by simp only [t, c] at *; simp only [h', k', Bool.false_eq_true, if_false]⟩)

/-- Everything `access` can answer: a trap of its checks, a walk to wait for, a frame no valid leaf names, the gate to wait for, or the
access itself. -/
theorem State.access_cases (s : State) (i : Instr) (k : AccKind) (p : Option Mods) (ea : Word) (size : Nat) (f : State → Eff → Nat → Result) :
    (effOf k p s.cx.memdef = none ∧ s.access i k p ea size f = s.illegal i)
    ∨ ∃ e, effOf k p s.cx.memdef = some e
      ∧ ((∃ c v, s.check k e.space ea size = .trap c v ∧ s.access i k p ea size f = s.trap c v)
        ∨ (∃ va, s.check k e.space ea size = .walk va ∧ s.access i k p ea size f = .next (s.startWalk k va))
        ∨ (s.check k e.space ea size = .badFrame ∧ s.access i k p ea size f = .fault .frameBeyondStack)
        ∨ ∃ key, s.check k e.space ea size = .ok key
          ∧ ((s.gate e.ord e.scope = true ∧ s.access i k p ea size f = f ((s.touchTlb ea).passGate) e key)
            ∨ (s.gate e.ord e.scope = false ∧ s.access i k p ea size f = s.wait .reply))) := by
  unfold State.access
  cases h : effOf k p s.cx.memdef with
  | none => exact .inl ⟨rfl, rfl⟩
  | some e =>
    refine .inr ⟨e, rfl, ?_⟩
    simp only
    cases c : s.check k e.space ea size with
    | trap a b => exact .inl ⟨a, b, rfl, rfl⟩
    | walk va => exact .inr (.inl ⟨va, rfl, rfl⟩)
    | badFrame => exact .inr (.inr (.inl ⟨rfl, rfl⟩))
    | ok key =>
      refine .inr (.inr (.inr ⟨key, rfl, ?_⟩))
      cases g : s.gate e.ord e.scope
      · exact .inr ⟨rfl, by simp⟩
      · exact .inl ⟨rfl, by simp⟩

/-- The keys that pass the checks of a list of accesses, one for one. -/
theorem State.checkFrom_ok {s : State} {k : AccKind} {space : Nat} {l : List (Word × Nat)} {ks : List (Word × Nat × Nat)} {used : Option (Nat × List Nat)}
    (h : s.checkFrom k space used l = .ok ks) :
    ks.map (fun p => (p.1, p.2.1)) = l ∧ ∀ p ∈ ks, s.check k space p.1 p.2.1 = .ok p.2.2 := by
  induction l generalizing ks used with
  | nil =>
    simp only [State.checkFrom] at h
    cases h
    exact ⟨rfl, by simp⟩
  | cons x l ih =>
    simp only [State.checkFrom] at h
    split at h
    · rename_i key hk
      generalize stageNext used _ _ = now at h
      by_cases hf : s.stageFull key now = true
      · rw [if_pos hf] at h
        cases h
      · rw [if_neg hf] at h
        split at h
        · rename_i r hr
          cases h
          have := ih hr
          refine ⟨by simp [this.1], ?_⟩
          intro p hp
          rcases List.mem_cons.mp hp with rfl | hp
          · exact hk
          · exact this.2 p hp
        · cases h
    · cases h

/-- The same of the checks without the staging buffer's. -/
theorem State.checkAll_ok {s : State} {k : AccKind} {space : Nat} {l : List (Word × Nat)} {ks : List (Word × Nat × Nat)}
    (h : s.checkAll k space l = .ok ks) : ks.map (fun p => (p.1, p.2.1)) = l ∧ ∀ p ∈ ks, s.check k space p.1 p.2.1 = .ok p.2.2 :=
  State.checkFrom_ok h

/-- An instruction with flags (R21, R170): it ends, or FPEXC follows at it with the newly set flags. -/
theorem State.finishFl_cases (s : State) (i : Instr) (f : Fl) :
    (s.cx.newFlags f &&& word (bits s.cx.arith 10 5) = 0 ∧ s.finishFl i f = (s.setCx (s.cx.addFlags f)).done i)
    ∨ (s.cx.newFlags f &&& word (bits s.cx.arith 10 5) ≠ 0 ∧ s.finishFl i f = (s.setCx (s.cx.addFlags f)).trap 0x15 (s.cx.newFlags f)) := by
  unfold State.finishFl
  by_cases h : s.cx.newFlags f &&& word (bits s.cx.arith 10 5) = 0
  · exact .inl ⟨h, if_neg fun k => k h⟩
  · exact .inr ⟨h, if_pos h⟩

/-- An instruction without flags ends. -/
theorem State.finishFl_none (s : State) (i : Instr) : s.finishFl i Fl.none = s.done i := by
  have h0 : Fl.none.bits = 0 := by decide
  have h : s.cx.newFlags Fl.none &&& word (bits s.cx.arith 10 5) = 0 := by simp [Context.newFlags, h0]
  rcases s.finishFl_cases i Fl.none with k | k
  · have a : s.cx.addFlags Fl.none = s.cx := by simp [Context.addFlags, h0]
    rw [k.2, a, State.setCx_self]
  · exact absurd h k.1

/-- A control-register write (R115): PRIV, ILLEGAL of an unlisted selector, the trap of the write, or the write itself. -/
theorem State.crWrite_cases (s : State) (i : Instr) (d : GReg) (sel : Nat) (f : Word → Word) :
    (s.crPriv sel true = true ∧ s.crWrite i d sel f = s.trap 0x0C (word sel))
    ∨ (s.crPriv sel true = false ∧ s.cregBefore sel = none ∧ s.crWrite i d sel f = s.trap 0x01 (word sel))
    ∨ ∃ old, s.crPriv sel true = false ∧ s.cregBefore sel = some old
      ∧ ((∃ c v, s.crTrap sel old (f old) = some (c, v) ∧ s.crWrite i d sel f = s.trap c v)
        ∨ (s.crTrap sel old (f old) = none ∧ s.crWrite i d sel f = .next (((s.putCreg sel (crForm sel old (f old))).setG d old).retire i))) := by
  unfold State.crWrite
  by_cases h : s.crPriv sel true = true
  · exact .inl ⟨h, by simp [h]⟩
  · have h' : s.crPriv sel true = false := by simpa using h
    cases c : s.cregBefore sel with
    | none => exact .inr (.inl ⟨h', rfl, by simp [h']⟩)
    | some old =>
      refine .inr (.inr ⟨old, h', rfl, ?_⟩)
      cases t : s.crTrap sel old (f old) with
      | none => exact .inr ⟨rfl, by simp [h', t]⟩
      | some x => exact .inl ⟨x.1, x.2, rfl, by simp [h', t]⟩

/-- A routed send that no tempo register of the context names goes on at once (R123). -/
theorem State.send_free (s : State) (dests : List (Home × Nat)) (f : State → Result) (h : ∀ d ∈ dests, s.matching d.1 = []) :
    s.send dests f = f (s.setCore { s.core with benched := s.core.benched.filter fun b => b.2 != s.core.k }) := by
  have e : (dests.flatMap fun d => (s.matching d.1).map fun l => (l, d.2)) = [] := by
    rw [List.flatMap_eq_nil_iff]
    intro d hd
    rw [h d hd]; rfl
  unfold State.send
  simp only [e]
  rfl

/-! ## Invariants at reset -/

theorem reset_memory_wf : Memory.wf State.reset.mem = true := rfl
theorem reset_canonical : State.reset.canonical := ⟨rfl, rfl, rfl⟩

end Sys2Proof.Machine
end

