-- ==== Sys2Proof/Tests/Slice0.lean ====
section
/-!
SUPPORT. Tests of the model: ill-formed terms that `Instr.wf` refuses, words decoded as the encodings of the spec give them, single steps, and, for each
claim with hypotheses, a theorem `witness_<claim>` that shows states and operands that meet the hypotheses of its clauses, clause by clause. The states are small
changes of `base`, a core alone, and `based`, the same core in a tray of four.
-/
namespace Sys2Proof.Tests
open Sys2Proof Sys2Proof.Machine
set_option Elab.async false

/-! ## Helpers -/

/-- Whether a result is the given one. -/
def okIs {ε α : Type} [DecidableEq α] (e : Except ε α) (x : α) : Bool := match e with | .ok y => decide (y = x) | .error _ => false
theorem ok_of {ε α : Type} [DecidableEq α] {e : Except ε α} {x : α} (h : okIs e x = true) : e = .ok x := by
  cases e with
  | error _ => simp [okIs] at h
  | ok y => simpa [okIs] using h
/-- Whether an instruction stops with a fault. -/
def faults (r : Result) : Bool := match r with | .fault _ => true | _ => false
theorem fault_of {r : Result} (h : faults r = true) : ∃ f, r = .fault f := by
  cases r with
  | fault f => exact ⟨f, rfl⟩
  | next _ => simp [faults] at h
  | refused _ => simp [faults] at h
/-- Whether an instruction answers a next state with a property. -/
def nextIs (r : Result) (p : State → Bool) : Bool := match r with | .next t => p t | _ => false
theorem next_of {r : Result} {p : State → Bool} (h : nextIs r p = true) : ∃ t, r = .next t ∧ p t = true := by
  cases r with
  | next t => exact ⟨t, rfl, h⟩
  | fault _ => simp [nextIs] at h
  | refused _ => simp [nextIs] at h
/-- The contexts 1 to n, one by one. -/
theorem oneTo {n : Nat} {p : Nat → Prop} (h : ∀ j, j < n + 1 → 1 ≤ j → p j) : ∀ j, 1 ≤ j → j ≤ n → p j := fun j a b => h j (by omega) a
theorem oneBelow {n : Nat} {p : Nat → Prop} (h : ∀ j, j < n → 1 ≤ j → p j) : ∀ j, 1 ≤ j → j < n → p j := fun j a b => h j b a

/-! ## Ill-formed terms (R87–R97 and the encoding tables) -/

/-- R94: the parcel with every field 0 is NOP. -/
theorem test_wf_add_of_zeros : (Instr.add 0 0 0).wf = false ∧ (Instr.add 0 0 1).wf = true := by decide
/-- R111: LOOP on g0. -/
theorem test_wf_loop : (Instr.loop 0 5).wf = false ∧ (Instr.loop 1 5).wf = true := by decide
def ord7 : Option Mods := some ⟨7, 0, 0, 0, false⟩
def scope6 : Option Mods := some ⟨0, 6, 0, 0, false⟩
/-- R90: ORD 7 and SCOPE 6 and 7 under every form that takes a prefix. -/
theorem test_wf_modifiers :
    ([ord7, scope6, some ⟨0, 7, 0, 0, false⟩].all fun p =>
      [Instr.ld p .d 1 2 0, .st p .d 1 2 0, .ldp p 2 2 0, .stp p 2 2 0, .amoAdd p false 1 2 3 0, .amoAnd p false 1 2 3 0, .amoOr p false 1 2 3 0, .amoXor p false 1 2 3 0,
        .amoMin p false 1 2 3 0, .amoMax p false 1 2 3 0, .amoMinZ p false 1 2 3 0, .amoMaxZ p false 1 2 3 0, .amoSwp p false 1 2 3 0, .amoCas p false 1 2 4 3 0,
        .amoFadd p 1 2 3 0, .vld p .w 1 2 0, .vst p .w 1 2 0, .vlds p .w 1 3 2 0, .vsts p .w 1 3 2 0, .vgath p .w 1 3 2 0, .vscat p .w 1 3 2 0].all fun i => !i.wf) = true := by decide
/-- R97: an odd D of LDP and STP. -/
theorem test_wf_pairs : (Instr.ldp none 3 2 0).wf = false ∧ (Instr.stp none 31 2 0).wf = false ∧ (Instr.ldp none 30 2 0).wf = true := by decide
/-- R119: the ports of NPUT, NGET and NTRY. -/
theorem test_wf_ports : [Instr.nput 1 5, .nget 1 4, .nget 1 6, .ntry 1 4, .ntry 1 7].all (fun i => !i.wf) = true ∧ [Instr.nput 1 4, .nget 1 5, .ntry 1 3].all Instr.wf = true := by decide
/-- R137, R150: the scope of a fence, the phase of DPHASE. -/
theorem test_wf_fence_and_dphase : (Instr.fence .full 6).wf = false ∧ (Instr.fence .acq 7).wf = false ∧ (Instr.dphase 3).wf = false ∧ (Instr.fence .rel 5).wf = true := by decide
/-- R194, R199, R201, R203, R211, R236: vector forms and ARD. -/
theorem test_wf_vector_forms :
    [Instr.vadd false true 1 2 (.v 3), .vsub false true 1 2 (.v 3), .vnarrow .f32 1 2 5, .vfdotC true 3 1 2, .vcvt false .f16 .f16 1 2, .vnredMx true 4 1 2 4, .ard false 1 2 3 4 5].all
      (fun i => !i.wf) = true := by decide
/-- Agents that do not exist: contexts, barriers, cores, dies, queues, peers. -/
theorem test_wf_agents :
    [Instr.pauseExpiry 102400 0, .controlRegisterWrite 0 11 2 0, .xboundWrite 0 11 0, .vsetlWrite 0 11 0, .domainWrite 0 11 0, .bregWrite 0 11 0 0, .errpendClear 0 11, .waitaWake 0 11,
      .waitaTimeout 102400 0, .barrierArrivalSend 0 0 6, .barrierTimeout 0 0 6, .barrierRelease 0 102400, .barrierWithdrawAccept 0 102400, .holdLink 16 0, .releaseLink 0 16, .wpopWake 4096,
      .peerTimeout 512, .peerLinksDown 512, .peerLinksRecover 512, .doorbellWrite 65536 0, .jdbRun 0 [102400], .rcycle [0, 102400]].all (fun i => !i.wf) = true := by decide

/-! ## Words written out from the encodings (R87–R97 and the encoding tables) -/

/-- T format: OP [7:2], D [12:8], A [17:13], B [22:18], F3 [25:23], F6 [31:26]; 0x04A5_0700 is R103's own example. -/
theorem test_decode_scalar_registers : decode [0x0014A600] = .ok (.add 6 5 5) ∧ decode [0x04A50700] = .ok (.subSat 7 8 9) ∧ decode [0] = .ok .nop := ⟨rfl, rfl, rfl⟩
/-- I and B formats, the literal; 0xFF00_4220 is R108's own example. -/
theorem test_decode_immediates_and_branches :
    decode [0xFF004220] = .ok (.addi 2 2 0x3FC0) ∧ decode [0x00050002, 0, 0x1234] = .ok (.li 5 0x1234) ∧ decode [0x000C0540] = .ok (.beq 5 0 3) ∧ decode [0x0008A45C] = .ok (.bbsHi 4 5 2)
    ∧ decode [0xFFF00968] = .ok (.loop 9 0x3FFC) := ⟨rfl, rfl, rfl, rfl, rfl⟩
/-- M format behind a prefix; 0x0000_0013, 0x0009_2884 is R133's own example, `st.w g8, 0(g9) [rel]`. -/
theorem test_decode_memory :
    decode [0x13, 0x00092884] = .ok (.st (some ⟨4, 0, 0, 0, false⟩) .w 8 9 0) ∧ decode [0x6F, 0x0038C780] = .ok (.ld (some ⟨3, 3, 0, 0, false⟩) .d 7 6 1)
    ∧ decode [0xC07, 0x2D8A0045, 0] = .ok (.amoAdd (some ⟨1, 0, 0, 3, false⟩) false 10 11 12 0) := ⟨rfl, rfl, rfl⟩
theorem test_decode_control_and_queues :
    decode [0x00050005, 0x2000] = .ok (.crd 5 0x20) ∧ decode [0x00E00105, 0x900] = .ok (.cwr 0 7 9) ∧ decode [0x04000890] = .ok (.qget 8 0) ∧ decode [0x0018A79C] = .ok (.hstart 7 5 6)
    ∧ decode [0x0400E99C] = .ok (.hjoin 9 7) ∧ decode [0x00C50081, 0] = .ok (.vclaim false 5 6) := ⟨rfl, rfl, rfl, rfl, rfl, rfl⟩
theorem test_decode_vectors_and_engines :
    decode [0x0C410085, 0] = .ok (.vadd false false 1 2 (.v 3)) ∧ decode [0x18A40389, 7] = .ok (.vfma 4 5 (.v 6) 7) ∧ decode [0x010002C1, 0xA00] = .ok (.oload 0 8 10 0)
    ∧ decode [0x040001C5, 0x7E100000] = .ok (.mmp false 0 0 1 0 16 7 7) ∧ decode [0x1CC500CD, 8] = .ok (.aclaim 5 6 7 8) ∧ decode [0x18A001CD, 7] = .ok (.acontrib 0 5 6 7)
    ∧ decode [0x00C500E1, 0] = .ok (.xcopy 5 6) ∧ decode [0x014906E1, 0x1400] = .ok (.xkick 9 10 20) := ⟨rfl, rfl, rfl, rfl, rfl, rfl, rfl, rfl⟩
theorem test_decode_system :
    decode [0x1CC500E5, 0] = .ok (.dhops 5 6 7) ∧ decode [0x000000E9, 0x4200] = .ok (.trap 0x42) ∧ decode [0x000001E9, 0] = .ok .eret ∧ decode [0x3E9, 0] = .ok .halt
    ∧ decode [0x18A003F1, 7] = .ok (.cstart 5 6 7) := ⟨rfl, rfl, rfl, rfl, rfl⟩
/-- Reserved encodings are refused by name. -/
theorem test_decode_refuses :
    decode [0x44000000] = .error .unknownOpcode ∧ decode [0x01800000] = .error .fieldsBad ∧ decode [0x00000068] = .error .fieldsBad := ⟨rfl, rfl, rfl⟩

/-! ## States of the tests -/

/-- A core in view, its control context Ready at LOC 0x800 at user level, with two registers set. -/
def base : State := { State.reset with cx := { Context.reset 0 with st := .ready, pc := 0x800 }, cy := 10000 }
/-- `base` with three registers set. -/
def regs (x y z : Word) : State := ((base.setG 5 x).setG 6 y).setG 7 z
/-- A state with the context in view changed. -/
def cxd (s : State) (f : Context → Context) : State := s.setCx (f s.cx)
/-- A state with the core in view changed. -/
def cored (s : State) (f : Core → Core) : State := s.setCore (f s.core)
def sup (s : State) : State := cxd s fun c => { c with status := c.status ||| 1 }
/-- A tray of 2 by 2 cores, at the corner of die 0, of interface 0. -/
def tray4 : Tray := ⟨[some ⟨0, 0, 2, 2⟩], [], 3, 0x01F9CC3E, .running, [], [], Image.empty⟩
def vif4 : Vif := { Vif.empty with dies := [(0, 0)], trays := [tray4], asids := [3], wqs := [0], poolSize := 8 }
def inTray : Core := { Core.reset with tray := some (0, 0) }
/-- `base` in that tray, its core at the corner. -/
def based : State :=
  { base with core := inTray, vifs := [(0, vif4)],
              others := [(1, inTray, Context.reset 0), (80, inTray, Context.reset 0), (81, inTray, Context.reset 0)] }
/-- An address of the own data region in g5, some bytes there. -/
def l0 : State := { based.setG 5 0xF000000005000 with mem := [(sramKey 0 0x5008, 0x90), (sramKey 0 0x500F, 0xF1)] }
/-- An address of the neighbour's data region in g5. -/
def l1 : State := based.setG 5 (coordAddr 0 0 1 0x5000)
/-- The word of a rectangle, with its low bits. -/
def rectW (lo top left h w : Nat) : Word := BitVec.ofNat 64 (lo + top * 2 ^ 8 + left * 2 ^ 15 + h * 2 ^ 22 + w * 2 ^ 29)

/-! ## Single steps (the results the tables of the spec give for these operands) -/

/-- R103: the sum wraps; the clamped difference is its own example; SRA floors. -/
theorem test_add_wraps : nextIs (exec (.add 6 5 6) (regs 0xFFFFFFFFFFFFFFFF 1 0)) (fun t => t.g 6 == 0) = true := by decide +kernel
theorem test_subSat_clamps : nextIs (exec (.subSat 7 5 6) (regs 0x8000000000000000 1 0)) (fun t => t.g 7 == 0x8000000000000000 && t.cx.fflags != 0) = true := by decide +kernel
theorem test_sra_floors : nextIs (exec (.sra 7 5 6) (regs 0xFFFFFFFFFFFFFFF9 65 0)) (fun t => t.g 7 == 0xFFFFFFFFFFFFFFFC) = true := by decide +kernel
theorem test_min_is_signed : nextIs (exec (.min 7 5 6) (regs 0xFFFFFFFFFFFFFFFF 1 0)) (fun t => t.g 7 == 0xFFFFFFFFFFFFFFFF) = true := by decide +kernel
theorem test_minZ_is_unsigned : nextIs (exec (.minZ 7 5 6) (regs 0xFFFFFFFFFFFFFFFF 1 0)) (fun t => t.g 7 == 1) = true := by decide +kernel
/-- R105: with C = g0 it always selects g(B). -/
theorem test_sel_of_g0 : nextIs (exec (.sel 7 5 6 0) (regs 1 2 0)) (fun t => t.g 7 == 2) = true := by decide +kernel
theorem test_addx_scales : nextIs (exec (.addx 7 5 6 3) (regs 100 5 0)) (fun t => t.g 7 == 140) = true := by decide +kernel
/-- R107: 64 of zero. -/
theorem test_clz_of_zero : nextIs (exec (.clz 7 5) (regs 0 0 0)) (fun t => t.g 7 == 64) = true := by decide +kernel
theorem test_brev : nextIs (exec (.brev 7 5) (regs 1 0 0)) (fun t => t.g 7 == 0x8000000000000000) = true := by decide +kernel
/-- R108, R109: ANDI sign-extends, ORI does not; `li g8, 0xFFFF_FFFF` writes −1. -/
theorem test_andi_sign_extends : nextIs (exec (.andi 7 5 0x3FFF) (regs 0x123456789ABCDEF0 0 0)) (fun t => t.g 7 == 0x123456789ABCDEF0) = true := by decide +kernel
theorem test_ori_zero_extends : nextIs (exec (.ori 7 5 0x3FFF) (regs 0x4000 0 0)) (fun t => t.g 7 == 0x7FFF) = true := by decide +kernel
theorem test_li_sign_extends : nextIs (exec (.li 8 0xFFFFFFFF) base) (fun t => t.g 8 == 0xFFFFFFFFFFFFFFFF && t.cx.pc == 0x80C) = true := by decide +kernel
theorem test_lih_keeps_low_half : nextIs (exec (.lih 5 0x12345678) (regs 0xFFFFFFFF9ABCDEF0 0 0)) (fun t => t.g 5 == 0x123456789ABCDEF0) = true := by decide +kernel
theorem test_adpc_is_relative : nextIs (exec (.adpc 5 0xFFFFFFFC) base) (fun t => t.g 5 == 0x7FC) = true := by decide +kernel
/-- R110, R111, R88: a branch back by 4 bytes; LOOP at 1 falls through and at 0 wraps and branches. -/
theorem test_blt_is_signed : nextIs (exec (.blt 5 6 0x3FFF) (regs 0xFFFFFFFFFFFFFFFF 1 0)) (fun t => t.cx.pc == 0x7FC) = true := by decide +kernel
theorem test_bltZ_is_unsigned : nextIs (exec (.bltZ 5 6 0x3FFF) (regs 0xFFFFFFFFFFFFFFFF 1 0)) (fun t => t.cx.pc == 0x804) = true := by decide +kernel
theorem test_loop_falls_through : nextIs (exec (.loop 5 0x3FFC) (regs 1 0 0)) (fun t => t.g 5 == 0 && t.cx.pc == 0x804) = true := by decide +kernel
theorem test_loop_wraps : nextIs (exec (.loop 5 0x3FFC) (regs 0 0 0)) (fun t => t.g 5 == 0xFFFFFFFFFFFFFFFF && t.cx.pc == 0x7F0) = true := by decide +kernel
/-- R33: ILLEGAL at a form the decoder does not refuse: CRD of a selector with no register saves the PC and the first parcel. -/
theorem test_trap_entry : nextIs (exec (.crd 5 0x07) base) (fun t => t.cx.epc == 0x800 && t.cx.cause == 1 && t.cx.tval == 7) = true := by decide +kernel
/-- R133: the bytes 0x90 at ea and 0xF1 at ea + 7 of a doubleword; the sign of a byte. -/
theorem test_ld_is_little_endian : nextIs (exec (.ld none .d 7 5 1) l0) (fun t => t.g 7 == 0xF100000000000090 || t.cx.pend.any fun p => p.vals == [0xF100000000000090]) = true := by
  decide +kernel
theorem test_ld_byte_sign : nextIs (exec (.ld none .s8 7 5 8) l0) (fun t => t.g 7 == 0xFFFFFFFFFFFFFF90 || t.cx.pend.any fun p => p.vals == [0xFFFFFFFFFFFFFF90]) = true := by
  decide +kernel
/-- R133: the trap's own example of a misaligned address (R132): TVAL the address. -/
theorem test_ld_misaligned : nextIs (exec (.ld none .d 7 5 0) (based.setG 5 0xF000000005004)) (fun t => t.cx.cause == 5 && t.cx.tval == 0xF000000005004) = true := by decide +kernel
/-- R104: division by zero and the signed corner give their table values, 20 cycles or fewer later. -/
theorem test_div_by_zero : nextIs (exec (.div 7 5 6) (regs 9 0 0)) (fun t => t.g 7 == 0xFFFFFFFFFFFFFFFF || t.cx.pend.any fun p => p.vals == [0xFFFFFFFFFFFFFFFF]) = true := by decide +kernel
theorem test_rem_corner : nextIs (exec (.rem 7 5 6) (regs 0x8000000000000000 0xFFFFFFFFFFFFFFFF 0)) (fun t => t.cx.pend.all fun p => p.vals == [0]) = true := by decide +kernel
theorem test_mulh_of_minus_ones : nextIs (exec (.mulh 7 5 6) (regs 0xFFFFFFFFFFFFFFFF 0xFFFFFFFFFFFFFFFF 0)) (fun t => t.cx.pend.all fun p => p.vals == [0]) = true := by decide +kernel
/-- R168: binary32 numbers round to nearest, ties to even: 1 + 2^-24 is 1, 1 + 3 · 2^-24 is 1 + 2^-22. -/
theorem test_round_tie : (f32.add .rne 0x3F800000 0x33800000).1 = 0x3F800000 ∧ (f32.add .rne 0x3F800001 0x33800000).1 = 0x3F800002 := by
  decide +kernel

/-! ## Scalar instructions, control registers, exceptions -/

def w4 : State := regs 0x7fffffffffffffff 1 0
def w7 : State := cxd (regs (1<<<63) (1<<<63) 0) fun c => {c with arith := 0x400}
def w8 : State := cxd (regs (1<<<63) 1 0) fun c => {c with arith := 0x400}
def w9 : State := cxd (regs (1) 2 0) fun c => {c with arith := 0x400}
def w10 : State := cxd (regs (2) 2 0) fun c => {c with arith := 0x400}
def w20 : State := regs 0x1004 0 0
def w21 : State := regs 0x1002 0 0
def w22 : State := sup base
def w23 : State := regs 0x404 0 0
def w24 : State := regs 0x406 0 0
def w25 : State := regs 0x1F 0 0
def w27 : State := regs 0xFFFFF 0 0
def w28 : State := cxd base fun c => {c with status := 8}
def w29 : State := regs 8 0 0
def w30 : State := regs 0 0 0
def w31 : State := regs 0x72F 0 0
def w32 : State := cxd base fun c => {c with status := 4}
def w34 : State := cxd (sup base) fun c => {c with epc := 0x900}
def w35 : State := cxd base fun c => {c with status := 4, epc := 0x900}
def att (s : State) : State := { s with vifs := [(0, { vif4 with attached := true })] }
def w36 : State := att based
def w37 : State := cxd base fun c => {c with passBrk := true}

theorem witness_SaturatingFormsClamp :
    (bit base.cx.fflags 5 = true ∨ bit base.cx.arith 10 = false)
    ∧ (bit w4.cx.fflags 5 = true ∨ bit w4.cx.arith 10 = false) := by decide +kernel
theorem witness_SaturationTrapsWhenEnabled :
    ((bit w7.cx.fflags 5 = false)
      ∧ (bit w7.cx.arith 10 = true)
      ∧ (w7.cx.super = false)
      ∧ (w7.cx.inPhlx = false)
      ∧ (w7.cx.inTrap = false)
      ∧ (bit w7.cx.trapdeleg 21 = true))
    ∧ ((bit w8.cx.fflags 5 = false)
      ∧ (bit w8.cx.arith 10 = true)
      ∧ (w8.cx.super = false)
      ∧ (w8.cx.inPhlx = false)
      ∧ (w8.cx.inTrap = false)
      ∧ (bit w8.cx.trapdeleg 21 = true))
    ∧ ((bit w9.cx.fflags 5 = false)
      ∧ (bit w9.cx.arith 10 = true)
      ∧ (w9.cx.super = false)
      ∧ (w9.cx.inPhlx = false)
      ∧ (w9.cx.inTrap = false)
      ∧ (bit w9.cx.trapdeleg 21 = true))
    ∧ ((bit w10.cx.fflags 5 = false)
      ∧ (bit w10.cx.arith 10 = true)
      ∧ (-2 ^ 63 ≤ BitVec.toInt (w10.g 5) + BitVec.toInt (w10.g 6))
      ∧ (BitVec.toInt (w10.g 5) + BitVec.toInt (w10.g 6) ≤ 2 ^ 63 - 1))
    ∧ (((0 : Int) ≤ ↑(BitVec.toNat (w10.g (5 : GReg))) + ↑(BitVec.toNat (w10.g (6 : GReg))))
      ∧ (↑(BitVec.toNat (w10.g (5 : GReg))) + ↑(BitVec.toNat (w10.g (6 : GReg))) ≤ (2 : Int) ^ (64 : Nat) - (1 : Int)))
    ∧ ((-2 ^ 63 ≤ BitVec.toInt (w10.g 5) - BitVec.toInt (w10.g 6))
      ∧ (BitVec.toInt (w10.g 5) - BitVec.toInt (w10.g 6) ≤ 2 ^ 63 - 1))
    ∧ ((0 : Int) ≤ ↑(BitVec.toNat (w10.g (5 : GReg))) - ↑(BitVec.toNat (w10.g (6 : GReg))))
      ∧ (↑(BitVec.toNat (w10.g (5 : GReg))) - ↑(BitVec.toNat (w10.g (6 : GReg))) ≤ (2 : Int) ^ (64 : Nat) - (1 : Int)) := by
  repeat' first
    | with_reducible apply And.intro
    | decide +kernel
theorem witness_LoopCountsDown :
    ((5 : GReg) ≠ (0 : GReg)) := by decide +kernel
theorem witness_JumpsGoToTheirTargets :
    (BitVec.toNat (w20.g 5) % 4 = 0)
    ∧ (BitVec.toNat (w21.g 5) % 4 ≠ 0) := by decide +kernel
theorem witness_RegisterFormsEncode :
    ((0 : GReg) ≠ (0 : GReg) ∨ (0 : GReg) ≠ (0 : GReg) ∨ (31 : GReg) ≠ (0 : GReg))
    ∧ ((17 ≤ 17)
      ∧ (17 < 64)
      ∧ (7 < 8))
    ∧ ((1 ≤ 1)
      ∧ (3 ≤ 3)
      ∧ (3 < 8))
    ∧ (2 ≤ 16)
      ∧ (16 ≤ 16)
      ∧ (1 ≤ 7) := by decide +kernel
theorem witness_ImmediateAndLiteralEncode :
    14 ∈ [12, 13, 14]
    ∧ ((64 : Nat) ≤ BitVec.toNat (64 : BitVec (14 : Nat))) := by decide +kernel
theorem witness_BranchesEncode :
    ((31 : GReg) ≠ (0 : GReg)) := by decide +kernel
theorem witness_ControlRegisterReads :
    ((base.cx.super = true ∨ BitVec.toNat (9 : BitVec (8 : Nat)) < (192 : Nat))
      ∧ ((9 : BitVec (8 : Nat)) ≠ (32 : BitVec (8 : Nat)))
      ∧ (base.creg (BitVec.toNat (9 : BitVec (8 : Nat))) = some (290 : Word)))
    ∧ (w22.cx.super = true) := by decide +kernel
theorem witness_PlainControlRegisterWrites :
    ((w23.cx.st.live = true)
      ∧ (2, 32764) ∈ plainRegisters
      ∧ (w23.creg (BitVec.toNat (2 : BitVec (8 : Nat))) = some (0 : Word))
      ∧ (w23.cx.lateCy ≠ w23.cy)
      ∧ (w23.g 5 &&& ~~~32764 = 0))
    ∧ ((0 ||| w23.g 5) &&& ~~~32764 = 0)
    ∧ (0 &&& ~~~w23.g 5 &&& ~~~32764 = 0)
    ∧ ((w24.cx.st.live = true)
      ∧ (w24.creg (BitVec.toNat (2 : BitVec (8 : Nat))) = some (0 : Word))
      ∧ (w24.cx.lateCy ≠ w24.cy)
      ∧ (w24.g 5 &&& ~~~32764 ≠ 0))
    ∧ ((w25.cx.st.live = true)
      ∧ (13, 63) ∈ plainRegisters
      ∧ (w25.creg (BitVec.toNat (13 : BitVec (8 : Nat))) = some (0 : Word))
      ∧ (w25.cx.lateCy ≠ w25.cy)
      ∧ (w25.g 5 &&& ~~~63 = 0))
    ∧ (w27.cx.st.live = true)
      ∧ (21, 4294967295) ∈ plainRegisters
      ∧ (w27.creg (BitVec.toNat (21 : BitVec (8 : Nat))) = some (1048576 : Word))
      ∧ (w27.cx.lateCy ≠ w27.cy)
      ∧ (1048576 &&& ~~~w27.g 5 &&& ~~~4294967295 = 0) := by
  repeat' first
    | with_reducible apply And.intro
    | decide +kernel
theorem witness_ControlRegisterRefusals :
    ((base.cx.super = false)
      ∧ (base.cx.inPhlx = false ∨ base.cx.leader = true)
      ∧ ((192 : Nat) ≤ BitVec.toNat (192 : BitVec (8 : Nat))))
    ∧ ((192 : Nat) ≤ BitVec.toNat (255 : BitVec (8 : Nat)))
    ∧ ((BitVec.toNat (7 : BitVec (8 : Nat)) < (192 : Nat))
      ∧ (¬(7 : BitVec (8 : Nat)) ∈ have y := have y := have y := [(41 : BitVec (8 : Nat)), (44 : BitVec (8 : Nat)), (45 : BitVec (8 : Nat)), (48 : BitVec (8 : Nat)), (52 : BitVec (8 : Nat))]; (37 : BitVec (8 : Nat)) :: (38 : BitVec (8 : Nat)) :: (39 : BitVec (8 : Nat)) :: (40 : BitVec (8 : Nat)) :: y; have y := (30 : BitVec (8 : Nat)) :: (31 : BitVec (8 : Nat)) :: (32 : BitVec (8 : Nat)) :: (33 : BitVec (8 : Nat)) :: (36 : BitVec (8 : Nat)) :: y; (23 : BitVec (8 : Nat)) :: (24 : BitVec (8 : Nat)) :: (28 : BitVec (8 : Nat)) :: (29 : BitVec (8 : Nat)) :: y; have y := have y := (16 : BitVec (8 : Nat)) :: (17 : BitVec (8 : Nat)) :: (20 : BitVec (8 : Nat)) :: (21 : BitVec (8 : Nat)) :: (22 : BitVec (8 : Nat)) :: y; (9 : BitVec (8 : Nat)) :: (12 : BitVec (8 : Nat)) :: (13 : BitVec (8 : Nat)) :: (14 : BitVec (8 : Nat)) :: y; have y := (4 : BitVec (8 : Nat)) :: (5 : BitVec (8 : Nat)) :: (6 : BitVec (8 : Nat)) :: (8 : BitVec (8 : Nat)) :: y; (0 : BitVec (8 : Nat)) :: (1 : BitVec (8 : Nat)) :: (2 : BitVec (8 : Nat)) :: (3 : BitVec (8 : Nat)) :: y))
    ∧ ((BitVec.toNat (191 : BitVec (8 : Nat)) < (192 : Nat))
      ∧ (¬(191 : BitVec (8 : Nat)) ∈ have y := have y := have y := [(41 : BitVec (8 : Nat)), (44 : BitVec (8 : Nat)), (45 : BitVec (8 : Nat)), (48 : BitVec (8 : Nat)), (52 : BitVec (8 : Nat))]; (37 : BitVec (8 : Nat)) :: (38 : BitVec (8 : Nat)) :: (39 : BitVec (8 : Nat)) :: (40 : BitVec (8 : Nat)) :: y; have y := (30 : BitVec (8 : Nat)) :: (31 : BitVec (8 : Nat)) :: (32 : BitVec (8 : Nat)) :: (33 : BitVec (8 : Nat)) :: (36 : BitVec (8 : Nat)) :: y; (23 : BitVec (8 : Nat)) :: (24 : BitVec (8 : Nat)) :: (28 : BitVec (8 : Nat)) :: (29 : BitVec (8 : Nat)) :: y; have y := have y := (16 : BitVec (8 : Nat)) :: (17 : BitVec (8 : Nat)) :: (20 : BitVec (8 : Nat)) :: (21 : BitVec (8 : Nat)) :: (22 : BitVec (8 : Nat)) :: y; (9 : BitVec (8 : Nat)) :: (12 : BitVec (8 : Nat)) :: (13 : BitVec (8 : Nat)) :: (14 : BitVec (8 : Nat)) :: y; have y := (4 : BitVec (8 : Nat)) :: (5 : BitVec (8 : Nat)) :: (6 : BitVec (8 : Nat)) :: (8 : BitVec (8 : Nat)) :: y; (0 : BitVec (8 : Nat)) :: (1 : BitVec (8 : Nat)) :: (2 : BitVec (8 : Nat)) :: (3 : BitVec (8 : Nat)) :: y))
    ∧ (((197 : Nat) ≤ BitVec.toNat (197 : BitVec (8 : Nat)))
      ∧ (w22.cx.super = true))
    ∧ ((197 : Nat) ≤ BitVec.toNat (255 : BitVec (8 : Nat)))
    ∧ ((23 : BitVec (8 : Nat)) ∈ [(1 : BitVec (8 : Nat)), (16 : BitVec (8 : Nat)), (23 : BitVec (8 : Nat)), (32 : BitVec (8 : Nat)), (33 : BitVec (8 : Nat)), (36 : BitVec (8 : Nat)), (37 : BitVec (8 : Nat)), (38 : BitVec (8 : Nat)), (40 : BitVec (8 : Nat)), (41 : BitVec (8 : Nat))] ∨ (23 : BitVec (8 : Nat)) = (194 : BitVec (8 : Nat)) ∧ base.cx.super = true)
    ∧ ((194 : BitVec (8 : Nat)) ∈ [(1 : BitVec (8 : Nat)), (16 : BitVec (8 : Nat)), (23 : BitVec (8 : Nat)), (32 : BitVec (8 : Nat)), (33 : BitVec (8 : Nat)), (36 : BitVec (8 : Nat)), (37 : BitVec (8 : Nat)), (38 : BitVec (8 : Nat)), (40 : BitVec (8 : Nat)), (41 : BitVec (8 : Nat))] ∨ (194 : BitVec (8 : Nat)) = (194 : BitVec (8 : Nat)) ∧ w22.cx.super = true) := by decide +kernel
theorem witness_ProtectedFieldsAreRefused :
    ((w28.cx.super = false)
      ∧ (w28.cx.inPhlx = false ∨ w28.cx.leader = true)
      ∧ (w28.cx.sse = true))
    ∧ ((w29.cx.super = false)
      ∧ (w29.g 5 = 8)
      ∧ (w29.cx.sse = false))
    ∧ ((BitVec.toNat (w30.g 5) < 2 ^ 11)
      ∧ (BitVec.toNat (w30.g 5) % 8 = 0 ∨ BitVec.toNat (w30.g 5) % 8 = 7 ∨ BitVec.toNat (w30.g 5) / 8 % 8 = 0 ∨ BitVec.toNat (w30.g 5) / 8 % 8 ≥ 6 ∨ BitVec.toNat (w30.g 5) / 256 % 4 = 0))
    ∧ (BitVec.toNat (w31.g 5) < 2 ^ 11)
      ∧ (BitVec.toNat (w31.g 5) % 8 = 0 ∨ BitVec.toNat (w31.g 5) % 8 = 7 ∨ BitVec.toNat (w31.g 5) / 8 % 8 = 0 ∨ BitVec.toNat (w31.g 5) / 8 % 8 ≥ 6 ∨ BitVec.toNat (w31.g 5) / 256 % 4 = 0) := by decide +kernel
theorem witness_TrapEntrySequence :
    ((base.cx.super = false)
      ∧ (base.cx.inPhlx = false))
    ∧ (w32.cx.super = false)
      ∧ (w32.cx.inPhlx = false) := by decide +kernel
theorem witness_TrapAtSupervisorLevelHaltsCore :
    (w22.cx.super = true)
    ∧ (w22.cx.inPhlx = false)
    ∧ (w22.core.k < 11) := by decide +kernel
theorem witness_ExceptionReturn :
    (w34.cx.super = true)
    ∧ ((w35.cx.super = false)
      ∧ (w35.cx.inTrap = true))
    ∧ (base.cx.super = false)
      ∧ (base.cx.inTrap = false) := by decide +kernel
theorem witness_BreakInstruction :
    ((base.cx.passBrk = false)
      ∧ (base.myVif.attached = false))
    ∧ ((w36.cx.passBrk = false)
      ∧ (w36.myVif.attached = true)
      ∧ (w36.core.k = 0)
      ∧ (w36.cx.st = Run.ready)
      ∧ (bits w36.cx.domain 2 0 < 2)
      ∧ ((w36.episodes.all fun e => e.k != 5) = true))
    ∧ (w37.cx.passBrk = true) := by decide +kernel

/-! ## Calls, queues, ports, tempo registers, helpers -/

def call0 : State := (base.setG 2 0xF000000005000).setG 5 0x1004
def call1 : State := cxd call0 fun c => { c with status := 8, ssp := 0x6000, sslim := 0x61005F00 }
def call5 : State := cxd call0 fun c => { c with memdef := 0x522 }
def call2 : State := (base.setG 2 0xF000000005004).setG 5 0x1002
def call3 : State := cxd call0 fun c => { c with status := 8, ssp := 0x5F00, sslim := 0x61005F00 }
def call4 : State := cxd call0 fun c => { c with status := 8, ssp := 0x6100, sslim := 0x61005F00 }
def ret0 : State := { call0 with mem := [(sramKey 0 0x5000, 0x10), (sramKey 0 0x5001, 0x09)] }
def ret1 : State := { call1 with mem := [(sramKey 0 0x5000, 0x10), (sramKey 0 0x5001, 0x09), (sramKey 0 0x6000, 0x10), (sramKey 0 0x6001, 0x09)] }
def ret2 : State := { call1 with mem := [(sramKey 0 0x5000, 0x10), (sramKey 0 0x5001, 0x09), (sramKey 0 0x6000, 0x14), (sramKey 0 0x6001, 0x09)] }
def ret3 : State := { ret2 with poison := [sramKey 0 (ret2.cx.ssp.toNat % 0x8000) / 8] }
def q0 : State := cored (base.setG 5 77) fun c => { c with q := c.q.set 1 [⟨3, [2]⟩, ⟨4, []⟩] |>.set 2 (List.replicate 8 ⟨1,[]⟩) }
def n0 : State := based.setG 5 77
def n1 : State := { n0 with core := { n0.core with nIn := n0.core.nIn.set 1 [44, 55], n5 := [9] } }
def hdr (vd row col len : Nat) : Word := BitVec.ofNat 64 (vd + row * 16 + col * 2048 + len * 2 ^ 18)
def m0 : State := based.setG 5 (hdr 0 0 0 0)
def m1 : State := based.setG 5 (hdr 0 5 0 2)
def m2 : State := based.setG 5 (hdr 0 1 1 2)
def m3 : State := { n0 with core := { n0.core with n4 := ⟨some 0, 2, [(0, hdr 0 1 1 2)], []⟩ } }
def m4 : State := { m2 with core := { m2.core with n4 := ⟨none, 0, List.replicate 4 (0, 7), [hdr 0 1 1 2]⟩ } }
def m5 : State := { n0 with core := { n0.core with n4 := ⟨some 2, 1, [(0, 6), (0, 7)], [hdr 0 1 1 2]⟩ } }
def m6 : State := { n0 with core := { n0.core with n4 := ⟨some 2, 1, [(0, 6)], [hdr 0 1 1 2, 5]⟩ } }
def t0 : State := based.setG 5 0x200
def t1 : State := based.setG 5 0x601
def t2 : State := based.setG 5 0
def t3 : State := based.setG 5 (BitVec.ofNat 64 (2^39))
def h0 : State := (based.setG 5 0x1000).setG 6 99
def h1 : State := (based.setG 5 0x1002).setG 6 99
def h2 : State := cored h0 fun c => { c with k := 3 }
def h3 : State := cored h0 fun c => { c with parked := (List.range 10).map fun k => (k + 1, { Context.reset 1 with st := .ready }) }
def h4 : State := cored h0 fun c => { c with parked := [(1, { Context.reset 1 with st := .ready })] }
def j0 : State := cored (based.setG 5 3) fun c => { c with parked := [(3, { Context.reset 1 with st := .exited, exitValue := 66 })] }
def j1 : State := cored (based.setG 5 3) fun c => { c with parked := [(3, { Context.reset 1 with st := .ready, exitValue := 66 })] }
def j2 : State := cxd (cored (based.setG 5 8) fun c => { c with k := 3, parked := [(0, { Context.reset 0 with st := .ready })] }) fun c => { c with ta := c.ta.set 2 5 }

theorem witness_CallPushesReturnAddress :
    ((BitVec.toNat (call0.g 2) % 8 = 0)
      ∧ call0.ownData (call0.g 2 - 8) 8
      ∧ (call0.core.inShadow call0.cx (BitVec.toNat (call0.g 2 - 8) - 4222124650659840) 8 = false)
      ∧ (call0.cx.sse = true → bits call0.cx.sslim 15 0 + 8 ≤ BitVec.toNat call0.cx.ssp)
      ∧ call0.accessFree
      ∧ (bits call0.cx.memdef 7 6 < 2))
    ∧ (bit call0.cx.memdef 10 = false)
    ∧ ((BitVec.toNat (call5.g 2) % 8 = 0)
      ∧ call5.ownData (call5.g 2 - 8) 8
      ∧ (call5.core.inShadow call5.cx (BitVec.toNat (call5.g 2 - 8) - 4222124650659840) 8 = false)
      ∧ (call5.cx.sse = true → bits call5.cx.sslim 15 0 + 8 ≤ BitVec.toNat call5.cx.ssp)
      ∧ call5.accessFree
      ∧ (bits call5.cx.memdef 7 6 < 2)
      ∧ (bit call5.cx.memdef 10 = true))
    ∧ ((BitVec.toNat (call1.g 2) % 8 = 0)
      ∧ call1.ownData (call1.g 2 - 8) 8
      ∧ (call1.core.inShadow call1.cx (BitVec.toNat (call1.g 2 - 8) - 4222124650659840) 8 = false)
      ∧ (call1.cx.sse = true → bits call1.cx.sslim 15 0 + 8 ≤ BitVec.toNat call1.cx.ssp)
      ∧ call1.accessFree
      ∧ (bits call1.cx.memdef 7 6 < 2)
      ∧ (bit call1.cx.memdef 10 = false))
    ∧ (BitVec.toNat (call0.g 5) % 4 = 0) := by
  repeat' first
    | with_reducible apply And.intro
    | decide +kernel
theorem witness_CallAndReturnRefusals :
    (BitVec.toNat (call2.g 5) % 4 ≠ 0)
    ∧ (BitVec.toNat (call2.g 2) % 8 ≠ 0)
    ∧ ((BitVec.toNat (call3.g 2) % 8 = 0)
      ∧ (call3.cx.sse = true)
      ∧ (BitVec.toNat call3.cx.ssp < bits call3.cx.sslim 15 0 + 8))
    ∧ (BitVec.toNat (call4.g 2) % 8 = 0)
      ∧ (call4.cx.sse = true)
      ∧ (bits call4.cx.sslim 31 16 < BitVec.toNat call4.cx.ssp + 8) := by decide +kernel
theorem witness_ReturnChecksShadowStack :
    ((BitVec.toNat (ret0.g 2) % 8 = 0)
      ∧ ret0.ownData (ret0.g 2) 8
      ∧ (ret0.cx.sse = true → BitVec.toNat ret0.cx.ssp + 8 ≤ bits ret0.cx.sslim 31 16)
      ∧ ret0.accessFree
      ∧ (bits ret0.cx.memdef 7 6 < 2)
      ∧ ret0.servedHere (ret0.ownKey (ret0.g 2)) 8
      ∧ (ret0.poisoned (ret0.ownKey (ret0.g 2)) 8 = false)
      ∧ (ret0.peekN (ret0.ownKey (ret0.g 2)) 8 % 4 = 0)
      ∧ (ret0.peekN (ret0.ownKey (ret0.g 2)) 8 < 2 ^ 15)
      ∧ (ret0.cx.sse = true → Memory.getN ret0.mem (sramKey ret0.id (BitVec.toNat ret0.cx.ssp % 32768)) 8 = ret0.peekN (ret0.ownKey (ret0.g 2)) 8 ∧ ∀ (w : Nat), w ∈ wordsOf (sramKey ret0.id (BitVec.toNat ret0.cx.ssp % 32768)) 8 → ¬w ∈ ret0.poison))
    ∧ ((BitVec.toNat (ret1.g 2) % 8 = 0)
      ∧ ret1.ownData (ret1.g 2) 8
      ∧ (ret1.cx.sse = true → BitVec.toNat ret1.cx.ssp + 8 ≤ bits ret1.cx.sslim 31 16)
      ∧ ret1.accessFree
      ∧ (bits ret1.cx.memdef 7 6 < 2)
      ∧ ret1.servedHere (ret1.ownKey (ret1.g 2)) 8
      ∧ (ret1.poisoned (ret1.ownKey (ret1.g 2)) 8 = false)
      ∧ (ret1.peekN (ret1.ownKey (ret1.g 2)) 8 % 4 = 0)
      ∧ (ret1.peekN (ret1.ownKey (ret1.g 2)) 8 < 2 ^ 15)
      ∧ (ret1.cx.sse = true → Memory.getN ret1.mem (sramKey ret1.id (BitVec.toNat ret1.cx.ssp % 32768)) 8 = ret1.peekN (ret1.ownKey (ret1.g 2)) 8 ∧ ∀ (w : Nat), w ∈ wordsOf (sramKey ret1.id (BitVec.toNat ret1.cx.ssp % 32768)) 8 → ¬w ∈ ret1.poison))
    ∧ ((BitVec.toNat (ret3.g 2) % 8 = 0)
      ∧ ret3.ownData (ret3.g 2) 8
      ∧ (ret3.cx.sse = true → BitVec.toNat ret3.cx.ssp + 8 ≤ bits ret3.cx.sslim 31 16)
      ∧ ret3.accessFree
      ∧ (bits ret3.cx.memdef 7 6 < 2)
      ∧ ret3.servedHere (ret3.ownKey (ret3.g 2)) 8
      ∧ (ret3.poisoned (ret3.ownKey (ret3.g 2)) 8 = false)
      ∧ (ret3.cx.sse = true)
      ∧ (¬∀ (w : Nat), w ∈ wordsOf (sramKey ret3.id (BitVec.toNat ret3.cx.ssp % 32768)) 8 → ¬w ∈ ret3.poison)
      ∧ (ret3.cx.super = false)
      ∧ (ret3.cx.inPhlx = false))
    ∧ (BitVec.toNat (ret2.g 2) % 8 = 0)
      ∧ ret2.ownData (ret2.g 2) 8
      ∧ (ret2.cx.sse = true → BitVec.toNat ret2.cx.ssp + 8 ≤ bits ret2.cx.sslim 31 16)
      ∧ ret2.accessFree
      ∧ (bits ret2.cx.memdef 7 6 < 2)
      ∧ ret2.servedHere (ret2.ownKey (ret2.g 2)) 8
      ∧ (ret2.poisoned (ret2.ownKey (ret2.g 2)) 8 = false)
      ∧ (ret2.cx.sse = true)
      ∧ (∀ (w : Nat), w ∈ wordsOf (sramKey ret2.id (BitVec.toNat ret2.cx.ssp % 32768)) 8 → ¬w ∈ ret2.poison)
      ∧ (Memory.getN ret2.mem (sramKey ret2.id (BitVec.toNat ret2.cx.ssp % 32768)) 8 ≠ ret2.peekN (ret2.ownKey (ret2.g 2)) 8)
      ∧ (ret2.cx.super = false)
      ∧ (ret2.cx.inPhlx = false) := by
  repeat' first
    | with_reducible apply And.intro
    | decide +kernel
theorem witness_QueueInstructions :
    ((q0.performed 1 = true)
      ∧ (q0.core.q[BitVec.toFin (1 : QReg)].length < (8 : Nat))
      ∧ (q0.behind ((4 : Nat) + BitVec.toNat (1 : QReg)) = false))
    ∧ ((8 : Nat) ≤ q0.core.q[BitVec.toFin (2 : QReg)].length)
    ∧ ((q0.core.q[BitVec.toFin (1 : QReg)] = [{ val := (3 : Word), clk := [(2 : Nat)] }, { val := (4 : Word), clk := [] }])
      ∧ (q0.behind (BitVec.toNat (1 : QReg)) = false))
    ∧ (q0.core.q[BitVec.toFin (0 : QReg)] = []) := by decide +kernel
theorem witness_NeighbourPortInstructions :
    ((BitVec.toNat (0 : BitVec (3 : Nat)) ≤ (3 : Nat))
      ∧ (n0.neighbour n0.id (BitVec.toNat (0 : BitVec (3 : Nat))) = none))
    ∧ ((BitVec.toNat (3 : BitVec (3 : Nat)) ≤ (3 : Nat))
      ∧ (n0.neighbour n0.id (BitVec.toNat (3 : BitVec (3 : Nat))) = none))
    ∧ ((BitVec.toNat (1 : BitVec (3 : Nat)) ≤ (3 : Nat))
      ∧ (n0.neighbour n0.id (BitVec.toNat (1 : BitVec (3 : Nat))) = some (1 : Nat))
      ∧ (1 ≠ n0.id)
      ∧ (((n0.land (1 : Nat) ((BitVec.toNat (1 : BitVec (3 : Nat)) + (2 : Nat)) % (4 : Nat))).coreAt (1 : Nat)).fifoUsed ((BitVec.toNat (1 : BitVec (3 : Nat)) + (2 : Nat)) % (4 : Nat)) < (4 : Nat))
      ∧ ((n0.land (1 : Nat) ((BitVec.toNat (1 : BitVec (3 : Nat)) + (2 : Nat)) % (4 : Nat))).behind ((16 : Nat) + BitVec.toNat (1 : BitVec (3 : Nat))) = false))
    ∧ ((BitVec.toNat (2 : BitVec (3 : Nat)) ≤ (3 : Nat))
      ∧ (n0.neighbour n0.id (BitVec.toNat (2 : BitVec (3 : Nat))) = some (80 : Nat))
      ∧ (80 ≠ n0.id)
      ∧ (((n0.land (80 : Nat) ((BitVec.toNat (2 : BitVec (3 : Nat)) + (2 : Nat)) % (4 : Nat))).coreAt (80 : Nat)).fifoUsed ((BitVec.toNat (2 : BitVec (3 : Nat)) + (2 : Nat)) % (4 : Nat)) < (4 : Nat))
      ∧ ((n0.land (80 : Nat) ((BitVec.toNat (2 : BitVec (3 : Nat)) + (2 : Nat)) % (4 : Nat))).behind ((16 : Nat) + BitVec.toNat (2 : BitVec (3 : Nat))) = false))
    ∧ ((BitVec.toNat (1 : BitVec (3 : Nat)) ≤ (3 : Nat) ∨ BitVec.toNat (1 : BitVec (3 : Nat)) = (5 : Nat))
      ∧ ((n1.land n1.id (BitVec.toNat (1 : BitVec (3 : Nat)))).core.portWords (BitVec.toNat (1 : BitVec (3 : Nat))) = [(44 : Word), (55 : Word)])
      ∧ ((n1.land n1.id (BitVec.toNat (1 : BitVec (3 : Nat)))).behind ((8 : Nat) + BitVec.toNat (1 : BitVec (3 : Nat))) = false))
    ∧ ((BitVec.toNat (5 : BitVec (3 : Nat)) ≤ (3 : Nat) ∨ BitVec.toNat (5 : BitVec (3 : Nat)) = (5 : Nat))
      ∧ ((n1.land n1.id (BitVec.toNat (5 : BitVec (3 : Nat)))).core.portWords (BitVec.toNat (5 : BitVec (3 : Nat))) = [(9 : Word)])
      ∧ ((n1.land n1.id (BitVec.toNat (5 : BitVec (3 : Nat)))).behind ((8 : Nat) + BitVec.toNat (5 : BitVec (3 : Nat))) = false))
    ∧ (BitVec.toNat (0 : BitVec (3 : Nat)) ≤ (3 : Nat) ∨ BitVec.toNat (0 : BitVec (3 : Nat)) = (5 : Nat))
      ∧ ((n1.land n1.id (BitVec.toNat (0 : BitVec (3 : Nat)))).core.portWords (BitVec.toNat (0 : BitVec (3 : Nat))) = []) := by
  repeat' first
    | with_reducible apply And.intro
    | decide +kernel
theorem witness_RoutedMessagesAreBuilt :
    ((m0.core.n4.owner = none)
      ∧ (bits (m0.g 5) 21 18 = 0 ∨ bits (m0.g 5) 63 22 ≠ 0))
    ∧ ((m1.core.n4.owner = none)
      ∧ (bits (m1.g 5) 21 18 ≠ 0)
      ∧ (bits (m1.g 5) 63 22 = 0)
      ∧ (m1.siteAt (bits (m1.g 5) 3 0) (bits (m1.g 5) 10 4) (bits (m1.g 5) 17 11) = none))
    ∧ ((m2.core.n4.owner = none)
      ∧ (bits (m2.g 5) 21 18 ≠ 0)
      ∧ (bits (m2.g 5) 63 22 = 0)
      ∧ (m2.siteAt (bits (m2.g 5) 3 0) (bits (m2.g 5) 10 4) (bits (m2.g 5) 17 11) = some 81)
      ∧ (m2.behind 20 = false)
      ∧ (m2.core.n4.fifo.length < 4)
      ∧ (m2.matching (Home.core 81) = []))
    ∧ ((m4.core.n4.owner = none)
      ∧ (bits (m4.g 5) 21 18 ≠ 0)
      ∧ (bits (m4.g 5) 63 22 = 0)
      ∧ (m4.siteAt (bits (m4.g 5) 3 0) (bits (m4.g 5) 10 4) (bits (m4.g 5) 17 11) = some 81)
      ∧ (m4.behind 20 = true ∨ 4 ≤ m4.core.n4.fifo.length))
    ∧ ((m3.core.n4.owner = some m3.core.k)
      ∧ (m3.core.n4.fifo.length < 4))
    ∧ ((m5.core.n4.owner = some 2)
      ∧ (2 ≠ m5.core.k ∨ 4 ≤ m5.core.n4.fifo.length))
    ∧ ((m6.core.n4.fifo = [(0, 6)])
      ∧ (m6.core.n4.words = [hdr 0 1 1 2, 5])
      ∧ (m6.siteAt (bits (hdr 0 1 1 2) 3 0) (bits (hdr 0 1 1 2) 10 4) (bits (hdr 0 1 1 2) 17 11) = some 81)
      ∧ (bits (hdr (0 : Nat) (1 : Nat) (1 : Nat) (2 : Nat)) (21 : Nat) (18 : Nat) ≤ [(5 : Word)].length + (1 : Nat)))
    ∧ (m5.core.n4.fifo = [(0, 6), (0, 7)])
      ∧ (m5.core.n4.words = [hdr 0 1 1 2])
      ∧ (m5.siteAt (bits (hdr 0 1 1 2) 3 0) (bits (hdr 0 1 1 2) 10 4) (bits (hdr 0 1 1 2) 17 11) = some 81)
      ∧ (([] : List Word).length + 1 < bits (hdr 0 1 1 2) 21 18) := by
  repeat' first
    | with_reducible apply And.intro
    | decide +kernel
theorem witness_TempoBinding :
    (t2.bindOk (t2.g 5) = true)
    ∧ (t0.bindOk (t0.g 5) = true)
    ∧ (t1.bindOk (t1.g 5) = false)
    ∧ (BitVec.toNat (t1.g 5) % 512 ≠ 0 ∨ 2 ^ 39 ≤ BitVec.toNat (t1.g 5) ∨ BitVec.toNat (t1.g 5) / 512 % 8 ≥ 5)
    ∧ (BitVec.toNat (t3.g 5) % 512 ≠ 0 ∨ 2 ^ 39 ≤ BitVec.toNat (t3.g 5) ∨ BitVec.toNat (t3.g 5) / 512 % 8 ≥ 5) := by decide +kernel
theorem witness_HelperStart :
    (h2.core.k ≠ 0 ∨ h2.cx.inPhlx = true)
    ∧ ((h1.core.k = 0)
      ∧ (h1.cx.inPhlx = false)
      ∧ (BitVec.toNat (h1.g 5) % 4 ≠ 0))
    ∧ ((h0.core.k = 0)
      ∧ (h0.cx.inPhlx = false)
      ∧ (BitVec.toNat (h0.g 5) % 4 = 0)
      ∧ (h0.performed 1 = true)
      ∧ (1 ≤ 1)
      ∧ (1 ≤ 10)
      ∧ ((h0.cxAt h0.id 1).st = Run.free)
      ∧ (∀ (j : Nat), 1 ≤ j → j < 1 → (h0.cxAt h0.id j).st ≠ Run.free))
    ∧ ((h4.core.k = 0)
      ∧ (h4.cx.inPhlx = false)
      ∧ (BitVec.toNat (h4.g 5) % 4 = 0)
      ∧ (h4.performed 1 = true)
      ∧ (1 ≤ 2)
      ∧ (2 ≤ 10)
      ∧ ((h4.cxAt h4.id 2).st = Run.free)
      ∧ (∀ (j : Nat), 1 ≤ j → j < 2 → (h4.cxAt h4.id j).st ≠ Run.free))
    ∧ (h3.core.k = 0)
      ∧ (h3.cx.inPhlx = false)
      ∧ (BitVec.toNat (h3.g 5) % 4 = 0)
      ∧ (h3.performed 1 = true)
      ∧ (∀ (k : Nat), 1 ≤ k → k ≤ 10 → (h3.cxAt h3.id k).st ≠ Run.free) := by
  repeat' first
    | with_reducible apply And.intro
    | decide +kernel
    | exact oneBelow (by decide +kernel)
    | exact oneTo (by decide +kernel)
theorem witness_HelperJoinAndExit :
    ((j0.core.k = 0)
      ∧ (1 ≤ BitVec.toNat (j0.g 5))
      ∧ (BitVec.toNat (j0.g 5) ≤ 10)
      ∧ ((j0.cxAt j0.id (BitVec.toNat (j0.g 5))).st = Run.exited))
    ∧ ((j1.core.k = 0)
      ∧ (1 ≤ BitVec.toNat (j1.g 5))
      ∧ (BitVec.toNat (j1.g 5) ≤ 10)
      ∧ ((j1.cxAt j1.id (BitVec.toNat (j1.g 5))).st ≠ Run.exited)
      ∧ ((j1.cxAt j1.id (BitVec.toNat (j1.g 5))).st ≠ Run.free))
    ∧ (j2.core.k ≠ 0 ∨ BitVec.toNat (j2.g 5) = 0 ∨ 10 < BitVec.toNat (j2.g 5) ∨ (j2.cxAt j2.id (BitVec.toNat (j2.g 5))).st = Run.free)
    ∧ (n0.core.k ≠ 0 ∨ BitVec.toNat (n0.g 6) = 0 ∨ 10 < BitVec.toNat (n0.g 6) ∨ (n0.cxAt n0.id (BitVec.toNat (n0.g 6))).st = Run.free)
    ∧ (j2.core.k ≠ 0)
      ∧ (j2.checked = true)
      ∧ (j2.performed 1 = true)
      ∧ (j2.core.heldSlotRead j2.core.k = false)
      ∧ (j2.core.node = none)
      ∧ (bit j2.cx.errpend 0 = false)
      ∧ (j2.core.recallAt = none) := by decide +kernel

/-! ## Loads, stores, atomics, watched words, the steps of memory -/

def memE : Eff := ⟨2, 4, 0, 1, false⟩
def linOf (k : Nat) : Line := ⟨k / 64, (List.range 64).map fun n => BitVec.ofNat 8 (n + 1), 5, List.replicate 8 1, [], []⟩
def l1h : State := cored (based.setG 5 0x200000) fun c => { c with l1 := [linOf 0x300004], tlb := [⟨0, 0, 20, 2, 3, true, true, true⟩] }
def rf (v : Word) : State := based.setG 5 v
def nd (s : State) : State := cored s fun c => { c with node := some (2 ^ 53 + 64, false) }
def st1 : Staged := ⟨0, ⟨0, .ctx 0 0, .core 1, .w, true, 2, 4, 0, .store (sramKey 1 0x5000) 8 0, false⟩, 256⟩
def nl1 : State := nd l1
def nl2 : State := cored nl1 fun c => { c with staging := [st1] }
def fen (c : Clock) : State := cxd base fun x => { x with clk := [1], joinJ := c, acqOpen := true }
def fen1 : State := fen [0, 2]
def fen2 : State := cored base fun c => { c with sbuf := [⟨0, .ctx 0 0, .core 1, .w, true, 2, 4, 0, .store (sramKey 1 0x5000) 8 0, false⟩] }
def err1 : State := cxd base fun c => { c with errpend := 0x1101, errSource := 2, errTval := 0x55 }
def wa0 : State := (l0.setG 6 3).setG 7 100
def wat : Watch := ⟨sramKey 0 0x5008, 0xF000000005008, 3, 100, 9900, false⟩
def wa1 : State := cxd wa0 fun c => { c with st := .waiting .watch, watch := some wat, reply := some 4 }
def wa1' : State := cxd wa0 fun c => { c with st := .waiting .watch, watch := some wat, reply := some 3 }
def wa2 : State := cxd wa0 fun c => { c with st := .waiting .watch, watch := some { wat with timeout := 0 }, reply := some 3 }
def wa3 : State := cxd wa0 fun c => { c with st := .waiting .watch, watch := some wat }
def watH : Watch := { wat with hit := true }
def wa4 : State := cxd wa3 fun c => { c with watch := some watH }
def watE : Watch := ⟨sramKey 1 0x5000, coordAddr 0 0 1 0x5000, 3, 100, 9900, true⟩
def wa5 : State := cxd { l1 with mem := [(sramKey 1 0x5000, 0x90)] } fun c => { c with st := .waiting .watch, watch := some watE }
def msg (b : Body) : Msg := ⟨3, .ctx 0 0, .core 0, .w, 0, true, [(0, 1)], [], 2, 0xF000000005000, b, false, [], 9990, .home⟩
def ms1 : Msg := msg (.store (sramKey 0 0x5008) 4 0x99AABBCCDD)
def ap1 : State := { l0 with flight := [ms1], dieN := [1] }
def ms2 : Msg := { msg (.amo .add (sramKey 0 0x5008) 8 0x99AABBCCDD 0 [] false false) with cls := .a }
def ap2 : State := { l0 with flight := [ms2], dieN := [1] }
def ms3 : Msg := { msg (.deps (2^53+64)) with cls := .a, dest := .slice 0 }
def ap3 : State := { l0 with flight := [ms3], dieN := [1], mem := [(2^53+66, 0x30)] }
def msb : Msg := msg (.bits (sramKey 0 0x5008) 4 0x99AABBCC 0x0000FF0F)
def apb : State := { l0 with flight := [msb], dieN := [1] }
def aw (e : El) : Await := ⟨[e], .load 6 4 true, 2, 1, false, 0, 4, 0⟩
def el (key : Nat) (st : ElState) : El := ⟨key, 0xF000000005008, 4, st⟩
def ld1 : State := cored (cxd l0 fun c => { c with st := .waiting .reply, await := some (aw (el (sramKey 1 0x5008) .asked)) }) fun c => { c with sbuf := [⟨0, .ctx 0 0, .core 1, .w, true, 2, 4, 0, .store (sramKey 1 0x5008) 8 0xFFFFFFFF80000000, false⟩] }
def ld2 : State := cxd l0 fun c => { c with st := .waiting .reply, await := some (aw (el (sramKey 1 0x5008) .asked)) }
def lin : Line := linOf 0x300008
def awv (e : El) : Await := { aw e with fin := .vload 6 4 false }
def ld3 : State := cored (cxd l0 fun c => { c with st := .waiting .reply, await := some (awv (el 0x300008 .asked)) }) fun c => { c with l1 := [lin], lanes := 8, holder := some 0 }
def ld4 : State := cxd l0 fun c => { c with st := .waiting .reply, await := some (aw (el (sramKey 1 0x5008) (.served 0x80000001 [] [] false))) }
def wbv : State := cored (cxd l0 fun c => { c with pend := [⟨.v 6, [8, 9], 10000⟩] }) fun c => { c with lanes := 8, holder := some 0 }
def wbt : State := cxd l0 fun c => { c with tid := [(4, 7, 0, 0, 0)], pend := [⟨.tid 4, [0x85], 10000⟩] }
def wb : State := cxd l0 fun c => { c with pend := [⟨.g 6, [8], 10000⟩] }
def wb' : State := cxd l0 fun c => { c with pend := [⟨.g 6, [8], 10001⟩] }
def watZ : Watch := { wat with timeout := 0 }

theorem witness_LoadsOfOwnSram :
    ((effOf AccKind.load none l0.cx.memdef = some memE)
      ∧ (spaceOk memE.space Region.loc = true)
      ∧ (l0.gate memE.ord memE.scope = true)
      ∧ l0.ownData (addressM l0 5 8 (ldBytes LdWidth.s8)) (ldBytes LdWidth.s8)
      ∧ l0.servedHere (l0.ownKey (addressM l0 5 8 (ldBytes LdWidth.s8))) (ldBytes LdWidth.s8)
      ∧ (l0.poisoned (l0.ownKey (addressM l0 5 8 (ldBytes LdWidth.s8))) (ldBytes LdWidth.s8) = false))
    ∧ (l0.ownData (addressM l0 5 1 (ldBytes LdWidth.d)) (ldBytes LdWidth.d)
      ∧ l0.servedHere (l0.ownKey (addressM l0 5 1 (ldBytes LdWidth.d))) (ldBytes LdWidth.d)
      ∧ (l0.poisoned (l0.ownKey (addressM l0 5 1 (ldBytes LdWidth.d))) (ldBytes LdWidth.d) = false))
    ∧ (effOf AccKind.load (some { ord := 3, scope := 3, space := 1, cache := 3, chk := true }) l0.cx.memdef = some { ord := 3, scope := 3, space := 1, cache := 3, chk := true })
      ∧ (spaceOk (Eff.mk 3 3 1 3 true).space Region.loc = true)
      ∧ (l0.gate (Eff.mk 3 3 1 3 true).ord (Eff.mk 3 3 1 3 true).scope = true)
      ∧ (bit (6 : GReg) (0 : Nat) = false)
      ∧ l0.ownData (addressM l0 5 0 16) 16
      ∧ l0.servedHere (l0.ownKey (addressM l0 5 0 16)) 16
      ∧ (l0.poisoned (l0.ownKey (addressM l0 5 0 16)) 16 = false) := by decide +kernel
theorem witness_LoadsHomedElsewhereWait :
    ((effOf AccKind.load none l1.cx.memdef = some memE)
      ∧ (l1.gate memE.ord memE.scope = true)
      ∧ (l1.check AccKind.load memE.space (addressM l1 5 1 (ldBytes LdWidth.z32)) (ldBytes LdWidth.z32) = Chk.ok (sramKey 1 20484))
      ∧ (homeOf (sramKey 1 20484) ≠ Home.core l1.id)
      ∧ (l1.hit? memE.ord memE.cache (sramKey 1 20484) (ldBytes LdWidth.z32) = none))
    ∧ (effOf AccKind.load none l1h.cx.memdef = some memE)
      ∧ (l1h.gate memE.ord memE.scope = true)
      ∧ (l1h.check AccKind.load memE.space (addressM l1h 5 1 (ldBytes LdWidth.z32)) (ldBytes LdWidth.z32) = Chk.ok 3145732)
      ∧ (homeOf 3145732 ≠ Home.core l1h.id)
      ∧ (l1h.hit? memE.ord memE.cache 3145732 (ldBytes LdWidth.z32) = some (134678021, false)) := by decide +kernel
theorem witness_AccessRefusals :
    ((Mods.mk 4 0 0 0 false).ord = 4 ∨ (Mods.mk 4 0 0 0 false).ord = 5)
    ∧ ((Mods.mk 3 0 0 0 false).ord = 3 ∨ (Mods.mk 3 0 0 0 false).ord = 5)
    ∧ (2 ^ 52 ≤ BitVec.toNat (addressM (rf 4503599627370496) 5 0 (ldBytes LdWidth.d)))
    ∧ ((4222124650692608 ≤ BitVec.toNat (addressM (rf 4222124650692608) 5 0 (ldBytes LdWidth.d)))
      ∧ (BitVec.toNat (addressM (rf 4222124650692608) 5 0 (ldBytes LdWidth.d)) < 4362862139015168))
    ∧ ((4222124650692608 ≤ BitVec.toNat (addressM (rf 4362862139015160) 5 0 (ldBytes LdWidth.d)))
      ∧ (BitVec.toNat (addressM (rf 4362862139015160) 5 0 (ldBytes LdWidth.d)) < 4362862139015168))
    ∧ ((4362862139015168 ≤ BitVec.toNat (addressM (rf 4362862139015168) 5 0 (ldBytes LdWidth.d)))
      ∧ (BitVec.toNat (addressM (rf 4362862139015168) 5 0 (ldBytes LdWidth.d)) < 2 ^ 52))
    ∧ ((4362862139015168 ≤ BitVec.toNat (addressM (rf 4503599627370488) 5 0 (ldBytes LdWidth.d)))
      ∧ (BitVec.toNat (addressM (rf 4503599627370488) 5 0 (ldBytes LdWidth.d)) < 2 ^ 52))
    ∧ ((bits (rf 4222124650692604).cx.memdef 7 6 = 0)
      ∧ (BitVec.toNat (addressM (rf 4222124650692604) 5 0 (ldBytes LdWidth.d)) < 4222124650692608)
      ∧ (BitVec.toNat (addressM (rf 4222124650692604) 5 0 (ldBytes LdWidth.d)) % ldBytes LdWidth.d ≠ 0))
    ∧ ((bits (rf 4222124650676216).cx.memdef 7 6 = 0)
      ∧ (4222124650659840 ≤ BitVec.toNat (addressM (rf 4222124650676216) 5 0 (ldBytes LdWidth.d)))
      ∧ (BitVec.toNat (addressM (rf 4222124650676216) 5 0 (ldBytes LdWidth.d)) < 4222124650692608)
      ∧ (BitVec.toNat (addressM (rf 4222124650676216) 5 0 (ldBytes LdWidth.d)) % ldBytes LdWidth.d = 0)
      ∧ ((rf 4222124650676216).cx.super = false)
      ∧ (BitVec.toNat (addressM (rf 4222124650676216) 5 0 (ldBytes LdWidth.d)) - 4222124650659840 < BitVec.toNat (rf 4222124650676216).core.xbound))
    ∧ (4222124650659840 ≤ BitVec.toNat (addressM (rf 4222124650676216) 5 0 (stBytes StWidth.d)))
      ∧ (BitVec.toNat (addressM (rf 4222124650676216) 5 0 (stBytes StWidth.d)) < 4222124650692608)
      ∧ (BitVec.toNat (addressM (rf 4222124650676216) 5 0 (stBytes StWidth.d)) % stBytes StWidth.d = 0)
      ∧ (BitVec.toNat (addressM (rf 4222124650676216) 5 0 (stBytes StWidth.d)) - 4222124650659840 < BitVec.toNat (rf 4222124650676216).core.xbound) := by
  repeat' first
    | with_reducible apply And.intro
    | decide +kernel
theorem witness_StoresEnterTheBuffer :
    ((effOf AccKind.store none l0.cx.memdef = some memE)
      ∧ (l0.gate memE.ord memE.scope = true)
      ∧ (l0.core.node = none)
      ∧ (l0.check AccKind.store memE.space (addressM l0 5 4 (stBytes StWidth.h)) (stBytes StWidth.h) = Chk.ok (sramKey 0 20488)))
    ∧ ((effOf AccKind.store none l1.cx.memdef = some memE)
      ∧ (l1.gate memE.ord memE.scope = true)
      ∧ (l1.core.node = none)
      ∧ (l1.check AccKind.store memE.space (addressM l1 5 4 (stBytes StWidth.d)) (stBytes StWidth.d) = Chk.ok (sramKey 1 20512)))
    ∧ (l1.check AccKind.store memE.space (addressM l1 5 4 16) 16 = Chk.ok (sramKey 1 20544)) := by decide +kernel
theorem witness_NodeStoresAreStaged :
    ((effOf AccKind.store none nl1.cx.memdef = some memE)
      ∧ (nl1.gate memE.ord memE.scope = true)
      ∧ (nl1.core.node.isSome = true)
      ∧ (homeOf (sramKey 1 20512) ≠ Home.core nl1.id)
      ∧ (nl1.check AccKind.store memE.space (addressM nl1 5 4 (stBytes StWidth.d)) (stBytes StWidth.d) = Chk.ok (sramKey 1 20512))
      ∧ (nl1.core.stageUsed < 256))
    ∧ (effOf AccKind.store none nl2.cx.memdef = some memE)
      ∧ (nl2.gate memE.ord memE.scope = true)
      ∧ (nl2.core.node.isSome = true)
      ∧ (homeOf (sramKey 1 20512) ≠ Home.core nl2.id)
      ∧ (nl2.check AccKind.store memE.space (addressM nl2 5 4 (stBytes StWidth.d)) (stBytes StWidth.d) = Chk.ok (sramKey 1 20512))
      ∧ (256 ≤ nl2.core.stageUsed) := by decide +kernel
theorem witness_AtomicsEnterTheBuffer :
    ((effOf AccKind.amo none l0.cx.memdef = some memE)
      ∧ (l0.gate memE.ord memE.scope = true)
      ∧ (l0.check AccKind.amo memE.space (addressX l0 5 8) (if false = true then 4 else 8) = Chk.ok (sramKey 0 20488)))
    ∧ (l0.check AccKind.amo memE.space (addressX l0 5 8) (if true = true then 4 else 8) = Chk.ok (sramKey 0 20488))
    ∧ (l0.check AccKind.amo memE.space (addressX l0 5 12) 4 = Chk.ok (sramKey 0 20492))
    ∧ (l0.check AccKind.amo memE.space (addressX l0 5 12) (if true = true then 4 else 8) = Chk.ok (sramKey 0 20492)) := by decide +kernel
theorem witness_AtomicResults :
    ((4 = 4 ∨ 4 = 8)
      ∧ (4294967295 < 256 ^ 4)
      ∧ (4294967294 < 256 ^ 4))
    ∧ (8 = 4 ∨ 8 = 8)
      ∧ (18446744073709551615 < 256 ^ 8)
      ∧ (1 < 256 ^ 8)
      ∧ (3 < 256 ^ 8) := by decide +kernel
theorem witness_FencesOrderTheContext :
    (fen1.fenceReady FenceKind.full (if (0 : BitVec (3 : Nat)) = (0 : BitVec (3 : Nat)) then bits fen1.cx.memdef (5 : Nat) (3 : Nat) else BitVec.toNat (0 : BitVec (3 : Nat))) = true)
    ∧ (fen1.fenceReady FenceKind.acq (if (0 : BitVec (3 : Nat)) = (0 : BitVec (3 : Nat)) then bits fen1.cx.memdef (5 : Nat) (3 : Nat) else BitVec.toNat (0 : BitVec (3 : Nat))) = true)
    ∧ (fen2.fenceReady FenceKind.full (if (2 : BitVec (3 : Nat)) = (0 : BitVec (3 : Nat)) then bits fen2.cx.memdef (5 : Nat) (3 : Nat) else BitVec.toNat (2 : BitVec (3 : Nat))) = false)
    ∧ (fen2.fenceReady FenceKind.ss (if (2 : BitVec (3 : Nat)) = (0 : BitVec (3 : Nat)) then bits fen2.cx.memdef (5 : Nat) (3 : Nat) else BitVec.toNat (2 : BitVec (3 : Nat))) = false) := by decide +kernel
theorem witness_CheckTakesPendingErrors :
    ((base.core.nodeErr = none)
      ∧ (base.checked = true)
      ∧ (bit base.cx.errpend 0 = false))
    ∧ ((fen2.core.nodeErr = none)
      ∧ (fen2.checked = false))
    ∧ (err1.core.nodeErr = none)
      ∧ (err1.checked = true)
      ∧ (bit err1.cx.errpend 0 = true)
      ∧ (err1.cx.super = false)
      ∧ (err1.cx.inPhlx = false) := by decide +kernel
theorem witness_WatchWaitsForAChange :
    ((wa0.cx.watch = none)
      ∧ (wa0.gate 3 4 = true)
      ∧ (wa0.check AccKind.load (bits wa0.cx.memdef 7 6) (addressX wa0 5 8) 8 = Chk.ok (sramKey 0 20488)))
    ∧ ((wa1.cx.watch = some wat)
      ∧ (wa1.cx.reply = some 4)
      ∧ (4 ≠ wat.val ∨ wat.timeout ≠ 0 ∧ BitVec.toNat wat.timeout ≤ wa1.cy - wat.t0))
    ∧ ((wa1'.cx.watch = some wat)
      ∧ (wa1'.cx.reply = some 3)
      ∧ (3 ≠ wat.val ∨ wat.timeout ≠ 0 ∧ BitVec.toNat wat.timeout ≤ wa1'.cy - wat.t0))
    ∧ (wa2.cx.watch = some watZ)
      ∧ (wa2.cx.reply = some 3)
      ∧ (3 = watZ.val)
      ∧ (watZ.timeout = 0) := by decide +kernel
theorem witness_WatchedWordIsRead :
    ((wa3.cx.watch = some wat)
      ∧ (wa3.cx.st = Run.waiting Wait.watch)
      ∧ (wa3.cx.reply = none)
      ∧ (wa3.check AccKind.load (bits wa3.cx.memdef 7 6) wat.va 8 = Chk.ok wat.key)
      ∧ (wa3.gate 3 4 = true)
      ∧ (wa3.poisoned wat.key 8 = false)
      ∧ (wat.hit = false ∨ BitVec.ofNat 64 (wa3.peekN wat.key 8) ≠ wat.val)
      ∧ ((wa3.core.ownsAll wat.key 8 = true ∨ homeOf wat.key = Home.core wa3.id ∧ wa3.readLocal wat.key 8 = true) ∧ wa3.peekN wat.key 8 = wa3.peekN wat.key 8 ∨ (wa3.core.ownsAll wat.key 8 = false ∧ homeOf wat.key ≠ Home.core wa3.id ∧ wa3.readOk wat.key 8 = true) ∧ wa3.peekN wat.key 8 = wa3.homeN wat.key 8))
    ∧ ((wat.timeout ≠ 0)
      ∧ (BitVec.toNat wat.timeout ≤ wa3.cy - wat.t0))
    ∧ ((wa4.cx.watch = some watH)
      ∧ (wa4.cx.st = Run.waiting Wait.watch)
      ∧ (wa4.cx.reply = none)
      ∧ (wa4.check AccKind.load (bits wa4.cx.memdef 7 6) watH.va 8 = Chk.ok watH.key)
      ∧ (wa4.gate 3 4 = true)
      ∧ (wa4.poisoned watH.key 8 = false)
      ∧ (watH.hit = false ∨ BitVec.ofNat 64 (wa4.peekN watH.key 8) ≠ watH.val)
      ∧ ((wa4.core.ownsAll watH.key 8 = true ∨ homeOf watH.key = Home.core wa4.id ∧ wa4.readLocal watH.key 8 = true) ∧ wa3.peekN wat.key 8 = wa4.peekN watH.key 8 ∨ (wa4.core.ownsAll watH.key 8 = false ∧ homeOf watH.key ≠ Home.core wa4.id ∧ wa4.readOk watH.key 8 = true) ∧ wa3.peekN wat.key 8 = wa4.homeN watH.key 8))
    ∧ (wa5.cx.watch = some watE)
      ∧ (wa5.cx.st = Run.waiting Wait.watch)
      ∧ (wa5.cx.reply = none)
      ∧ (wa5.check AccKind.load (bits wa5.cx.memdef 7 6) watE.va 8 = Chk.ok watE.key)
      ∧ (wa5.gate 3 4 = true)
      ∧ (wa5.poisoned watE.key 8 = false)
      ∧ (watE.timeout ≠ 0)
      ∧ (BitVec.toNat watE.timeout ≤ wa5.cy - watE.t0)
      ∧ ((wa5.core.ownsAll watE.key 8 = true ∨ homeOf watE.key = Home.core wa5.id ∧ wa5.readLocal watE.key 8 = true) ∧ 144 = wa5.peekN watE.key 8 ∨ (wa5.core.ownsAll watE.key 8 = false ∧ homeOf watE.key ≠ Home.core wa5.id ∧ wa5.readOk watE.key 8 = true) ∧ 144 = wa5.homeN watE.key 8) := by
  repeat' first
    | with_reducible apply And.intro
    | decide +kernel
theorem witness_DrainSendsABufferedWrite :
    (fen2.core.entry 0 = some { id := 0, src := Src.ctx 0 0, dest := Home.core 1, cls := Cls.w, user := true, ord := 2, scope := 4, va := 0, body := Body.store (sramKey 1 20480) 8 0, chk := false })
    ∧ (fen2.drainable fen2.id { id := 0, src := Src.ctx 0 0, dest := Home.core 1, cls := Cls.w, user := true, ord := 2, scope := 4, va := 0, body := Body.store (sramKey 1 20480) 8 0, chk := false } = true)
    ∧ ((Entry.mk 0 (Src.ctx 0 0) (Home.core 1) Cls.w true 2 4 0 (Body.store (sramKey 1 20480) 8 0) false).dest.isPeer = false)
    ∧ (∀ (f : Flit), (Entry.mk 0 (Src.ctx 0 0) (Home.core 1) Cls.w true 2 4 0 (Body.store (sramKey 1 20480) 8 0) false).body ≠ Body.flit f) := by
  repeat' first
    | with_reducible apply And.intro
    | decide +kernel
    | exact nofun
theorem witness_ApplyWritesExactlyItsBytes :
    ((ap1.msg 3 = some ms1)
      ∧ (ap1.atHead ms1 = true)
      ∧ (ap1.released ms1 = true)
      ∧ (ms1.body = Body.store (sramKey 0 20488) 4 659994430685)
      ∧ ((ap1.dropMsg 3).dropCode ms1 (sramKey 0 20488) 4 = none))
    ∧ ((ap2.msg 3 = some ms2)
      ∧ (ap2.atHead ms2 = true)
      ∧ (ap2.released ms2 = true)
      ∧ (ms2.body = Body.amo AmoOp.add (sramKey 0 20488) 8 659994430685 0 [] false false)
      ∧ ((ap2.dropMsg 3).dropCode ms2 (sramKey 0 20488) 8 = none)
      ∧ (¬sramKey 0 20488 / 8 ∈ ap2.poison))
    ∧ ((ap3.msg 3 = some ms3)
      ∧ (ap3.atHead ms3 = true)
      ∧ (ap3.released ms3 = true)
      ∧ (ms3.body = Body.deps (2 ^ 53 + 64))
      ∧ (bits (ap3.nodeWord (2 ^ 53 + 64) 0) 43 20 ≠ 1))
    ∧ (apb.msg 3 = some msb)
      ∧ (apb.atHead msb = true)
      ∧ (apb.released msb = true)
      ∧ (msb.body = Body.bits (sramKey 0 20488) 4 2578103244 65295)
      ∧ ((apb.dropMsg 3).dropCode msb (sramKey 0 20488) 4 = none) := by
  repeat' first
    | with_reducible apply And.intro
    | decide +kernel
theorem witness_WaitingLoadsAreServed :
    ((ld1.cx.await = some (aw (el (sramKey 1 20488) ElState.asked)))
      ∧ ((aw (el (sramKey 1 20488) ElState.asked)).fin = Finish.load 6 4 true)
      ∧ (ld1.cx.st = Run.waiting Wait.reply)
      ∧ ((aw (el (sramKey 1 20488) ElState.asked)).due ≤ ld1.cy)
      ∧ ((aw (el (sramKey 1 20488) ElState.asked)).els = [{ key := sramKey 1 20488, va := 4222124650680328, size := 4, st := ElState.asked }])
      ∧ (ld1.core.ownsAll (sramKey 1 20488) 4 = true))
    ∧ ((ld2.cx.await = some (aw (el (sramKey 1 20488) ElState.asked)))
      ∧ (ld2.cx.st = Run.waiting Wait.reply)
      ∧ ((aw (el (sramKey 1 20488) ElState.asked)).due ≤ ld2.cy)
      ∧ (ld2.readOk (sramKey 1 20488) 4 = true))
    ∧ (ld4.cx.await = some (aw (el (sramKey 1 20488) (ElState.served 2147483649 [] [] false))))
      ∧ ((aw (el (sramKey 1 20488) (ElState.served 2147483649 [] [] false))).fin = Finish.load 6 4 true)
      ∧ (ld4.cx.st = Run.waiting Wait.reply)
      ∧ ((aw (el (sramKey 1 20488) (ElState.served 2147483649 [] [] false))).due ≤ ld4.cy)
      ∧ ((aw (el (sramKey 1 20488) (ElState.served 2147483649 [] [] false))).els = [{ key := sramKey 1 20488, va := 4222124650680328, size := 4, st := ElState.served 2147483649 [] [] false }]) := by decide +kernel
theorem witness_WaitingVectorLoadsHit :
    (ld3.cx.await = some (awv (el 3145736 ElState.asked)))
    ∧ ((awv (el 3145736 ElState.asked)).fin = Finish.vload 6 4 false)
    ∧ (ld3.cx.st = Run.waiting Wait.reply)
    ∧ ((awv (el 3145736 ElState.asked)).due ≤ ld3.cy)
    ∧ ((awv (el 3145736 ElState.asked)).els = [{ key := 3145736, va := 4222124650680328, size := 4, st := ElState.asked }])
    ∧ (ld3.hit? (awv (el 3145736 ElState.asked)).ord (awv (el 3145736 ElState.asked)).cache 3145736 4 = some (202050057, false)) := by decide +kernel
theorem witness_EvictBroadcastAndWriteback :
    ((wbv.cx.pend = [{ dest := Dest.v 6, vals := [8, 9], due := 10000 }])
      ∧ (10000 ≤ wbv.cy))
    ∧ ((wbt.cx.pend = [{ dest := Dest.tid 4, vals := [133], due := 10000 }])
      ∧ (10000 ≤ wbt.cy)
      ∧ (Table.find wbt.cx.tid 4 = some (7, 0, 0, 0)))
    ∧ (wb.cx.pend = [{ dest := Dest.g 6, vals := [8], due := 10000 }])
    ∧ (wb'.cx.pend = [{ dest := Dest.g 6, vals := [8], due := 10001 }]) := by decide +kernel

/-! ## Fabric operations, barriers -/

def tk (l : List Ticket) : State := cxd (l1.setG 7 3) fun c => { c with tickets := l }
def ticket (n : Nat) (a : Option Word) : Ticket := ⟨n, 9990, true, false, none, sramKey 1 0x5000, coordAddr 0 0 1 0x5000, a, 0⟩
def tkFull : State := tk ((List.range 64).map fun n => ticket n none)
def tk3 : State := tk [ticket 2 none, ticket 3 (some 77)]
def tk4 : State := tk [ticket 2 none, ticket 3 none]
def peF : State := { based.setG 5 0xF804000000040 with vifs := [(0, { vif4 with peers := [(1, 5, 20)] })] }
def fm : State := { (based.setG 5 0xF800000000040).setG 6 3 with vifs := [(0, { vif4 with groups := [(3, [0, 1])] })] }
def ff : State := cxd (based.setG 5 (coordAddr 0 0 1 0x5000)) fun c => { c with failedPeers := [5, 5, 7] }
def br (f : Bar → Bar) (a : Bool) : State := cxd (based.setG 5 0x10101) fun c => { c with breg := c.breg.set 1 1, bars := c.bars.set 1 (f Bar.clear), arrived := a }
def br0 : State := br id false
def br1 : State := br (fun b => { b with pend := true }) true
def br2 : State := br (fun b => { b with reld := true }) true
def br3 : State := br (fun b => { b with owed := true, tmo := true }) false
def bs1 : State := br (fun b => { b with pend := true, t0 := 9000 }) false
def epi (a : List (Nat × Nat × Word)) (c : Bool) : Episode := ⟨1, 0, 0, 0, bs1.cx.barRect 1, a, [], c, [], []⟩
def bs0 : State := cxd (bs1.focus 1 0) fun c => { c with st := .ready, pc := 0x800, breg := c.breg.set 1 (rectW 1 0 0 2 2), bars := c.bars.set 1 { Bar.clear with pend := true, t0 := 9000 } }
def bs2 : State := { bs1 with episodes := [epi [(0, 0, 0)] false] }
def bs3 : State := { cxd bs1 (fun c => { c with st := .waiting .barrier, want := 33 }) with episodes := [epi [(0, 0, 0)] true] }
def bs4 : State := { br (fun b => { b with pend := true, leaving := true }) false with episodes := [epi [(0, 0, 0)] false] }
def bs5 : State := cxd bs1 fun c => { c with btimeout := 1000 }

theorem witness_HintsAndHalt :
    (j2.core.k ≠ 0 ∨ j2.cx.inPhlx = true ∨ j2.core.node.isSome = true ∨ (∃ k, 1 ≤ k ∧ k ≤ 10 ∧ (j2.cxAt j2.id k).st ≠ Run.free) ∨ j2.cx.barPending = true)
    ∧ (j1.core.k ≠ 0 ∨ j1.cx.inPhlx = true ∨ j1.core.node.isSome = true ∨ (∃ k, 1 ≤ k ∧ k ≤ 10 ∧ (j1.cxAt j1.id k).st ≠ Run.free) ∨ j1.cx.barPending = true)
    ∧ (n0.core.k = 0)
      ∧ (n0.cx.inPhlx = false)
      ∧ (n0.core.node = none)
      ∧ (∀ (k : Nat), 1 ≤ k → k ≤ 10 → (n0.cxAt n0.id k).st = Run.free)
      ∧ (n0.cx.barPending = false)
      ∧ (n0.checked = true)
      ∧ (n0.performed 4 = true)
      ∧ (n0.core.heldSlotRead 0 = false)
      ∧ (bit n0.cx.errpend 0 = false) := by
  repeat' first
    | with_reducible apply And.intro
    | decide +kernel
    | exact .inl (by decide +kernel)
    | exact .inr (.inr (.inr (.inl ⟨3, by decide, by decide, by decide +kernel⟩)))
    | exact oneTo (by decide +kernel)
theorem witness_RemoteLoadsUseTickets :
    ((l1.cx.freeTicket = some 0)
      ∧ (regionOf (addressX l1 5 8) = Region.main ∨ regionOf (addressX l1 5 8) = Region.coord)
      ∧ (l1.check AccKind.load (bits l1.cx.memdef 7 6) (addressX l1 5 8) 8 = Chk.ok (sramKey 1 20488))
      ∧ ((homeOf (sramKey 1 20488)).isPeer = false)
      ∧ (l1.gate 1 4 = true))
    ∧ ((tkFull.cx.freeTicket = none)
      ∧ (regionOf (addressX tkFull 5 8) = Region.main ∨ regionOf (addressX tkFull 5 8) = Region.coord)
      ∧ (tkFull.check AccKind.load (bits tkFull.cx.memdef 7 6) (addressX tkFull 5 8) 8 = Chk.ok (sramKey 1 20488)))
    ∧ ((List.find? (fun t => t.num == BitVec.toNat (tk3.g 7)) tk3.cx.tickets = some (ticket 3 (some 77)))
      ∧ ((ticket 3 (some 77)).answer = some 77))
    ∧ ((List.find? (fun t => t.num == BitVec.toNat (tk4.g 7)) tk4.cx.tickets = some (ticket 3 none))
      ∧ ((ticket 3 none).answer = none))
    ∧ (List.find? (fun t => t.num == BitVec.toNat (l1.g 7)) l1.cx.tickets = none)
    ∧ (peF.cx.freeTicket = some 0)
      ∧ (regionOf (addressX peF 5 8) = Region.peer)
      ∧ (bits peF.cx.memdef 7 6 = 0)
      ∧ (BitVec.toNat (addressX peF 5 8) % 8 = 0)
      ∧ (peF.peerOk (peerOf (addressX peF 5 8)) = true)
      ∧ (peF.gate 1 4 = true)
      ∧ (peF.peerOpen (peerOf (addressX peF 5 8)) (addressX peF 5 8) = false)
      ∧ (peF.injectFull 1 = false)
      ∧ (peF.recvFull 1 = false) := by
  repeat' first
    | with_reducible apply And.intro
    | decide +kernel
theorem witness_RemoteStoresCompleteAtIssue :
    ((regionOf (addressX peF 5 8) = Region.peer)
      ∧ (bits peF.cx.memdef 7 6 = 0)
      ∧ (BitVec.toNat (addressX peF 5 8) % 8 = 0)
      ∧ (peF.peerOk (peerOf (addressX peF 5 8)) = true)
      ∧ (peF.core.node = none)
      ∧ (peF.matching (Home.peer (peerOf (addressX peF 5 8))) = [])
      ∧ (peF.injectFull 1 = false)
      ∧ (peF.gate (if true = true then 4 else 1) (if true = true then 5 else 4) = true)
      ∧ (true = true → peF.performed 5 = true))
    ∧ (peF.gate 1 4 = true)
    ∧ ((regionOf (addressX l1 5 8) = Region.main ∨ regionOf (addressX l1 5 8) = Region.coord)
      ∧ (l1.check AccKind.store (bits l1.cx.memdef 7 6) (addressX l1 5 8) 8 = Chk.ok (sramKey 1 20488))
      ∧ ((homeOf (sramKey 1 20488)).isPeer = false)
      ∧ (l1.core.node = none)
      ∧ (l1.matching (homeOf (sramKey 1 20488)) = [])
      ∧ (l1.gate (if true = true then 4 else 1) (if true = true then 5 else 4) = true)
      ∧ (true = true → l1.performed 5 = true))
    ∧ ((l1.gate (if false = true then 4 else 1) (if false = true then 5 else 4) = true)
      ∧ (false = true → l1.performed 5 = true))
    ∧ ((regionOf (addressX l1 5 12) = Region.main ∨ regionOf (addressX l1 5 12) = Region.coord)
      ∧ (l1.check AccKind.amo (bits l1.cx.memdef 7 6) (addressX l1 5 12) (if FamoOp.fadd = FamoOp.fadd then 4 else 8) = Chk.ok (sramKey 1 20492))
      ∧ ((homeOf (sramKey 1 20492)).isPeer = false)
      ∧ (l1.matching (homeOf (sramKey 1 20492)) = [])
      ∧ (l1.gate 1 4 = true))
    ∧ (l1.check AccKind.amo (bits l1.cx.memdef 7 6) (addressX l1 5 8) (if FamoOp.max = FamoOp.fadd then 4 else 8) = Chk.ok (sramKey 1 20488))
    ∧ (regionOf (addressX l0 5 8) = Region.loc) := by
  repeat' first
    | with_reducible apply And.intro
    | decide +kernel
theorem witness_MulticastAndFabricFence :
    ((fm.core.node = none)
      ∧ (BitVec.toNat (fm.g 6) < 512)
      ∧ (Table.find fm.myVif.groups (BitVec.toNat (fm.g 6)) = some [0, 1])
      ∧ ([0, 1] ≠ [])
      ∧ (regionOf (addressX fm 5 8) = Region.peer)
      ∧ (bits fm.cx.memdef 7 6 = 0)
      ∧ (BitVec.toNat (addressX fm 5 8) % 8 = 0)
      ∧ (peerOf (addressX fm 5 8) = 0)
      ∧ (fm.cx.freeTicket = some 0)
      ∧ (fm.gate 1 4 = true)
      ∧ (fm.injectFull 1 = false)
      ∧ (fm.recvFull 1 = false)
      ∧ (([0, 1].all fun m => (fm.matching (Home.peer m)).isEmpty) = true))
    ∧ (effOf AccKind.store none ff.cx.memdef = some { ord := 2, scope := 4, space := 0, cache := 1, chk := false })
      ∧ (regionOf (addressX ff 5 64) = Region.coord ∨ regionOf (addressX ff 5 64) = Region.loc)
      ∧ (ff.check AccKind.store (Eff.mk 2 4 0 1 false).space (addressX ff 5 64) 64 = Chk.ok (sramKey 1 20544))
      ∧ (ff.gate (Eff.mk 2 4 0 1 false).ord (Eff.mk 2 4 0 1 false).scope = true)
      ∧ (ff.core.node = none)
      ∧ (ff.peersOpen = false)
      ∧ (ff.cx.failedPeers ≠ []) := by decide +kernel
theorem witness_BarrierInstructions :
    (br0.crTrap ((28 : Nat) + BitVec.toNat (1 : BitVec (2 : Nat))) br0.cx.breg[bregIdx (1 : BitVec (2 : Nat))] (br0.g (0 : GReg)) = none)
    ∧ (((br0.cx.bar (BitVec.toNat (1 : BitVec (2 : Nat)))).owed = false)
      ∧ ((br0.cx.bar (BitVec.toNat (1 : BitVec (2 : Nat)))).pend = false)
      ∧ (bit br0.cx.breg[bregIdx 1] 0 = true))
    ∧ (br0.cx.arrived = false)
    ∧ (((br1.cx.bar (BitVec.toNat (1 : BitVec (2 : Nat)))).owed = false)
      ∧ ((br1.cx.bar (BitVec.toNat (1 : BitVec (2 : Nat)))).pend = true ∨ bit br1.cx.breg[bregIdx (1 : BitVec (2 : Nat))] (0 : Nat) = false))
    ∧ (((br0.cx.bar (BitVec.toNat (2 : BitVec (2 : Nat)))).owed = false)
      ∧ ((br0.cx.bar (BitVec.toNat (2 : BitVec (2 : Nat)))).pend = true ∨ bit br0.cx.breg[bregIdx (2 : BitVec (2 : Nat))] (0 : Nat) = false))
    ∧ (((br2.cx.bar (BitVec.toNat (1 : BitVec (2 : Nat)))).owed = false)
      ∧ ((br2.cx.bar (BitVec.toNat (1 : BitVec (2 : Nat)))).reld = true))
    ∧ (br2.cx.arrived = true)
    ∧ (((br1.cx.bar (BitVec.toNat (1 : BitVec (2 : Nat)))).reld = false)
      ∧ ((br1.cx.bar (BitVec.toNat (1 : BitVec (2 : Nat)))).pend = true))
    ∧ ((br0.cx.bar (BitVec.toNat (1 : BitVec (2 : Nat)))).reld = false) := by decide +kernel
theorem witness_OwedBarrierTimeoutIsTaken :
    ((br3.cx.bar (BitVec.toNat (1 : BitVec (2 : Nat)))).owed = true)
    ∧ (br3.cx.super = false)
    ∧ (br3.cx.inPhlx = false) := by decide +kernel
theorem witness_BarrierSteps :
    ((1 < 6)
      ∧ ((bs1.cx.bar 1).pend = true)
      ∧ ((bs1.cx.bar 1).sent = false)
      ∧ ((bs1.performedTo 3 fun m => decide (m < (bs1.cx.bar 1).from_)) = true)
      ∧ (bs1.heldAt bs1.id 1 (bs1.cx.barRect 1) = none))
    ∧ (((bs0.cx.bar 1).pend = true)
      ∧ ((bs0.cx.bar 1).sent = false)
      ∧ ((bs0.performedTo 3 fun m => decide (m < (bs0.cx.bar 1).from_)) = true)
      ∧ (bs0.heldAt bs0.id 1 (bs0.cx.barRect 1) = some 0)
      ∧ ((bs0.coreAt 0).signals.length < 64)
      ∧ (0 ≠ bs0.id))
    ∧ ((bs2.episodes[0]? = some (epi [(0, 0, 0)] false))
      ∧ ((epi [(0, 0, 0)] false).committed = false)
      ∧ (bs2.complete (epi [(0, 0, 0)] false) = true))
    ∧ ((bs3.episodes[0]? = some (epi [(0, 0, 0)] true))
      ∧ ((epi [(0, 0, 0)] true).committed = true)
      ∧ ((epi [(0, 0, 0)] true).released = [])
      ∧ ((epi [(0, 0, 0)] true).arrived = [(bs3.id, bs3.core.k, 0)])
      ∧ ((epi [(0, 0, 0)] true).k < 4)
      ∧ (bs3.cx.st = Run.waiting Wait.barrier)
      ∧ (bs3.cx.want = 32 + (epi [(0, 0, 0)] true).k))
    ∧ (((bs5.cx.bar 1).pend = true)
      ∧ ((bs5.cx.bar 1).leaving = false)
      ∧ (bs5.suspended bs5.id = false)
      ∧ (bs5.cx.barrierLimit ≤ bs5.cy - (bs5.cx.bar 1).t0)
      ∧ (bs5.inEpisode bs5.id bs5.core.k 1 = false))
    ∧ (bs4.episodes[0]? = some (epi [(0, 0, 0)] false))
      ∧ ((epi [(0, 0, 0)] false).k < 6)
      ∧ ((epi [(0, 0, 0)] false).arrived = [(bs4.id, bs4.core.k, 0)])
      ∧ ((bs4.cx.bar (epi [(0, 0, 0)] false).k).leaving = true) := by
  repeat' first
    | with_reducible apply And.intro
    | decide +kernel

/-! ## Phases, phalanxes, transfers, work queues, nodes, lanes -/

def dom (ph : Nat) : Domain := ⟨0, 0, rectW 2 0 0 2 2, ph, 9990, 3, 0, [], [(0, 1, 77)], [], []⟩
def inDom (ph : Nat) (a : Bool) : State := { cxd (based.setG 5 66) fun c => { c with domain := rectW 2 0 0 2 2, arrived := a } with domains := [dom ph] }
def d0 : State := inDom 0 false
def d0a : State := inDom 0 true
def d2 : State := inDom 2 false
def p0 : State := based.setG 5 (rectW 0 0 0 2 2)
def p1 : State := cxd p0 fun c => { c with arrived := true }
def phx : Phalanx := ⟨0, 0, 0, ⟨0, 0, 2, 2⟩, 2, 0, 0, [], [0, 1]⟩
def p2 : State := { cxd p0 fun c => { c with status := 0x10 } with phalanxes := [phx] }
def p3 : State := { cxd p0 fun c => { c with status := 0x30 } with phalanxes := [phx] }
def d2s : State := cxd d2 fun c => { c with slotmask := 0xFFFFFFFF }
def d3 : State := cxd d2 fun c => { c with arms := [(1, 10, some 5)] }
def d4 : State := cxd d2 fun c => { c with selArm := some (1, 10, 6) }
def domi : Domain := { dom 2 with issued := [0] }
def d4i : State := { d4 with domains := [domi] }
def k0 : Nat := sliceKey 0 64
def recAt (m : List Host.Cell) (st deps : Nat) : List Host.Cell := Memory.putN m k0 8 (st + deps * 2 ^ 20)
def wq (c : Bool) (items : List Nat) (w : List (Nat × Nat)) : State := { based.setG 5 0 with wqueues := [(0, ⟨c, items, w⟩)], mem := recAt [] 1 0, nodes := [(k0, ⟨none, false, false⟩)] }
def wq1 : State := wq false [k0] []
def wq2 : State := wq true [] []
def wq3 : State := wq false [] []
def wq4 : State := wq1.setG 5 1
def wq5 : State := wq1.setG 5 4096
def ww : State := cxd (wq false [k0] [(0, 0)]) fun c => { c with st := .waiting .work, want := 64 }
def push (deps : Nat) : State := { (wq false [8] []).setG 5 (coordAddr 0 127 0 64) with mem := Memory.putN [] (sliceKey 80 64) 8 (deps * 2^20) }
def push0 : State := push 0
def push3 : State := push 3
def pushM : State := push0.setG 5 (coordAddr 0 127 0 72)
def pushL : State := push0.setG 5 0xF000000004000
def nodeIn (s : State) : State := cored (s.setG 5 (coordAddr 0 126 0 64)) fun c => { c with node := some (k0, false) }
def wc : State := wq1.setG 5 0
def nd1 : State := { nodeIn (wq false [] []) with mem := recAt [] 2 0 }
def wcn : State := nd1.setG 5 0
def pushN : State := cored push3 fun c => { c with node := some (k0, false) }
def pmP : Msg := ⟨3, .ctx 0 0, .slice 80, .w, 0, true, [(0, 1)], [], 4, coordAddr 0 127 0 64, .push (sliceKey 80 64) 0, false, [], 9990, .home⟩
def pa0 : State := { push0 with flight := [pmP], dieN := [1] }
def pa3 : State := { push3 with flight := [pmP], dieN := [1] }
def stg : Staged := ⟨0, ⟨0, .node 0, .core 1, .w, true, 2, 4, 0, .store (sramKey 1 0x5000) 8 0, false⟩, 1⟩
def nd2 : State := cored nd1 fun c => { c with staging := [stg] }
def nd3 : State := cxd nd1 fun c => { c with asked := true }
def nd4 : State := cored nd3 fun c => { c with staging := [stg] }
def nd5 : State := cored nd4 fun c => { c with sbuf := [⟨0, .ctx 0 0, .core 1, .w, true, 2, 4, 0, .store (sramKey 1 0x5000) 8 0, false⟩] }
def stgm : Staged := ⟨0, ⟨0, .node 0, .die 0, .w, true, 2, 4, 0x200008, .store 0x300008 8 0, false⟩, 1⟩
def nd6 : State := cored nd3 fun c => { c with staging := [stgm], tlb := [⟨0, 0, 20, 2, 5, true, true, true⟩] }
def nd7 : State := cored nd4 fun c => { c with nodeErr := some (0x11, 2, 2, 0x55) }
def v0 (a : Word) : State := cored (based.setG 5 a) fun c => { c with holder := some 0, lanes := 16, vsetl := 16 }
def v1 : State := v0 0x2020
def v2 : State := { v0 0x2020 with others := [(1, { inTray with lanes := 104, holder := some 0 }, Context.reset 0)] }
def v3 : State := cored (v0 0x2020) fun c => { c with holder := some 2 }
def v4 : State := v0 0x2024
def v5 : State := (v0 200).setG 6 8
def v6 : State := (v0 200).setG 6 0
def v7 : State := (v0 200).setG 6 24
def v8 (l : List (Nat × Core × Context)) : State := { cored (based.setG 5 0x1010) fun c => { c with claim := some (16, 16), claimAt := 5000, claimSeq := 9 } with others := l }
def v9 : State := v8 [(1, { inTray with lanes := 112, holder := some 0 }, Context.reset 0), (2, { inTray with claim := some (64, 64), claimSeq := 3, reserved := 8 }, Context.reset 0)]
def v10 : State := v8 [(1, { inTray with lanes := 120, holder := some 0, recallAt := some 9900 }, Context.reset 0)]
def rt : State := cored v2 fun c => { c with lanes := 24, recallAt := some 5904 }
def rl : State := cored v2 fun c => { c with claim := some (32, 32), reserved := 16, reservedAt := some 1808 }
def push1 : State := { push0 with mem := Memory.putN [] (sliceKey 80 104) 8 1 }

theorem witness_PhaseAndPhalanxInstructions :
    ((2 ≤ bits d0.cx.domain 2 0)
      ∧ ((d0.cx.bar 4).owed = false)
      ∧ (d0.cx.arrived = false)
      ∧ (phaseStep d0.phase (BitVec.toNat (1 : BitVec (2 : Nat))) = true)
      ∧ (d0.phase = 2 → d0.armedLater = false))
    ∧ ((2 ≤ bits d2.cx.domain 2 0)
      ∧ ((d2.cx.bar 4).owed = false)
      ∧ (d2.cx.arrived = false)
      ∧ (phaseStep d2.phase (BitVec.toNat (1 : BitVec (2 : Nat))) = true)
      ∧ (d2.phase = 2 → d2.armedLater = false))
    ∧ ((2 ≤ bits d0a.cx.domain 2 0)
      ∧ ((d0a.cx.bar 4).owed = false)
      ∧ (d0a.cx.arrived = true)
      ∧ ((d0a.cx.bar 4).pend = false))
    ∧ (bits base.cx.domain 2 0 < 2)
    ∧ (phaseStep d0.phase (BitVec.toNat (2 : BitVec (2 : Nat))) = false)
    ∧ (phaseStep d2.phase (BitVec.toNat (0 : BitVec (2 : Nat))) = false)
    ∧ ((p0.core.k = 0)
      ∧ ((p0.cx.bar 5).owed = false)
      ∧ (p0.cx.arrived = false)
      ∧ (p0.cx.inPhlx = false)
      ∧ (p0.phlxOk (p0.g 5) = true)
      ∧ (∀ (k : Nat), 1 ≤ k → k ≤ 10 → (p0.cxAt p0.id k).st = Run.free))
    ∧ (((p1.cx.bar 5).owed = false)
      ∧ (p1.cx.arrived = true)
      ∧ ((p1.cx.bar 5).pend = false))
    ∧ (p1.cx.inPhlx = false)
    ∧ ((p2.cx.inPhlx = true)
      ∧ (p2.core.k = 0))
    ∧ (p3.cx.inPhlx = true)
      ∧ (p3.core.k = 0) := by
  repeat' first
    | with_reducible apply And.intro
    | decide +kernel
    | exact oneTo (by decide +kernel)
theorem witness_TransferInstructions :
    (d0.transferOk = false)
    ∧ ((d2.transferOk = true)
      ∧ (BitVec.toNat (10 : BitVec (22 : Nat)) < d2.slot ∨ bit d2.cx.slotmask (BitVec.toNat (10 : BitVec (22 : Nat)) % (64 : Nat)) = false))
    ∧ ((d2s.transferOk = true)
      ∧ (BitVec.toNat (9 : BitVec (22 : Nat)) < d2s.slot ∨ bit d2s.cx.slotmask (BitVec.toNat (9 : BitVec (22 : Nat)) % (64 : Nat)) = false))
    ∧ ((d2s.slot ≤ BitVec.toNat (10 : BitVec (22 : Nat)))
      ∧ (bit d2s.cx.slotmask (BitVec.toNat (10 : BitVec (22 : Nat)) % (64 : Nat)) = true)
      ∧ (d2s.neighbour d2s.id (BitVec.toNat (0 : BitVec (2 : Nat))) = none))
    ∧ (((d2s.neighbour d2s.id (BitVec.toNat (1 : BitVec (2 : Nat)))).isSome = true)
      ∧ ((d2s.cx.arms.any fun x => x.fst == BitVec.toNat (1 : BitVec (2 : Nat))) = false))
    ∧ ((d2s.slot ≤ BitVec.toNat (31 : BitVec (22 : Nat)))
      ∧ (bit d2s.cx.slotmask (BitVec.toNat (31 : BitVec (22 : Nat)) % (64 : Nat)) = true)
      ∧ ((d2s.neighbour d2s.id (BitVec.toNat (2 : BitVec (2 : Nat)))).isSome = true)
      ∧ ((d2s.cx.arms.any fun x => x.fst == BitVec.toNat (2 : BitVec (2 : Nat))) = false))
    ∧ (d2s.cx.selArm = none) := by decide +kernel
theorem witness_TransferSteps :
    ((d3.core.k = 0)
      ∧ (d3.halted d3.id = false)
      ∧ (d3.domainOf d3.id d3.cx = some (dom 2))
      ∧ ((dom 2).phase = 2)
      ∧ (d3.cx.arms = [(BitVec.toNat (1 : BitVec (2 : Nat)), (dom (2 : Nat)).slotNow d3.cy, some (5 : Word))])
      ∧ (d3.neighbour d3.id (BitVec.toNat (1 : BitVec (2 : Nat))) = some (1 : Nat)))
    ∧ ((d4i.core.k = 0)
      ∧ (d4i.halted d4i.id = false)
      ∧ (d4i.domainOf d4i.id d4i.cx = some domi)
      ∧ (domi.phase = 2)
      ∧ (d4i.cx.arms = [])
      ∧ (d4i.cx.selArm = some (1, domi.slotNow d4i.cy, 6))
      ∧ (domi.issued.contains d4i.id = true))
    ∧ (d4.core.k = 0)
      ∧ (d4.halted d4.id = false)
      ∧ (d4.domainOf d4.id d4.cx = some (dom 2))
      ∧ ((dom 2).issued.contains d4.id = false) := by decide +kernel
theorem witness_WorkQueuePops :
    ((wq4.cx.popped = none)
      ∧ (¬BitVec.toNat (wq4.g 5) < 4096 ∨ wq4.myVif.wqs.contains (BitVec.toNat (wq4.g 5)) = false ∨ wq4.core.node.isSome = true))
    ∧ ((wq5.cx.popped = none)
      ∧ (¬BitVec.toNat (wq5.g 5) < 4096 ∨ wq5.myVif.wqs.contains (BitVec.toNat (wq5.g 5)) = false ∨ wq5.core.node.isSome = true))
    ∧ ((wq1.cx.popped = none)
      ∧ (BitVec.toNat (wq1.g 5) < 4096)
      ∧ (wq1.myVif.wqs.contains (BitVec.toNat (wq1.g 5)) = true)
      ∧ (wq1.core.node = none)
      ∧ (wq1.gate 3 4 = true)
      ∧ ((wq1.wqueue (BitVec.toNat (wq1.g 5))).items = [k0])
      ∧ (List.filter (fun x => x != (wq1.id, wq1.core.k)) (wq1.waitersOf (BitVec.toNat (wq1.g 5))) = []))
    ∧ ((wq2.cx.popped = none)
      ∧ (BitVec.toNat (wq2.g 5) < 4096)
      ∧ (wq2.myVif.wqs.contains (BitVec.toNat (wq2.g 5)) = true)
      ∧ (wq2.core.node = none)
      ∧ (wq2.gate 3 4 = true)
      ∧ ((wq2.wqueue (BitVec.toNat (wq2.g 5))).items = [])
      ∧ (wq2.drained (BitVec.toNat (wq2.g 5)) = true))
    ∧ ((wq3.cx.popped = none)
      ∧ (BitVec.toNat (wq3.g 5) < 4096)
      ∧ (wq3.myVif.wqs.contains (BitVec.toNat (wq3.g 5)) = true)
      ∧ (wq3.core.node = none)
      ∧ (wq3.gate 3 4 = true)
      ∧ ((wq3.wqueue (BitVec.toNat (wq3.g 5))).items = [] ∨ List.filter (fun x => x != (wq3.id, wq3.core.k)) (wq3.waitersOf (BitVec.toNat (wq3.g 5))) ≠ [])
      ∧ (wq3.drained (BitVec.toNat (wq3.g 5)) = false)
      ∧ (true = true))
    ∧ (false = false)
      ∧ (wq3.cx.st ≠ Run.waiting Wait.work) := by
  repeat' first
    | with_reducible apply And.intro
    | decide +kernel
theorem witness_WorkQueueWake :
    ((ww.wqueue 0).items = [k0])
    ∧ (ww.waitersOf 0 = [(ww.id, ww.core.k)])
    ∧ (ww.core.node = none) := by decide +kernel
theorem witness_WorkQueuePushes :
    (BitVec.toNat (pushM.g 5) % 64 ≠ 0)
    ∧ ((BitVec.toNat (pushL.g 5) % 64 = 0)
      ∧ (regionOf (pushL.g 5) = Region.loc))
    ∧ ((BitVec.toNat (push0.g 5) % 64 = 0)
      ∧ (regionOf (push0.g 5) = Region.coord)
      ∧ (126 ≤ coordRow (push0.g 5))
      ∧ (push0.coordKey (push0.g 5) = some (sliceKey 80 64)))
    ∧ ((BitVec.toNat (push3.g 5) % 64 = 0)
      ∧ (regionOf (push3.g 5) = Region.coord)
      ∧ (126 ≤ coordRow (push3.g 5))
      ∧ (push3.coordKey (push3.g 5) = some (sliceKey 80 64)))
    ∧ ((wc.myVif.wqs.contains (BitVec.toNat (wc.g 5) % 4096) = true)
      ∧ ((wc.wqueue (BitVec.toNat (wc.g 5) % 4096)).closed = false)
      ∧ (wc.core.node = none))
    ∧ ((wcn.myVif.wqs.contains (BitVec.toNat (wcn.g 5) % 4096) = true)
      ∧ ((wcn.wqueue (BitVec.toNat (wcn.g 5) % 4096)).closed = false)
      ∧ (wcn.core.node.isSome = true))
    ∧ ((pa0.msg 3 = some pmP)
      ∧ (pa0.atHead pmP = true)
      ∧ (pa0.released pmP = true)
      ∧ (pmP.body = Body.push (sliceKey 80 64) 0))
    ∧ ((pa3.msg 3 = some pmP)
      ∧ (pa3.atHead pmP = true)
      ∧ (pa3.released pmP = true))
    ∧ ((push0.core.node = none)
      ∧ (push0.gate 4 4 = true)
      ∧ (push0.pushable (sliceKey 80 64) = true))
    ∧ ((BitVec.toNat (push1.g 5) % 64 = 0)
      ∧ (regionOf (push1.g 5) = Region.coord)
      ∧ (126 ≤ coordRow (push1.g 5))
      ∧ (push1.coordKey (push1.g 5) = some (sliceKey 80 64))
      ∧ (push1.core.node = none)
      ∧ (push1.gate 4 4 = true)
      ∧ (push1.pushable (sliceKey 80 64) = false))
    ∧ (BitVec.toNat (pushN.g 5) % 64 = 0)
      ∧ (regionOf (pushN.g 5) = Region.coord)
      ∧ (126 ≤ coordRow (pushN.g 5))
      ∧ (pushN.coordKey (pushN.g 5) = some (sliceKey 80 64))
      ∧ (pushN.core.node.isSome = true)
      ∧ (pushN.pushable (sliceKey 80 64) = true) := by
  repeat' first
    | with_reducible apply And.intro
    | decide +kernel
theorem witness_NodeEndings :
    (wcn.myNode (wcn.g 5) = none)
    ∧ ((nd2.myNode (nd2.g 5) = some k0)
      ∧ (nd2.cx.asked = false)
      ∧ (nd2.checked = true)
      ∧ (nd2.core.nodeErr = none)
      ∧ (bit nd2.cx.errpend 0 = false))
    ∧ ((nd7.myNode (nd7.g 5) = some k0)
      ∧ (nd7.cx.asked = true)
      ∧ (nd7.core.nodeErr = some (17, 2, 2, 85))
      ∧ (bits (nd7.nodeWord k0 0) 4 3 < 3))
    ∧ ((nd5.myNode (nd5.g 5) = some k0)
      ∧ (nd5.cx.asked = true)
      ∧ (nd5.core.nodeErr = none)
      ∧ (nd5.coreWritesOpen = true))
    ∧ ((nd4.myNode (nd4.g 5) = some k0)
      ∧ (nd4.cx.asked = true)
      ∧ (nd4.core.nodeErr = none)
      ∧ (nd4.coreWritesOpen = false)
      ∧ (nd4.core.staging = [stg])
      ∧ (∀ (d : Nat), stg.e.dest ≠ Home.die d))
    ∧ ((nd6.myNode (nd6.g 5) = some k0)
      ∧ (nd6.cx.asked = true)
      ∧ (nd6.core.nodeErr = none)
      ∧ (nd6.coreWritesOpen = false)
      ∧ (nd6.core.staging = [stgm])
      ∧ (stgm.e.dest = Home.die 0)
      ∧ (nd6.translate (if stgm.e.body.isStore = true then AccKind.store else AccKind.amo) stgm.e.va = Chk.ok 5242888))
    ∧ (nd3.myNode (nd3.g 5) = some k0)
      ∧ (nd3.cx.asked = true)
      ∧ (nd3.core.nodeErr = none)
      ∧ (nd3.core.staging = [])
      ∧ (nd3.coreWritesOpen = false)
      ∧ (nd3.gate 5 4 = true)
      ∧ (nd3.core.pushes = [])
      ∧ (nd3.successors k0 = []) := by
  repeat' first
    | with_reducible apply And.intro
    | decide +kernel
    | exact nofun
theorem witness_LaneInstructions :
    ((claimArgs (v3.g 5) = some (32, 32))
      ∧ (v3.heldByOther = true))
    ∧ ((claimArgs (v4.g 5) = none)
      ∧ (v4.heldByOther = true ∨ v4.core.recallAt = none))
    ∧ ((v1.heldByOther = false)
      ∧ (v1.core.recallAt = none)
      ∧ (claimArgs (v1.g 5) = some (32, 32))
      ∧ (32 ≤ 8 * (min 32 (v1.freeLanes v1.id + v1.core.reserved + v1.core.lanes) / 8)))
    ∧ ((v2.heldByOther = false)
      ∧ (v2.core.recallAt = none)
      ∧ (claimArgs (v2.g 5) = some (32, 32))
      ∧ (8 * (min 32 (v2.freeLanes v2.id + v2.core.reserved + v2.core.lanes) / 8) < 32)
      ∧ (v2.claimDue 32 32 = false)
      ∧ (false = false))
    ∧ ((v5.heldByOther = false)
      ∧ (v5.core.recallAt = none)
      ∧ (BitVec.toNat (v5.g 6) % 256 % 8 = 0)
      ∧ (BitVec.toNat (v5.g 6) % 256 ≤ v5.core.lanes))
    ∧ ((v6.heldByOther = false)
      ∧ (v6.core.recallAt = none)
      ∧ (BitVec.toNat (v6.g 6) % 256 % 8 = 0)
      ∧ (BitVec.toNat (v6.g 6) % 256 ≤ v6.core.lanes))
    ∧ ((v7.heldByOther = false)
      ∧ (v7.core.recallAt = none)
      ∧ (BitVec.toNat (v7.g 6) % 256 % 8 ≠ 0 ∨ v7.core.lanes < BitVec.toNat (v7.g 6) % 256))
    ∧ (true = true)
    ∧ ((v9.heldByOther = false)
      ∧ (v9.core.recallAt = none)
      ∧ (claimArgs (v9.g 5) = some (16, 16))
      ∧ (8 * (min 16 (v9.freeLanes v9.id + v9.core.reserved + v9.core.lanes) / 8) < 16)
      ∧ (v9.claimDue 16 16 = true)
      ∧ (16 ≤ (v9.yieldReserved (16 - v9.lanesAvailable)).claimable 16))
    ∧ (v10.heldByOther = false)
      ∧ (v10.core.recallAt = none)
      ∧ (claimArgs (v10.g 5) = some (16, 16))
      ∧ (8 * (min 16 (v10.freeLanes v10.id + v10.core.reserved + v10.core.lanes) / 8) < 16)
      ∧ (v10.claimDue 16 16 = true)
      ∧ ((v10.yieldReserved (16 - v10.lanesAvailable)).claimable 16 < 16)
      ∧ (v10.recallOpen v10.id = true) := by
  repeat' first
    | with_reducible apply And.intro
    | decide +kernel
theorem witness_LaneTimeouts :
    ((rt.core.recallAt = some 5904)
      ∧ (4096 ≤ rt.cy - 5904)
      ∧ (rt.vectorBusy rt.id = false))
    ∧ (rl.core.reservedAt = some 1808)
      ∧ (8192 ≤ rl.cy - 1808) := by decide +kernel

/-! ## Vector memory and arithmetic -/

def vec0 : State := cored ((based.setG 5 0xF000000005000).setG 6 16) fun c => { c with holder := some 0, lanes := 16, vsetl := 4, v := (c.v.set 1 [0x3F800000, 0xC0400000, 0x7FFFFFFF, 0x80000000]).set 2 [1, 0xFFFFFFFE, 0x80000001, 0x3F000000] |>.set 3 [0, 1, 3, 2] |>.set 4 [0x3C00, 0xBC003C00, 0x7E007BFF, 0x3F803F80] |>.set 5 [0x3F803F80, 0x40004000, 0x7F7F7F7F, 0x00010001], w := c.w.set 2 [1, 0x7FFFFFFFFFFFFFFF, 0x8000000000000000, 0x3FF0000000000000] } 
def vecm : State := { vec0 with mem := [(sramKey 0 0x5000, 0x90), (sramKey 0 0x5004, 0xF1), (sramKey 0 0x5013, 0xF1)] }
def vE : Eff := ⟨2,4,0,1,false⟩
def vecr : State := vecm.setG 5 (coordAddr 0 0 1 0x5000)
def rks (n : Nat) (l : List Nat) : List (Word × Nat × Nat) := l.map fun o => (coordAddr 0 0 1 0x5000 + BitVec.ofNat 64 o, n, sramKey 1 (0x5000 + o))
def vecc : State := cxd vecm fun c => { c with memdef := 0x522 }
def vEc : Eff := ⟨2,4,0,1,true⟩
def vks (l : List Nat) : List (Word × Nat × Nat) := l.map fun o => (0xF000000005000 + BitVec.ofNat 64 o, 2, sramKey 0 (0x5000 + o))
def nolane : State := cored vec0 fun c => { c with lanes := 0, holder := none }
def vecf : State := cxd vec0 fun c => { c with arith := 8 }
def vec1 : State := vec0.setG 6 3
def vecT : State := cxd vec0 fun c => { c with arith := 0x7E0 }
def vecfT : State := cxd vec0 fun c => { c with arith := 0x7E8 }

theorem witness_RoundingModes :
    (0 < 2)
    ∧ (2 * (6 % 2 ^ 2) = 2 ^ 2) := by decide +kernel
theorem witness_VectorMemory :
    ((vecm.noLanes = false)
      ∧ (effOf AccKind.load none vecm.cx.memdef = some vE)
      ∧ (spaceOk vE.space Region.loc = true)
      ∧ (vecm.gate vE.ord vE.scope = true)
      ∧ (ordAcquires vE.ord = false ∨ BitVec.toNat vecm.core.vsetl ≤ 1)
      ∧ (∀ (j : Nat), j < BitVec.toNat vecm.core.vsetl → vecm.ownData (addressX vecm 5 0 + BitVec.ofNat 64 (j * vldBytes VLdWidth.s8)) (vldBytes VLdWidth.s8) ∧ vecm.servedHere (vecm.ownKey (addressX vecm 5 0 + BitVec.ofNat 64 (j * vldBytes VLdWidth.s8))) (vldBytes VLdWidth.s8) ∧ vecm.poisoned (vecm.ownKey (addressX vecm 5 0 + BitVec.ofNat 64 (j * vldBytes VLdWidth.s8))) (vldBytes VLdWidth.s8) = false))
    ∧ (∀ (j : Nat), j < BitVec.toNat vecm.core.vsetl → vecm.ownData (addressX vecm 5 0 + BitVec.ofNat 64 (j * vldBytes VLdWidth.w)) (vldBytes VLdWidth.w) ∧ vecm.servedHere (vecm.ownKey (addressX vecm 5 0 + BitVec.ofNat 64 (j * vldBytes VLdWidth.w))) (vldBytes VLdWidth.w) ∧ vecm.poisoned (vecm.ownKey (addressX vecm 5 0 + BitVec.ofNat 64 (j * vldBytes VLdWidth.w))) (vldBytes VLdWidth.w) = false)
    ∧ (∀ (j : Nat), j < BitVec.toNat vecm.core.vsetl → vecm.ownData (addressX vecm 5 4 + BitVec.ofNat 64 j * vecm.g 6) (vldBytes VLdWidth.s16) ∧ vecm.servedHere (vecm.ownKey (addressX vecm 5 4 + BitVec.ofNat 64 j * vecm.g 6)) (vldBytes VLdWidth.s16) ∧ vecm.poisoned (vecm.ownKey (addressX vecm 5 4 + BitVec.ofNat 64 j * vecm.g 6)) (vldBytes VLdWidth.s16) = false)
    ∧ (∀ (j : Nat), j < BitVec.toNat vecm.core.vsetl → vecm.ownData (addressX vecm 5 4 + BitVec.ofInt 64 (BitVec.toInt (vecm.lane 3 j) * ↑(vldBytes VLdWidth.s16))) (vldBytes VLdWidth.s16) ∧ vecm.servedHere (vecm.ownKey (addressX vecm 5 4 + BitVec.ofInt 64 (BitVec.toInt (vecm.lane 3 j) * ↑(vldBytes VLdWidth.s16)))) (vldBytes VLdWidth.s16) ∧ vecm.poisoned (vecm.ownKey (addressX vecm 5 4 + BitVec.ofInt 64 (BitVec.toInt (vecm.lane 3 j) * ↑(vldBytes VLdWidth.s16)))) (vldBytes VLdWidth.s16) = false)
    ∧ ((vecr.noLanes = false)
      ∧ (effOf AccKind.load none vecr.cx.memdef = some vE)
      ∧ (vecr.gate vE.ord vE.scope = true)
      ∧ (vecr.checkAll AccKind.load vE.space (List.map (fun j => (addressX vecr 5 0 + BitVec.ofNat 64 (j * vldBytes VLdWidth.w), vldBytes VLdWidth.w)) (List.range (BitVec.toNat vecr.core.vsetl))) = Except.ok (rks 4 [0, 4, 8, 12]))
      ∧ (((rks 4 [0, 4, 8, 12]).all fun p => homeOf p.snd.snd == Home.core vecr.id) = false ∨ ordAcquires vE.ord = true ∧ 1 < BitVec.toNat vecr.core.vsetl))
    ∧ ((vecr.checkAll AccKind.load vE.space (List.map (fun j => (addressX vecr 5 4 + BitVec.ofNat 64 j * vecr.g 6, vldBytes VLdWidth.s16)) (List.range (BitVec.toNat vecr.core.vsetl))) = Except.ok (rks 2 [4, 20, 36, 52]))
      ∧ (((rks 2 [4, 20, 36, 52]).all fun p => homeOf p.snd.snd == Home.core vecr.id) = false ∨ ordAcquires vE.ord = true ∧ 1 < BitVec.toNat vecr.core.vsetl))
    ∧ ((vecr.checkAll AccKind.load vE.space (List.map (fun j => (addressX vecr 5 4 + BitVec.ofInt 64 (BitVec.toInt (vecr.lane 3 j) * ↑(vldBytes VLdWidth.s16)), vldBytes VLdWidth.s16)) (List.range (BitVec.toNat vecr.core.vsetl))) = Except.ok (rks 2 [4, 6, 10, 8]))
      ∧ (((rks 2 [4, 6, 10, 8]).all fun p => homeOf p.snd.snd == Home.core vecr.id) = false ∨ ordAcquires vE.ord = true ∧ 1 < BitVec.toNat vecr.core.vsetl))
    ∧ ((effOf AccKind.store none vecm.cx.memdef = some vE)
      ∧ (vecm.core.node = none)
      ∧ (vecm.checkAll AccKind.store vE.space (List.map (fun j => (addressX vecm 5 4 + BitVec.ofNat 64 (j * vstBytes VStWidth.h), vstBytes VStWidth.h)) (List.range (BitVec.toNat vecm.core.vsetl))) = Except.ok (vks [4, 6, 8, 10])))
    ∧ (vecm.checkAll AccKind.store vE.space (List.map (fun j => (addressX vecm 5 4 + BitVec.ofNat 64 j * vecm.g 6, vstBytes VStWidth.h)) (List.range (BitVec.toNat vecm.core.vsetl))) = Except.ok (vks [4, 20, 36, 52]))
    ∧ (vecm.checkAll AccKind.store vE.space (List.map (fun j => (addressX vecm 5 4 + BitVec.ofInt 64 (BitVec.toInt (vecm.lane 3 j) * ↑(vstBytes VStWidth.h)), vstBytes VStWidth.h)) (List.range (BitVec.toNat vecm.core.vsetl))) = Except.ok (vks [4, 6, 10, 8]))
    ∧ (vecc.noLanes = false)
      ∧ (effOf AccKind.store none vecc.cx.memdef = some vEc)
      ∧ (vecc.gate vEc.ord vEc.scope = true)
      ∧ (vecc.core.node = none)
      ∧ (vecc.checkAll AccKind.store vEc.space (List.map (fun j => (addressX vecc 5 4 + BitVec.ofNat 64 (j * vstBytes VStWidth.h), vstBytes VStWidth.h)) (List.range (BitVec.toNat vecc.core.vsetl))) = Except.ok (vks [4, 6, 8, 10])) := by
  repeat' first
    | with_reducible apply And.intro
    | decide +kernel
    | exact ok_of (by decide +kernel)
theorem witness_VectorsNeedLanes :
    ((nolane.noLanes = true)
      ∧ Instr.vfma 1 2 (VSrc.v 1) 3 ∈ have y := have y := have y := [Instr.vsig 1 2, Instr.vidot true true 1 2 3 4, Instr.vdotr 5 2 3 6, Instr.vamax 5 2, Instr.vperm 1 2 3]; Instr.vfmax 1 2 (VSrc.v 1) :: Instr.vrcp 1 2 :: Instr.vrsq 1 2 :: Instr.vexp2 1 2 :: Instr.vlog2 1 2 :: y; have y := Instr.vfadd 1 2 (VSrc.v 1) :: Instr.vfsub 1 2 (VSrc.v 1) :: Instr.vfmul 1 2 (VSrc.v 1) :: Instr.vfma 1 2 (VSrc.v 1) 3 :: Instr.vfmin 1 2 (VSrc.v 1) :: y; Instr.vshl 1 2 (VSrc.v 1) :: Instr.vshr 1 2 (VSrc.v 1) :: Instr.vsra 1 2 (VSrc.v 1) :: Instr.vsel 1 2 3 4 :: y; have y := have y := Instr.vmin true 1 2 (VSrc.v 1) :: Instr.vmax true 1 2 (VSrc.v 1) :: Instr.vand 1 2 (VSrc.v 1) :: Instr.vor 1 2 (VSrc.v 1) :: Instr.vxor 1 2 (VSrc.v 1) :: y; Instr.vadd true true 1 2 (VSrc.v 1) :: Instr.vsub true true 1 2 (VSrc.v 1) :: Instr.vmul 1 2 (VSrc.v 1) :: Instr.vmulh true 1 2 (VSrc.v 1) :: y; have y := Instr.vgath none VLdWidth.w 1 2 5 0 :: Instr.vscat none VStWidth.w 1 2 5 0 :: Instr.vbcast 1 5 :: Instr.vmovg 5 2 6 :: Instr.vmovgSet 1 5 6 :: y; Instr.vld none VLdWidth.w 1 5 0 :: Instr.vst none VStWidth.w 1 5 0 :: Instr.vlds none VLdWidth.w 1 6 5 0 :: Instr.vsts none VStWidth.w 1 6 5 0 :: y)
    ∧ Instr.vmovg 5 2 6 ∈ have y := have y := have y := [Instr.vsig 1 2, Instr.vidot true true 1 2 3 4, Instr.vdotr 5 2 3 6, Instr.vamax 5 2, Instr.vperm 1 2 3]; Instr.vfmax 1 2 (VSrc.v 1) :: Instr.vrcp 1 2 :: Instr.vrsq 1 2 :: Instr.vexp2 1 2 :: Instr.vlog2 1 2 :: y; have y := Instr.vfadd 1 2 (VSrc.v 1) :: Instr.vfsub 1 2 (VSrc.v 1) :: Instr.vfmul 1 2 (VSrc.v 1) :: Instr.vfma 1 2 (VSrc.v 1) 3 :: Instr.vfmin 1 2 (VSrc.v 1) :: y; Instr.vshl 1 2 (VSrc.v 1) :: Instr.vshr 1 2 (VSrc.v 1) :: Instr.vsra 1 2 (VSrc.v 1) :: Instr.vsel 1 2 3 4 :: y; have y := have y := Instr.vmin true 1 2 (VSrc.v 1) :: Instr.vmax true 1 2 (VSrc.v 1) :: Instr.vand 1 2 (VSrc.v 1) :: Instr.vor 1 2 (VSrc.v 1) :: Instr.vxor 1 2 (VSrc.v 1) :: y; Instr.vadd true true 1 2 (VSrc.v 1) :: Instr.vsub true true 1 2 (VSrc.v 1) :: Instr.vmul 1 2 (VSrc.v 1) :: Instr.vmulh true 1 2 (VSrc.v 1) :: y; have y := Instr.vgath none VLdWidth.w 1 2 5 0 :: Instr.vscat none VStWidth.w 1 2 5 0 :: Instr.vbcast 1 5 :: Instr.vmovg 5 2 6 :: Instr.vmovgSet 1 5 6 :: y; Instr.vld none VLdWidth.w 1 5 0 :: Instr.vst none VStWidth.w 1 5 0 :: Instr.vlds none VLdWidth.w 1 6 5 0 :: Instr.vsts none VStWidth.w 1 6 5 0 :: y := by decide +kernel
theorem witness_VectorIntegerResults :
    (vec0.noLanes = false) := by decide +kernel
theorem witness_VectorMovesAndSelection :
    (vec0.noLanes = false)
    ∧ (BitVec.toNat (vec0.g 9) < BitVec.toNat vec0.core.vsetl)
    ∧ (BitVec.toNat vec0.core.vsetl ≤ BitVec.toNat (vec0.g 6))
    ∧ (vec1.noLanes = false)
    ∧ (BitVec.toNat (vec1.g 6) < BitVec.toNat vec1.core.vsetl)
    ∧ quietFlags vec1 Fl.none := by decide +kernel
theorem witness_RoundingKeepsRepresentable :
    ((2147483648 < 2 ^ 32)
      ∧ (2147483648 % 2 ^ 31 < 2139095040))
    ∧ (2139095039 < 2 ^ 32)
      ∧ (2139095039 % 2 ^ 31 < 2139095040) := by decide +kernel
theorem witness_VectorFloatResults :
    (vec0.noLanes = false) := by decide +kernel
theorem witness_WideAndIntegerDotResults :
    (vec0.noLanes = false)
    ∧ (quietFlags vec0 (flagsOf (List.map (fun (j : Nat) => (BitVec.ofInt (64 : Nat) (BitVec.toInt (wideLane vec0 (2 : WReg) j) + if true = true then (↑(BitVec.toNat (vec0.lane (1 : VReg) j)) : Int) * (↑(BitVec.toNat (vec0.lane (2 : VReg) j)) : Int) else BitVec.toInt (vec0.lane (1 : VReg) j) * BitVec.toInt (vec0.lane (2 : VReg) j)), Fl.none)) (List.range (BitVec.toNat vec0.core.vsetl)))))
    ∧ (quietFlags vec0 (flagsOf (List.map (fun (j : Nat) => (BitVec.ofInt (64 : Nat) (max (-(2 : Int) ^ (63 : Nat)) (min ((2 : Int) ^ (63 : Nat) - (1 : Int)) (BitVec.toInt (wideLane vec0 (2 : WReg) j) + if true = true then (↑(BitVec.toNat (vec0.lane (1 : VReg) j)) : Int) * (↑(BitVec.toNat (vec0.lane (2 : VReg) j)) : Int) else BitVec.toInt (vec0.lane (1 : VReg) j) * BitVec.toInt (vec0.lane (2 : VReg) j)))), if (-(2 : Int) ^ (63 : Nat) ≤ BitVec.toInt (wideLane vec0 (2 : WReg) j) + if true = true then (↑(BitVec.toNat (vec0.lane (1 : VReg) j)) : Int) * (↑(BitVec.toNat (vec0.lane (2 : VReg) j)) : Int) else BitVec.toInt (vec0.lane (1 : VReg) j) * BitVec.toInt (vec0.lane (2 : VReg) j)) ∧ (BitVec.toInt (wideLane vec0 (2 : WReg) j) + if true = true then (↑(BitVec.toNat (vec0.lane (1 : VReg) j)) : Int) * (↑(BitVec.toNat (vec0.lane (2 : VReg) j)) : Int) else BitVec.toInt (vec0.lane (1 : VReg) j) * BitVec.toInt (vec0.lane (2 : VReg) j)) ≤ (2 : Int) ^ (63 : Nat) - (1 : Int) then Fl.none else have __src := Fl.none; { nv := __src.nv, dz := __src.dz, of := __src.of, uf := __src.uf, nx := __src.nx, sv := true })) (List.range (BitVec.toNat vec0.core.vsetl)))))
    ∧ ((vecT.noLanes = false)
      ∧ (¬quietFlags vecT (flagsOf (List.map (fun (j : Nat) => (BitVec.ofInt (64 : Nat) (max (-(2 : Int) ^ (63 : Nat)) (min ((2 : Int) ^ (63 : Nat) - (1 : Int)) (BitVec.toInt (wideLane vecT (2 : WReg) j) + if true = true then (↑(BitVec.toNat (vecT.lane (1 : VReg) j)) : Int) * (↑(BitVec.toNat (vecT.lane (2 : VReg) j)) : Int) else BitVec.toInt (vecT.lane (1 : VReg) j) * BitVec.toInt (vecT.lane (2 : VReg) j)))), if (-(2 : Int) ^ (63 : Nat) ≤ BitVec.toInt (wideLane vecT (2 : WReg) j) + if true = true then (↑(BitVec.toNat (vecT.lane (1 : VReg) j)) : Int) * (↑(BitVec.toNat (vecT.lane (2 : VReg) j)) : Int) else BitVec.toInt (vecT.lane (1 : VReg) j) * BitVec.toInt (vecT.lane (2 : VReg) j)) ∧ (BitVec.toInt (wideLane vecT (2 : WReg) j) + if true = true then (↑(BitVec.toNat (vecT.lane (1 : VReg) j)) : Int) * (↑(BitVec.toNat (vecT.lane (2 : VReg) j)) : Int) else BitVec.toInt (vecT.lane (1 : VReg) j) * BitVec.toInt (vecT.lane (2 : VReg) j)) ≤ (2 : Int) ^ (63 : Nat) - (1 : Int) then Fl.none else have __src := Fl.none; { nv := __src.nv, dz := __src.dz, of := __src.of, uf := __src.uf, nx := __src.nx, sv := true })) (List.range (BitVec.toNat vecT.core.vsetl))))))
    ∧ quietFlags vec0 (flagsOf (List.map (fun j => have r := f64.fmaV vec0.cx.rm (f32.decode (BitVec.toNat (vec0.lane 1 j))) (f32.decode (BitVec.toNat (vec0.lane 2 j))) (f64.decode (BitVec.toNat (wideLane vec0 2 j))); (BitVec.ofNat 64 r.fst, r.snd)) (List.range (BitVec.toNat vec0.core.vsetl))))
    ∧ (¬quietFlags vecT (flagsOf (List.map (fun j => have r := f64.fmaV vecT.cx.rm (f32.decode (BitVec.toNat (vecT.lane 1 j))) (f32.decode (BitVec.toNat (vecT.lane 2 j))) (f64.decode (BitVec.toNat (wideLane vecT 2 j))); (BitVec.ofNat 64 r.fst, r.snd)) (List.range (BitVec.toNat vecT.core.vsetl)))))
    ∧ quietFlags vec0 (flagsOf (List.map (fun x => ((0 : Word), Fl.none)) (List.range (BitVec.toNat vec0.core.vsetl)))) := by decide +kernel
theorem witness_FloatDotResults :
    ((vec0.noLanes = false)
      ∧ (vec0.cx.fpord = false))
    ∧ ((bit (6 : VReg) (0 : Nat) = false)
      ∧ (BitVec.toNat vec0.core.vsetl ≠ 0)
      ∧ (quietFlags vec0 ((List.foldl (fun f p => f.or p.snd) Fl.none (List.map (fun j => f32.fmaV vec0.cx.rm ((if true = true then f16 else bf16).decode (BitVec.toNat (vec0.lane 4 j) % 65536)) ((if true = true then f16 else bf16).decode (BitVec.toNat (vec0.lane 5 j) % 65536)) (f32.decode (BitVec.toNat (vec0.lane 6 j)))) (List.range (BitVec.toNat vec0.core.vsetl)))).or (List.foldl (fun f p => f.or p.snd) Fl.none (List.map (fun j => f32.fmaV vec0.cx.rm ((if true = true then f16 else bf16).decode (BitVec.toNat (vec0.lane 4 j) / 65536)) ((if true = true then f16 else bf16).decode (BitVec.toNat (vec0.lane 5 j) / 65536)) (f32.decode (BitVec.toNat (vec0.lane (6 + 1) j)))) (List.range (BitVec.toNat vec0.core.vsetl)))))))
    ∧ ((vecf.noLanes = false)
      ∧ (vecf.cx.fpord = true))
    ∧ (vecf.cx.fpord = true ∨ bit (6 : VReg) (0 : Nat) = true)
    ∧ (vec0.cx.fpord = true ∨ bit (7 : VReg) (0 : Nat) = true)
    ∧ (quietFlags vec0 (if BitVec.toNat vec0.core.vsetl = 0 then (BitVec.toNat (vec0.g 9) % 2 ^ 32, Fl.none) else dotMain f32 vec0.cx.rm (BitVec.toNat (vec0.g 9) % 2 ^ 32) (List.map (fun j => (f32.decode (BitVec.toNat (vec0.lane 4 j)), f32.decode (BitVec.toNat (vec0.lane 5 j)))) (List.range (BitVec.toNat vec0.core.vsetl)))).snd)
    ∧ ((vecT.noLanes = false)
      ∧ (vecT.cx.fpord = false)
      ∧ (¬quietFlags vecT (if BitVec.toNat vecT.core.vsetl = 0 then (BitVec.toNat (vecT.g 9) % 2 ^ 32, Fl.none) else dotMain f32 vecT.cx.rm (BitVec.toNat (vecT.g 9) % 2 ^ 32) (List.map (fun j => (f32.decode (BitVec.toNat (vecT.lane 3 j)), f32.decode (BitVec.toNat (vecT.lane 4 j)))) (List.range (BitVec.toNat vecT.core.vsetl)))).snd))
    ∧ (quietFlags vecf (if BitVec.toNat vecf.core.vsetl = 0 then (BitVec.toNat (vecf.g 9) % 2 ^ 32, Fl.none) else dotTree f32 vecf.cx.rm (BitVec.toNat (vecf.g 9) % 2 ^ 32) (List.map (fun j => (f32.decode (BitVec.toNat (vecf.lane 4 j)), f32.decode (BitVec.toNat (vecf.lane 5 j)))) (List.range (BitVec.toNat vecf.core.vsetl)))).snd)
    ∧ (vecfT.noLanes = false)
      ∧ (vecfT.cx.fpord = true)
      ∧ (¬quietFlags vecfT (if BitVec.toNat vecfT.core.vsetl = 0 then (BitVec.toNat (vecfT.g 9) % 2 ^ 32, Fl.none) else dotTree f32 vecfT.cx.rm (BitVec.toNat (vecfT.g 9) % 2 ^ 32) (List.map (fun j => (f32.decode (BitVec.toNat (vecfT.lane 3 j)), f32.decode (BitVec.toNat (vecfT.lane 4 j)))) (List.range (BitVec.toNat vecfT.core.vsetl)))).snd) := by decide +kernel

/-! ## Tensor conversions -/

def tidW (fmt pst prd kext rows loc : Nat) : Word × Word × Word × Word :=
  (BitVec.ofNat 64 (1 + fmt * 2 + pst * 32 + prd * 512 + 100 * 2^16 + kext * 2 ^ 24 + rows * 2 ^ 48), BitVec.ofNat 64 (16 + 256 * 2^16 + 128 * 2^40), BitVec.ofNat 64 loc, 0xF000000006000)
def vec32 : State := cored (cxd vec0 fun c => { c with tid := [(1, tidW 0 2 2 256 16 0xF000000005000), (2, tidW 1 0 0 256 16 0xF000000005000), (3, tidW 3 0 0 256 16 0xF000000005000)] }) fun c => { c with lanes := 32, vsetl := 32, v := c.v.set 1 ((List.range 32).map fun n => if n = 7 then 0x3F000001 else if n % 2 = 0 then 0x3F800000 else 0xC0000000) }
def vec32b : State := vec32.setG 5 0x200010002
def tns (n : Nat) : Tensor := let w := (Table.find vec32.cx.tid n).getD (0,0,0,0); tensorOf w.1 w.2.1 w.2.2.1 w.2.2.2
def vp : State := vec32.setG 5 0x200002
def keys (t : List (Word × Nat)) : List (Word × Nat × Nat) := t.map fun w => (w.1, w.2, sramKey 0 (w.1.toNat % 2^15))
def mxKs (n : Nat) : List (Word × Nat × Nat) := keys ((List.range (8 * elemBits (tns n).fmt / 8)).map (fun u => ((tns n).elemAddr 2 32 + BitVec.ofNat 64 (4*u), 4)) ++ [((tns n).scaleAddr 2 32, 1)])
def bniKs : List (Word × Nat × Nat) := keys ((List.range 2).map (fun q => ((tns 1).planeAddr 2 32 q, 4)) ++ [((tns 1).scaleAddr 2 32, 1)])
def b2 : Blk := (Blk.ofFmt (tns 2).fmt).getD default
def b3 : Blk := (Blk.ofFmt (tns 3).fmt).getD default
def b1 : Blk := (Blk.ofFmt (tns 1).fmt).getD default
def rdK (n : Nat) : List (Word × Nat × Nat) := keys (mxdReads (tns n) 2 32 32).2

theorem witness_TensorConversions :
    ((vec32.noLanes = false)
      ∧ (vec32.tensor (BitVec.toNat (9 : BitVec (8 : Nat))) = none)
      ∧ Instr.vbni true 1 5 9 ∈ [Instr.vcvtMx true 1 5 9, Instr.vcvtMxd 1 5 9, Instr.vbniScan true 1 5 9, Instr.vbni true 1 5 9])
    ∧ Instr.vcvtMx true 1 5 9 ∈ [Instr.vcvtMx true 1 5 9, Instr.vcvtMxd 1 5 9, Instr.vbniScan true 1 5 9, Instr.vbni true 1 5 9]
    ∧ ((vec32b.noLanes = false)
      ∧ (vec32b.tensor (BitVec.toNat (1 : BitVec (8 : Nat))) = some (tns (1 : Nat)))
      ∧ (posOk (vec32b.g 5) (tns 1) (BitVec.toNat vec32b.core.vsetl) = false)
      ∧ ((tns 1).fmt = 0)
      ∧ Instr.vbni true 1 5 1 ∈ [Instr.vcvtMxd 1 5 1, Instr.vbniScan true 1 5 1, Instr.vbni true 1 5 1])
    ∧ ((vec32b.tensor (BitVec.toNat (2 : BitVec (8 : Nat))) = some (tns (2 : Nat)))
      ∧ (posOk (vec32b.g 5) (tns 2) (BitVec.toNat vec32b.core.vsetl) = false)
      ∧ (1 ≤ (tns 2).fmt)
      ∧ ((tns 2).fmt ≤ 4))
    ∧ ((vp.noLanes = false)
      ∧ (vp.tensor (BitVec.toNat (2 : BitVec (8 : Nat))) = some (tns (2 : Nat)))
      ∧ (posOk (vp.g 5) (tns 2) (BitVec.toNat vp.core.vsetl) = true)
      ∧ (Blk.ofFmt (tns 2).fmt = some b2)
      ∧ ((tns 2).fmt ≠ 0)
      ∧ (effOf AccKind.store none vp.cx.memdef = some vE)
      ∧ (vp.core.node = none)
      ∧ (vp.gate vE.ord vE.scope = true)
      ∧ (vp.checkAll AccKind.store vE.space (List.map (fun w => (w.fst, w.snd.fst)) (mxUnits vp (tns 2) b2 1 (BitVec.toNat (vp.g 5) % 2 ^ 16) (BitVec.toNat (vp.g 5) / 2 ^ 16 % 2 ^ 24) (BitVec.toNat vp.core.vsetl / 32))) = Except.ok (mxKs 2)))
    ∧ ((vp.tensor (BitVec.toNat (3 : BitVec (8 : Nat))) = some (tns (3 : Nat)))
      ∧ (posOk (vp.g 5) (tns 3) (BitVec.toNat vp.core.vsetl) = true)
      ∧ (Blk.ofFmt (tns 3).fmt = some b3)
      ∧ ((tns 3).fmt ≠ 0)
      ∧ (vp.checkAll AccKind.store vE.space (List.map (fun w => (w.fst, w.snd.fst)) (mxUnits vp (tns 3) b3 1 (BitVec.toNat (vp.g 5) % 2 ^ 16) (BitVec.toNat (vp.g 5) / 2 ^ 16 % 2 ^ 24) (BitVec.toNat vp.core.vsetl / 32))) = Except.ok (mxKs 3)))
    ∧ ((vp.tensor (BitVec.toNat (1 : BitVec (8 : Nat))) = some (tns (1 : Nat)))
      ∧ (posOk (vp.g 5) (tns 1) (BitVec.toNat vp.core.vsetl) = true)
      ∧ (Blk.ofFmt (tns 1).fmt = some b1)
      ∧ (vp.checkAll AccKind.store vE.space (List.map (fun w => (w.fst, w.snd.fst)) (bniUnits vp (tns 1) 1 (BitVec.toNat (vp.g 5) % 2 ^ 16) (BitVec.toNat (vp.g 5) / 2 ^ 16 % 2 ^ 24) (BitVec.toNat vp.core.vsetl / 32))) = Except.ok bniKs))
    ∧ ((effOf AccKind.load none vp.cx.memdef = some vE)
      ∧ (vp.checkAll AccKind.load vE.space (mxdReads (tns 1) (BitVec.toNat (vp.g 5) % 2 ^ 16) (BitVec.toNat (vp.g 5) / 2 ^ 16 % 2 ^ 24) (BitVec.toNat vp.core.vsetl)).snd = Except.ok (rdK 1))
      ∧ (((rdK 1).all fun p => homeOf p.snd.snd == Home.core vp.id) = true)
      ∧ (vp.serveLocal (rdK 1) = some (List.map (fun x => (0, false)) (rdK 1)))
      ∧ (firstBad (rdK 1) (List.map (fun x => (0, false)) (rdK 1)) = none)
      ∧ quietFlags vp (flagsOf (mxdLanes vp.cx.sat (tns 1) (BitVec.toNat (vp.g 5) / 2 ^ 16 % 2 ^ 24) (BitVec.toNat vp.core.vsetl) (List.map (fun x => x.fst) (List.map (fun x => (0, false)) (rdK 1))))))
    ∧ (vp.checkAll AccKind.load vE.space (mxdReads (tns 2) (BitVec.toNat (vp.g 5) % 2 ^ 16) (BitVec.toNat (vp.g 5) / 2 ^ 16 % 2 ^ 24) (BitVec.toNat vp.core.vsetl)).snd = Except.ok (rdK 2))
      ∧ (((rdK 2).all fun p => homeOf p.snd.snd == Home.core vp.id) = true)
      ∧ (vp.serveLocal (rdK 2) = some (List.map (fun x => (0, false)) (rdK 2)))
      ∧ (firstBad (rdK 2) (List.map (fun x => (0, false)) (rdK 2)) = none)
      ∧ quietFlags vp (flagsOf (mxdLanes vp.cx.sat (tns 2) (BitVec.toNat (vp.g 5) / 2 ^ 16 % 2 ^ 24) (BitVec.toNat vp.core.vsetl) (List.map (fun x => x.fst) (List.map (fun x => (0, false)) (rdK 2))))) := by
  repeat' first
    | with_reducible apply And.intro
    | decide +kernel
    | exact ok_of (by decide +kernel)

/-! ## Conversions and reductions -/

def vecn2 : State := cxd vec0 fun c => { c with arith := 0x10 }
def vecz : State := cored vec0 fun c => { c with vsetl := 0 }
def vnr (a : Bool) : State := cxd vec0 fun c => { c with domain := rectW 2 0 0 2 2, arrived := a }
def vn0 : State := cored (vnr false) fun c => { c with vsetl := 8 }
def vn1 : State := cored (vnr true) fun c => { c with vsetl := 8 }
def vnv (op : Nat) (e s : Bool) : Vnred := ⟨⟨[5, 6], [], op, 0, 2, 0⟩, 9000, 7, 3, false, e, s⟩
def vnc (v : Vnred) (early : List (Bool × Partial)) : State := cored (cxd (vnr true) fun c => { c with st := .waiting .barrier, btimeout := 1000 }) fun c => { c with vnred := some v, early := early }
def vc1 : State := vnc (vnv 4 true true) []
def pr : Partial := ⟨[7, 8], [], 1, 0, 2, 0⟩
def vc2 : State := vnc (vnv 1 false true) [(true, pr)]
def vc3 : State := vnc (vnv 1 false true) []
def vnz : Vnred := { vnv 1 false true with own := ⟨[], [], 1, 0, 0, 0⟩ }
def vc4 : State := vnc vnz []

theorem witness_ConversionsAndAmax :
    (vec0.noLanes = false)
    ∧ ((BitVec.toNat vec0.core.vsetl ≠ 0)
      ∧ quietFlags vec0 (flagsOf (List.map (fun j => cvtLane vec0.cx VFmt.f32 VFmt.s16 (vec0.lane 2 j)) (List.range (BitVec.toNat vec0.core.vsetl)))))
    ∧ ((vecn2.noLanes = false)
      ∧ (∃ m, m ∈ List.map (fun j => BitVec.toNat (vecn2.lane 1 j) % 2 ^ 31) (List.range (BitVec.toNat vecn2.core.vsetl)) ∧ 2139095040 < m)
      ∧ (vecn2.cx.amaxnan = true)
      ∧ (quietFlags vecn2 (if ((List.range (BitVec.toNat vecn2.core.vsetl)).any fun j => (f32.decode (BitVec.toNat (vecn2.lane 1 j))).signals) = true then Fl.invalid else Fl.none)))
    ∧ ((∀ (m : Nat), m ∈ List.map (fun j => BitVec.toNat (vec0.lane 1 j) % 2 ^ 31) (List.range (BitVec.toNat vec0.core.vsetl)) → m ≤ 2139095040) ∨ vec0.cx.amaxnan = false)
    ∧ ((∀ (m : Nat), m ∈ List.map (fun j => BitVec.toNat (vec0.lane 3 j) % 2 ^ 31) (List.range (BitVec.toNat vec0.core.vsetl)) → m ≤ 2139095040) ∨ vec0.cx.amaxnan = false)
    ∧ (vecz.noLanes = false)
      ∧ (BitVec.toNat vecz.core.vsetl = 0) := by decide +kernel
theorem witness_ReductionsWithinACore :
    (vec0.noLanes = false)
    ∧ quietFlags vec0 Fl.none
    ∧ (0 < BitVec.toNat vec0.core.vsetl)
    ∧ quietFlags vec0 (redLanes vec0.cx.rm RedOp.add (vec0.lanesOf 1 (BitVec.toNat vec0.core.vsetl))).snd
    ∧ ((vecT.noLanes = false)
      ∧ (¬quietFlags vecT (redLanes vecT.cx.rm RedOp.fadd (vecT.lanesOf 4 (BitVec.toNat vecT.core.vsetl))).snd))
    ∧ (redFloat RedOp.add = false)
    ∧ quietFlags vec0 (flagsOf (scanLanes vec0.cx.rm RedOp.add (vec0.lanesOf 1 (BitVec.toNat vec0.core.vsetl))))
    ∧ (¬quietFlags vecT (flagsOf (scanLanes vecT.cx.rm RedOp.fadd (vecT.lanesOf 4 (BitVec.toNat vecT.core.vsetl))))) := by decide +kernel
theorem witness_InNetworkReduction :
    ((vec0.noLanes = false)
      ∧ (bits vec0.cx.domain 2 0 < 2))
    ∧ ((vn0.noLanes = false)
      ∧ (2 ≤ bits vn0.cx.domain 2 0)
      ∧ (vn0.cx.arrived = false))
    ∧ ((BitVec.toNat vn0.core.vsetl ≠ 0)
      ∧ (BitVec.toNat vn0.core.vsetl % 8 = 0)
      ∧ ((7 : VReg) ≠ (3 : VReg)))
    ∧ ((vn1.noLanes = false)
      ∧ (2 ≤ bits vn1.cx.domain 2 0)
      ∧ (vn1.cx.arrived = true)
      ∧ (vn1.core.vnred = none))
    ∧ ((BitVec.toNat vn1.core.vsetl ≠ 0)
      ∧ (BitVec.toNat vn1.core.vsetl % 8 = 0))
    ∧ ((vc1.noLanes = false)
      ∧ (vc1.core.vnred = some (vnv 4 true true))
      ∧ (vc1.core.holder = some vc1.core.k)
      ∧ (vc1.cx.st = Run.waiting Wait.barrier)
      ∧ (vc1.treeParent vc1.id (rectOf vc1.cx.domain) = none)
      ∧ ((vnv 4 true true).own.op ≠ 0)
      ∧ ((vnv 4 true true).own.op ≠ 6)
      ∧ ((vnv 4 true true).own.flags = 0)
      ∧ (vc1.needEast (vnv 4 true true) = false)
      ∧ (vc1.needSouth (vnv 4 true true) = false))
    ∧ ((vc2.noLanes = false)
      ∧ (vc2.core.vnred = some (vnv 1 false true))
      ∧ (vc2.core.holder = some vc2.core.k)
      ∧ (vc2.needEast (vnv 1 false true) = true)
      ∧ (vc2.core.early = [(true, pr)]))
    ∧ ((vc3.noLanes = false)
      ∧ (vc3.core.vnred = some (vnv 1 false true))
      ∧ (vc3.core.holder = some vc3.core.k)
      ∧ (vc3.cx.st = Run.waiting Wait.barrier)
      ∧ (vc3.childLate (vnv 1 false true) = true)
      ∧ ((vnv 1 false true).own.vl ≠ 0)
      ∧ (vc3.suspended vc3.id = false)
      ∧ (vc3.cx.barrierLimit ≤ vc3.cy - (vnv 1 false true).t0)
      ∧ (vc3.cx.super = false)
      ∧ (vc3.cx.inPhlx = false))
    ∧ (vc4.noLanes = false)
      ∧ (vc4.core.vnred = some vnz)
      ∧ (vnz.own.vl = 0) := by
  repeat' first
    | with_reducible apply And.intro
    | decide +kernel

/-! ## Operand memory and the matrix engine -/

def tds : List (Nat × Word × Word × Word × Word) := [(1, tidW 0 2 2 256 16 0xF000000005000), (2, tidW 1 0 0 256 16 0xF000000005000), (3, tidW 3 0 0 256 16 0xF000000005000), (4, tidW 10 0 0 256 16 0xF000000005000), (5, tidW 5 0 0 256 16 0xF000000005000)]
def omx : State := cxd (based.setG 5 0xF000000005000) fun c => { c with tid := tds }
def osl (h : Option Nat) : OSlot := { OSlot.free with holder := h, loaded := true, planes := 3, bytes := [(0, 0x81), (33, 7), (513, 0xFF)], scales := [(0, 3)], scales2 := [(0, 3)], sbase := 100 }
def om1 : State := cored omx fun c => { c with o := (c.o.set 1 (osl (some 0))).set 2 (osl (some 3)) |>.set 3 (osl (some 0)) |>.set 4 { osl (some 0) with fmt := 10, planes := 1 } |>.set 5 { osl (some 0) with sparse := true } }
def om2 : State := cored om1 fun c => { c with mq := [⟨1, 0, 1, 3, 0, 4, 1, 1, false, 0, true, 0, false, 5⟩] }
def tn (n : Nat) : Tensor := let w := (Table.find tds n).getD (0,0,0,0); tensorOf w.1 w.2.1 w.2.2.1 w.2.2.2
def tidBytes (w : Word × Word × Word × Word) : List Host.Cell := Memory.putN (Memory.putN (Memory.putN (Memory.putN [] (sramKey 0 0x5000) 8 w.1.toNat) (sramKey 0 0x5008) 8 w.2.1.toNat) (sramKey 0 0x5010) 8 w.2.2.1.toNat) (sramKey 0 0x5018) 8 w.2.2.2.toNat
def td1 : State := { omx with mem := tidBytes (tidW 0 2 2 256 16 0xF000000005000) }
def td2 : State := { omx with mem := tidBytes (tidW 11 0 0 256 16 0xF000000005000) }
def ol1 : State := { om1.setG 5 0 with mem := [(sramKey 0 0x5001, 9), (sramKey 0 0x6003, 7)] }
def ol2 : State := om1.setG 5 8
def full : State := cored om1 fun c => { c with mq := (List.range 64).map fun _ => ⟨1, 0, 1, 3, 0, 4, 1, 1, false, 0, false, 0, false, 5⟩ }
def binT : State := cored om1 fun c => { c with m := c.m.set 1 { MTile.clear with bin := true, anchor := some 266, count := 1 } }
def mtl (f : MTile → MTile) : State := cored om1 fun c => { c with m := c.m.set 1 (f MTile.clear) }
def mt1 : State := mtl fun t => { t with count := 65535, anchor := some (-3), marks := [5], poison := true }
def mt2 : State := mtl fun t => { t with count := 2, anchor := some 138, acc := [(0, 77), (1, -5), (17, 100000)] }
def me : State := cxd om1 fun c => { c with errpend := 0x1201, errSource := 1, errTval := 6 }
def rd0 : State := mt2.setG 5 0
def rd1 : State := mt1.setG 5 0
def nwK (s : State) (n : Nat) (ts : List Nat) (w : Nat) : List (Word × Nat × Nat) := keys ((narrowWrites s.cx (tn n) (ts.map fun n => (s.core.tile n).source) 0 0 w).1.map fun q => (q.1, q.2.1))
def rd2 : State := cxd rd0 fun c => { c with memdef := 0x522 }
def cmd (pa pb : Nat) : MCmd := ⟨1, 1, 1, 3, 0, 40, pa, pb, false, 0, true, 0, false, 5⟩
def eng (q : MCmd) (fz : Bool) : State := cored om1 fun c => { c with mq := [q], frozen := fz }
def en1 : State := eng (cmd 2 3) true
def en2 : State := eng (cmd 2 3) false
def q6 : MCmd := { cmd 2 3 with step := 6 }
def en3 : State := eng q6 false
def en4 (n : Nat) : State := cored en2 fun c => { c with node := some (2 ^ 53 + 64, false), nodeFrom := n }

theorem witness_SlotsAndTensorIdentifiers :
    ((om1.core.slot 0).holder = none)
    ∧ ((om1.core.slot 1).holder = some 0)
    ∧ ((om1.core.slot 2).holder = some 3)
    ∧ ((om1.core.slot 2).holder ≠ some om1.core.k)
    ∧ (((om1.core.slot 1).holder = some om1.core.k)
      ∧ (om1.tensor (BitVec.toNat (9 : BitVec (8 : Nat))) = none))
    ∧ (((om2.core.slot 1).holder = some om2.core.k)
      ∧ (om2.core.slotRead (BitVec.toNat (1 : OReg)) = true))
    ∧ (om1.core.slotRead (BitVec.toNat (1 : OReg)) = false)
    ∧ ((om1.tensor (BitVec.toNat (1 : BitVec (8 : Nat))) = some (tns (1 : Nat)))
      ∧ ((tns 1).fmt = 0 ∨ (tns 1).fmt = 10))
    ∧ ((om1.tensor (BitVec.toNat (4 : BitVec (8 : Nat))) = some (tn (4 : Nat)))
      ∧ ((tn 4).fmt = 0 ∨ (tn 4).fmt = 10))
    ∧ ((effOf AccKind.load none td1.cx.memdef = some vE)
      ∧ (spaceOk vE.space Region.loc = true)
      ∧ (td1.gate vE.ord vE.scope = true)
      ∧ td1.ownData (td1.g 5) 32
      ∧ td1.servedHere (td1.ownKey (td1.g 5)) 32
      ∧ (td1.poisoned (td1.ownKey (td1.g 5)) 32 = false)
      ∧ ((BitVec.ofNat 64 (td1.peekN (td1.ownKey (td1.g 5)) 32 / 2 ^ (64 * 0))).toNat % 2 = 1)
      ∧ (tidOk (BitVec.ofNat 64 (td1.peekN (td1.ownKey (td1.g 5)) 32 / 2 ^ (64 * 0))) (BitVec.ofNat 64 (td1.peekN (td1.ownKey (td1.g 5)) 32 / 2 ^ (64 * 1))) (BitVec.ofNat 64 (td1.peekN (td1.ownKey (td1.g 5)) 32 / 2 ^ (64 * 2))) (BitVec.ofNat 64 (td1.peekN (td1.ownKey (td1.g 5)) 32 / 2 ^ (64 * 3))) = true))
    ∧ ((effOf AccKind.load none omx.cx.memdef = some vE)
      ∧ (omx.gate vE.ord vE.scope = true)
      ∧ omx.ownData (omx.g 5) 32
      ∧ omx.servedHere (omx.ownKey (omx.g 5)) 32
      ∧ (omx.poisoned (omx.ownKey (omx.g 5)) 32 = false)
      ∧ (BitVec.ofNat 64 (omx.peekN (omx.ownKey (omx.g 5)) 32 / 2 ^ (64 * 0)) = 0 ∧ BitVec.ofNat 64 (omx.peekN (omx.ownKey (omx.g 5)) 32 / 2 ^ (64 * 1)) = 0 ∧ BitVec.ofNat 64 (omx.peekN (omx.ownKey (omx.g 5)) 32 / 2 ^ (64 * 2)) = 0 ∧ BitVec.ofNat 64 (omx.peekN (omx.ownKey (omx.g 5)) 32 / 2 ^ (64 * 3)) = 0))
    ∧ (effOf AccKind.load none td2.cx.memdef = some vE)
      ∧ (td2.gate vE.ord vE.scope = true)
      ∧ td2.ownData (td2.g 5) 32
      ∧ td2.servedHere (td2.ownKey (td2.g 5)) 32
      ∧ (td2.poisoned (td2.ownKey (td2.g 5)) 32 = false)
      ∧ ((BitVec.ofNat 64 (td2.peekN (td2.ownKey (td2.g 5)) 32 / 2 ^ (64 * 0))).toNat % 2 = 1)
      ∧ (tidOk (BitVec.ofNat 64 (td2.peekN (td2.ownKey (td2.g 5)) 32 / 2 ^ (64 * 0))) (BitVec.ofNat 64 (td2.peekN (td2.ownKey (td2.g 5)) 32 / 2 ^ (64 * 1))) (BitVec.ofNat 64 (td2.peekN (td2.ownKey (td2.g 5)) 32 / 2 ^ (64 * 2))) (BitVec.ofNat 64 (td2.peekN (td2.ownKey (td2.g 5)) 32 / 2 ^ (64 * 3))) = false) := by
  repeat' first
    | with_reducible apply And.intro
    | decide +kernel
theorem witness_OperandLoads :
    (((ol1.core.slot 1).holder = some ol1.core.k)
      ∧ (ol1.tensor (BitVec.toNat (2 : BitVec (8 : Nat))) = some (tn (2 : Nat)))
      ∧ ((tn 2).fmt ≠ 0 ∧ (tn 2).fmt ≠ 10))
    ∧ (((ol2.core.slot 1).holder = some ol2.core.k)
      ∧ (ol2.tensor (BitVec.toNat (1 : BitVec (8 : Nat))) = some (tn (1 : Nat)))
      ∧ ((tn 1).fmt = 0 ∨ (tn 1).fmt = 10)
      ∧ (BitVec.toNat (ol2.g 5) % 2 ^ 16 % 16 ≠ 0 ∨ BitVec.toNat (ol2.g 5) / 2 ^ 16 % 2 ^ 24 % 256 ≠ 0 ∨ (tn 1).rows ≤ BitVec.toNat (ol2.g 5) % 2 ^ 16 ∨ (tn 1).kext ≤ BitVec.toNat (ol2.g 5) / 2 ^ 16 % 2 ^ 24 ∨ 2 ^ 40 ≤ BitVec.toNat (ol2.g 5)))
    ∧ ((ol1.tensor (BitVec.toNat (1 : BitVec (8 : Nat))) = some (tn (1 : Nat)))
      ∧ ((tn (1 : Nat)).fmt = (0 : Nat) ∨ (tn (1 : Nat)).fmt = (10 : Nat) ∧ BitVec.toNat (0 : BitVec (4 : Nat)) ≤ (1 : Nat))
      ∧ (BitVec.toNat (ol1.g 5) % 2 ^ 16 % 16 = 0)
      ∧ (BitVec.toNat (ol1.g 5) / 2 ^ 16 % 2 ^ 24 % 256 = 0)
      ∧ (BitVec.toNat (ol1.g 5) % 2 ^ 16 < (tn 1).rows)
      ∧ (BitVec.toNat (ol1.g 5) / 2 ^ 16 % 2 ^ 24 < (tn 1).kext)
      ∧ (BitVec.toNat (ol1.g 5) < 2 ^ 40)
      ∧ ((tn (1 : Nat)).fmt = (0 : Nat) → (if (tn (1 : Nat)).fmt = (10 : Nat) then (1 : Nat) else if (0 : BitVec (4 : Nat)) = (0 : BitVec (4 : Nat)) then (tn (1 : Nat)).prd else BitVec.toNat (0 : BitVec (4 : Nat))) ≤ (tn (1 : Nat)).pst)
      ∧ (effOf AccKind.load none ol1.cx.memdef = some vE)
      ∧ (spaceOk vE.space Region.loc = true)
      ∧ (ol1.gate vE.ord vE.scope = true)
      ∧ (ol1.core.slotRead (BitVec.toNat (1 : OReg)) = false)
      ∧ (oloadReads (tn (1 : Nat)) (BitVec.toNat (ol1.g (5 : GReg)) % (2 : Nat) ^ (16 : Nat)) (BitVec.toNat (ol1.g (5 : GReg)) / (2 : Nat) ^ (16 : Nat) % (2 : Nat) ^ (24 : Nat)) (if (tn (1 : Nat)).fmt = (10 : Nat) then (1 : Nat) else if (0 : BitVec (4 : Nat)) = (0 : BitVec (4 : Nat)) then (tn (1 : Nat)).prd else BitVec.toNat (0 : BitVec (4 : Nat))) ≠ [])
      ∧ (∀ (q : Word × Nat), q ∈ oloadReads (tn (1 : Nat)) (BitVec.toNat (ol1.g (5 : GReg)) % (2 : Nat) ^ (16 : Nat)) (BitVec.toNat (ol1.g (5 : GReg)) / (2 : Nat) ^ (16 : Nat) % (2 : Nat) ^ (24 : Nat)) (if (tn (1 : Nat)).fmt = (10 : Nat) then (1 : Nat) else if (0 : BitVec (4 : Nat)) = (0 : BitVec (4 : Nat)) then (tn (1 : Nat)).prd else BitVec.toNat (0 : BitVec (4 : Nat))) → ol1.ownData q.fst q.snd ∧ ol1.servedHere (ol1.ownKey q.fst) q.snd ∧ ol1.poisoned (ol1.ownKey q.fst) q.snd = false))
    ∧ ((tn (1 : Nat)).fmt = (0 : Nat) ∨ (tn (1 : Nat)).fmt = (10 : Nat) ∧ BitVec.toNat (1 : BitVec (4 : Nat)) ≤ (1 : Nat))
      ∧ ((tn (1 : Nat)).fmt = (0 : Nat) → (if (tn (1 : Nat)).fmt = (10 : Nat) then (1 : Nat) else if (1 : BitVec (4 : Nat)) = (0 : BitVec (4 : Nat)) then (tn (1 : Nat)).prd else BitVec.toNat (1 : BitVec (4 : Nat))) ≤ (tn (1 : Nat)).pst)
      ∧ (oloadReads (tn (1 : Nat)) (BitVec.toNat (ol1.g (5 : GReg)) % (2 : Nat) ^ (16 : Nat)) (BitVec.toNat (ol1.g (5 : GReg)) / (2 : Nat) ^ (16 : Nat) % (2 : Nat) ^ (24 : Nat)) (if (tn (1 : Nat)).fmt = (10 : Nat) then (1 : Nat) else if (1 : BitVec (4 : Nat)) = (0 : BitVec (4 : Nat)) then (tn (1 : Nat)).prd else BitVec.toNat (1 : BitVec (4 : Nat))) ≠ [])
      ∧ (∀ (q : Word × Nat), q ∈ oloadReads (tn (1 : Nat)) (BitVec.toNat (ol1.g (5 : GReg)) % (2 : Nat) ^ (16 : Nat)) (BitVec.toNat (ol1.g (5 : GReg)) / (2 : Nat) ^ (16 : Nat) % (2 : Nat) ^ (24 : Nat)) (if (tn (1 : Nat)).fmt = (10 : Nat) then (1 : Nat) else if (1 : BitVec (4 : Nat)) = (0 : BitVec (4 : Nat)) then (tn (1 : Nat)).prd else BitVec.toNat (1 : BitVec (4 : Nat))) → ol1.ownData q.fst q.snd ∧ ol1.servedHere (ol1.ownKey q.fst) q.snd ∧ ol1.poisoned (ol1.ownKey q.fst) q.snd = false) := by
  repeat' first
    | with_reducible apply And.intro
    | decide +kernel
theorem witness_MatrixInstructions :
    (((om1.core.slot 1).holder = some om1.core.k ∧ (om1.core.slot 3).holder = some om1.core.k)
      ∧ ((om1.core.slot 1).loaded = true)
      ∧ ((om1.core.slot 3).loaded = true)
      ∧ ((om1.core.slot 1).fmt = 0)
      ∧ ((om1.core.slot 3).fmt = 0)
      ∧ ((om1.core.slot 1).sparse = false)
      ∧ (BitVec.toNat (0 : BitVec (8 : Nat)) < BitVec.toNat (4 : BitVec (9 : Nat)) ∧ BitVec.toNat (4 : BitVec (9 : Nat)) ≤ (256 : Nat) ∧ (true = true → (om1.core.tile (BitVec.toNat (1 : MReg))).count ≠ (65535 : Nat)))
      ∧ (BitVec.toNat (1 : BitVec (3 : Nat)) + (1 : Nat) ≤ (om1.core.slot (1 : OReg)).planes ∧ BitVec.toNat (2 : BitVec (3 : Nat)) + (1 : Nat) ≤ (om1.core.slot (3 : OReg)).planes)
      ∧ (true = true → (om1.core.tile (BitVec.toNat (1 : MReg))).anchor = none ∨ (om1.core.tile (BitVec.toNat (1 : MReg))).anchor = some (↑(om1.core.slot (1 : OReg)).sbase + ↑(om1.core.slot (3 : OReg)).sbase - (62 : Int)))
      ∧ ((om1.core.slot 3).sparse = false)
      ∧ (true = true → (om1.core.tile (BitVec.toNat (1 : MReg))).bin = false))
    ∧ ((BitVec.toNat (255 : BitVec (8 : Nat)) < BitVec.toNat (256 : BitVec (9 : Nat)) ∧ BitVec.toNat (256 : BitVec (9 : Nat)) ≤ (256 : Nat) ∧ (false = true → (om1.core.tile (BitVec.toNat (1 : MReg))).count ≠ (65535 : Nat)))
      ∧ (false = true → (om1.core.tile (BitVec.toNat (1 : MReg))).anchor = none ∨ (om1.core.tile (BitVec.toNat (1 : MReg))).anchor = some (↑(om1.core.slot (1 : OReg)).sbase + ↑(om1.core.slot (3 : OReg)).sbase - (62 : Int)))
      ∧ (false = true → (om1.core.tile (BitVec.toNat (1 : MReg))).bin = false))
    ∧ (((om1.core.slot 1).holder = some om1.core.k ∧ (om1.core.slot 5).holder = some om1.core.k)
      ∧ ((om1.core.slot 5).loaded = true)
      ∧ ((om1.core.slot 5).fmt = 0)
      ∧ (BitVec.toNat (1 : BitVec (3 : Nat)) + (1 : Nat) ≤ (om1.core.slot (1 : OReg)).planes ∧ BitVec.toNat (2 : BitVec (3 : Nat)) + (1 : Nat) ≤ (om1.core.slot (5 : OReg)).planes)
      ∧ (false = true → (om1.core.tile (BitVec.toNat (1 : MReg))).anchor = none ∨ (om1.core.tile (BitVec.toNat (1 : MReg))).anchor = some (↑(om1.core.slot (1 : OReg)).sbase + ↑(om1.core.slot (5 : OReg)).sbase - (62 : Int)))
      ∧ ((om1.core.slot 5).sparse = true))
    ∧ (((om1.core.slot 4).holder = some om1.core.k ∧ (om1.core.slot 4).holder = some om1.core.k)
      ∧ ((om1.core.slot 4).loaded = true)
      ∧ ((om1.core.slot 4).fmt = 10)
      ∧ (1 ≤ (om1.core.slot 4).planes)
      ∧ (false = true → (om1.core.tile (BitVec.toNat (1 : MReg))).anchor = none ∨ (om1.core.tile (BitVec.toNat (1 : MReg))).anchor = some (266 : Int)))
    ∧ ((BitVec.toNat (255 : BitVec (8 : Nat)) < BitVec.toNat (256 : BitVec (9 : Nat)) ∧ BitVec.toNat (256 : BitVec (9 : Nat)) ≤ (256 : Nat) ∧ (true = true → (om1.core.tile (BitVec.toNat (1 : MReg))).count ≠ (65535 : Nat)))
      ∧ (true = true → (om1.core.tile (BitVec.toNat (1 : MReg))).anchor = none ∨ (om1.core.tile (BitVec.toNat (1 : MReg))).anchor = some (266 : Int)))
    ∧ (((om1.core.slot 2).holder ≠ some om1.core.k)
      ∧ Instr.mmp false 1 2 5 255 256 1 2 ∈ [Instr.mmp false 1 2 5 255 256 1 2, Instr.msp false 1 2 5 255 256 1 2, Instr.mbin true false 1 2 5 255 256])
    ∧ Instr.mbin true false 1 2 5 255 256 ∈ [Instr.mmp false 1 2 5 255 256 1 2, Instr.msp false 1 2 5 255 256 1 2, Instr.mbin true false 1 2 5 255 256]
    ∧ (((om1.core.slot 5).holder = some om1.core.k)
      ∧ Instr.mmp false 1 5 2 255 256 1 2 ∈ [Instr.mmp false 1 5 2 255 256 1 2, Instr.msp false 1 5 2 255 256 1 2, Instr.mbin true false 1 5 2 255 256])
    ∧ ((BitVec.toNat (5 : BitVec (9 : Nat)) ≤ BitVec.toNat (5 : BitVec (8 : Nat)) ∨ (256 : Nat) < BitVec.toNat (5 : BitVec (9 : Nat)) ∨ (om1.core.slot (1 : OReg)).loaded = false ∨ (om1.core.slot (3 : OReg)).loaded = false)
      ∧ Instr.mmp false 1 1 3 5 5 1 2 ∈ [Instr.mmp false 1 1 3 5 5 1 2, Instr.msp false 1 1 3 5 5 1 2, Instr.mbin true false 1 1 3 5 5])
    ∧ ((BitVec.toNat (257 : BitVec (9 : Nat)) ≤ BitVec.toNat (5 : BitVec (8 : Nat)) ∨ (256 : Nat) < BitVec.toNat (257 : BitVec (9 : Nat)) ∨ (om1.core.slot (1 : OReg)).loaded = false ∨ (om1.core.slot (3 : OReg)).loaded = false)
      ∧ Instr.msp false 1 1 3 5 257 1 2 ∈ [Instr.mmp false 1 1 3 5 257 1 2, Instr.msp false 1 1 3 5 257 1 2, Instr.mbin true false 1 1 3 5 257])
    ∧ (((full.core.tile (BitVec.toNat (1 : MReg))).readUntil ≤ full.cy)
      ∧ (full.core.mqFull = true))
    ∧ ((binT.core.slot 1).holder = some binT.core.k ∧ (binT.core.slot 3).holder = some binT.core.k)
      ∧ ((binT.core.tile (BitVec.toNat (1 : MReg))).bin = true) := by
  repeat' first
    | with_reducible apply And.intro
    | decide +kernel
theorem witness_MatrixReading :
    ((mt1.core.tile (BitVec.toNat (1 : MReg))).count < (65536 : Nat))
    ∧ (om2.core.tileBusy (BitVec.toNat (0 : MReg)) = true)
    ∧ ((om1.core.tileBusy (BitVec.toNat (0 : MReg)) = false)
      ∧ (bit om1.cx.errpend 0 = false)
      ∧ (om1.core.nodeErr = none))
    ∧ ((me.core.tileBusy (BitVec.toNat (0 : MReg)) = false)
      ∧ (bit me.cx.errpend 0 = true)
      ∧ (bits me.cx.errpend 15 8 = 18)
      ∧ (me.core.nodeErr = none)
      ∧ (me.cx.super = false)
      ∧ (me.cx.inPhlx = false))
    ∧ (me.tensor (BitVec.toNat (9 : BitVec (8 : Nat))) = none)
    ∧ ((ol2.tensor (BitVec.toNat (5 : BitVec (8 : Nat))) = some (tn (5 : Nat)))
      ∧ ((tn 5).fmt ≠ 10)
      ∧ (narrowPosOk (ol2.g (5 : GReg)) (tn (5 : Nat)) false = false ∨ false = true ∧ bit (0 : MReg) (0 : Nat) = true))
    ∧ ((ol1.tensor (BitVec.toNat (5 : BitVec (8 : Nat))) = some (tn (5 : Nat)))
      ∧ (narrowPosOk (ol1.g (5 : GReg)) (tn (5 : Nat)) true = false ∨ true = true ∧ bit (1 : MReg) (0 : Nat) = true))
    ∧ ((rd0.tensor (BitVec.toNat (5 : BitVec (8 : Nat))) = some (tn (5 : Nat)))
      ∧ (narrowPosOk (rd0.g 5) (tn 5) false = true)
      ∧ (false = true → bit (1 : MReg) (0 : Nat) = false)
      ∧ (effOf AccKind.store none rd0.cx.memdef = some vE)
      ∧ (rd0.core.node = none)
      ∧ (rd0.gate vE.ord vE.scope = true)
      ∧ (∀ (n : Nat), (n ∈ if false = true then [BitVec.toNat (1 : MReg), BitVec.toNat (1 : MReg) + (1 : Nat)] else [BitVec.toNat (1 : MReg)]) → rd0.core.tileBusy n = false)
      ∧ (rd0.checkAll AccKind.store vE.space (List.map (fun q => (q.fst, q.snd.fst)) (narrowWrites rd0.cx (tn (5 : Nat)) (List.map (fun n => (rd0.core.tile n).source) (if false = true then [BitVec.toNat (1 : MReg), BitVec.toNat (1 : MReg) + (1 : Nat)] else [BitVec.toNat (1 : MReg)])) (posRow (rd0.g (5 : GReg))) (posK (rd0.g (5 : GReg))) (if false = true then (32 : Nat) else (16 : Nat))).fst) = Except.ok (nwK rd0 (5 : Nat) [(1 : Nat)] (16 : Nat)))
      ∧ (∀ (n : Nat), (n ∈ if false = true then [BitVec.toNat (1 : MReg), BitVec.toNat (1 : MReg) + (1 : Nat)] else [BitVec.toNat (1 : MReg)]) → (rd0.core.tile n).poison = false)
      ∧ (vE.chk = false)
      ∧ (quietFlags rd0 (narrowWrites rd0.cx (tn (5 : Nat)) (List.map (fun n => (rd0.core.tile n).source) (if false = true then [BitVec.toNat (1 : MReg), BitVec.toNat (1 : MReg) + (1 : Nat)] else [BitVec.toNat (1 : MReg)])) (posRow (rd0.g (5 : GReg))) (posK (rd0.g (5 : GReg))) (if false = true then (32 : Nat) else (16 : Nat))).snd))
    ∧ ((narrowPosOk (rd0.g 5) (tn 5) true = true)
      ∧ (true = true → bit (0 : MReg) (0 : Nat) = false)
      ∧ (∀ (n : Nat), (n ∈ if true = true then [BitVec.toNat (0 : MReg), BitVec.toNat (0 : MReg) + (1 : Nat)] else [BitVec.toNat (0 : MReg)]) → rd0.core.tileBusy n = false)
      ∧ (rd0.checkAll AccKind.store vE.space (List.map (fun q => (q.fst, q.snd.fst)) (narrowWrites rd0.cx (tn (5 : Nat)) (List.map (fun n => (rd0.core.tile n).source) (if true = true then [BitVec.toNat (0 : MReg), BitVec.toNat (0 : MReg) + (1 : Nat)] else [BitVec.toNat (0 : MReg)])) (posRow (rd0.g (5 : GReg))) (posK (rd0.g (5 : GReg))) (if true = true then (32 : Nat) else (16 : Nat))).fst) = Except.ok (nwK rd0 (5 : Nat) [(0 : Nat), (1 : Nat)] (32 : Nat)))
      ∧ (∀ (n : Nat), (n ∈ if true = true then [BitVec.toNat (0 : MReg), BitVec.toNat (0 : MReg) + (1 : Nat)] else [BitVec.toNat (0 : MReg)]) → (rd0.core.tile n).poison = false)
      ∧ (quietFlags rd0 (narrowWrites rd0.cx (tn (5 : Nat)) (List.map (fun n => (rd0.core.tile n).source) (if true = true then [BitVec.toNat (0 : MReg), BitVec.toNat (0 : MReg) + (1 : Nat)] else [BitVec.toNat (0 : MReg)])) (posRow (rd0.g (5 : GReg))) (posK (rd0.g (5 : GReg))) (if true = true then (32 : Nat) else (16 : Nat))).snd))
    ∧ ((rd1.tensor (BitVec.toNat (5 : BitVec (8 : Nat))) = some (tn (5 : Nat)))
      ∧ (narrowPosOk (rd1.g 5) (tn 5) false = true)
      ∧ (effOf AccKind.store none rd1.cx.memdef = some vE)
      ∧ (rd1.core.node = none)
      ∧ (rd1.gate vE.ord vE.scope = true)
      ∧ (∀ (n : Nat), (n ∈ if false = true then [BitVec.toNat (1 : MReg), BitVec.toNat (1 : MReg) + (1 : Nat)] else [BitVec.toNat (1 : MReg)]) → rd1.core.tileBusy n = false)
      ∧ (rd1.checkAll AccKind.store vE.space (List.map (fun q => (q.fst, q.snd.fst)) (narrowWrites rd1.cx (tn (5 : Nat)) (List.map (fun n => (rd1.core.tile n).source) (if false = true then [BitVec.toNat (1 : MReg), BitVec.toNat (1 : MReg) + (1 : Nat)] else [BitVec.toNat (1 : MReg)])) (posRow (rd1.g (5 : GReg))) (posK (rd1.g (5 : GReg))) (if false = true then (32 : Nat) else (16 : Nat))).fst) = Except.ok (nwK rd1 (5 : Nat) [(1 : Nat)] (16 : Nat)))
      ∧ ((rd1.core.tile (BitVec.toNat (1 : MReg))).poison = true))
    ∧ (rd2.tensor (BitVec.toNat (5 : BitVec (8 : Nat))) = some (tn (5 : Nat)))
      ∧ (narrowPosOk (rd2.g 5) (tn 5) false = true)
      ∧ (effOf AccKind.store none rd2.cx.memdef = some vEc)
      ∧ (rd2.core.node = none)
      ∧ (rd2.gate vEc.ord vEc.scope = true)
      ∧ (∀ (n : Nat), (n ∈ if false = true then [BitVec.toNat (1 : MReg), BitVec.toNat (1 : MReg) + (1 : Nat)] else [BitVec.toNat (1 : MReg)]) → rd2.core.tileBusy n = false)
      ∧ (rd2.checkAll AccKind.store vEc.space (List.map (fun q => (q.fst, q.snd.fst)) (narrowWrites rd2.cx (tn (5 : Nat)) (List.map (fun n => (rd2.core.tile n).source) (if false = true then [BitVec.toNat (1 : MReg), BitVec.toNat (1 : MReg) + (1 : Nat)] else [BitVec.toNat (1 : MReg)])) (posRow (rd2.g (5 : GReg))) (posK (rd2.g (5 : GReg))) (if false = true then (32 : Nat) else (16 : Nat))).fst) = Except.ok (nwK rd2 (5 : Nat) [(1 : Nat)] (16 : Nat)))
      ∧ (∀ (n : Nat), (n ∈ if false = true then [BitVec.toNat (1 : MReg), BitVec.toNat (1 : MReg) + (1 : Nat)] else [BitVec.toNat (1 : MReg)]) → (rd2.core.tile n).poison = false)
      ∧ (vEc.chk = true)
      ∧ ((narrowWrites rd2.cx (tn (5 : Nat)) (List.map (fun n => (rd2.core.tile n).source) (if false = true then [BitVec.toNat (1 : MReg), BitVec.toNat (1 : MReg) + (1 : Nat)] else [BitVec.toNat (1 : MReg)])) (posRow (rd2.g (5 : GReg))) (posK (rd2.g (5 : GReg))) (if false = true then (32 : Nat) else (16 : Nat))).fst ≠ []) := by
  repeat' first
    | with_reducible apply And.intro
    | decide +kernel
    | exact ok_of (by decide +kernel)
theorem witness_PlanePassesGiveTheProduct :
    (((cmd 2 3).op = 1)
      ∧ (0 < (cmd 2 3).pb))
    ∧ ((cmd 1 1).op = 1)
      ∧ (0 < (cmd 1 1).pb) := by decide +kernel
theorem witness_MatrixEngineSteps :
    ((en1.core.mq = [cmd 2 3])
      ∧ (en1.core.frozen = true))
    ∧ ((en2.core.mq = [cmd 2 3])
      ∧ (en2.core.frozen = false)
      ∧ ((cmd 2 3).running = true)
      ∧ ((cmd 2 3).abandoned = false)
      ∧ ((cmd 2 3).step < (cmd 2 3).passes)
      ∧ ((cmd 2 3).m < 4)
      ∧ ((en2.core.slot (BitVec.ofNat 3 (cmd 2 3).a)).metaBad (cmd 2 3) = false)
      ∧ ((en2.core.slot (BitVec.ofNat 3 (cmd 2 3).b)).metaBad (cmd 2 3) = false)
      ∧ ((en2.core.slot (BitVec.ofNat 3 (cmd 2 3).a)).poison = false)
      ∧ ((en2.core.slot (BitVec.ofNat 3 (cmd 2 3).b)).poison = false))
    ∧ ((en3.core.mq = [q6])
      ∧ (en3.core.frozen = false)
      ∧ (q6.running = true)
      ∧ (q6.abandoned = true ∨ q6.passes ≤ q6.step))
    ∧ (((en4 5).core.mq = [cmd 2 3])
      ∧ ((en4 5).core.frozen = false))
    ∧ ((en4 6).core.mq = [cmd 2 3])
      ∧ ((en4 6).core.frozen = false) := by decide +kernel

/-! ## Accumulator tiles -/

def hnd (gen tile col : Nat) (bottom : Bool) : Word := makeHandle gen tile col bottom 0 0xABCD
def tr0 : State := (om1.setG 5 (hnd 3 7 1 false)).setG 6 0x105
def tr1 : State := cxd tr0 fun c => { c with asked := true, st := .waiting .reply }
def tr2 : State := cxd tr0 fun c => { c with asked := true, st := .waiting .reply, reply := some 0x205 }
def trB : State := om1.setG 5 (hnd 3 7 5 false)
def ac (k t c : Word) : State := ((om1.setG 5 k).setG 6 t).setG 7 c
def ac0 : State := ac 256 0x101 (BitVec.ofNat 64 (126 * 16 + 2048))
def ac1 : State := ac 0x1000000 0x404 (BitVec.ofNat 64 (127 * 16))
def ac2 : State := ac 0x1000001 0x404 (BitVec.ofNat 64 (127 * 16))
def ac3 : State := ac 0x1000000 0x404 (BitVec.ofNat 64 (2^19 + 127 * 16))
def ac0r : State := cxd ac0 fun c => { c with asked := true, reply := some 7 }
def trl (a : Bool) (l : Word) : State := cored (cxd tr0 fun c => { c with asked := a, reply := some 0x2105 }) fun c => { c with holder := some 0, lanes := 16, vsetl := l }
def trd : State := trl true 16
def trs : State := trl false 16
def trs' : State := trl false 8
def trdU : State := cored trd fun c => { c with sbuf := [⟨0, .ctx 0 0, .core 1, .w, true, 2, 4, 0, .store (sramKey 1 0x5000) 8 0, false⟩] }
def cn (lo hi : Word) (f : MTile → MTile) : State := cored (((om1.setG 5 (hnd 3 7 1 false)).setG 6 lo).setG 7 hi) fun c => { c with m := c.m.set 1 (f MTile.clear) }
def cn0 : State := cn 5 5 id
def cn1 : State := cn 0 0x1000000 fun t => { t with anchor := some 138, acc := [(3, -7)], marks := [4], count := 4096 }
def cn2 : State := cn 0 256 fun t => { t with poison := true }
def cnB : State := cn1.setG 5 (hnd 3 7 5 false)
def cn3 : State := cored cn1 fun c => { c with mq := [⟨1, 1, 1, 3, 0, 4, 1, 1, false, 0, true, 0, false, 5⟩] }
def tile0 : AccTile := ⟨true, [(3, 1)], [], false, 256, 138, 1, [(0, 64)], 3, 0xABCD, 0, 0, 0⟩
def pk (l h : Nat) : Packet := ⟨hnd 3 7 1 false, some 138, [(l, h)], 1, [(3, -7)], [], false, [(0, 0)]⟩
def cmsg (b : Body) : Msg := ⟨3, .ctx 0 0, .slice 1, .t, 0, true, [], [], 0, 0, b, false, [], 9990, .home⟩
def ce (l h : Nat) (ts : List (Nat × AccTile)) : State := { om1 with flight := [cmsg (.contrib 1 (pk l h))], tiles := ts }
def ce1 : State := ce 64 128 [(tileKey 1 7, tile0)]
def ce2 : State := ce 0 64 [(tileKey 1 7, tile0)]
def ce4 : State := ce 64 128 []
def sv (q : TileReq) (ts : List (Nat × AccTile)) : State := { cxd om1 (fun c => { c with st := .waiting .reply, asked := true }) with flight := [cmsg (.tile 1 q)], tiles := ts }
def h7 : Word := hnd 3 7 1 false
def h7o : Word := hnd 2 7 1 false
def sv1 : State := sv (.ardy h7) []
def sv2 : State := sv (.arel h7) []
def sv3 : State := sv (.aknock h7) []
def sv4 : State := sv (.astat h7 none) []
def tl : List (Nat × AccTile) := [(tileKey 1 7, tile0)]
def so1 : State := sv (.ardy h7o) tl
def so2 : State := sv (.arel h7o) tl
def so3 : State := sv (.aknock h7o) tl
def tileF : AccTile := { tile0 with record := [(0, 256)] }
def tileP : AccTile := { tile0 with poison := true }
def ss1 : State := sv (.ardy h7) tl
def ss1f : State := sv (.ardy h7) [(tileKey 1 7, tileF)]
def ss1p : State := sv (.ardy h7) [(tileKey 1 7, tileP)]
def ss2 : State := sv (.arel h7) tl
def ss3 : State := sv (.aknock h7) tl
def ss4 : State := sv (.astat h7 none) tl
def ac0w : State := cxd ac0 fun c => { c with asked := true }

theorem witness_TileRequestInstructions :
    ((tr0.handleSlice (tr0.g 5) = some 1)
      ∧ (tr0.cx.asked = false))
    ∧ ((tr1.handleSlice (tr1.g 5) = some 1)
      ∧ (tr1.cx.asked = true)
      ∧ (tr1.cx.reply = none))
    ∧ ((tr2.handleSlice (tr2.g 5) = some 1)
      ∧ (tr2.cx.asked = true)
      ∧ (tr2.cx.reply = some 517))
    ∧ ((trB.handleSlice (trB.g 5) = none)
      ∧ (trB.cx.asked = false)
      ∧ Instr.ardy 8 5 ∈ [Instr.ardy 8 5, Instr.aknock 8 5, Instr.arel 8 5, Instr.astat (some 2) 8 5])
    ∧ Instr.astat (some 2) 8 5 ∈ [Instr.ardy 8 5, Instr.aknock 8 5, Instr.arel 8 5, Instr.astat (some 2) 8 5]
    ∧ (BitVec.toNat (ac0.g 5) ≥ 1
      ∧ (BitVec.toNat (ac0.g 5) ≤ 2 ^ 24)
      ∧ (BitVec.toNat (ac0.g 6) < 2 ^ 16)
      ∧ (BitVec.toNat (ac0.g 7) < 2 ^ 18)
      ∧ (ac0.sliceAt (bits (ac0.g 7) 3 0) (bits (ac0.g 7) 10 4) (bits (ac0.g 7) 17 11) = some 1)
      ∧ (ac0.claimAnchor (bits (ac0.g 6) 7 0) (bits (ac0.g 6) 15 8) = Except.ok 138)
      ∧ (ac0.cx.asked = false))
    ∧ (BitVec.toNat (ac1.g 5) ≥ 1
      ∧ (BitVec.toNat (ac1.g 5) ≤ 2 ^ 24)
      ∧ (BitVec.toNat (ac1.g 6) < 2 ^ 16)
      ∧ (BitVec.toNat (ac1.g 7) < 2 ^ 18)
      ∧ (ac1.sliceAt (bits (ac1.g 7) 3 0) (bits (ac1.g 7) 10 4) (bits (ac1.g 7) 17 11) = some 80)
      ∧ (ac1.claimAnchor (bits (ac1.g 6) 7 0) (bits (ac1.g 6) 15 8) = Except.ok 266)
      ∧ (ac1.cx.asked = false))
    ∧ (BitVec.toNat (ac0r.g 5) ≥ 1
      ∧ (BitVec.toNat (ac0r.g 5) ≤ 2 ^ 24)
      ∧ (BitVec.toNat (ac0r.g 6) < 2 ^ 16)
      ∧ (BitVec.toNat (ac0r.g 7) < 2 ^ 18)
      ∧ (ac0r.sliceAt (bits (ac0r.g 7) 3 0) (bits (ac0r.g 7) 10 4) (bits (ac0r.g 7) 17 11) = some 1)
      ∧ (ac0r.claimAnchor (bits (ac0r.g 6) 7 0) (bits (ac0r.g 6) 15 8) = Except.ok 138)
      ∧ (ac0r.cx.asked = true)
      ∧ (ac0r.cx.reply = some 7))
    ∧ ((ac2.cx.asked = false)
      ∧ (ac2.claimAnchor (bits (ac2.g 6) 7 0) (bits (ac2.g 6) 15 8) = Except.ok 266)
      ∧ (BitVec.toNat (ac2.g 5) = 0 ∨ 2 ^ 24 < BitVec.toNat (ac2.g 5) ∨ 2 ^ 16 ≤ BitVec.toNat (ac2.g 6) ∨ 2 ^ 19 ≤ BitVec.toNat (ac2.g 7)))
    ∧ ((ac3.cx.asked = false)
      ∧ (ac3.claimAnchor (bits (ac3.g 6) 7 0) (bits (ac3.g 6) 15 8) = Except.ok 266)
      ∧ (BitVec.toNat (ac3.g 5) = 0 ∨ 2 ^ 24 < BitVec.toNat (ac3.g 5) ∨ 2 ^ 16 ≤ BitVec.toNat (ac3.g 6) ∨ 2 ^ 19 ≤ BitVec.toNat (ac3.g 7)))
    ∧ BitVec.toNat (ac0w.g 5) ≥ 1
      ∧ (BitVec.toNat (ac0w.g 5) ≤ 2 ^ 24)
      ∧ (BitVec.toNat (ac0w.g 6) < 2 ^ 16)
      ∧ (BitVec.toNat (ac0w.g 7) < 2 ^ 18)
      ∧ (ac0w.sliceAt (bits (ac0w.g 7) 3 0) (bits (ac0w.g 7) 10 4) (bits (ac0w.g 7) 17 11) = some 1)
      ∧ (ac0w.claimAnchor (bits (ac0w.g 6) 7 0) (bits (ac0w.g 6) 15 8) = Except.ok 138)
      ∧ (ac0w.cx.asked = true)
      ∧ (ac0w.cx.reply = none) := by
  repeat' first
    | with_reducible apply And.intro
    | decide +kernel
    | exact ok_of (by decide +kernel)
theorem witness_TileReads :
    ((trd.cx.reply = some 8453)
      ∧ (trd.cx.asked = true)
      ∧ (trd.unapplied trd.mine = false))
    ∧ ((trdU.cx.reply = some 8453)
      ∧ (trdU.cx.asked = true)
      ∧ (trdU.unapplied trdU.mine = true))
    ∧ quietFlags trd (Fl.ofBits (BitVec.toNat (8453 : Word) / (256 : Nat) % (64 : Nat)))
    ∧ ((trs.cx.reply = some 8453)
      ∧ (trs.cx.asked = false)
      ∧ (trs.noLanes = false)
      ∧ (16 ≤ BitVec.toNat trs.core.vsetl)
      ∧ (BitVec.toNat (trs.g 0) ≤ 15)
      ∧ (trs.handleSlice (trs.g 5) = some 1))
    ∧ ((trs'.cx.reply = some 8453)
      ∧ (trs'.cx.asked = false)
      ∧ (trs'.noLanes = false)
      ∧ (BitVec.toNat trs'.core.vsetl < 16 ∨ 15 < BitVec.toNat (trs'.g 0)))
    ∧ (BitVec.toNat trs.core.vsetl < 16 ∨ 15 < BitVec.toNat (trs.g 6)) := by decide +kernel
theorem witness_ContributionsAreSent :
    (BitVec.toNat (cn0.g (7 : GReg)) ≤ BitVec.toNat (cn0.g (6 : GReg)) ∨ (2 : Nat) ^ (24 : Nat) < BitVec.toNat (cn0.g (7 : GReg)) ∨ bits (cn0.g (5 : GReg)) (31 : Nat) (28 : Nat) ≠ (0 : Nat) ∨ (4096 : Nat) < (cn0.core.tile (BitVec.toNat (1 : MReg))).count)
    ∧ ((BitVec.toNat (cnB.g 6) < BitVec.toNat (cnB.g 7))
      ∧ (BitVec.toNat (cnB.g 7) ≤ 2 ^ 24)
      ∧ (bits (cnB.g 5) 31 28 = 0)
      ∧ ((cnB.core.tile (BitVec.toNat (1 : MReg))).count ≤ (4096 : Nat))
      ∧ (cnB.handleSlice (cnB.g 5) = none))
    ∧ ((BitVec.toNat (cn3.g 6) < BitVec.toNat (cn3.g 7))
      ∧ (BitVec.toNat (cn3.g 7) ≤ 2 ^ 24)
      ∧ (bits (cn3.g 5) 31 28 = 0)
      ∧ ((cn3.core.tile (BitVec.toNat (1 : MReg))).count ≤ (4096 : Nat))
      ∧ (cn3.handleSlice (cn3.g 5) = some 1)
      ∧ (cn3.core.tileBusy (BitVec.toNat (1 : MReg)) = true))
    ∧ ((BitVec.toNat (cn2.g 6) < BitVec.toNat (cn2.g 7))
      ∧ (BitVec.toNat (cn2.g 7) ≤ 2 ^ 24)
      ∧ (bits (cn2.g 5) 31 28 = 0)
      ∧ ((cn2.core.tile (BitVec.toNat (1 : MReg))).count ≤ (4096 : Nat))
      ∧ (cn2.handleSlice (cn2.g 5) = some 1)
      ∧ (cn2.core.tileBusy (BitVec.toNat (1 : MReg)) = false)
      ∧ ((cn2.core.tile (BitVec.toNat (1 : MReg))).poison = true))
    ∧ (BitVec.toNat (cn1.g 6) < BitVec.toNat (cn1.g 7))
      ∧ (BitVec.toNat (cn1.g 7) ≤ 2 ^ 24)
      ∧ (bits (cn1.g 5) 31 28 = 0)
      ∧ ((cn1.core.tile (BitVec.toNat (1 : MReg))).count ≤ (4096 : Nat))
      ∧ (cn1.handleSlice (cn1.g 5) = some 1)
      ∧ (cn1.core.tileBusy (BitVec.toNat (1 : MReg)) = false)
      ∧ ((cn1.core.tile (BitVec.toNat (1 : MReg))).poison = false)
      ∧ (cn1.matching (Home.slice 1) = []) := by
  repeat' first
    | with_reducible apply And.intro
    | decide +kernel
theorem witness_AcceptedContributionsAreDisjoint :
    (outcome tile0 (pk 64 128) false = 0)
    ∧ (outcome tile0 (pk 128 256) false = 0) := by decide +kernel
theorem witness_ContributionsAreEvaluated :
    ((ce1.msg 3 = some (cmsg (Body.contrib 1 (pk 64 128))))
      ∧ ((cmsg (Body.contrib 1 (pk 64 128))).body = Body.contrib 1 (pk 64 128))
      ∧ (ce1.atHead (cmsg (Body.contrib 1 (pk 64 128))) = true)
      ∧ (ce1.tileOf 1 (pk 64 128).handle = some tile0))
    ∧ ((ce2.msg 3 = some (cmsg (Body.contrib 1 (pk 0 64))))
      ∧ ((cmsg (Body.contrib 1 (pk 0 64))).body = Body.contrib 1 (pk 0 64))
      ∧ (ce2.atHead (cmsg (Body.contrib 1 (pk 0 64))) = true)
      ∧ (ce2.tileOf 1 (pk 0 64).handle = some tile0))
    ∧ (ce4.msg 3 = some (cmsg (Body.contrib 1 (pk 64 128))))
      ∧ (ce4.atHead (cmsg (Body.contrib 1 (pk 64 128))) = true)
      ∧ (ce4.tileOf 1 (pk 64 128).handle = none)
      ∧ (Table.find ce4.tiles (tileKey 1 (handleTile (pk 64 128).handle)) = none)
      ∧ ((pk 64 128).from_ = [(ce4.id, ce4.core.k)])
      ∧ (ce4.cx.st.live = true)
      ∧ (bit ce4.cx.errpend 0 = false)
      ∧ (BitVec.toNat (pk 64 128).handle < 2 ^ 63) := by decide +kernel
theorem witness_TileRequestsAreServed :
    ((sv1.msg 3 = some (cmsg (Body.tile 1 (TileReq.ardy h7))))
      ∧ ((cmsg (Body.tile 1 (TileReq.ardy h7))).src = Src.ctx sv1.id sv1.core.k)
      ∧ (sv1.atHead (cmsg (Body.tile 1 (TileReq.ardy h7))) = true)
      ∧ (sv1.aheadOf (cmsg (Body.tile 1 (TileReq.ardy h7))) (Home.slice 1) = false)
      ∧ (sv1.tileOf 1 h7 = none)
      ∧ ((cmsg (Body.tile 1 (TileReq.ardy h7))).body = Body.tile 1 (TileReq.ardy h7)))
    ∧ ((sv2.msg 3 = some (cmsg (Body.tile 1 (TileReq.arel h7))))
      ∧ ((cmsg (Body.tile 1 (TileReq.arel h7))).src = Src.ctx sv2.id sv2.core.k)
      ∧ (sv2.atHead (cmsg (Body.tile 1 (TileReq.arel h7))) = true)
      ∧ (sv2.aheadOf (cmsg (Body.tile 1 (TileReq.arel h7))) (Home.slice 1) = false)
      ∧ (sv2.tileOf 1 h7 = none)
      ∧ ((cmsg (Body.tile 1 (TileReq.arel h7))).body = Body.tile 1 (TileReq.arel h7)))
    ∧ ((sv3.msg 3 = some (cmsg (Body.tile 1 (TileReq.aknock h7))))
      ∧ ((cmsg (Body.tile 1 (TileReq.aknock h7))).src = Src.ctx sv3.id sv3.core.k)
      ∧ (sv3.atHead (cmsg (Body.tile 1 (TileReq.aknock h7))) = true)
      ∧ (sv3.aheadOf (cmsg (Body.tile 1 (TileReq.aknock h7))) (Home.slice 1) = false)
      ∧ (sv3.tileOf 1 h7 = none)
      ∧ ((cmsg (Body.tile 1 (TileReq.aknock h7))).body = Body.tile 1 (TileReq.aknock h7)))
    ∧ ((sv4.msg 3 = some (cmsg (Body.tile 1 (TileReq.astat h7 none))))
      ∧ ((cmsg (Body.tile 1 (TileReq.astat h7 none))).src = Src.ctx sv4.id sv4.core.k)
      ∧ (sv4.atHead (cmsg (Body.tile 1 (TileReq.astat h7 none))) = true)
      ∧ (sv4.aheadOf (cmsg (Body.tile 1 (TileReq.astat h7 none))) (Home.slice 1) = false)
      ∧ (sv4.tileOf 1 h7 = none)
      ∧ ((cmsg (Body.tile 1 (TileReq.astat h7 none))).body = Body.tile 1 (TileReq.astat h7 none)))
    ∧ ((so1.msg 3 = some (cmsg (Body.tile 1 (TileReq.ardy h7o))))
      ∧ ((cmsg (Body.tile 1 (TileReq.ardy h7o))).src = Src.ctx so1.id so1.core.k)
      ∧ (so1.atHead (cmsg (Body.tile 1 (TileReq.ardy h7o))) = true)
      ∧ (so1.aheadOf (cmsg (Body.tile 1 (TileReq.ardy h7o))) (Home.slice 1) = false)
      ∧ (so1.tileOf 1 h7o = some tile0)
      ∧ (bits h7o 7 0 ≠ tile0.gen)
      ∧ ((cmsg (Body.tile 1 (TileReq.ardy h7o))).body = Body.tile 1 (TileReq.ardy h7o)))
    ∧ ((so2.msg 3 = some (cmsg (Body.tile 1 (TileReq.arel h7o))))
      ∧ ((cmsg (Body.tile 1 (TileReq.arel h7o))).src = Src.ctx so2.id so2.core.k)
      ∧ (so2.atHead (cmsg (Body.tile 1 (TileReq.arel h7o))) = true)
      ∧ (so2.aheadOf (cmsg (Body.tile 1 (TileReq.arel h7o))) (Home.slice 1) = false)
      ∧ (so2.tileOf 1 h7o = some tile0)
      ∧ ((cmsg (Body.tile 1 (TileReq.arel h7o))).body = Body.tile 1 (TileReq.arel h7o)))
    ∧ ((so3.msg 3 = some (cmsg (Body.tile 1 (TileReq.aknock h7o))))
      ∧ ((cmsg (Body.tile 1 (TileReq.aknock h7o))).src = Src.ctx so3.id so3.core.k)
      ∧ (so3.atHead (cmsg (Body.tile 1 (TileReq.aknock h7o))) = true)
      ∧ (so3.aheadOf (cmsg (Body.tile 1 (TileReq.aknock h7o))) (Home.slice 1) = false)
      ∧ (so3.tileOf 1 h7o = some tile0)
      ∧ ((cmsg (Body.tile 1 (TileReq.aknock h7o))).body = Body.tile 1 (TileReq.aknock h7o)))
    ∧ ((ss1.msg 3 = some (cmsg (Body.tile 1 (TileReq.ardy h7))))
      ∧ ((cmsg (Body.tile 1 (TileReq.ardy h7))).src = Src.ctx ss1.id ss1.core.k)
      ∧ (ss1.atHead (cmsg (Body.tile 1 (TileReq.ardy h7))) = true)
      ∧ (ss1.aheadOf (cmsg (Body.tile 1 (TileReq.ardy h7))) (Home.slice 1) = false)
      ∧ (ss1.tileOf 1 h7 = some tile0)
      ∧ (bits h7 7 0 = tile0.gen)
      ∧ (tile0.poison = false))
    ∧ ((ss1f.msg 3 = some (cmsg (Body.tile 1 (TileReq.ardy h7))))
      ∧ ((cmsg (Body.tile 1 (TileReq.ardy h7))).src = Src.ctx ss1f.id ss1f.core.k)
      ∧ (ss1f.atHead (cmsg (Body.tile 1 (TileReq.ardy h7))) = true)
      ∧ (ss1f.aheadOf (cmsg (Body.tile 1 (TileReq.ardy h7))) (Home.slice 1) = false)
      ∧ (ss1f.tileOf 1 h7 = some tileF)
      ∧ (bits h7 7 0 = tileF.gen)
      ∧ (tileF.poison = false))
    ∧ ((ss1p.msg 3 = some (cmsg (Body.tile 1 (TileReq.ardy h7))))
      ∧ ((cmsg (Body.tile 1 (TileReq.ardy h7))).src = Src.ctx ss1p.id ss1p.core.k)
      ∧ (ss1p.atHead (cmsg (Body.tile 1 (TileReq.ardy h7))) = true)
      ∧ (ss1p.aheadOf (cmsg (Body.tile 1 (TileReq.ardy h7))) (Home.slice 1) = false)
      ∧ (ss1p.tileOf 1 h7 = some tileP)
      ∧ (bits h7 7 0 = tileP.gen)
      ∧ (tileP.poison = true))
    ∧ ((ss2.msg 3 = some (cmsg (Body.tile 1 (TileReq.arel h7))))
      ∧ ((cmsg (Body.tile 1 (TileReq.arel h7))).src = Src.ctx ss2.id ss2.core.k)
      ∧ (ss2.atHead (cmsg (Body.tile 1 (TileReq.arel h7))) = true)
      ∧ (ss2.aheadOf (cmsg (Body.tile 1 (TileReq.arel h7))) (Home.slice 1) = false)
      ∧ (ss2.tileOf 1 h7 = some tile0))
    ∧ ((ss3.msg 3 = some (cmsg (Body.tile 1 (TileReq.aknock h7))))
      ∧ ((cmsg (Body.tile 1 (TileReq.aknock h7))).src = Src.ctx ss3.id ss3.core.k)
      ∧ (ss3.atHead (cmsg (Body.tile 1 (TileReq.aknock h7))) = true)
      ∧ (ss3.aheadOf (cmsg (Body.tile 1 (TileReq.aknock h7))) (Home.slice 1) = false)
      ∧ (ss3.tileOf 1 h7 = some tile0))
    ∧ (ss4.msg 3 = some (cmsg (Body.tile 1 (TileReq.astat h7 none))))
      ∧ ((cmsg (Body.tile 1 (TileReq.astat h7 none))).src = Src.ctx ss4.id ss4.core.k)
      ∧ (ss4.atHead (cmsg (Body.tile 1 (TileReq.astat h7 none))) = true)
      ∧ (ss4.aheadOf (cmsg (Body.tile 1 (TileReq.astat h7 none))) (Home.slice 1) = false)
      ∧ (ss4.tileOf 1 h7 = some tile0) := by
  repeat' first
    | with_reducible apply And.intro
    | decide +kernel

/-! ## Copy engine, die queries -/

def memW (a : Nat) (l : List Nat) : List Host.Cell := (List.range l.length).foldl (fun m j => Memory.putN m (a + 8 * j) 8 (l.getD j 0)) []
def cp (l : List Nat) : State := { om1.setG 5 0xF000000004000 with mem := memW (sramKey 0 0x4000) l, vifs := [(0, { vif4 with peers := [(1, 5, 2^38)], routines := [(16, 0, 0)] })] }
def cpCopy : State := cp [0xF000000005000, 0xF000000006000, 256, 0, 0xF000000004100, 1, 2]
def cpFar : State := cp [0xF000000005000, (coordAddr 0 0 1 0x5000).toNat, 256, 0, 0, 1, 2]
def cmd0 : Cmd := ⟨0, 0, 0, .copy, [], 0, 0x122, 0, 0, true, .queued, false, 0, false, 0, 0, 0, 0, [], [], 0, false, none, [], [], 0, 5, 5⟩
def cpBusy : State := cored cpFar fun c => { c with cmds := [cmd0, { cmd0 with tag := 1 }], seqs := [(0, 0), (1, 0)] }
def cpCode : State := cp [0xF000000005000, 0xF000000000800, 256, 0, 0, 1, 2]
def cp2d : State := cp [0xF000000005000, 0xF000000006000, 64 + 3 * 2 ^ 32, 128 + 64 * 2 ^ 32, 0, 1, 2]
def cpDeal : State := cxd (cp [0x100000, 0, 256, 0, 0, 1, 2]) fun c => { c with pattern := BitVec.ofNat 64 (2 + 0x280 * 2 ^ 7 + 4 * 2 ^ 17 + 1 * 2 ^ 30) }
def cpGath : State := cp [0xF000000005000, 0xF000000006000, 64 + 3 * 2 ^ 32, 0, 0, 1, 2, 0xF000000007000]
def cpPut : State := cp [0xF000000005000, 0xF800000000000 + 2 ^ 38, 256, 0, 0, 1, 2]
def cpGet : State := cp [0xF800000000000 + 2 ^ 38, 0xF000000005000, 256, 0, 0, 1, 2]
def cpA : State := cpCopy.setG 5 0xF000000004020
def cpM : State := cpCopy.setG 5 0x4000
def cpX : State := cpCopy.setG 5 0xF000000003FC0
def xs : State := (cored om1 fun c => { c with frozen := true, cmds := [{ cmd0 with tag := 3, seq := 2, st := .running, code := 0x11, sub := 2, doneb := 2 ^ 41 }] }).setG 5 0x103
def dsc (mb : Nat) : List Word := [0xF000000005000, 0xF000000006000, 300, 0, BitVec.ofNat 64 mb, 1, 2, 0]
def cmdR : Cmd := { cmd0 with desc := dsc 0, taken := true }
def ces (m : Cmd) (fz : Bool) : State := cored cpCopy fun c => { c with cmds := [m], frozen := fz, seqs := [(0, 0)] }
def cs1 : State := ces cmd0 false
def cs2 : State := ces cmdR true
def cs3 : State := ces cmdR false
def cmdD (mb code : Nat) (cancel : Bool) (st : Nat) : Cmd := { cmdR with desc := dsc mb, st := .running, step := st, code := code, cancel := cancel }
def cd1 : State := ces (cmdD 0xF000000004100 0 false 2) false
def cd2 : State := ces (cmdD 0xF000000004100 0x11 false 1) false
def cmdR1 : Cmd := { cmdR with st := .running, step := 1 }
def cs4 : State := ces cmdR1 false
def cmdK (k : CopyKind) (w : List Word) : Cmd := { cmdR with kind := k, desc := w }
def cesK (b : State) (m : Cmd) : State := cored b fun c => { c with cmds := [m], seqs := [(0, 0)] }
def mPut : Cmd := cmdK .put [0xF000000005000, 0xF800000000000 + 2 ^ 38 + 32, 128, 0, 0, 1, 2, 0]
def mGet : Cmd := cmdK .get [0xF800000000000 + 2 ^ 38 + 32, 0xF000000005000, 128, 0, 0, 1, 2, 0]
def mGath : Cmd := cmdK .gather [0xF000000005000, 0xF000000006000, 64 + 3 * 2 ^ 32, 0, 0, 1, 2, 0xF000000007000]
def mDeal (start : Nat) : Cmd := { cmdK .deal [0xF000000005000, 0, 256, 0, 0, 1, 2, 0] with pattern := BitVec.ofNat 64 (2 + 0x280 * 2 ^ 7 + 4 * 2 ^ 17 + 1 * 2 ^ 30 + start * 2 ^ 43) }
def mKick : Cmd := cmdK (.kick 16) [0, 0, 0, 0, 0, 1, 2, 0]
def ceP : State := cesK cpPut mPut
def ceG : State := cesK cpGet mGet
def ceX : State := { cesK cpGath mGath with mem := [(sramKey 0 0x7000, 1)] }
def ceD : State := cesK cpDeal (mDeal 0)
def ceE : State := cesK cpDeal (mDeal 9)
def ceK : State := cesK cpCopy mKick
def cd4 : State := ces (cmdD 0xF000000003F00 0 false 2) false
def vif2 : Vif := { Vif.empty with dies := [(0, 0), (5, 77)], trays := [⟨[some ⟨0, 0, 2, 2⟩, some ⟨0, 0, 2, 2⟩], [], 3, 0x01F9CC3E, .running, [], [], Image.empty⟩] }
def dq : State := (({ based with vifs := [(0, vif2)] } : State).setG 5 1).setG 6 0
def dqB : State := dq.setG 5 2
def busy (s : State) : State := cored s fun c => { c with cmds := [cmd0, { cmd0 with tag := 1 }], seqs := [(0, 0), (1, 0)] }
def cmdX : Cmd := { cmd0 with tag := 3, seq := 2, st := .running, code := 0x11, sub := 2, doneb := 2 ^ 41 }

theorem witness_CopyEngineSteps :
    ((cmd0.ctx = cs1.core.k)
      ∧ (List.find? (fun x => x.st == CmdSt.queued && !x.taken) cs1.core.cmds = some cmd0)
      ∧ (cs1.takeReady cmd0 = true))
    ∧ ((cmdR.ctx = cs2.core.k)
      ∧ (List.find? (fun x => x.tag == cmdR.tag) cs2.core.cmds = some cmdR)
      ∧ (cs2.core.frozen = true)
      ∧ (cs2.core.stepOpen cs2.cy cmdR = false))
    ∧ ((cmdR.ctx = cs3.core.k)
      ∧ (List.find? (fun x => x.tag == cmdR.tag) cs3.core.cmds = some cmdR)
      ∧ mayStep cs3 cmdR
      ∧ (cmdR.chunk = some (Chunk.move 4222124650680320 4222124650684416 256))
      ∧ (cmdR.kind = CopyKind.copy ∨ cmdR.kind = CopyKind.code ∨ cmdR.kind = CopyKind.twoD)
      ∧ (firstWait (cs3.engineMove cmdR (BitVec.ofNat 64 (Int.toNat 4222124650680320)) (BitVec.ofNat 64 (Int.toNat 4222124650684416)) 256) = none))
    ∧ ((cmdR1.ctx = cs4.core.k)
      ∧ (List.find? (fun x => x.tag == cmdR1.tag) cs4.core.cmds = some cmdR1)
      ∧ mayStep cs4 cmdR1
      ∧ (cmdR1.chunk = some (Chunk.move 4222124650680576 4222124650684672 44))
      ∧ (cmdR1.kind = CopyKind.copy ∨ cmdR1.kind = CopyKind.code ∨ cmdR1.kind = CopyKind.twoD)
      ∧ (firstWait (cs4.engineMove cmdR1 (BitVec.ofNat 64 (Int.toNat 4222124650680576)) (BitVec.ofNat 64 (Int.toNat 4222124650684672)) 44) = none))
    ∧ ((mPut.ctx = ceP.core.k)
      ∧ (List.find? (fun x => x.tag == mPut.tag) ceP.core.cmds = some mPut)
      ∧ mayStep ceP mPut
      ∧ (mPut.chunk = some (Chunk.move 4222124650680320 (4362862139015168 + 2 ^ 38 + 32) 128))
      ∧ (mPut.kind = CopyKind.put)
      ∧ (((cutAt (64 : Nat) (128 : Nat) (BitVec.ofNat (64 : Nat) ((4362862139015168 : Int) + (2 : Int) ^ (38 : Nat) + (32 : Int)).toNat).toNat (0 : Nat) (128 : Nat)).all fun p => (ceP.engineRead mPut (BitVec.ofNat (64 : Nat) (Int.toNat (4222124650680320 : Int)) + BitVec.ofNat (64 : Nat) p.fst) p.snd).toBool && ceP.peerOk (peerOf (BitVec.ofNat (64 : Nat) ((4362862139015168 : Int) + (2 : Int) ^ (38 : Nat) + (32 : Int)).toNat + BitVec.ofNat (64 : Nat) p.fst))) = true)
      ∧ (ceP.injectFull (cutAt (64 : Nat) (128 : Nat) (BitVec.ofNat (64 : Nat) ((4362862139015168 : Int) + (2 : Int) ^ (38 : Nat) + (32 : Int)).toNat).toNat (0 : Nat) (128 : Nat)).length = false))
    ∧ ((mGet.ctx = ceG.core.k)
      ∧ (List.find? (fun x => x.tag == mGet.tag) ceG.core.cmds = some mGet)
      ∧ mayStep ceG mGet
      ∧ (mGet.chunk = some (Chunk.move (4362862139015168 + 2 ^ 38 + 32) 4222124650680320 128))
      ∧ (mGet.kind = CopyKind.get)
      ∧ (((cutAt (64 : Nat) (128 : Nat) (BitVec.ofNat (64 : Nat) ((4362862139015168 : Int) + (2 : Int) ^ (38 : Nat) + (32 : Int)).toNat).toNat (0 : Nat) (128 : Nat)).all fun p => ceG.peerOk (peerOf (BitVec.ofNat (64 : Nat) ((4362862139015168 : Int) + (2 : Int) ^ (38 : Nat) + (32 : Int)).toNat + BitVec.ofNat (64 : Nat) p.fst)) && (cutAt (8 : Nat) p.snd ((BitVec.ofNat (64 : Nat) (Int.toNat (4222124650680320 : Int))).toNat + p.fst) (0 : Nat) p.snd).all fun q => (ceG.engineKeys mGet AccKind.store (BitVec.ofNat (64 : Nat) (Int.toNat (4222124650680320 : Int)) + BitVec.ofNat (64 : Nat) (p.fst + q.fst)) q.snd).toBool) = true)
      ∧ (ceG.injectFull (cutAt (64 : Nat) (128 : Nat) (BitVec.ofNat (64 : Nat) ((4362862139015168 : Int) + (2 : Int) ^ (38 : Nat) + (32 : Int)).toNat).toNat (0 : Nat) (128 : Nat)).length = false)
      ∧ (ceG.recvFull (List.map (fun p => (p.snd + (7 : Nat)) / (8 : Nat)) (cutAt (64 : Nat) (128 : Nat) (BitVec.ofNat (64 : Nat) ((4362862139015168 : Int) + (2 : Int) ^ (38 : Nat) + (32 : Int)).toNat).toNat (0 : Nat) (128 : Nat))).sum = false))
    ∧ ((mGath.ctx = ceX.core.k)
      ∧ (List.find? (fun x => x.tag == mGath.tag) ceX.core.cmds = some mGath)
      ∧ mayStep ceX mGath
      ∧ (mGath.chunk = some (Chunk.elem 0 0 64))
      ∧ (ceX.engineRead mGath (BitVec.ofNat 64 ((Desc.of mGath.desc).idx + 4 * 0)) 4 = Except.ok [1, 0, 0, 0])
      ∧ (firstWait (((ceX.engineSaw mGath (BitVec.ofNat (64 : Nat) ((Desc.of mGath.desc).idx + (4 : Nat) * (0 : Nat))) (4 : Nat)).engineTouch mGath (BitVec.ofNat (64 : Nat) ((Desc.of mGath.desc).idx + (4 : Nat) * (0 : Nat))) (4 : Nat)).engineMove mGath (BitVec.ofInt (64 : Nat) (↑(Desc.of mGath.desc).src + (BitVec.ofNat (32 : Nat) (bytesNat [(1 : Byte), (0 : Byte), (0 : Byte), (0 : Byte)])).toInt * ↑(Desc.of mGath.desc).len + ↑(0 : Nat))) (BitVec.ofNat (64 : Nat) ((Desc.of mGath.desc).dst + (0 : Nat) * (Desc.of mGath.desc).len + (0 : Nat))) (64 : Nat)) = none))
    ∧ (((mDeal 9).ctx = ceE.core.k)
      ∧ (List.find? (fun x => x.tag == (mDeal 9).tag) ceE.core.cmds = some (mDeal 9))
      ∧ mayStep ceE (mDeal 9)
      ∧ ((mDeal 9).chunk = some (Chunk.block 0 0 64))
      ∧ (ceE.lidxCore ((Deal.of (mDeal 9).pattern).start + 0 % (Deal.of (mDeal 9).pattern).count * (Deal.of (mDeal 9).pattern).stride) = none))
    ∧ (((mDeal 0).ctx = ceD.core.k)
      ∧ (List.find? (fun x => x.tag == (mDeal 0).tag) ceD.core.cmds = some (mDeal 0))
      ∧ mayStep ceD (mDeal 0)
      ∧ ((mDeal 0).chunk = some (Chunk.block 0 0 64))
      ∧ (ceD.lidxCore ((Deal.of (mDeal 0).pattern).start + 0 % (Deal.of (mDeal 0).pattern).count * (Deal.of (mDeal 0).pattern).stride) = some 0)
      ∧ (firstWait (ceD.engineMove (mDeal 0) (BitVec.ofNat 64 ((Desc.of (mDeal 0).desc).src + 0 * (Deal.of (mDeal 0).pattern).blk + 0)) (coordAddr (ceD.myVif.vdOf (pdieOf 0)) (rowOf 0) (colOf 0) ((Deal.of (mDeal 0).pattern).lbase + 0 / (Deal.of (mDeal 0).pattern).count * (Deal.of (mDeal 0).pattern).blk + 0)) 64) = none))
    ∧ ((mKick.ctx = ceK.core.k)
      ∧ (List.find? (fun x => x.tag == mKick.tag) ceK.core.cmds = some mKick)
      ∧ mayStep ceK mKick
      ∧ (mKick.kind = CopyKind.kick 16))
    ∧ (((cmdD 4222124650676480 0 false 2).ctx = cd1.core.k)
      ∧ (List.find? (fun x => x.tag == (cmdD 4222124650676480 0 false 2).tag && x.active) cd1.core.cmds = some (cmdD 4222124650676480 0 false 2))
      ∧ (cd1.core.frozen = false)
      ∧ ((cmdD 4222124650676480 0 false 2).st = CmdSt.running)
      ∧ ((cmdD 4222124650676480 0 false 2).code ≠ 0 ∨ (cmdD 4222124650676480 0 false 2).cancel = true ∨ (cmdD 4222124650676480 0 false 2).chunk = none)
      ∧ (cd1.threadOpen cd1.id (cmdD 4222124650676480 0 false 2).tag = false)
      ∧ ((cmdD 4222124650676480 0 false 2).awaits = [])
      ∧ (cd1.mboxBelow (cmdD 4222124650676480 0 false 2) = false))
    ∧ (((cmdD 4222124650676480 17 false 1).ctx = cd2.core.k)
      ∧ (List.find? (fun x => x.tag == (cmdD 4222124650676480 17 false 1).tag && x.active) cd2.core.cmds = some (cmdD 4222124650676480 17 false 1))
      ∧ (cd2.core.frozen = false)
      ∧ ((cmdD 4222124650676480 17 false 1).st = CmdSt.running)
      ∧ ((cmdD 4222124650676480 17 false 1).code ≠ 0 ∨ (cmdD 4222124650676480 17 false 1).cancel = true ∨ (cmdD 4222124650676480 17 false 1).chunk = none)
      ∧ (cd2.threadOpen cd2.id (cmdD 4222124650676480 17 false 1).tag = false)
      ∧ ((cmdD 4222124650676480 17 false 1).awaits = [])
      ∧ (cd2.mboxBelow (cmdD 4222124650676480 17 false 1) = false))
    ∧ ((cmdD 4222124650675968 0 false 2).ctx = cd4.core.k)
      ∧ (List.find? (fun x => x.tag == (cmdD 4222124650675968 0 false 2).tag && x.active) cd4.core.cmds = some (cmdD 4222124650675968 0 false 2))
      ∧ (cd4.core.frozen = false)
      ∧ ((cmdD 4222124650675968 0 false 2).st = CmdSt.running)
      ∧ ((cmdD 4222124650675968 0 false 2).code ≠ 0 ∨ (cmdD 4222124650675968 0 false 2).cancel = true ∨ (cmdD 4222124650675968 0 false 2).chunk = none)
      ∧ (cd4.threadOpen cd4.id (cmdD 4222124650675968 0 false 2).tag = false)
      ∧ ((cmdD 4222124650675968 0 false 2).awaits = [])
      ∧ (cd4.mboxBelow (cmdD 4222124650675968 0 false 2) = true)
      ∧ ((Desc.of (cmdD 4222124650675968 0 false 2).desc).mbox ≠ 0)
      ∧ ((cmdD 4222124650675968 0 false 2).code = 0)
      ∧ ((cmdD 4222124650675968 0 false 2).cancel = false) := by
  repeat' first
    | with_reducible apply And.intro
    | decide +kernel
    | exact ok_of (by decide +kernel)
theorem witness_DieQueries :
    (dqB.vdCount ≤ BitVec.toNat (dqB.g 5) ∨ dqB.vdCount ≤ BitVec.toNat (dqB.g 6))
    ∧ ((BitVec.toNat (dq.g 5) < dq.vdCount)
      ∧ (BitVec.toNat (dq.g 6) < dq.vdCount))
    ∧ (dqB.vdCount ≤ BitVec.toNat (dqB.g 5))
    ∧ (BitVec.toNat (dq.g 5) < 16)
    ∧ (∀ (e : Nat), e < 16 → dq.excluded e = false)
      ∧ (15 < 16)
      ∧ (1 < 16) := by decide +kernel
/-- Nothing is bound in a context with no tempo binding. -/
theorem matching_unbound (s : State) (h : Home) (e : s.cx.ta = Vector.replicate 16 0) : s.matching h = [] := by
  simp only [State.matching, e]
  have : ∀ b ∈ (Vector.replicate 16 (0 : Word)).toList, s.bindsTo b h = none := by
    intro b hb
    have : b = 0 := by simpa using hb
    subst this
    rfl
  rw [List.filterMap_eq_nil_iff.mpr this]
  rfl
theorem sound_kick (s : State) (e : s.cx.ta = Vector.replicate 16 0)
    (h : s.ownData (s.g 5) 64 ∧ (∀ j, j < 8 → s.servedHere (s.ownKey (s.g 5) + 8 * j) 8 ∧ s.poisoned (s.ownKey (s.g 5) + 8 * j) 8 = false) ∧ s.gate 1 4 = true
      ∧ s.descOk (.kick 16) (descAt s 5) = true ∧ checkRegions (.kick 16) (descAt s 5) = none ∧ s.checkRanges (.kick 16) (descAt s 5) = none) :
    soundCommand s (.kick 16) 5 := by
  obtain ⟨h1, h2, h3, h4, h5, h6⟩ := h
  refine ⟨h1, h2, h3, h4, h5, h6, ?_⟩
  rw [List.all_eq_true]
  intro h _
  simp [matching_unbound s h e]
theorem witness_CopyCommands :
    (soundCommand cpCopy CopyKind.copy 5
      ∧ (cpCopy.pickTag = some 0)
      ∧ (cpCopy.core.queuedWords < 2))
    ∧ (soundCommand cpFar CopyKind.copy 5
      ∧ (cpFar.pickTag = some 0)
      ∧ (cpFar.core.queuedWords < 2))
    ∧ (soundCommand cpBusy CopyKind.copy 5
      ∧ (cpBusy.pickTag = none ∨ 2 ≤ cpBusy.core.queuedWords))
    ∧ (soundCommand cpCode CopyKind.code 5
      ∧ (cpCode.pickTag = some 0)
      ∧ (cpCode.core.queuedWords < 2))
    ∧ (soundCommand cp2d CopyKind.twoD 5
      ∧ (cp2d.pickTag = some 0)
      ∧ (cp2d.core.queuedWords < 2))
    ∧ (soundCommand cpDeal CopyKind.deal 5
      ∧ (cpDeal.pickTag = some 0)
      ∧ (cpDeal.core.queuedWords < 2))
    ∧ (soundCommand cpGath CopyKind.gather 5
      ∧ (cpGath.pickTag = some 0)
      ∧ (cpGath.core.queuedWords < 2))
    ∧ (soundCommand cpPut CopyKind.put 5
      ∧ (cpPut.pickTag = some 0)
      ∧ (cpPut.core.queuedWords < 2))
    ∧ (soundCommand cpGet CopyKind.get 5
      ∧ (cpGet.pickTag = some 0)
      ∧ (cpGet.core.queuedWords < 2))
    ∧ (BitVec.toNat (cpA.g 5) % 64 ≠ 0)
    ∧ ((BitVec.toNat (cpM.g 5) % 64 = 0)
      ∧ (regionOf (cpM.g 5) ≠ Region.loc))
    ∧ ((BitVec.toNat (cpX.g 5) % 64 = 0)
      ∧ (regionOf (cpX.g 5) = Region.loc)
      ∧ (bits (cpX.g 5) 14 0 < BitVec.toNat cpX.core.xbound))
    ∧ (2 ^ 16 ≤ BitVec.toNat (cpX.g 5))
    ∧ ((BitVec.toNat (om1.g 6) < 2 ^ 16)
      ∧ (om1.core.cmdOf (om1.g 6) = none))
    ∧ ((BitVec.toNat (xs.g 5) < 2 ^ 16)
      ∧ (xs.core.cmdOf (xs.g 5) = some cmdX))
    ∧ ((cmdX.code < 256)
      ∧ (cmdX.sub < 256))
    ∧ (soundCommand (busy cpCode) CopyKind.code 5
      ∧ ((busy cpCode).pickTag = none ∨ 2 ≤ (busy cpCode).core.queuedWords))
    ∧ (soundCommand (busy cp2d) CopyKind.twoD 5
      ∧ ((busy cp2d).pickTag = none ∨ 2 ≤ (busy cp2d).core.queuedWords))
    ∧ (soundCommand (busy cpDeal) CopyKind.deal 5
      ∧ ((busy cpDeal).pickTag = none ∨ 2 ≤ (busy cpDeal).core.queuedWords))
    ∧ (soundCommand (busy cpGath) CopyKind.gather 5
      ∧ ((busy cpGath).pickTag = none ∨ 2 ≤ (busy cpGath).core.queuedWords))
    ∧ (soundCommand (busy cpPut) CopyKind.put 5
      ∧ ((busy cpPut).pickTag = none ∨ 2 ≤ (busy cpPut).core.queuedWords))
    ∧ soundCommand (busy cpGet) CopyKind.get 5
      ∧ ((busy cpGet).pickTag = none ∨ 2 ≤ (busy cpGet).core.queuedWords) := by
  repeat' first
    | with_reducible apply And.intro
    | decide +kernel
theorem witness_CopyCommands_kick : soundCommand cpGet (CopyKind.kick 16) 5 ∧ soundCommand (busy cpGet) (CopyKind.kick 16) 5 :=
  ⟨sound_kick cpGet rfl (by decide +kernel), sound_kick (busy cpGet) rfl (by decide +kernel)⟩

/-! ## System instructions, translation, register writes as steps -/

def big : Tlb := ⟨0, 0, 21, 1, 3, true, true, true⟩
def sv0 : State := cored (sup ((based.setG 5 0x200000).setG 6 (coordAddr 0 0 1 0))) fun c => { c with tlb := [big] }
def svU : State := (based.setG 5 0x200001)
def svS : State := sup svU
def svA : State := cxd sv0 fun c => { c with asked := true }
def svB : State := cored svA fun c => { c with sbuf := [⟨0, .ctx 0 0, .core 1, .w, true, 2, 4, 0, .store (sramKey 1 0x5000) 8 0, false⟩] }
def svF : State := { sv0 with others := [(1, { inTray with frozen := true }, { Context.reset 0 with st := .halted })] }
def svR : State := { sv0 with others := [(1, inTray, { Context.reset 0 with st := .ready })] }
def areaKs (s : State) : List (Word × Nat × Nat) := (saveArea 0x200000).map fun p => (p.1, p.2, 3 * 2 ^ 21 + p.1.toNat % 2 ^ 21)
def gm (x y : Word) : State := (based.setG 5 x).setG 6 y
def gmS (x : Word) (a : Bool) : State := cxd (sup (based.setG 5 x)) fun c => { c with asked := a }
def gm3 : State := gm 3 0
def gmS0 : State := gmS 4096 false
def gmS3 : State := gmS 3 false
def gmS3a : State := cxd (gmS 3 true) fun c => { c with raised := some 8 }
def gmS3b : State := cored (gmS 3 true) fun c => { c with genDue := [3] }
def gmR : State := cxd gm3 fun c => { c with reply := some 1, asked := true }
def gmW : State := cxd gm3 fun c => { c with asked := true }
def gmL : State := gm 0xF000000005000 0
def gmV : State := gm 0x12345 1
def gmV2 : State := gm 0x12345 16
def gmV3 : State := gm 0x12345 0
def xg (v : Word) : State := gm (coordAddr 0 0 1 0) v
def xg1 : State := xg 0x7E0
def xg2 : State := xg 0x8000
def xg3 : State := xg 0x8020
def xg4 : State := xg 0x1002
def xg5 : State := xg 0x1004
def smsg (b : Body) : Msg := ⟨3, .ctx 0 0, .core 1, .w, 0, true, [], [], 4, 0, b, false, [], 9990, .home⟩
def rs (b : Body) (o : List (Nat × Core × Context)) : State := { based with flight := [smsg b], others := o }
def c1on : List (Nat × Core × Context) := [(1, { inTray with limits := [(0, 0x61005F00)] }, { Context.reset 0 with asid := 3 })]
def c1run : List (Nat × Core × Context) := [(1, inTray, { Context.reset 0 with st := .ready })]
def c1eng : List (Nat × Core × Context) := [(1, { inTray with mq := [⟨0, 1, 0, 0, 0, 0, 0, 0, false, 0, false, 0, false, 5⟩] }, Context.reset 0)]
def rs1 : State := rs (.xbset 1 0x1000 7) c1on
def rs2 : State := rs (.xbset 1 0x1000 7) c1run
def rs3 : State := rs (.xbset 1 0x1000 7) c1eng
def rs4 : State := rs (.cstart 1 0x1004 99 7) c1on
def ga1 : State := { cored based (fun c => { c with genDue := [3], tlb := [{ big with asid := 3 }] }) with asids := [(3, 0, 7)] }
def ga1' : State := cxd ga1 fun c => { c with asid := 3 }
def ga0 : State := { ga1' with asids := [(3, 0, 0)] }
def ga2 : State := { ga1' with flight := [smsg (.store 0x1000 8 0)] }
def pte (pa fl : Nat) : Nat := pa + fl
def tab (leaf : Nat) : List Host.Cell := Memory.putN (Memory.putN (Memory.putN (Memory.putN [] 0x10000 8 (pte 0x20000 1)) 0x20000 8 (pte 0x30000 1)) 0x30000 8 (pte 0x40000 1)) 0x40008 8 leaf
def wlk (k : Nat) : Walk := ⟨0x12340, k, 3, 7, none, 0⟩
def pw (k leaf : Nat) : State := { cxd based (fun c => { c with st := .waiting .reply, walk := some (wlk k) }) with mem := tab leaf, asids := [(3, 0x10000, 7)] }
def pw0 : State := pw 0 0
def pwB : State := pw 0 (pte 0x50000 0x8F)
def pwM : State := pw 0 (pte 0x50000 0x4F)
def pwP : State := pw 1 (pte 0x50000 0x07)
def pwL : State := pw 0 (pte 0x50000 0x07)
def pwA : State := pw 2 (pte 0x50000 0x0F)
def wlkQ : Walk := { wlk 0 with at_ := 9 }
def pwQ : State := cored (cxd pw0 fun c => { c with walk := some wlkQ }) fun c => { c with parked := (List.range 4).map fun k => (k + 1, { Context.reset 1 with st := .waiting .reply, walk := some (wlk 0) }) }
def mv0 : Move := ⟨3, 0x10000, 0, 0, 0, 0, 0⟩
def mv1 : Move := ⟨3, 0x10000, 0x60000, 0x40008, 1, 0, 0⟩
def pm (m : Move) (fl : Nat) : State := { cxd based (fun c => { c with st := .waiting .reply, asked := true }) with mem := Memory.putN (tab (pte 0x50000 fl)) 0x50010 2 0x1234, asids := [(3, 0x10000, 7)], moves := [m] }
def pm0 : State := pm mv0 0x0F
def pm1 : State := cored (pm mv1 0x4F) fun c => { c with genDue := [3] }
def pm2 : State := pm mv1 0x4F
def pmB : State := pm mv0 0x4F
def mpc : State := cxd pw0 fun c => { c with walk := some { wlk 0 with fault := some 6 } }
def vif2s : Vif := { vif2 with ship := true }
def shTab : List Host.Cell := tab (5 * 2 ^ 40 + pte 0x50000 0x07)
def far : Nat := 5 * 6400
def sh0 : State := { cored (cxd based fun c => { c with st := .waiting .reply, walk := some { wlk 0 with fault := some 0x06 } }) (fun c => { c with xbound := 0x8000 }) with mem := shTab, asids := [(3, 0x10000, 7)], vifs := [(0, vif2s)], others := [(far, { inTray with xbound := 0x8000 }, Context.reset 0), (far + 81, { inTray with xbound := 0x8000 }, Context.reset 0)] }
def shc : Context := { Context.reset 0 with pc := 0x1004, memdef := 0x222, fflags := 3, g := (Vector.replicate 32 0).set 4 7 }
def smsg2 : Msg := { smsg (.ship far shc) with cls := .m, dest := .core far }
def sh1 : State := { sh0 with flight := [smsg2] }
def vecH : State := cored vec0 fun c => { c with holder := some 2 }
def domv : Word := rectW 2 0 0 2 2
def bregv : Word := BitVec.ofNat 64 (1 + 2 * 2 ^ 22 + 2 * 2 ^ 29)
def ltf : State := cxd base fun c => { c with lateCy := 10000, lateFl := 0x12 }
def lte : State := cxd base fun c => { c with lateCy := 10000, lateErr := [(0x11, 2, 3, 0x77)], errpend := 0x201103, errSource := 1 }
def err1' : State := cxd base fun c => { c with errpend := 0x1103, errSource := 2, errTval := 0x55 }
def pe (n : Nat) : State := cxd base fun c => { c with st := .waiting .operand, pauseEnd := n }
def pe1 : State := pe 10000
def pe2 : State := pe 10001
def wlkF : Walk := { wlk 0 with fault := some 0x06 }

theorem witness_CoreSaveAndRestore :
    ((svU.cx.super = false)
      ∧ (svU.cx.inPhlx = false ∨ svU.cx.leader = true)
      ∧ (svU.cx.asked = false))
    ∧ ((svS.cx.super = true)
      ∧ (BitVec.toNat (svS.g 5) % 4096 ≠ 0)
      ∧ (svS.cx.asked = false))
    ∧ ((svA.cx.asked = true)
      ∧ (svA.unapplied svA.mine = false))
    ∧ ((svB.cx.asked = true)
      ∧ (svB.unapplied svB.mine = true))
    ∧ ((sv0.cx.super = true)
      ∧ (BitVec.toNat (sv0.g 5) % 4096 = 0)
      ∧ (regionOf (sv0.g 5) = Region.main)
      ∧ (sv0.vifCore (sv0.g 6) = some 1)
      ∧ (sv0.gate 1 4 = true)
      ∧ (sv0.checkAll AccKind.store 0 (saveArea (sv0.g 5)) = Except.ok (areaKs sv0))
      ∧ (sv0.cx.asked = false)
      ∧ (sv0.saveable 1 = false))
    ∧ ((svF.cx.super = true)
      ∧ (BitVec.toNat (svF.g 5) % 4096 = 0)
      ∧ (regionOf (svF.g 5) = Region.main)
      ∧ (svF.vifCore (svF.g 6) = some 1)
      ∧ (svF.gate 1 4 = true)
      ∧ (svF.checkAll AccKind.store 0 (saveArea (svF.g 5)) = Except.ok (areaKs sv0))
      ∧ (svF.cx.asked = false)
      ∧ (svF.saveable 1 = true)
      ∧ (1 ≠ svF.id))
    ∧ (svR.cx.super = true)
      ∧ (BitVec.toNat (svR.g 5) % 4096 = 0)
      ∧ (regionOf (svR.g 5) = Region.main)
      ∧ (svR.vifCore (svR.g 6) = some 1)
      ∧ (svR.gate 1 4 = true)
      ∧ (svR.checkAll AccKind.load 0 (saveArea (svR.g 5)) = Except.ok (areaKs sv0))
      ∧ (svR.loadable 1 = false) := by
  repeat' first
    | with_reducible apply And.intro
    | decide +kernel
    | exact ok_of (by decide +kernel)
theorem witness_GenerationsMigrationAndStarts :
    ((gm3.cx.super = false)
      ∧ (gm3.cx.inPhlx = false ∨ gm3.cx.leader = true))
    ∧ ((gmS0.cx.super = true)
      ∧ (4096 ≤ BitVec.toNat (gmS0.g 5)))
    ∧ ((gmS3.cx.super = true)
      ∧ (BitVec.toNat (gmS3.g 5) < 4096)
      ∧ (gmS3.cx.asked = false))
    ∧ ((gmS3b.cx.super = true)
      ∧ (BitVec.toNat (gmS3b.g 5) < 4096)
      ∧ (gmS3b.cx.asked = true)
      ∧ (gmS3b.genOpen (BitVec.toNat (gmS3b.g 5) % 4096) = true))
    ∧ ((gmS3a.cx.super = true)
      ∧ (BitVec.toNat (gmS3a.g 5) < 4096)
      ∧ (gmS3a.cx.asked = true)
      ∧ (gmS3a.genOpen (BitVec.toNat (gmS3a.g 5) % 4096) = false)
      ∧ (gmS3a.cx.raised = some 8))
    ∧ (gmR.cx.reply = some 1)
    ∧ ((gmW.cx.reply = none)
      ∧ (gmW.cx.asked = true))
    ∧ ((gmL.cx.reply = none)
      ∧ (gmL.cx.asked = false)
      ∧ (regionOf (gmL.g 5) ≠ Region.main))
    ∧ ((gmV.cx.reply = none)
      ∧ (gmV.cx.asked = false)
      ∧ (regionOf (gmV.g 5) = Region.main)
      ∧ (gmV.vdCount ≤ bits (gmV.g 6) 3 0 ∨ 16 ≤ BitVec.toNat (gmV.g 6)))
    ∧ ((gmV2.cx.reply = none)
      ∧ (gmV2.cx.asked = false)
      ∧ (regionOf (gmV2.g 5) = Region.main)
      ∧ (gmV2.vdCount ≤ bits (gmV2.g 6) 3 0 ∨ 16 ≤ BitVec.toNat (gmV2.g 6)))
    ∧ ((gmV3.cx.reply = none)
      ∧ (gmV3.cx.asked = false)
      ∧ (regionOf (gmV3.g 5) = Region.main)
      ∧ (BitVec.toNat (gmV3.g 6) < gmV3.vdCount)
      ∧ (BitVec.toNat (gmV3.g 6) < 16))
    ∧ (gmV3.startTarget (gmV3.g 5) = none)
    ∧ ((xg1.startTarget (xg1.g 5) = some 1)
      ∧ (BitVec.toNat (xg1.g 6) < BitVec.toNat (xg1.coreAt 1).sbound ∨ 32768 < BitVec.toNat (xg1.g 6) ∨ BitVec.toNat (xg1.g 6) % 32 ≠ 0))
    ∧ ((xg3.startTarget (xg3.g 5) = some 1)
      ∧ (BitVec.toNat (xg3.g 6) < BitVec.toNat (xg3.coreAt 1).sbound ∨ 32768 < BitVec.toNat (xg3.g 6) ∨ BitVec.toNat (xg3.g 6) % 32 ≠ 0))
    ∧ ((xg2.startTarget (xg2.g 5) = some 1)
      ∧ (BitVec.toNat (xg2.coreAt 1).sbound ≤ BitVec.toNat (xg2.g 6))
      ∧ (BitVec.toNat (xg2.g 6) ≤ 32768)
      ∧ (BitVec.toNat (xg2.g 6) % 32 = 0)
      ∧ (xg2.gate 1 4 = true)
      ∧ (xg2.matching (Home.core 1) = []))
    ∧ ((xg4.startTarget (xg4.g 5) = some 1)
      ∧ (BitVec.toNat (xg4.g 6) % 4 ≠ 0))
    ∧ ((BitVec.toNat (xg2.g 6) % 4 = 0)
      ∧ (2 ^ 15 ≤ BitVec.toNat (xg2.g 6)))
    ∧ (xg5.startTarget (xg5.g 5) = some 1)
      ∧ (BitVec.toNat (xg5.g 6) % 4 = 0)
      ∧ (BitVec.toNat (xg5.g 6) < 2 ^ 15)
      ∧ (xg5.gate 1 4 = true)
      ∧ (xg5.matching (Home.core 1) = []) := by
  repeat' first
    | with_reducible apply And.intro
    | decide +kernel
theorem witness_RemoteStartSteps :
    ((rs1.msg 3 = some (smsg (Body.xbset 1 4096 7)))
      ∧ (rs1.atHead (smsg (Body.xbset 1 4096 7)) = true)
      ∧ ((smsg (Body.xbset 1 4096 7)).body = Body.xbset 1 4096 7)
      ∧ (rs1.startable 1 = true)
      ∧ (rs1.enginesIdle 1 = true))
    ∧ ((rs2.msg 3 = some (smsg (Body.xbset 1 4096 7)))
      ∧ (rs2.atHead (smsg (Body.xbset 1 4096 7)) = true)
      ∧ (rs2.startable 1 = false))
    ∧ ((rs3.msg 3 = some (smsg (Body.xbset 1 4096 7)))
      ∧ (rs3.atHead (smsg (Body.xbset 1 4096 7)) = true)
      ∧ (rs3.startable 1 = true)
      ∧ (rs3.enginesIdle 1 = false))
    ∧ (rs4.msg 3 = some (smsg (Body.cstart 1 4100 99 7)))
      ∧ (rs4.atHead (smsg (Body.cstart 1 4100 99 7)) = true)
      ∧ ((smsg (Body.cstart 1 4100 99 7)).body = Body.cstart 1 4100 99 7)
      ∧ (rs4.startable 1 = true)
      ∧ (rs4.enginesIdle 1 = true)
      ∧ (rs4.covered (pdieOf 1) (smsg (Body.cstart 1 4100 99 7)).stamp.clock = true) := by decide +kernel
theorem witness_GenerationAcknowledge :
    (3 ∈ (ga1'.coreAt 0).genDue
      ∧ (ga1'.oldAccess 0 = false ∨ (ga1'.coreAt 0).gated = true))
    ∧ (3 ∈ (ga0.coreAt 0).genDue
      ∧ (ga0.oldAccess 0 = false ∨ (ga0.coreAt 0).gated = true))
    ∧ 3 ∈ (ga2.coreAt 0).genDue
      ∧ (ga2.oldAccess 0 = true)
      ∧ ((ga2.coreAt 0).gated = false) := by decide +kernel
theorem witness_PageWalks :
    ((pwQ.core.k < 11)
      ∧ (pwQ.cx.walk = some wlkQ)
      ∧ (wlkQ.fault = none)
      ∧ (pwQ.walking pwQ.id wlkQ = false))
    ∧ ((pw0.core.k < 11)
      ∧ (pw0.cx.walk = some (wlk 0))
      ∧ ((wlk 0).fault = none)
      ∧ (pw0.walking pw0.id (wlk 0) = true)
      ∧ (pw0.walkOf (wlk 0).asid (BitVec.toNat (wlk 0).va) = WalkEnd.page))
    ∧ ((pwB.core.k < 11)
      ∧ (pwB.cx.walk = some (wlk 0))
      ∧ (pwB.walking pwB.id (wlk 0) = true)
      ∧ (pwB.walkOf (wlk 0).asid (BitVec.toNat (wlk 0).va) = WalkEnd.leaf 262152 4 (BitVec.ofNat 64 (pte 327680 143)))
      ∧ (bit (BitVec.ofNat 64 (pte 327680 143)) 7 = true)
      ∧ (bit (BitVec.ofNat 64 (pte 327680 143)) 6 = false))
    ∧ ((pwM.core.k < 11)
      ∧ (pwM.cx.walk = some (wlk 0))
      ∧ (pwM.walking pwM.id (wlk 0) = true)
      ∧ (pwM.walkOf (wlk 0).asid (BitVec.toNat (wlk 0).va) = WalkEnd.leaf 262152 4 (BitVec.ofNat 64 (pte 327680 79)))
      ∧ (bit (BitVec.ofNat 64 (pte 327680 79)) 6 = true))
    ∧ ((pwP.core.k < 11)
      ∧ (pwP.cx.walk = some (wlk 1))
      ∧ ((wlk 1).fault = none)
      ∧ (pwP.walking pwP.id (wlk 1) = true)
      ∧ (pwP.walkOf (wlk 1).asid (BitVec.toNat (wlk 1).va) = WalkEnd.leaf 262152 4 (BitVec.ofNat 64 (pte 327680 7)))
      ∧ (bit (BitVec.ofNat 64 (pte 327680 7)) 7 = false)
      ∧ (bit (BitVec.ofNat 64 (pte 327680 7)) 6 = false)
      ∧ (leafPermits (BitVec.ofNat 64 (pte 327680 7)) (wlk 1).kind = false))
    ∧ ((pwL.core.k < 11)
      ∧ (pwL.cx.walk = some (wlk 0))
      ∧ (pwL.walking pwL.id (wlk 0) = true)
      ∧ (pwL.walkOf (wlk 0).asid (BitVec.toNat (wlk 0).va) = WalkEnd.leaf 262152 4 (BitVec.ofNat 64 (pte 327680 7)))
      ∧ (leafPermits (BitVec.ofNat 64 (pte 327680 7)) (wlk 0).kind = true))
    ∧ (pwA.core.k < 11)
      ∧ (pwA.cx.walk = some (wlk 2))
      ∧ ((wlk 2).fault = none)
      ∧ (pwA.walking pwA.id (wlk 2) = true)
      ∧ (pwA.walkOf (wlk 2).asid (BitVec.toNat (wlk 2).va) = WalkEnd.leaf 262152 4 (BitVec.ofNat 64 (pte 327680 15)))
      ∧ (bit (BitVec.ofNat 64 (pte 327680 15)) 7 = false)
      ∧ (bit (BitVec.ofNat 64 (pte 327680 15)) 6 = false)
      ∧ (leafPermits (BitVec.ofNat 64 (pte 327680 15)) (wlk 2).kind = true) := by
  repeat' first
    | with_reducible apply And.intro
    | decide +kernel
theorem witness_PageMoves :
    ((List.find? (fun x => x.asid == mv0.asid && x.va == 65536 / 65536 * 65536 && x.step == mv0.step) pm0.moves = some mv0)
      ∧ (mv0.step = 0)
      ∧ (pm0.walkOf mv0.asid mv0.va = WalkEnd.leaf 262152 4 (BitVec.ofNat 64 (pte 327680 15)))
      ∧ (bit (BitVec.ofNat 64 (pte 327680 15)) 6 = false)
      ∧ (393216 ≠ 0)
      ∧ (frameOk mv0 393216 = true)
      ∧ (pm0.frameGranted mv0.asid 393216 = true))
    ∧ ((mv0.core = pm0.id)
      ∧ (pm0.id < 102400)
      ∧ (mv0.ctx = pm0.core.k)
      ∧ (pm0.cx.asked = true))
    ∧ ((List.find? (fun x => x.asid == mv1.asid && x.va == 65536 / 65536 * 65536 && x.step == mv1.step) pm1.moves = some mv1)
      ∧ (mv1.step = 1)
      ∧ (∀ (x : Move), x ∈ pm1.moves → x.asid = mv1.asid → x.va = mv1.va → x.step = 1)
      ∧ (pm1.genOpen mv1.asid = true))
    ∧ ((List.find? (fun x => x.asid == mv1.asid && x.va == 65536 / 65536 * 65536 && x.step == mv1.step) pm2.moves = some mv1)
      ∧ (∀ (x : Move), x ∈ pm2.moves → x.asid = mv1.asid → x.va = mv1.va → x.step = 1)
      ∧ (pm2.genOpen mv1.asid = false)
      ∧ (pm2.frameBusy (pteAddr (pm2.pte mv1.leaf)) = false)
      ∧ (mv1.leaf + 8 ≤ mv1.newPa ∨ mv1.newPa + 65536 ≤ mv1.leaf))
    ∧ (List.find? (fun x => x.asid == mv0.asid && x.va == 65536 / 65536 * 65536 && x.step == mv0.step) pmB.moves = some mv0)
      ∧ (pmB.walkOf mv0.asid mv0.va = WalkEnd.leaf 262152 4 (BitVec.ofNat 64 (pte 327680 79)))
      ∧ (bit (BitVec.ofNat 64 (pte 327680 79)) 6 = true)
      ∧ (mv0.core = pmB.id)
      ∧ (pmB.id < 102400)
      ∧ (mv0.ctx = pmB.core.k)
      ∧ (pmB.cx.asked = true) := by
  repeat' first
    | with_reducible apply And.intro
    | decide +kernel
theorem witness_MappingsAreCompleted :
    ((mpc.moves.all fun x => !(x.asid == 3 && x.va == 74560 / 65536 * 65536)) = true)
    ∧ (mpc.walkOf 3 (74560 / 65536 * 65536) = WalkEnd.page)
    ∧ (mpc.slotOf 3 (74560 / 65536 * 65536) = some 262152)
    ∧ (bit (mpc.pte 262152) 0 = false)
    ∧ (frameFree 458752 = true)
    ∧ (mpc.frameGranted 3 458752 = true) := by decide +kernel
theorem witness_ContextShipping :
    ((sh0.cx.walk = some wlkF)
      ∧ (wlkF.fault.isSome = true)
      ∧ (sh0.pageOf wlkF.asid (BitVec.toNat wlkF.va) = some (5 * 2 ^ 40 + 336704))
      ∧ (sh0.cx.st = Run.waiting Wait.reply)
      ∧ (sh0.shippable = true)
      ∧ (sh0.cx.pend = [])
      ∧ (sh0.performed 4 = true)
      ∧ (sh0.bestLanding (5 * 2 ^ 40 + 336704) = some far)
      ∧ (pdieOf far ≠ pdieOf sh0.id))
    ∧ (sh1.msg 3 = some smsg2)
      ∧ (smsg2.body = Body.ship far shc)
      ∧ (sh1.atHead smsg2 = true)
      ∧ (sh1.startable far = true) := by decide +kernel
theorem witness_RegisterWriteSteps :
    ((2, 32764) ∈ plainRegisters
      ∧ ((1028 : Word) &&& ~~~(32764 : Word) = (0 : Word))
      ∧ (base.cx.lateCy ≠ base.cy))
    ∧ (base.core.k = (0 : Nat) ∧ (∀ (j : Nat), (1 : Nat) ≤ j → j ≤ (10 : Nat) → (base.core.ctx base.cx j).st = Run.free ∨ (base.core.ctx base.cx j).st = Run.exited) ∧ BitVec.toNat base.core.sbound ≤ BitVec.toNat (4096 : Word) ∧ BitVec.toNat (4096 : Word) ≤ (32768 : Nat) ∧ BitVec.toNat (4096 : Word) % (32 : Nat) = (0 : Nat))
    ∧ (base.core.k = (0 : Nat) ∧ (∀ (j : Nat), (1 : Nat) ≤ j → j ≤ (10 : Nat) → (base.core.ctx base.cx j).st = Run.free ∨ (base.core.ctx base.cx j).st = Run.exited) ∧ BitVec.toNat base.core.sbound ≤ BitVec.toNat (32768 : Word) ∧ BitVec.toNat (32768 : Word) ≤ (32768 : Nat) ∧ BitVec.toNat (32768 : Word) % (32 : Nat) = (0 : Nat))
    ∧ ((¬(base.core.k = (0 : Nat) ∧ (∀ (j : Nat), (1 : Nat) ≤ j → j ≤ (10 : Nat) → (base.core.ctx base.cx j).st = Run.free ∨ (base.core.ctx base.cx j).st = Run.exited) ∧ BitVec.toNat base.core.sbound ≤ BitVec.toNat (32800 : Word) ∧ BitVec.toNat (32800 : Word) ≤ (32768 : Nat) ∧ BitVec.toNat (32800 : Word) % (32 : Nat) = (0 : Nat)))
      ∧ (base.cx.super = false)
      ∧ (base.cx.inPhlx = false))
    ∧ ((BitVec.toNat (20 : Word) < (256 : Nat))
      ∧ (vec0.heldByOther = false))
    ∧ ((vecH.heldByOther = true)
      ∧ (vecH.cx.super = false)
      ∧ (vecH.cx.inPhlx = false))
    ∧ ((domv &&& ~~~68719476727 = 0)
      ∧ (based.acceptable 20 domv = true))
    ∧ (based.crTrap ((28 : Nat) + BitVec.toNat (1 : BitVec (2 : Nat))) based.cx.breg[bregIdx (1 : BitVec (2 : Nat))] bregv = none)
    ∧ (err1'.cx.lateCy ≠ err1'.cy ∨ err1'.cx.lateErr = [])
    ∧ ((ltf.cx.lateCy = ltf.cy)
      ∧ ((33 : Word) &&& ~~~(63 : Word) = (0 : Word)))
    ∧ ((lte.cx.lateCy = lte.cy)
      ∧ (lte.cx.lateErr = [(17, 2, 3, 119)]))
    ∧ ((pe1.cx.st = Run.waiting Wait.operand)
      ∧ (pe1.cx.pauseEnd ≠ 0)
      ∧ (pe1.cx.pauseEnd ≤ pe1.cy))
    ∧ (pe2.cx.st = Run.waiting Wait.operand)
      ∧ (pe2.cx.pauseEnd ≠ 0)
      ∧ (pe2.cy < pe2.cx.pauseEnd) := by
  repeat' first
    | with_reducible apply And.intro
    | decide +kernel
    | exact oneTo (by decide +kernel)
    | exact fun h => absurd h.2.2.2.1 (by decide +kernel)
/-- A save area that holds a saved image whole. -/
def svImage : Saved := ⟨0, inTray, Context.reset 0, none, none, 1⟩
def areaMem (n : Nat) : List Host.Cell := (List.range n).foldl (fun m j => Memory.putN m (0x600000 + 8 * j) 8 (imageWord svImage j).toNat) []
def svWith (m : List Host.Cell) : State := { sv0 with mem := m, hub := { sv0.hub with saved := [svImage] } }
def svL : State := svWith (areaMem saveWords)
theorem areaMem_word (n j : Nat) (h : j < n) : Memory.getN (areaMem n) (0x600000 + 8 * j) 8 = (imageWord svImage j).toNat := by
  induction n with
  | zero => omega
  | succ n ih =>
    simp only [areaMem, List.range_succ, List.foldl_append, List.foldl_cons, List.foldl_nil]
    by_cases e : j = n
    · subst e
      rw [Memory.getN_putN]
      exact Nat.mod_eq_of_lt (imageWord svImage j).isLt
    · rw [Memory.getN_putN_disjoint _ _ _ _ _ _ (by omega)]
      exact ih (by omega)
/-- With nothing staged the home of a word gives it as memory holds it. -/
theorem svWith_home (m : List Host.Cell) (w : Nat) : (svWith m).homeN (8 * w) 8 = Memory.getN m (8 * w) 8 % 256 ^ 8 := by
  have e : wordsOf (8 * w) 8 = [w] := by
    simp [wordsOf, show (8 * w + 7) / 8 + 1 - w = 1 by omega]
  have z : 8 * w % 8 = 0 := by omega
  have y : (svWith m).core.staging = [] := rfl
  simp only [State.homeN, bytesBy, e, z, List.foldr, slice, State.wordHome, y, List.map_nil, List.filter_nil, List.foldl_nil]
  simp [svWith]
/-- The keys of its pages. -/
def svKeys : List Nat := (areaKs sv0).map fun p => p.2.2
theorem svKeys_key (j : Nat) (h : j < saveWords) : areaKey svKeys j = 8 * (0xC0000 + j) := by
  have e : svKeys = (List.range 58).map fun q => 0x600000 + 4096 * q := by decide +kernel
  have hj : j / 512 < 58 := by simp only [saveWords] at h; omega
  simp only [areaKey, e, List.getD_eq_getElem?_getD, List.getElem?_map, List.getElem?_range hj, Option.map_some, Option.getD_some]
  omega
/-- A core with empty buffers holds no store of its own. -/
theorem ownsAll_quiet (c : Core) (k : Nat) (h : c.sbuf = []) (g : c.staging = []) : c.ownsAll k 8 = false := by
  rw [Core.ownsAll, List.all_eq_false]
  exact ⟨0, by simp, by simp [Core.owns, Core.storesTo, h, g]⟩
theorem svWith_holds (m : List Host.Cell) (h : ∀ j, j < saveWords → Memory.getN m (0x600000 + 8 * j) 8 = (imageWord svImage j).toNat) :
    (svWith m).imageAt svKeys = some svImage := by
  have e : (svWith m).hub.saved = [svImage] := rfl
  rw [State.imageAt, e, List.find?_cons_of_pos]
  rw [List.all_eq_true]
  intro j hj
  rw [List.mem_range] at hj
  rw [ownsAll_quiet _ _ rfl rfl, svKeys_key j hj, if_neg (by simp), svWith_home, show 8 * (0xC0000 + j) = 0x600000 + 8 * j by omega, h j hj,
    Nat.mod_eq_of_lt (Nat.lt_of_lt_of_eq (imageWord svImage j).isLt (by decide))]
  simp [word]
theorem svL_holds_image : svL.imageAt svKeys = some svImage := svWith_holds _ (areaMem_word saveWords)
theorem readOk_quiet (k : Nat) : svL.readOk k 4096 = true := by
  simp [State.readOk, State.readable, Context.fldOpen, State.behindOwn, svL, svWith, sv0, cored, cxd, sup, based, base, inTray, State.setCore, State.setCx, State.setG, Core.reset,
    State.reset, Context.reset]
theorem witness_CoreRestore :
    (svL.cx.super = true ∧ (svL.g 5).toNat % 4096 = 0 ∧ regionOf (svL.g 5) = .main ∧ svL.vifCore (svL.g 6) = some 1 ∧ svL.gate 1 4 = true ∧ svL.loadable 1 = true ∧ 1 ≠ svL.id)
    ∧ svL.checkAll .load 0 (saveArea (svL.g 5)) = .ok (areaKs sv0) ∧ (((areaKs sv0).map fun p => p.2.2).all fun k => svL.readOk k 4096) = true
    ∧ svL.imageAt ((areaKs sv0).map fun p => p.2.2) = some svImage :=
  ⟨by decide +kernel, ok_of (by decide +kernel), by rw [List.all_eq_true]; intro k _; exact readOk_quiet k, svL_holds_image⟩

/-! ## Ports, merging, errors, jobs -/

def rmsg (n : Nat) (ws : List Word) : Msg := ⟨3, .ctx 1 0, .core n, .m, 1, true, [], [], 0, 0, .routed n ws, false, [], 9990, .home⟩
def pdl (n5 ws : List Word) : State := { cored based fun c => { c with n5 := n5 } with flight := [rmsg 0 ws] }
def pd1 : State := pdl [9] [7, 8]
def pd2 : State := pdl (List.replicate 15 9) [7, 8]
def wires (t : Nat) : State := cored based fun c => { c with nIn := c.nIn.set 1 [44, 55], nFly := [⟨1, 66, t, none⟩] }
def wi1 : State := wires 9998
def wi2 : State := wires 9999
def cycW (w dl : Nat) : State := { cxd based fun c => { c with st := .waiting .queue, want := 2, waitAt := w } with vifs := [(0, { vif4 with dltime := dl })] }
def cyD : State := cycW 9990 100
def cyE : State := cycW 9990 10
def cre : State := cored (cxd based fun c => { c with ta := c.ta.set 1 (BitVec.ofNat 64 (0x300 + 2 ^ 16 + 2 ^ 23)) }) fun c => { c with credits := [(.core 81, 3)] }
def creT : State := { cre with others := (1, inTray, { Context.reset 0 with ta := (Context.reset 0).ta.set 1 (BitVec.ofNat 64 (0x300 + 2 ^ 16 + 2 ^ 23)) }) :: cre.others.drop 1, lendTurn := [(81, 0)] }
def am (id : Nat) (x : Nat) (src : Nat) : Msg := ⟨id, .ctx src 0, .core 81, .a, src, true, [(0, id)], [], 0, 0, .amo .add (sramKey 81 0x5000) 8 x 0 [] false false, false, [], 9990, .buffer⟩
def pk2 (l h : Nat) (f : Nat) : Packet := { pk l h with from_ := [(f, 0)] }
def pms : State := { based with flight := [am 3 5 0, am 4 6 1], spots := [⟨3, (5, 0), 0, false⟩, ⟨4, (5, 0), 0, false⟩] }
def amH : Msg := { am 4 6 1 with stage := .home }
def pmh : State := { based with flight := [amH] }
def epd (v : Word) (st : Run) (nd : Option (Nat × Bool)) : State := cored (cxd based fun c => { c with st := st, errpend := v, errTval := 9, errSource := 8 }) fun c => { c with node := nd }
def ep1 : State := epd 0 .ready none
def scr : State := { om1 with tiles := [(5, tile0)], poison := [3] }
def scrI : State := { base with mem := Memory.putN [] (sramKey 0 0x800) 4 0x0014A600 }
def scrM : State := { scr with cy := 20000000000 }
def uq : UserQueue := ⟨0, 0x12000, 6, 3, 3, 5, 4, 0, 0, some 100, none, false⟩
def hubd (f : Hub → Hub) : State := { based with hub := f based.hub, cy := 10000 }
def db0 : State := hubd fun h => { h with queues := [(9, uq)] }
def ent0 (w0 : Nat) : List Nat := [w0, 77, 0x1000, 5, 6, 0, 0, 0]
def ring (l : List Nat) (h : Nat) : List Host.Cell := (List.range l.length).foldl (fun m j => Memory.putN m (0x52000 + 64 * h + 8 * j) 8 (l.getD j 0)) (tab (pte 0x50000 0x1F))
def uqs : UserQueue := { uq with slot := some 6 }
def sl6 : Slot := ⟨9, 3, 3, none⟩
def disp (w0 : Nat) (f : State → State) : State := f { hubd (fun h => { h with queues := [(9, uqs)], slots := [(6, sl6)], lastDispatch := 0 }) with mem := ring (ent0 w0) 4, asids := [(3, 0x10000, 7)], vifs := [(0, { vif4 with pool := [2 ^ 53 + 128] })] }
def di3 : State := disp 3 id
def di1 : State := disp 1 fun s => { s with wqueues := [(0, ⟨false, [8], []⟩)] }
def entW (w0 : Nat) : List Word := (ent0 w0).map fun n => BitVec.ofNat 64 n
def bnd (a b : Nat) (_p : Bool) : State := { hubd (fun h => { h with queues := [(9, uq)], lastBind := a, lastDispatch := b, bindq := 1000 }) with mem := ring (ent0 3) 4, asids := [(3, 0x10000, 7)] }
def bn1 : State := bnd 10000 0 true
def bn2 : State := bnd 0 0 true
def bn3 : State := bnd 0 10635 true
def jb (k c : Nat) : Job := ⟨k, 0, c, 0x1122, 0x3344, 0, false, false, none⟩
def jbs (k c : Nat) (q : Bool) : State := { hubd (fun h => { h with jobs := [jb k c] }) with wqueues := [(0, ⟨q, [], []⟩)] }
def jb1 : State := jbs 3 0x1000 false
def jb2 : State := jbs 3 0x1000 true
def jbF : State := hubd fun h => { h with jobs := [{ jb 1 0x1000 with failed := true }] }
def jbX : Job := { jb 1 0x1000 with failed := true }

theorem witness_PortDeliveries :
    ((pd1.msg 3 = some (rmsg 0 [7, 8]))
      ∧ ((rmsg 0 [7, 8]).body = Body.routed 0 [7, 8])
      ∧ ((rmsg 0 [7, 8]).stage = Stage.home)
      ∧ (((List.takeWhile (fun x => x.id != 3) pd1.flight).any fun x => x.src == (rmsg 0 [7, 8]).src && x.dest == (rmsg 0 [7, 8]).dest && x.cls == Cls.m) = false)
      ∧ ((pd1.coreAt (0 : Nat)).n5.length + pd1.lentBy (rmsg (0 : Nat) [(7 : Word), (8 : Word)]).core (Lender.core (0 : Nat)) + (pd1.usedOf (rmsg (0 : Nat) [(7 : Word), (8 : Word)]).core (Lender.core (0 : Nat)) - min [(7 : Word), (8 : Word)].length (pd1.paidFor (rmsg (0 : Nat) [(7 : Word), (8 : Word)]) (Lender.core (0 : Nat)))) + [(7 : Word), (8 : Word)].length ≤ (16 : Nat)))
    ∧ (pd2.msg 3 = some (rmsg 0 [7, 8]))
      ∧ ((16 : Nat) < (pd2.coreAt (0 : Nat)).n5.length + pd2.lentBy (rmsg (0 : Nat) [(7 : Word), (8 : Word)]).core (Lender.core (0 : Nat)) + (pd2.usedOf (rmsg (0 : Nat) [(7 : Word), (8 : Word)]).core (Lender.core (0 : Nat)) - min [(7 : Word), (8 : Word)].length (pd2.paidFor (rmsg (0 : Nat) [(7 : Word), (8 : Word)]) (Lender.core (0 : Nat)))) + [(7 : Word), (8 : Word)].length ∨ (rmsg (0 : Nat) [(7 : Word), (8 : Word)]).stage ≠ Stage.home) := by decide +kernel
theorem witness_CyclesOfWaitsAreBroken :
    ((cyD.halted cyD.id = false)
      ∧ (cyD.isCycle [cyD.id] = true)
      ∧ (cyD.cy - cyD.cycleSince [cyD.id] < (cyD.vif (cyD.vifOf cyD.id)).dltime))
    ∧ (cyE.halted cyE.id = false)
      ∧ (cyE.isCycle [cyE.id] = true)
      ∧ ((cyE.vif (cyE.vifOf cyE.id)).dltime ≤ cyE.cy - cyE.cycleSince [cyE.id])
      ∧ (cyE.core.k < 11)
      ∧ (cyE.cx.inCycleWait = true)
      ∧ (cyE.cx.want < 8)
      ∧ (∀ (k : Nat), k < 11 → (cyE.cxAt cyE.id k).super = false)
      ∧ (cyE.cx.inPhlx = false) := by decide +kernel
theorem witness_CreditsAreLent :
    ((81 < 102400)
      ∧ (cre.bound (Lender.core 81) = true)
      ∧ (cre.core.creditOf (Lender.core 81) < 255)
      ∧ (cre.nextBorrower cre.id (Lender.core 81) = some cre.id)
      ∧ (1 ≤ cre.roomOf cre.id (Lender.core 81)))
    ∧ ((creT.borrowers creT.id (Lender.core 81) = [creT.id, 1])
      ∧ (creT.id < 1)
      ∧ (Table.find creT.lendTurn 81 = some creT.id))
    ∧ (based.bound (Lender.core 81) = false) := by decide +kernel
theorem witness_PacketsMerge :
    ((pms.msg 3 = some (am 3 5 0))
      ∧ (pms.msg 4 = some (am 4 6 1))
      ∧ (pms.mayMeet 3 4 = true)
      ∧ ((am 3 5 0).dest = (am 4 6 1).dest)
      ∧ ((am 3 5 0).cls = (am 4 6 1).cls)
      ∧ (pms.between (am 3 5 0) (am 4 6 1) = false)
      ∧ (mergeBodies (am 3 5 0).body (am 4 6 1).body = some (Body.amo AmoOp.add (sramKey 81 20480) 8 11 0 [6] false false))
      ∧ ((am 3 5 0).dest.isCore = false ∨ ∀ (x : Part), x ∈ (am 3 5 0).parts ++ (am 4 6 1).parts → x.user = (am 3 5 0).user))
    ∧ (mergePackets (pk2 0 64 0) (pk2 64 128 1) = some ((mergePackets (pk2 0 64 0) (pk2 64 128 1)).getD default))
    ∧ (((am 3 5 0).stage = Stage.buffer)
      ∧ (pms.mayCross (am 3 5 0) = true))
    ∧ ((pmh.msg 4 = some amH)
      ∧ (amH.stage ≠ Stage.buffer ∨ pmh.mayCross amH = false))
    ∧ (64, 128) ∈ (pk2 64 128 1).spans := by decide +kernel
theorem witness_CombinedAtomicsHaveTheSameEffect :
    ((AmoOp.add ≠ AmoOp.fadd)
      ∧ (combineAmo AmoOp.add 8 18446744073709551615 7 = some 6))
    ∧ (AmoOp.min ≠ AmoOp.fadd)
      ∧ (combineAmo AmoOp.min 4 4294967295 7 = some 4294967295) := by decide +kernel
theorem witness_ErrorsArePosted :
    ((17 < 256)
      ∧ (2 < 256)
      ∧ (¬(17 = 17 ∧ 2 = 3))
      ∧ (postable 17 2 3 = true))
    ∧ ((13 < 256)
      ∧ (0 < 256)
      ∧ (¬(13 = 17 ∧ 0 = 3))
      ∧ (0 ≠ 2)
      ∧ (ep1.cx.st = Run.ready)
      ∧ (ep1.cx.asked = false)
      ∧ (ep1.cx.arrived = false)
      ∧ (ep1.cx.await = none)
      ∧ (ep1.cx.super = false)
      ∧ (ep1.cx.inPhlx = false))
    ∧ ((9 < 256)
      ∧ (¬(9 = 17 ∧ 0 = 3))
      ∧ (9 ≠ 13)
      ∧ (postable 9 0 1 = false))
    ∧ (18 < 256)
      ∧ (¬(18 = 17 ∧ 0 = 3))
      ∧ (18 ≠ 13)
      ∧ (postable 18 0 3 = false) := by
  repeat' first
    | with_reducible apply And.intro
    | decide +kernel
theorem witness_ScrubAndMargins :
    (3 < 8)
    ∧ (3 < 4)
    ∧ (Table.find scr.tiles 5 = some tile0)
    ∧ ((scrI.cx.st = Run.ready)
      ∧ (scrI.cx.asked = false)
      ∧ (scrI.cx.arrived = false)
      ∧ (scrI.cx.await = none)
      ∧ (scrI.nextInstr = some (Instr.add 6 5 5))
      ∧ (readsCell (Instr.add 6 5 5) (Cell.g 5) = true)
      ∧ (scrI.cx.super = false)
      ∧ (scrI.cx.inPhlx = false))
    ∧ (((List.replicate 4096 60).length = 4096)
      ∧ (scrM.hub.sampledAt + 10000000000 ≤ scrM.time))
    ∧ (scr.time < scr.hub.sampledAt + 10000000000) := by decide +kernel
theorem witness_Doorbells :
    ((db0.queue? 9 = some uq)
      ∧ (bits (6 : Word) (63 : Nat) (32 : Nat) = (0 : Nat))
      ∧ ((1 : Nat) ≤ (bits (6 : Word) (31 : Nat) (0 : Nat) + (2 : Nat) ^ (32 : Nat) - uq.head) % (2 : Nat) ^ (32 : Nat))
      ∧ ((bits (6 : Word) (31 : Nat) (0 : Nat) + (2 : Nat) ^ (32 : Nat) - uq.head) % (2 : Nat) ^ (32 : Nat) ≤ (2 : Nat) ^ uq.logN))
    ∧ ((bits (68 : Word) (63 : Nat) (32 : Nat) = (0 : Nat))
      ∧ ((1 : Nat) ≤ (bits (68 : Word) (31 : Nat) (0 : Nat) + (2 : Nat) ^ (32 : Nat) - uq.head) % (2 : Nat) ^ (32 : Nat))
      ∧ ((bits (68 : Word) (31 : Nat) (0 : Nat) + (2 : Nat) ^ (32 : Nat) - uq.head) % (2 : Nat) ^ (32 : Nat) ≤ (2 : Nat) ^ uq.logN))
    ∧ (bits (4 : Word) (63 : Nat) (32 : Nat) ≠ (0 : Nat) ∨ (bits (4 : Word) (31 : Nat) (0 : Nat) + (2 : Nat) ^ (32 : Nat) - uq.head) % (2 : Nat) ^ (32 : Nat) = (0 : Nat) ∨ (2 : Nat) ^ uq.logN < (bits (4 : Word) (31 : Nat) (0 : Nat) + (2 : Nat) ^ (32 : Nat) - uq.head) % (2 : Nat) ^ (32 : Nat))
    ∧ (bits (69 : Word) (63 : Nat) (32 : Nat) ≠ (0 : Nat) ∨ (bits (69 : Word) (31 : Nat) (0 : Nat) + (2 : Nat) ^ (32 : Nat) - uq.head) % (2 : Nat) ^ (32 : Nat) = (0 : Nat) ∨ (2 : Nat) ^ uq.logN < (bits (69 : Word) (31 : Nat) (0 : Nat) + (2 : Nat) ^ (32 : Nat) - uq.head) % (2 : Nat) ^ (32 : Nat)) := by decide +kernel
theorem witness_BindingAndDispatch :
    (bn1.time < bn1.hub.lastBind + bn1.hub.bindq)
    ∧ ((bn2.hub.lastBind + bn2.hub.bindq ≤ bn2.time)
      ∧ (bn2.hub.queues = [(9, uq)])
      ∧ (bn2.hub.slots = [])
      ∧ (uq.pending = true)
      ∧ (bn2.settle 9 = bn2))
    ∧ (bn3.time < bn3.hub.lastDispatch + 40)
    ∧ (bn2.hub.lastDispatch + 40 ≤ bn2.time)
    ∧ ((di3.hub.lastDispatch + 40 ≤ di3.time)
      ∧ (di3.hub.slots = [(6, sl6)])
      ∧ (6 < 1024)
      ∧ (sl6.queue = 9)
      ∧ (di3.queue? 9 = some uqs)
      ∧ (di3.settle 9 = di3)
      ∧ (di3.eligible uqs = some (entW 3)))
    ∧ (di1.hub.lastDispatch + 40 ≤ di1.time)
      ∧ (di1.hub.slots = [(6, sl6)])
      ∧ (di1.queue? 9 = some uqs)
      ∧ (di1.settle 9 = di1)
      ∧ (di1.eligible uqs = some (entW 1)) := by decide +kernel
theorem witness_JobCompletions :
    ((jb1.hub.jobs[0]? = some (jb 3 4096))
      ∧ (jb1.jobEnd (jb 3 4096) = none))
    ∧ ((jb2.hub.jobs[0]? = some (jb 3 4096))
      ∧ (jb2.jobEnd (jb 3 4096) = some true)
      ∧ ((jb 3 4096).caddr ≠ 0))
    ∧ (jbF.hub.jobs[0]? = some jbX)
      ∧ (jbF.jobEnd jbX = some false)
      ∧ (jbX.caddr ≠ 0) := by decide +kernel
theorem witness_NeighbourWords :
    (wi1.core.nFly = [⟨1, 66, 9998, none⟩] ∧ wi1.core.nIn[1].length < 4 ∧ 9998 + 2 ≤ wi1.cy) ∧ wi2.core.nFly = [⟨1, 66, 9999, none⟩] ∧ wi2.core.nIn[1].length < 4 ∧ wi2.cy < 9999 + 2 := by
  decide +kernel

/-! ## Trays, mailbox, host -/

def hal (h : Nat) : State := cored (cxd based fun c => { c with st := .ready, g := c.g.set 4 7 }) fun c => { c with haltAt := some h, parked := [(1, { Context.reset 1 with st := .waiting .queue }), (2, { Context.reset 2 with st := .exited })] }
def ha1 : State := { hal 20000 with cy := 10000 }
def ha2 : State := { hal 100 with cy := 10000 }
def trayS (st : TraySt) (w : Nat) : Vif := { vif4 with trays := [{ tray4 with st := st }] }
def trS (st : TraySt) (fz : Bool) (m : Mailbox) : State := { cored based fun c => { c with frozen := fz } with vifs := [(0, trayS st 0)], others := [(1, { inTray with frozen := true }, Context.reset 0)], hub := { based.hub with mailbox := m } }
def mbx (op v : Nat) (a : List (Nat × Nat)) : Mailbox := ⟨op, v, true, 9, a.foldl (fun m p => Memory.putN m p.1 8 p.2) [], 1, 2, none, none⟩
def ts1 : State := trS (.halting false) false (mbx 4 0 [])
def ts2 : State := trS (.halting false) true (mbx 4 0 [])
def trayH (b : Bool) : Tray := { tray4 with st := .halting b }
def res (q : Nat) : State := cored (cxd based fun c => { c with st := .halted, g := c.g.set 4 7 }) fun c => { c with resumeAt := some q, frozen := true, parked := [(1, { Context.reset 1 with st := .halted, await := some ⟨[], .ack, 0, 0, false, 0, 4, 0⟩ }), (2, { Context.reset 2 with st := .exited })] }
def re1 : State := res 20000
def re2 : State := res 100
def mb (op v : Nat) (a : List (Nat × Nat)) : State := { based with hub := { based.hub with mailbox := mbx op v a, queues := [(0, uq), (1, { uq with head := 5 })] } }
def qc1 : State := mb 3 0 [(0x40, 0), (0x48, 0x12000), (0x50, 6 + 3 * 2 ^ 8)]
def qc2 : State := mb 3 0 [(0x40, 0), (0x48, 0x12800), (0x50, 6 + 3 * 2 ^ 8)]
def qd1 : State := mb 3 0 [(0x40, 1), (0x58, 1)]
def qd2 : State := mb 3 0 [(0x40, 1), (0x58, 0)]
def rs_1 : State := mb 1 0 [(0x40, 0x1000), (0x48, 0x100000)]
def rs_2 : State := mb 1 0 [(0x40, 0x1008)]
def smp (c l : Nat) : State := { rs_1 with hub := { rs_1.hub with mailbox := { mbx 1 0 [(0x40, 0x1000), (0x48, l)] with sampling := some c } } }
def sm1 : State := smp 20480 0
def sm2 : State := smp 1024 0x100000
def sm3 : State := smp 1024 8
def wn (d : Nat) : State := { mb 5 0 [(0x40, 0x99), (0x48, d)] with dies := based.dies.set 3 ⟨true, 700, 0, 0, 0, false⟩ }
def wn1 : State := wn 5
def wn2 : State := wn 9
def ic (a l w0 w8 w20 : Nat) (c : Context → Context) : State := { cxd { mb 2 0 [(0x40, a), (0x48, l)] with others := [] } c with hub := { (mb 2 0 [(0x40, a), (0x48, l)]).hub with hostMem := Memory.putN (Memory.putN (Memory.putN [] a 8 w0) (a + 8) 8 w8) (a + 0x20) 8 w20 } }
def ic1 : State := ic 0x3004 0x20000 0 0 0 id
def ic2 : State := ic 0x3000 0x20000 0 0 0 id
def stopd (c : Context) : Context := { c with st := .stopped }
def ic3 : State := ic 0x3000 0x20000 0 0 0 stopd
def ic4 : State := ic 0x3000 0x20000 1 0 0 stopd
def ic5 : State := ic 0x3000 0x20000 0x10001 0 (3 + 96 * 256) id
def ic6 : State := ic 0x3000 0x20000 0x10001 0 (3 + 96 * 256) stopd
def icf (due : Bool) : State := { cored ic6 fun c => { c with genDue := if due then [3] else [] } with hub := { ic6.hub with mailbox := { ic6.hub.mailbox with config := some vif4 } } }
def icf1 : State := icf true
def icf2 : State := icf false
def tc (a : List (Nat × Nat)) (st : TraySt) (im : List (Nat × Core × Context × List Byte)) : State := { mb 4 0 a with vifs := [(0, { vif4 with trays := [{ tray4 with st := st, image := im }] })] }
def tc1 : State := tc [] .running []
def tc2 : State := tc [] (.saved false) []
def tc3 : State := tc [(0x40, 1), (0x50, 0xFF)] (.saved false) [(0, inTray, Context.reset 0, []), (1, inTray, Context.reset 0, [])]
def tc4 : State := tc [(0x40, 1), (0x50, 0xFF)] .running []
def trW (st : TraySt) (im : List (Nat × Core × Context × List Byte)) : Tray := { tray4 with st := st, image := im }
def mw (c d : Nat) : State := { based with hub := { based.hub with windowAt := some (c, d) } }
def mw1 : State := mw 20000 1
def mw2 : State := mw 100 1
def mw3 : State := mw 100 4
def hst (g : Bool) : State := { based with mem := tab (pte 0x50000 0x0F), asids := [(3, 0x10000, 7)], hub := { based.hub with power := .run, mailbox := { mbx 4 7 [] with go := g }, queues := [(9, uq)] } }
def hs1 : State := hst true
def hs0 : State := hst false
def uq5 : UserQueue := { uq with head := 5 }

theorem witness_PreemptionSteps :
    ((ha1.core.haltAt = some 20000)
      ∧ (ha1.time < 20000))
    ∧ ((ha2.core.haltAt = some 100)
      ∧ (100 ≤ ha2.time)
      ∧ (ha2.core.resumeAt = none)
      ∧ ((ha2.episodes.all fun e => e.k != 5) = true))
    ∧ ((ts1.tray? 0 0 = some (trayH false))
      ∧ ((trayH false).st = TraySt.halting false)
      ∧ ((ts1.coresOf 0 0).all ts1.quiet = false))
    ∧ ((ts2.tray? 0 0 = some (trayH false))
      ∧ ((ts2.coresOf 0 0).all ts2.quiet = true))
    ∧ ((re1.core.resumeAt = some 20000)
      ∧ (re1.core.tray = some (0, 0))
      ∧ (re1.time < 20000))
    ∧ (re2.core.resumeAt = some 100)
      ∧ (re2.core.tray = some (0, 0))
      ∧ (100 ≤ re2.time)
      ∧ (re2.core.debugged = false)
      ∧ (re2.core.faulted = false) := by decide +kernel
theorem witness_MailboxCommands :
    ((qc1.asks 3 (some 0) = true)
      ∧ (qc1.hub.mailbox.arg 72 8 % 2 ^ 52 % 4096 = 0 ∧ 4 ≤ qc1.hub.mailbox.arg 80 8 % 32 ∧ qc1.hub.mailbox.arg 80 8 % 32 ≤ 16 ∧ (qc1.vif qc1.hub.mailbox.vif).dies ≠ [] ∧ qc1.hub.mailbox.arg 80 8 / 2 ^ 16 % 16 < (qc1.vif qc1.hub.mailbox.vif).asids.length)
      ∧ (List.find? (fun n => (qc1.queue? n).isNone) (List.range 65536) = some 2))
    ∧ ((qc2.asks 3 (some 0) = true)
      ∧ (¬(qc2.hub.mailbox.arg 72 8 % 2 ^ 52 % 4096 = 0 ∧ 4 ≤ qc2.hub.mailbox.arg 80 8 % 32 ∧ qc2.hub.mailbox.arg 80 8 % 32 ≤ 16 ∧ (qc2.vif qc2.hub.mailbox.vif).dies ≠ [] ∧ qc2.hub.mailbox.arg 80 8 / 2 ^ 16 % 16 < (qc2.vif qc2.hub.mailbox.vif).asids.length)))
    ∧ ((qd1.asks 3 (some 1) = true)
      ∧ (qd1.queue? (qd1.hub.mailbox.arg 88 2) = some uq5)
      ∧ (uq5.vif = qd1.hub.mailbox.vif)
      ∧ (uq5.count = 0))
    ∧ ((qd2.asks 3 (some 1) = true)
      ∧ (qd2.queue? (qd2.hub.mailbox.arg 88 2) = some uq)
      ∧ (uq.vif = qd2.hub.mailbox.vif)
      ∧ (uq.count ≠ 0))
    ∧ ((rs_1.asks 1 none = true)
      ∧ (rs_1.hub.mailbox.sampling = none)
      ∧ (rs_1.hub.mailbox.arg 64 8 % 64 = 0))
    ∧ ((rs_2.asks 1 none = true)
      ∧ (rs_2.hub.mailbox.sampling = none)
      ∧ (rs_2.hub.mailbox.arg 64 8 % 64 ≠ 0))
    ∧ ((sm1.hub.mailbox.sampling = some 20480)
      ∧ (sm1.time < 20480))
    ∧ ((sm2.hub.mailbox.sampling = some 1024)
      ∧ (1024 ≤ sm2.time)
      ∧ (8 * (sm2.summary 1024).length ≤ sm2.hub.mailbox.arg 72 4))
    ∧ ((sm3.hub.mailbox.sampling = some 1024)
      ∧ (1024 ≤ sm3.time)
      ∧ (sm3.hub.mailbox.arg 72 4 < 8 * (sm3.summary 1024).length))
    ∧ ((wn1.asks 5 none = true)
      ∧ (((List.range 16).any fun d => (wn1.hub.mailbox.arg 72 2).testBit d && wn1.excluded d) = false))
    ∧ (wn2.asks 5 none = true)
      ∧ (((List.range 16).any fun d => (wn2.hub.mailbox.arg 72 2).testBit d && wn2.excluded d) = true) := by
  repeat' first
    | with_reducible apply And.intro
    | decide +kernel
theorem witness_InterfaceConfiguration :
    ((icf1.asks 2 none = true)
      ∧ (icf1.hub.mailbox.config = some vif4)
      ∧ (vif4.asids.any icf1.genOpen = true))
    ∧ ((icf2.asks 2 none = true)
      ∧ (icf2.hub.mailbox.config = some vif4)
      ∧ (vif4.asids.any icf2.genOpen = false))
    ∧ ((ic1.asks 2 none = true)
      ∧ (ic1.hub.mailbox.config = none)
      ∧ (¬(ic1.hub.mailbox.arg 64 8 % 4096 = 0 ∧ 90656 ≤ ic1.hub.mailbox.arg 72 4)))
    ∧ ((ic2.asks 2 none = true)
      ∧ (ic2.hub.mailbox.config = none)
      ∧ (ic2.hub.mailbox.arg 64 8 % 4096 = 0 ∧ 90656 ≤ ic2.hub.mailbox.arg 72 4)
      ∧ (ic2.blk 0 8 % 32 = 0)
      ∧ (ic2.vifIdle ic2.hub.mailbox.vif = false))
    ∧ ((ic3.asks 2 none = true)
      ∧ (ic3.hub.mailbox.config = none)
      ∧ (ic3.hub.mailbox.arg 64 8 % 4096 = 0 ∧ 90656 ≤ ic3.hub.mailbox.arg 72 4)
      ∧ (ic3.blk 0 8 % 32 = 0)
      ∧ (ic3.vifIdle ic3.hub.mailbox.vif = true))
    ∧ ((ic4.asks 2 none = true)
      ∧ (ic4.hub.mailbox.config = none)
      ∧ (ic4.hub.mailbox.arg 64 8 % 4096 = 0 ∧ 90656 ≤ ic4.hub.mailbox.arg 72 4)
      ∧ (ic4.blk 0 8 % 32 ≠ 0)
      ∧ (ic4.blkBad = true))
    ∧ ((ic5.asks 2 none = true)
      ∧ (ic5.hub.mailbox.config = none)
      ∧ (ic5.hub.mailbox.arg 64 8 % 4096 = 0 ∧ 90656 ≤ ic5.hub.mailbox.arg 72 4)
      ∧ (ic5.blk 0 8 % 32 ≠ 0)
      ∧ (ic5.blkBad = false)
      ∧ (ic5.vifIdle ic5.hub.mailbox.vif = false))
    ∧ (ic6.asks 2 none = true)
      ∧ (ic6.hub.mailbox.config = none)
      ∧ (ic6.hub.mailbox.arg 64 8 % 4096 = 0 ∧ 90656 ≤ ic6.hub.mailbox.arg 72 4)
      ∧ (ic6.blk 0 8 % 32 ≠ 0)
      ∧ (ic6.blkBad = false)
      ∧ (ic6.vifIdle ic6.hub.mailbox.vif = true)
      ∧ ((ic6.blkDies.any fun d => ic6.excluded d.fst) = false)
      ∧ (ic6.taken ic6.hub.mailbox.vif ic6.blkVif = false) := by
  repeat' first
    | with_reducible apply And.intro
    | decide +kernel
theorem witness_TrayCommands :
    ((tc1.asks 4 (some 0) = true)
      ∧ (tc1.tray? tc1.hub.mailbox.vif (tc1.hub.mailbox.arg 72 1) = some tray4)
      ∧ (tray4.st = TraySt.running))
    ∧ ((tc2.asks 4 (some 0) = true)
      ∧ (tc2.tray? tc2.hub.mailbox.vif (tc2.hub.mailbox.arg 72 1) = some (trW (TraySt.saved false) []))
      ∧ ((trW (TraySt.saved false) []).st = TraySt.saved false))
    ∧ ((tc3.asks 4 (some 1) = true)
      ∧ (tc3.tray? tc3.hub.mailbox.vif (tc3.hub.mailbox.arg 72 1) = some (trW (TraySt.saved false) [(0, inTray, Context.reset 0, []), (1, inTray, Context.reset 0, [])]))
      ∧ ((trW (TraySt.saved false) [(0, inTray, Context.reset 0, []), (1, inTray, Context.reset 0, [])]).st = TraySt.saved false)
      ∧ (tc3.siteBusy tc3.hub.mailbox.vif (tc3.hub.mailbox.arg 72 1) = false)
      ∧ (tc3.rebinds (tc3.vif tc3.hub.mailbox.vif) = [])
      ∧ (tc3.rebindBad tc3.hub.mailbox.vif [] = none))
    ∧ ((tc4.asks 4 (some 1) = true)
      ∧ (tc4.tray? tc4.hub.mailbox.vif (tc4.hub.mailbox.arg 72 1) = some tray4))
    ∧ ((mw1.hub.windowAt = some (20000, 1))
      ∧ (mw1.time < 20000))
    ∧ ((mw2.hub.windowAt = some (100, 1))
      ∧ (100 ≤ mw2.time)
      ∧ (∃ p, p ∈ mw2.traysOn 1 ∧ ∃ x, mw2.tray? p.fst p.snd = some x ∧ x.st = TraySt.running))
    ∧ ((mw3.hub.windowAt = some (100, 4))
      ∧ (100 ≤ mw3.time)
      ∧ (mw3.traysOn 4 = [])
      ∧ (4200 < 4201))
    ∧ (4200 ≤ 4200)
      ∧ ((mw3.flight.any fun x => Nat.testBit 4 x.dest.pdie) = false) := by
  repeat' first
    | with_reducible apply And.intro
    | decide +kernel
theorem witness_HostAccesses :
    ((hs1.linkUp = true)
      ∧ (hs1.hub.mailbox.go = true)
      ∧ (0 = 0 ∨ 64 ≤ 0 ∧ 0 ≤ 248 ∧ 0 % 8 = 0))
    ∧ (248 = 0 ∨ 64 ≤ 248 ∧ 248 ≤ 248 ∧ 248 % 8 = 0)
    ∧ ((hs0.linkUp = true)
      ∧ (hs0.hub.mailbox.go = false)
      ∧ (bit (66051 : Word) (16 : Nat) = true)
      ∧ ((1 : Nat) ≤ bits (66051 : Word) (7 : Nat) (0 : Nat))
      ∧ (bits (66051 : Word) (7 : Nat) (0 : Nat) ≤ (5 : Nat))
      ∧ (bits (66051 : Word) (15 : Nat) (8 : Nat) < (64 : Nat)))
    ∧ ((bit (66054 : Word) (16 : Nat) = true)
      ∧ (bits (66054 : Word) (7 : Nat) (0 : Nat) = (0 : Nat) ∨ (5 : Nat) < bits (66054 : Word) (7 : Nat) (0 : Nat)))
    ∧ ((bit (66048 : Word) (16 : Nat) = true)
      ∧ (bits (66048 : Word) (7 : Nat) (0 : Nat) = (0 : Nat) ∨ (5 : Nat) < bits (66048 : Word) (7 : Nat) (0 : Nat)))
    ∧ ((64 ≤ 248)
      ∧ (248 ≤ 248)
      ∧ (248 % 8 = 0))
    ∧ (hs0.queue? 9 = some uq)
    ∧ (hs0.hostWalk 0 74560 1 = HostWalk.ok 336704 262152)
    ∧ (3 ≤ 3)
    ∧ (3 ≤ 7)
    ∧ (2 ^ 34 ≤ 2 ^ 34 ∨ 64 ≤ 0)
    ∧ (2 ^ 34 ≤ 0 ∨ 64 ≤ 64)
    ∧ (hs0.hostWalk 0 74560 0 = HostWalk.ok 336704 262152)
      ∧ (¬336704 / 8 ∈ hs0.poison) := by
  repeat' first
    | with_reducible apply And.intro
    | decide +kernel

/-! ## Torus, debugger, bring-up, fetching -/

def flt (d : Nat) (op : FlitOp) (c : FlitClass) : Flit := ⟨d, 5, 7, 2, 0, c, op, 3, 0x48, 0x1122334455667788, 0, 17, 0, [], 0⟩
def tor : State := { based with vifs := [(0, { vif4 with peers := [(1, 5, 20)] })], torus := { based.torus with nextSeq := [(5, 7 * 256 + 2, 3)] } }
def fl1 : Flit := flt (Config.torusSelf + 1) .store .p
def fl2 : Flit := flt Config.torusSelf .store .p
def me0 (o : Word) (src : Nat) : McastEntry := ⟨src, Config.torusSelf, 0, 0, 12, 7, o, 4⟩
def ktk : Ticket := ⟨12, 9990, false, true, none, 0, 0xF800000000040, none, 0⟩
def ktO : Ticket := { ktk with t0 := 0 }
def tq (e : McastEntry) (l : List Ticket) (ft : Nat) : State := { cxd based fun c => { c with tickets := l } with vifs := [(0, { vif4 with fltime := ft })], torus := { based.torus with mcast := [e] } }
def mc1 : State := tq (me0 2 5) [ktk] 500
def mc2 : State := tq (me0 0 (Config.torusSelf + 1)) [ktk] 500
def mc3 : State := tq (me0 0 Config.torusSelf) [ktk] 500
def mc4 : State := tq (me0 3 Config.torusSelf) [ktO] 500
def owed6 : Owed := ⟨0, 0, 6, 9, [], 0xF818000000040, 0, 3, none⟩
def pto : State := { cxd based fun c => { c with st := .ready } with vifs := [(0, { vif4 with fltime := 500 })], torus := { based.torus with owedAcks := [owed6], downPeers := [4] } }
def dbg (d : Bool) (f : Core → Core) (st : Run) : State := { cored (cxd based fun c => { c with st := st, g := c.g.set 4 7 }) (fun c => f { c with parked := [(1, { Context.reset 1 with st := st, await := some ⟨[], .ack, 0, 0, false, 0, 4, 0⟩ })] }) with vifs := [(0, { vif4 with debug := d })] }
def dg0 : State := dbg false id .ready
def dg1 : State := dbg true id .ready
def dg2 : State := dbg true (fun c => { c with debugged := true, frozen := true }) .halted
def dg3 : State := { dg2 with hub := { dg2.hub with selected := (0, 0) } }
def att' : State := { dg1 with vifs := [(0, { vif2 with debug := true, attached := true })], hub := { dg1.hub with image := { dg1.hub.image with entry := 0x1004, xbound := 0x5000, need := [(2, 2, 4)] } } }
def att2 : State := { cored (cxd based fun c => { c with st := .stopped }) id with vifs := att'.vifs, hub := att'.hub }
def mRel : Msg := ⟨3, .ctx 32000 0, .core 0, .w, 32000, true, [(5, 1)], [], 2, coordAddr 0 0 0 0x5000, .store (sramKey 0 0x5000) 8 0x1234, false, [], 9990, .arrived⟩
def attR : State := { att' with flight := [mRel], holds := [(5, 0)] }
def att3 : State := { att2 with hub := { att2.hub with image := Image.empty } }
def boot : State := { om1 with mem := [(40, 3), (2 ^ 52 + 8, 9)], tiles := [(5, tile0)], hub := { based.hub with power := .boot } }
def bootA : State := { boot with hub := { boot.hub with accepted := true } }
def fw (k : Nat) : State := cored (cxd (sup based) fun c => { c with st := .halted }) fun c => { c with k := k, faulted := true }
def fw1 : State := fw 3
def fw2 : State := fw 0
def fwR : State := cxd (sup based) fun c => { c with st := .ready, cause := 0x111, errpend := 0x401101, trapvec := 0x900 }
def pg : State := cored (cxd based fun c => { c with st := .stopped }) fun c => { c with tlb := [big] }
def iss (p : Nat) (w : List Nat) : State := { base with sched := [⟨0, .issue 0⟩, ⟨0, .issue 0⟩], mem := (List.range w.length).foldl (fun m j => Memory.putN m (sramKey 0 (0x800 + 4 * j)) 4 (w.getD j 0)) [] }
def iss1 : State := iss 0 [0x0014A600]
def iss2 : State := iss 0 [0x6F, 0x0038C780]
def iss3 : State := iss 0 [0x04000890]
def iss4 : State := { iss 0 [0x00050002, 0, 0x1234] with sched := [⟨0, .issue 0⟩] }
def pcat (p : Nat) (b : List Nat) : State := { cxd base (fun c => { c with pc := BitVec.ofNat _ p }) with poison := b }
def pc1 : State := pcat 0x7FC []
def pc2 : State := pcat 0x4000 []
def pc3 : State := pcat 0x804 [sramKey 0 0x800 / 8]
def iss6 : State := { cored ((iss 0 [0x6F, 0x0038C780]).setG 6 0x200000) (fun c => { c with tlb := [⟨0, 0, 21, 1, 0xC000, true, true, true⟩] }) with sched := [⟨0, .issue 0⟩] }

theorem witness_DebuggerHalts :
    (dg0.debuggable dg0.id = false)
    ∧ ((dg1.debuggable dg1.id = true)
      ∧ (bits (dg1.cxAt dg1.id 0).domain 2 0 < 2)
      ∧ ((dg1.episodes.all fun e => e.k != 5) = true))
    ∧ ((dg2.core.debugged = true)
      ∧ (dg2.trayRuns dg2.id = true)
      ∧ (dg2.core.faulted = false))
    ∧ (dg3.hub.selected = (dg3.id, dg3.core.k))
      ∧ (dg3.core.debugged = true)
      ∧ (3 ≠ 0)
      ∧ (dg3.cx.st = Run.halted)
      ∧ (dg3.trayRuns dg3.id = true) := by decide +kernel
theorem witness_DebuggerTools :
    (att'.debugDies 1 0 = some (5, 0))
    ∧ (List.filter (Msg.inQueue (5, 0)) att'.flight = [])
    ∧ ((attR.debugDies 1 0 = some (5, 0))
      ∧ (attR.flight = [mRel])
      ∧ (Msg.inQueue (5, 0) mRel = true)
      ∧ (attR.atHead mRel = true)
      ∧ (mRel.body = Body.store (sramKey 0 20480) 8 4660)
      ∧ (mRel.stamp = [])
      ∧ (∀ (x : Spot), x ∈ attR.spots → x.queue = mRel.applyQueue → x.item = mRel.id)
      ∧ ((attR.dropMsg mRel.id).dropCode mRel (sramKey 0 20480) 8 = none))
    ∧ ((att2.core.tray = some (0, 0))
      ∧ ((att2.vif (0, 0).fst).debug = true)
      ∧ (att2.meetsNeed (0, 0).fst (0, 0).snd att2.hub.image = true)
      ∧ (att2.startable att2.id = true)
      ∧ (att2.enginesIdle att2.id = true))
    ∧ (att3.core.tray = some (0, 0))
      ∧ (att3.meetsNeed (0, 0).fst (0, 0).snd att3.hub.image = false) := by decide +kernel
theorem witness_BringUpAndPower :
    ((boot.hub.power = Power.boot)
      ∧ ((true && false) = false)
      ∧ (boot.hub.accepted = false))
    ∧ ((bootA.hub.power = Power.boot)
      ∧ (bootA.hub.accepted = true))
    ∧ (hs1.hub.power ≠ Power.boot)
    ∧ ((fw1.cx.st.live = true)
      ∧ (fw1.cx.super = true)
      ∧ (fw1.core.faulted = true ∨ fw1.cx.reflects = false)
      ∧ (fw1.core.k ≠ 0))
    ∧ ((fwR.cx.st.live = true)
      ∧ (fwR.core.faulted = false)
      ∧ (fwR.cx.reflects = true))
    ∧ ((fw2.cx.st.live = true)
      ∧ (fw2.cx.super = true)
      ∧ (fw2.core.faulted = true ∨ fw2.cx.reflects = false)
      ∧ (fw2.core.k = 0)
      ∧ (fw2.core.node = none))
    ∧ ((om1.cx.super = false)
      ∧ (om1.core.faulted = false))
    ∧ (((pg.ctxsAt 0).all fun c => c.st == Run.stopped || c.st == Run.free) = true)
      ∧ (pg.enginesIdle 0 = true)
      ∧ ((pg.coreAt 0).sbuf = [])
      ∧ (pg.oldAccess 0 = false) := by
  repeat' first
    | with_reducible apply And.intro
    | decide +kernel
theorem witness_FetchReadsTheParcelsAtThePc :
    ((iss1.cx.super = true ∨ BitVec.toNat iss1.core.sbound ≤ BitVec.toNat iss1.cx.pc)
      ∧ (BitVec.toNat iss1.cx.pc < BitVec.toNat iss1.core.xbound)
      ∧ (parcelL (iss1.parcel (BitVec.toNat iss1.cx.pc)) ≠ 3 ∧ BitVec.toNat iss1.cx.pc % 32 + 4 * (List.map (fun k => iss1.parcel (BitVec.toNat iss1.cx.pc + 4 * k)) (List.range ((parcelL (iss1.parcel (BitVec.toNat iss1.cx.pc))).toNat + 1))).length ≤ 32 ∧ (∀ (k : Nat), k < (List.map (fun k => iss1.parcel (BitVec.toNat iss1.cx.pc + 4 * k)) (List.range ((parcelL (iss1.parcel (BitVec.toNat iss1.cx.pc))).toNat + 1))).length → iss1.parcelBad (BitVec.toNat iss1.cx.pc + 4 * k) = false) ∧ opcodeKnown (iss1.parcel (BitVec.toNat iss1.cx.pc)) = true ∧ iss1.privTval (iss1.parcel (BitVec.toNat iss1.cx.pc)) ((List.map (fun k => iss1.parcel (BitVec.toNat iss1.cx.pc + 4 * k)) (List.range ((parcelL (iss1.parcel (BitVec.toNat iss1.cx.pc))).toNat + 1))).getD 1 0) = none)
      ∧ (decode (List.map (fun k => iss1.parcel (BitVec.toNat iss1.cx.pc + 4 * k)) (List.range ((parcelL (iss1.parcel (BitVec.toNat iss1.cx.pc))).toNat + 1))) = Except.ok (Instr.add 6 5 5)))
    ∧ ((iss4.cx.super = true ∨ BitVec.toNat iss4.core.sbound ≤ BitVec.toNat iss4.cx.pc)
      ∧ (BitVec.toNat iss4.cx.pc < BitVec.toNat iss4.core.xbound)
      ∧ (parcelL (iss4.parcel (BitVec.toNat iss4.cx.pc)) ≠ 3 ∧ BitVec.toNat iss4.cx.pc % 32 + 4 * (List.map (fun k => iss4.parcel (BitVec.toNat iss4.cx.pc + 4 * k)) (List.range ((parcelL (iss4.parcel (BitVec.toNat iss4.cx.pc))).toNat + 1))).length ≤ 32 ∧ (∀ (k : Nat), k < (List.map (fun k => iss4.parcel (BitVec.toNat iss4.cx.pc + 4 * k)) (List.range ((parcelL (iss4.parcel (BitVec.toNat iss4.cx.pc))).toNat + 1))).length → iss4.parcelBad (BitVec.toNat iss4.cx.pc + 4 * k) = false) ∧ opcodeKnown (iss4.parcel (BitVec.toNat iss4.cx.pc)) = true ∧ iss4.privTval (iss4.parcel (BitVec.toNat iss4.cx.pc)) ((List.map (fun k => iss4.parcel (BitVec.toNat iss4.cx.pc + 4 * k)) (List.range ((parcelL (iss4.parcel (BitVec.toNat iss4.cx.pc))).toNat + 1))).getD 1 0) = none)
      ∧ (decode (List.map (fun k => iss4.parcel (BitVec.toNat iss4.cx.pc + 4 * k)) (List.range ((parcelL (iss4.parcel (BitVec.toNat iss4.cx.pc))).toNat + 1))) = Except.ok (Instr.li 5 4660)))
    ∧ (iss2.cx.super = true ∨ BitVec.toNat iss2.core.sbound ≤ BitVec.toNat iss2.cx.pc)
      ∧ (BitVec.toNat iss2.cx.pc < BitVec.toNat iss2.core.xbound)
      ∧ (parcelL (iss2.parcel (BitVec.toNat iss2.cx.pc)) = 3)
      ∧ (iss2.parcelBad (BitVec.toNat iss2.cx.pc) = false)
      ∧ (BitVec.toNat iss2.cx.pc % 32 ≠ 28)
      ∧ (Mods.parcelOk (iss2.parcel (BitVec.toNat iss2.cx.pc)) = true)
      ∧ (parcelL (iss2.parcel (BitVec.toNat iss2.cx.pc + 4)) ≠ 3 ∧ (BitVec.toNat iss2.cx.pc + 4) % 32 + 4 * (List.map (fun k => iss2.parcel (BitVec.toNat iss2.cx.pc + 4 + 4 * k)) (List.range ((parcelL (iss2.parcel (BitVec.toNat iss2.cx.pc + 4))).toNat + 1))).length ≤ 32 ∧ (∀ (k : Nat), k < (List.map (fun k => iss2.parcel (BitVec.toNat iss2.cx.pc + 4 + 4 * k)) (List.range ((parcelL (iss2.parcel (BitVec.toNat iss2.cx.pc + 4))).toNat + 1))).length → iss2.parcelBad (BitVec.toNat iss2.cx.pc + 4 + 4 * k) = false) ∧ opcodeKnown (iss2.parcel (BitVec.toNat iss2.cx.pc + 4)) = true ∧ iss2.privTval (iss2.parcel (BitVec.toNat iss2.cx.pc + 4)) ((List.map (fun k => iss2.parcel (BitVec.toNat iss2.cx.pc + 4 + 4 * k)) (List.range ((parcelL (iss2.parcel (BitVec.toNat iss2.cx.pc + 4))).toNat + 1))).getD 1 0) = none)
      ∧ (acceptsMods (iss2.parcel (BitVec.toNat iss2.cx.pc + 4)) = true)
      ∧ (decode (iss2.parcel (BitVec.toNat iss2.cx.pc) :: List.map (fun k => iss2.parcel (BitVec.toNat iss2.cx.pc + 4 + 4 * k)) (List.range ((parcelL (iss2.parcel (BitVec.toNat iss2.cx.pc + 4))).toNat + 1))) = Except.ok (Instr.ld (some { ord := 3, scope := 3, space := 0, cache := 0, chk := false }) LdWidth.d 7 6 1)) := by
  repeat' first
    | with_reducible apply And.intro
    | decide +kernel
    | exact ok_of (by decide +kernel)
theorem witness_FetchRefusals :
    ((pc1.cx.super = false)
      ∧ (BitVec.toNat pc1.cx.pc < BitVec.toNat pc1.core.sbound))
    ∧ ((pc2.cx.super = true ∨ BitVec.toNat pc2.core.sbound ≤ BitVec.toNat pc2.cx.pc)
      ∧ (BitVec.toNat pc2.core.xbound ≤ BitVec.toNat pc2.cx.pc))
    ∧ (pc3.cx.super = true ∨ BitVec.toNat pc3.core.sbound ≤ BitVec.toNat pc3.cx.pc)
      ∧ (BitVec.toNat pc3.cx.pc < BitVec.toNat pc3.core.xbound)
      ∧ (pc3.parcelBad (BitVec.toNat pc3.cx.pc) = true) := by decide +kernel
theorem witness_TorusHops :
    tor.torus.inject = [] ∧ (fl1.op ≠ .mcast ∧ fl1.dest ≠ Config.torusSelf ∧ fl1.dest ∉ tor.torus.downPeers)
    ∧ fl2.cls = .p ∧ fl2.op = .store ∧ fl2.dest = Config.torusSelf ∧ fl2.dest ∉ tor.torus.downPeers ∧ tor.torus.reorder = []
    ∧ fl2.ticket = seqOf tor.torus.nextSeq fl2.src (sourceNo fl2) ∧ tor.inWindow fl2 8 = true := by
  repeat' first
    | with_reducible apply And.intro
    | exact rfl
    | exact Nat.succ_ne_self _
    | decide +kernel
theorem witness_Acknowledgements :
    (mc1.torus.mcast[0]? = some (me0 2 5) ∧ (me0 2 5).owed ≠ 0)
    ∧ (mc2.torus.mcast[0]? = some (me0 0 (Config.torusSelf + 1)) ∧ (me0 0 (Config.torusSelf + 1)).owed = 0 ∧ (me0 0 (Config.torusSelf + 1)).src ≠ Config.torusSelf)
    ∧ (mc3.torus.mcast[0]? = some (me0 0 Config.torusSelf) ∧ (me0 0 Config.torusSelf).owed = 0 ∧ (me0 0 Config.torusSelf).src = Config.torusSelf ∧ (me0 0 Config.torusSelf).core = mc3.id
      ∧ (me0 0 Config.torusSelf).ctx = mc3.core.k ∧ mc3.cx.tickets = [ktk] ∧ ktk.num = (me0 0 Config.torusSelf).ticket ∧ ktk.multi = true ∧ ktk.answer = none)
    ∧ (mc4.torus.mcast = [me0 3 Config.torusSelf] ∧ mc4.cx.tickets = [ktO] ∧ ktO.num = (me0 3 Config.torusSelf).ticket ∧ ktO.multi = true ∧ ktO.answer = none
      ∧ (mc4.vif (mc4.vifOf mc4.id)).fltime ≤ (mc4.cy - ktO.t0) * 50 / 47)
    ∧ pto.core.k < 11 ∧ pto.torus.owedAcks = [owed6] ∧ owed6.core = pto.id ∧ owed6.ctx = pto.core.k ∧ owed6.peer = 6 ∧ owed6.multi = none ∧ pto.cx.tickets = []
      ∧ (pto.vif (pto.vifOf pto.id)).fltime ≤ (pto.cy - owed6.t0) * 50 / 47
      ∧ pto.cx.st.live = true ∧ bit pto.cx.errpend 0 = false := by
  repeat' first
    | with_reducible apply And.intro
    | exact rfl
    | exact Nat.succ_ne_self _
    | decide +kernel
/-- A step at these states runs ADD, which takes the slot; QGET of an empty queue, which waits; a load whose leaf names a frame the manual rules out, the model's fault. -/
theorem witness_StepRunsTheFetchedInstruction :
    (iss1.sched = ⟨0, .issue iss1.id⟩ :: [⟨0, .issue 0⟩] ∧ issuesNow iss1 ∧ iss1.fetch = .ok (.add 6 5 5)
      ∧ ∃ t, exec (.add 6 5 5) { iss1 with sched := [⟨0, .issue 0⟩] } = .next t ∧ iss1.cx.took t.cx = true)
    ∧ (iss3.sched = ⟨0, .issue iss3.id⟩ :: [⟨0, .issue 0⟩] ∧ issuesNow iss3 ∧ iss3.fetch = .ok (.qget 8 0)
      ∧ ∃ t, exec (.qget 8 0) { iss3 with sched := [⟨0, .issue 0⟩] } = .next t ∧ (!(iss3.cx.took t.cx)) = true)
    ∧ iss6.sched = ⟨0, .issue iss6.id⟩ :: [] ∧ issuesNow iss6 ∧ iss6.fetch = .ok (.ld (some ⟨3, 3, 0, 0, false⟩) .d 7 6 1)
      ∧ ∃ r, exec (.ld (some ⟨3, 3, 0, 0, false⟩) .d 7 6 1) { iss6 with sched := [] } = .fault r := by
  repeat' first
    | exact next_of (by decide +kernel)
    | exact next_of (p := fun t => !(iss3.cx.took t.cx)) (by decide +kernel)
    | exact fault_of (by decide +kernel)
    | decide +kernel
    | with_reducible apply And.intro
theorem witness_StepsKeepTheForm :
    (Memory.wf iss1.mem = true ∧ Memory.wf iss1.hub.hostMem = true ∧ Memory.wf iss1.hub.mailbox.args = true) ∧ iss1.id < siteCount ∧ ∃ t, step iss1 = .next t ∧ true = true :=
  ⟨by decide +kernel, by decide +kernel, next_of (p := fun _ => true) (by decide +kernel)⟩
theorem witness_DecodeInvertsEncode :
    [Instr.add 31 31 31, .ldp (some ⟨6, 5, 3, 3, true⟩) 30 31 0x7FF, .loop 31 0x3FFF, .nput 31 4, .amoCas (some ⟨6, 5, 3, 3, true⟩) true 31 31 31 31 0xFFFFFF, .fence .full 5,
      .dphase 2, .vadd true true 15 15 (.g 31), .vcvt true .f32 .s8 15 15, .mmp true 3 7 7 255 256 7 7, .ard true 31 31 31 31 255, .xkick 31 31 255, .cstart 31 31 31].all
      (fun i => i.wf && i.encodable) = true := by decide +kernel

end Sys2Proof.Tests
end

section
/-!
PROOFS. NOP and g0 (R12, R94, R101).
-/
namespace Sys2Proof.Machine

/-! ## NOP (R94) -/

theorem size_nop : Instr.nop.size = 4 := rfl

/-- NOP is the jump to the next parcel. -/
theorem exec_nop (s : State) : exec .nop s = .next (s.jump (s.cx.pc + 4)) := by
  have hdone : exec .nop s = s.done .nop := rfl
  rw [hdone, State.done, State.retire, Context.next, size_nop, State.jump]
  rfl

theorem completesAt_nop (s : State) : completesAt .nop s (s.cx.pc + 4) :=
  completesAt_of_jump .nop s (s.cx.pc + 4) (exec_nop s)

/-- All fields of the zero parcel are 0: ADD with g0 three times, which is NOP. -/
theorem decode_zero_parcel : decode [0x00000000] = .ok .nop := rfl

/-! ## The obligation -/

/-- Settles O1: NOP retires at the next parcel as a jump there would, the zero parcel decodes to it, and g0 has the read and write rules
of the state's register file. -/
theorem nopAndRegisterZero : Obligations.NopAndRegisterZero :=
  ⟨completesAt_nop, decode_zero_parcel, fun s => ⟨State.g_zero s, State.setG_zero s⟩⟩

end Sys2Proof.Machine
end

section
/-!
PROOFS. How the scalar instructions end: with a value now, with a value later, with a branch (R88, R101, R110).
-/
namespace Sys2Proof.Machine

/-! ## Ends of scalar instructions -/

/-- The value that completes an instruction may be named by any expression equal to the model's. -/
theorem completesG_of_doneG_eq {i : Instr} {s : State} {d : GReg} {v w : Word} (h : exec i s = s.doneG i d w) (hv : w = v) :
    completesG i s d v := hv ▸ completesG_of_doneG i s d w h

theorem State.g_laterG (s : State) (d r : GReg) (v : Word) (n : Nat) : (s.laterG d v n).g r = s.g r := by
  unfold State.laterG; split <;> rfl

theorem State.pend_laterG (s : State) (d : GReg) (v : Word) (n : Nat) :
    (s.laterG d v n).cx.pend = if d = 0 then s.cx.pend else s.cx.pend ++ [⟨.g d, [v], s.cy + n⟩] := by
  unfold State.laterG; split <;> rfl

/-- A result noted for later changes the list of such results and nothing else. -/
theorem State.laterG_eq (s : State) (d : GReg) (v : Word) (n : Nat) :
    s.laterG d v n = s.setCx { s.cx with pend := (s.laterG d v n).cx.pend } := by
  unfold State.laterG; split <;> rfl

theorem State.regsOnly_retire_self (s : State) (p : Pc) : s.RegsOnly (s.setCx (s.cx.retire p)) := State.regsOnly_retire s 0 0 p

/-- An instruction whose result is written `n` cycles after issue (R101). -/
theorem completesLater_of_doneLater {i : Instr} {s : State} {d : GReg} {v w : Word} {n : Nat}
    (h : exec i s = s.doneLater i d w n) (hv : w = v) : completesLater i s d v n := by
  subst hv
  have hview := s.laterG_eq d w n
  have hend : (s.laterG d w n).retire i = s.setCx (Context.retire { s.cx with pend := (s.laterG d w n).cx.pend } (s.after i)) := by
    rw [hview]; rfl
  have hpend := s.pend_laterG d w n
  refine ⟨_, h, fun r => s.g_laterG d r w n, hpend, ?_, ?_⟩
  · rw [hend]; exact State.readyAt_retire s _ _ rfl rfl
  · rw [hend]; exact State.regsOnly_retire_self _ _

/-- The model's target of a displacement is that of R88. -/
theorem State.target_eq_branchTarget {n : Nat} (s : State) (disp : BitVec n) : s.target disp = branchTarget s.cx.pc disp := by
  apply BitVec.eq_of_toNat_eq
  have hext : sext disp = BitVec.ofInt 64 disp.toInt := rfl
  simp only [State.target, branchTarget, hext, BitVec.toNat_add, BitVec.toNat_setWidth, BitVec.toNat_mul, BitVec.toNat_ofInt,
    show (4 : Word).toNat = 4 from rfl]
  omega

/-- A branch of one parcel completes at its target when its condition holds and behind itself otherwise (R110). -/
theorem completesAt_of_branch {n : Nat} {i : Instr} {s : State} {c c' : Bool} {disp : BitVec n}
    (h : exec i s = s.branch i c disp) (hs : i.size = 4) (hc : c = c') :
    completesAt i s (if c' then branchTarget s.cx.pc disp else s.cx.pc + 4) := by
  subst hc
  refine completesAt_of_jump i s _ (h.trans ?_)
  cases c
  · simp [State.branch, State.retire, State.jump, Context.next, hs]
  · simp [State.branch, State.target_eq_branchTarget]

end Sys2Proof.Machine
end

section
/-!
PROOFS. Decoding the parcels of the 32-bit formats and of the 96-bit literal forms (R84, R87, R89, R99).
-/
namespace Sys2Proof

/-! ## Whole parcels -/

/-- One parcel of an assigned opcode, modified by none before it, is the instruction its fields name, if they name one (R99). -/
theorem decode_parcel {p : Parcel} (hL : parcelL p = 0) (hk : opcodeKnown p = true) :
    decode [p] = (decode32 none (TF.unpack p)).elim (.error .fieldsBad) .ok := by
  have hbody : decodeBody none [p] = decode32 none (TF.unpack p) := by simp [decodeBody, hL]
  have hafter : decode [p] = decodeAfter none [p] := by simp [decode, hL]
  rw [hafter]
  cases hfields : decode32 none (TF.unpack p) <;> simp [decodeAfter, hL, hk, parcelCount, hbody, hfields]

/-- The same of the two parcels of a 96-bit form and its literal (R109). -/
theorem decode_literal {p q : Parcel} (l : Parcel) (hL : parcelL p = 2) (hk : opcodeKnown p = true) (htop : bit p 31 = false) :
    decode [p, q, l] = (decodeLit (XF.unpack p q) l).elim (.error .fieldsBad) .ok := by
  have hbody : decodeBody none [p, q, l] = decodeLit (XF.unpack p q) l := by simp [decodeBody, hL, htop]
  have hafter : decode [p, q, l] = decodeAfter none [p, q, l] := by simp [decode, hL]
  rw [hafter]
  cases hfields : decodeLit (XF.unpack p q) l <;> simp [decodeAfter, hL, hk, parcelCount, hbody, hfields]

theorem TF.opcodeKnown_pack (t : TF) : opcodeKnown t.pack = known32 t.op.toNat t.f6.toNat := by
  simp [opcodeKnown, t.parcelL_pack, t.unpack_pack]

/-- A 32-bit parcel packed from fields. -/
theorem decode_pack (t : TF) (hk : known32 t.op.toNat t.f6.toNat = true) :
    decode [t.pack] = (decode32 none t).elim (.error .fieldsBad) .ok := by
  have h := decode_parcel t.parcelL_pack (t.opcodeKnown_pack.trans hk)
  rwa [t.unpack_pack] at h

theorem XF.maj_pack0 (x : XF) (l : BitVec 2) : bits (x.pack0 l) 7 2 = x.maj.toNat := by
  rw [← congrArg XF.maj (x.unpack_pack l)]
  exact (BitVec.extractLsb'_toNat 2 6 _).symm
theorem XF.min_pack0 (x : XF) (l : BitVec 2) : bits (x.pack0 l) 15 8 = x.min.toNat := by
  rw [← congrArg XF.min (x.unpack_pack l)]
  exact (BitVec.extractLsb'_toNat 8 8 _).symm
theorem XF.top_pack0 (x : XF) (l : BitVec 2) : bit (x.pack0 l) 31 = false := by
  simp only [bit, XF.pack0, BitVec.getLsbD_append]; simp

/-- A 96-bit form packed from fields (R89, R109). -/
theorem decode_pack_lit (x : XF) (l : Parcel) (hk : len64 x.maj.toNat x.min.toNat = 3) :
    decode [x.pack0 2, x.pack1, l] = (decodeLit x l).elim (.error .fieldsBad) .ok := by
  have hL := x.parcelL_pack0 2
  have hop : opcodeKnown (x.pack0 2) = true := by
    rw [opcodeKnown, hL, x.maj_pack0, x.min_pack0, hk]; rfl
  have h := decode_literal l (q := x.pack1) hL hop (x.top_pack0 2)
  rwa [x.unpack_pack] at h

/-! ## The T, I and B formats -/

/-- A parcel in the T format decodes to what its fields name (R87). -/
theorem decode_tForm {op f6 f3 : Nat} {d a b : BitVec 5} {i : Instr}
    (hk : known32 (BitVec.ofNat 6 op).toNat (BitVec.ofNat 6 f6).toNat = true)
    (hi : decode32 none ⟨BitVec.ofNat 6 op, d, a, b, BitVec.ofNat 3 f3, BitVec.ofNat 6 f6⟩ = some i) :
    decode [tForm op f6 f3 d a b] = .ok i := by
  have h := decode_pack ⟨BitVec.ofNat 6 op, d, a, b, BitVec.ofNat 3 f3, BitVec.ofNat 6 f6⟩ hk
  rw [hi] at h
  exact h

/-- A parcel in the I or B format is one in the T format, its immediate in B, F3 and F6 (R87). -/
theorem iForm_eq_pack (op : Nat) (lo hi : BitVec 5) (imm : BitVec 14) : iForm op lo hi imm = (TF.ofI (BitVec.ofNat 6 op) lo hi imm).pack := by
  simp only [iForm, TF.ofI, TF.pack]
  have h : imm = imm.extractLsb' 8 6 ++ imm.extractLsb' 5 3 ++ imm.extractLsb' 0 5 := (TF.imm14_ofI 0 0 0 imm).symm
  conv => lhs; rw [h]
  rfl

/-- A parcel in the I or B format decodes to what its fields name (R87). -/
theorem decode_iForm {op : Nat} {lo hi : BitVec 5} {imm : BitVec 14} {i : Instr}
    (hk : ∀ f6, known32 (BitVec.ofNat 6 op).toNat f6 = true) (hd : decode32 none (TF.ofI (BitVec.ofNat 6 op) lo hi imm) = some i) :
    decode [iForm op lo hi imm] = .ok i := by
  rw [iForm_eq_pack, decode_pack _ (hk _), hd]; rfl

/-- An instruction that takes the 14-bit immediate whole. -/
theorem decode_iForm_of_imm {op : Nat} {lo hi : BitVec 5} {imm : BitVec 14} (f : BitVec 14 → Instr)
    (hk : ∀ f6, known32 (BitVec.ofNat 6 op).toNat f6 = true)
    (hd : decode32 none (TF.ofI (BitVec.ofNat 6 op) lo hi imm) = some (f (TF.ofI (BitVec.ofNat 6 op) lo hi imm).imm14)) :
    decode [iForm op lo hi imm] = .ok (f imm) :=
  decode_iForm hk (hd.trans (by rw [TF.imm14_ofI]))

/-- A parcel of an assigned opcode in the I or B format whose fields name no instruction (R99). -/
theorem decode_iForm_bad {op : Nat} {lo hi : BitVec 5} {imm : BitVec 14} (hk : ∀ f6, known32 (BitVec.ofNat 6 op).toNat f6 = true)
    (hd : decode32 none (TF.ofI (BitVec.ofNat 6 op) lo hi imm) = none) : decode [iForm op lo hi imm] = .error .fieldsBad := by
  rw [iForm_eq_pack, decode_pack _ (hk _), hd]; rfl

/-! ## The J format and the literal forms -/

/-- A parcel in the J format is one in the T format, its displacement above the opcode (R87). -/
theorem decode_jmp (far : BitVec 24) : decode [far ++ 0x1B#6 ++ 0#2] = .ok (.jmp far) := by
  have hfar : (TF.ofJ 0x1B far).disp24 = far := TF.disp24_ofJ ..
  have hpack : far ++ 0x1B#6 ++ 0#2 = (TF.ofJ 0x1B far).pack := by
    conv => lhs; rw [← hfar]
    rfl
  have hform : decode32 none (TF.ofJ 0x1B far) = some (.jmp (TF.ofJ 0x1B far).disp24) := rfl
  rw [hpack, decode_pack _ rfl, hform, hfar]; rfl

/-- The parcels of a 96-bit literal form (R89, R109). -/
theorem decode_literalForm {min f3 : Nat} {d : GReg} {lit : BitVec 32} {i : Instr} (hk : len64 0 (BitVec.ofNat 8 min).toNat = 3)
    (hi : decodeLit ⟨0, BitVec.ofNat 8 min, d, 0, 0, 0, BitVec.ofNat 3 f3, 0⟩ lit = some i) :
    decode [0#11 ++ d ++ BitVec.ofNat 8 min ++ 0x00#6 ++ 2#2, 0#24 ++ BitVec.ofNat 3 f3 ++ 0#5, lit] = .ok i := by
  have h := decode_pack_lit ⟨0, BitVec.ofNat 8 min, d, 0, 0, 0, BitVec.ofNat 3 f3, 0⟩ lit hk
  have hzero : (0#11 : BitVec 11) = 0#1 ++ 0#5 ++ 0#5 := rfl
  rw [hi] at h
  rw [hzero]
  exact h

end Sys2Proof
end

section
/-!
PROOFS. Products, quotients and remainders (R104).
-/
namespace Sys2Proof.Machine

/-! ## Values (R104) -/

theorem mul_eq_ofNat (x y : Word) : x * y = BitVec.ofNat 64 (x.toNat * y.toNat) := by
  apply BitVec.eq_of_toNat_eq; rw [BitVec.toNat_mul, BitVec.toNat_ofNat]

/-- The quotient with its two special cases: −1 for a divisor of 0, −2^63 on overflow. -/
theorem divS_eq (x y : Word) :
    divS x y = if y = 0 then -1 else if x.toInt = -(2 ^ 63) ∧ y.toInt = -1 then BitVec.ofInt 64 (-(2 ^ 63))
      else BitVec.ofInt 64 (x.toInt.tdiv y.toInt) := by
  unfold divS
  split
  · rfl
  · split
    next hov =>
      obtain ⟨hx, hy⟩ := hov
      rw [hx, hy]; rfl
    next => rfl

theorem divZ_eq (x y : Word) : divZ x y = if y = 0 then BitVec.ofNat 64 (2 ^ 64 - 1) else BitVec.ofNat 64 (x.toNat / y.toNat) := by
  unfold divZ
  split
  · rfl
  · exact BitVec.udiv_def

/-- The remainder with its two special cases: the dividend for a divisor of 0, 0 on overflow. -/
theorem remS_eq (x y : Word) :
    remS x y = if y = 0 then x else if x.toInt = -(2 ^ 63) ∧ y.toInt = -1 then 0
      else BitVec.ofInt 64 (x.toInt - y.toInt * x.toInt.tdiv y.toInt) := by
  unfold remS
  split
  · rfl
  · split
    next hov =>
      obtain ⟨hx, hy⟩ := hov
      rw [hx, hy]; rfl
    next => rw [Int.tmod_def]

theorem remZ_eq (x y : Word) : remZ x y = if y = 0 then x else BitVec.ofNat 64 (x.toNat - y.toNat * (x.toNat / y.toNat)) := by
  unfold remZ
  split
  · rfl
  · apply BitVec.eq_of_toNat_eq
    have hlt : x.toNat % y.toNat < 2 ^ 64 := Nat.lt_of_le_of_lt (Nat.mod_le _ _) x.isLt
    rw [BitVec.toNat_umod, BitVec.toNat_ofNat, ← Nat.mod_eq_sub_mul_div, Nat.mod_eq_of_lt hlt]

/-! ## The obligation -/

/-- The first argument of each part is the instruction's meaning, the second its value as R104 writes it. -/
theorem multiplyDivideResults : Claims.MultiplyDivideResults := fun _ _ _ _ =>
  ⟨completesLater_of_doneLater rfl (mul_eq_ofNat _ _),
    completesLater_of_doneLater rfl rfl,
    completesLater_of_doneLater rfl rfl,
    completesLater_of_doneLater rfl (divS_eq _ _),
    completesLater_of_doneLater rfl (divZ_eq _ _),
    completesLater_of_doneLater rfl (remS_eq _ _),
    completesLater_of_doneLater rfl (remZ_eq _ _)⟩

theorem multiplyDivideEncode : Claims.MultiplyDivideEncode := fun _ _ _ =>
  ⟨decode_tForm rfl rfl, decode_tForm rfl rfl, decode_tForm rfl rfl, decode_tForm rfl rfl, decode_tForm rfl rfl,
    decode_tForm rfl rfl, decode_tForm rfl rfl⟩

/-- Settles O3: each of the seven retires at once and leaves its result to be written 3 or 36 cycles later; the values of the model's
quotients and remainders have the cases of R104; OP 0x01 selects them by F6. -/
theorem multiplyAndDivideComputeTheirResults : Obligations.MultiplyAndDivideComputeTheirResults :=
  ⟨multiplyDivideResults, multiplyDivideEncode⟩

end Sys2Proof.Machine
end

section
/-!
PROOFS. SEL, ADDX and the bit counts (R105, R106, R107).
-/
namespace Sys2Proof.Machine

/-! ## Values -/

theorem addx_eq_ofNat (x y : Word) (n : Nat) : x + y <<< n = BitVec.ofNat 64 (x.toNat + y.toNat * 2 ^ n) := by
  apply BitVec.eq_of_toNat_eq
  rw [BitVec.toNat_add, BitVec.toNat_shiftLeft, BitVec.toNat_ofNat, Nat.shiftLeft_eq, Nat.add_mod_mod]

/-- The leading 1 of a nonzero word stands at its binary logarithm (R107). -/
theorem clz64_isLeadingZeros (x : Word) : IsLeadingZeros x (clz64 x) := by
  by_cases hx : x = 0
  · exact .inl ⟨hx, by rw [clz64, if_pos hx]⟩
  · have hn : x.toNat ≠ 0 := fun h => hx (BitVec.eq_of_toNat_eq h)
    have hlog : x.toNat.log2 < 64 := (Nat.log2_lt hn).mpr x.isLt
    have hclz : clz64 x = 63 - x.toNat.log2 := by rw [clz64, if_neg hx]; omega
    have hplace : 63 - clz64 x = x.toNat.log2 := by omega
    refine .inr ⟨by omega, ?_, fun i hi => ?_⟩
    · rw [hplace]; exact Nat.testBit_log2 hn
    · rw [hplace] at hi
      exact Nat.testBit_lt_two_pow ((Nat.log2_lt hn).mp hi)

/-- Counting from bit `i` up finds the trailing 1 when all the bits below `i` are 0 (R107). -/
theorem ctzFrom_isTrailingZeros (x : Word) (n i : Nat) (hni : i + n = 64) (hlow : ∀ j, j < i → x.getLsbD j = false) :
    IsTrailingZeros x (ctzFrom x n i) := by
  induction n generalizing i with
  | zero =>
    have hi : i = 64 := hni
    exact .inl ⟨BitVec.eq_of_getLsbD_eq fun j hj => (hlow j (by omega)).trans BitVec.getLsbD_zero.symm, rfl⟩
  | succ n ih =>
    rw [ctzFrom]
    split
    next hbit => exact .inr ⟨by omega, hbit, hlow⟩
    next hbit =>
      refine ih (i + 1) (by omega) fun j hj => ?_
      rcases Nat.lt_succ_iff_lt_or_eq.mp hj with h | rfl
      · exact hlow j h
      · exact Bool.eq_false_iff.mpr hbit

theorem ctz64_isTrailingZeros (x : Word) : IsTrailingZeros x (ctz64 x) :=
  ctzFrom_isTrailingZeros x 64 0 rfl fun _ h => absurd h (Nat.not_lt_zero _)

/-- A sum of truth values counts the entries for which they are true. -/
theorem foldl_b2n_eq_length_filter (p : Nat → Bool) (l : List Nat) (n : Nat) :
    l.foldl (fun n i => n + b2n (p i)) n = n + (l.filter p).length := by
  induction l generalizing n with
  | nil => rfl
  | cons i l ih =>
    rw [List.foldl_cons, ih]
    cases hp : p i <;> simp [b2n, hp, Nat.add_assoc, Nat.add_comm 1]

theorem popc64_eq_length_filter (x : Word) : popc64 x = ((List.range 64).filter fun i => x.getLsbD i).length :=
  (foldl_b2n_eq_length_filter _ _ 0).trans (Nat.zero_add _)

theorem brev64_getLsbD (x : Word) (i : Nat) (hi : i < 64) : (brev64 x).getLsbD (63 - i) = x.getLsbD i := by
  rw [brev64, BitVec.getLsbD_reverse, BitVec.getMsbD_eq_getLsbD, decide_eq_true (by omega), Bool.true_and]
  congr 1; omega

/-! ## The obligation -/

/-- Each part: the instruction's meaning, and its value as R105, R106 and R107 describe it. -/
theorem selectScaleAndCountResults : Claims.SelectScaleAndCountResults := fun _ _ _ _ _ _ =>
  ⟨completesG_of_doneG_eq rfl (ite_not ..),
    completesG_of_doneG_eq rfl (addx_eq_ofNat ..),
    ⟨_, clz64_isLeadingZeros _, completesG_of_doneG_eq rfl rfl⟩,
    ⟨_, ctz64_isTrailingZeros _, completesG_of_doneG_eq rfl rfl⟩,
    completesG_of_doneG_eq rfl (congrArg word (popc64_eq_length_filter _)),
    ⟨_, brev64_getLsbD _, completesG_of_doneG_eq rfl rfl⟩⟩

/-- F6 holds the condition register of SEL in its five low bits (R105). -/
theorem decode32_sel (d a b c : GReg) :
    decode32 none ⟨BitVec.ofNat 6 0x02, d, a, b, BitVec.ofNat 3 0, BitVec.ofNat 6 c.toNat⟩ = some (.sel d a b c) := by
  have hlt : (BitVec.ofNat 6 c.toNat).toNat < 32 := by simp only [BitVec.toNat_ofNat]; omega
  have hc : (BitVec.ofNat 6 c.toNat).setWidth 5 = c := by
    apply BitVec.eq_of_toNat_eq; simp only [BitVec.toNat_setWidth, BitVec.toNat_ofNat]; omega
  have hform : decode32 none ⟨BitVec.ofNat 6 0x02, d, a, b, BitVec.ofNat 3 0, BitVec.ofNat 6 c.toNat⟩
      = req (decide ((BitVec.ofNat 6 c.toNat).toNat < 32)) (.sel d a b ((BitVec.ofNat 6 c.toNat).setWidth 5)) := rfl
  rw [hform, hc, decide_eq_true hlt]; rfl

theorem decode32_addx (d a b : GReg) (sh : BitVec 3) :
    decode32 none ⟨BitVec.ofNat 6 0x03, d, a, b, BitVec.ofNat 3 sh.toNat, BitVec.ofNat 6 0⟩ = some (.addx d a b sh) := by
  rw [BitVec.ofNat_toNat, BitVec.setWidth_eq]; rfl

theorem selectScaleAndCountEncode : Claims.SelectScaleAndCountEncode := fun d a b c sh =>
  ⟨decode_tForm rfl (decode32_sel d a b c), decode_tForm rfl (decode32_addx d a b sh), decode_tForm rfl rfl, decode_tForm rfl rfl,
    decode_tForm rfl rfl, decode_tForm rfl rfl⟩

/-- Settles O4: each of the six ends with its value in g(d); the counts are characterised by the bits of the operand, CLZ by its binary
logarithm and CTZ by induction along its search. -/
theorem selectScaleAndCountComputeTheirResults : Obligations.SelectScaleAndCountComputeTheirResults :=
  ⟨selectScaleAndCountResults, selectScaleAndCountEncode⟩

end Sys2Proof.Machine
end

section
/-!
PROOFS. The I-format instructions and the literal forms (R108, R109).
-/
namespace Sys2Proof.Machine

/-! ## Values -/

theorem add_sext_eq_ofInt (x : Word) (imm : BitVec 14) : x + sext imm = BitVec.ofInt 64 (x.toInt + imm.toInt) := by
  rw [BitVec.ofInt_add, BitVec.ofInt_toInt]; rfl

theorem zext_eq_ofNat {n : Nat} (x : BitVec n) : zext x = BitVec.ofNat 64 x.toNat := (BitVec.ofNat_toNat 64 x).symm

theorem shiftLeft_eq_ofNat (x : Word) (n : Nat) : x <<< n = BitVec.ofNat 64 (x.toNat * 2 ^ n) := by
  apply BitVec.eq_of_toNat_eq
  rw [BitVec.toNat_shiftLeft, BitVec.toNat_ofNat, Nat.shiftLeft_eq]

theorem ushiftRight_eq_ofNat (x : Word) (n : Nat) : x >>> n = BitVec.ofNat 64 (x.toNat / 2 ^ n) := by
  have hlt : x.toNat / 2 ^ n < 2 ^ 64 := Nat.lt_of_le_of_lt (Nat.div_le_self _ _) x.isLt
  apply BitVec.eq_of_toNat_eq
  rw [BitVec.toNat_ushiftRight, BitVec.toNat_ofNat, Nat.mod_eq_of_lt hlt, Nat.shiftRight_eq_div_pow]

theorem sshiftRight_eq_ofInt (x : Word) (n : Nat) : x.sshiftRight n = BitVec.ofInt 64 (x.toInt / 2 ^ n) := by
  rw [← BitVec.ofInt_toInt (x := x.sshiftRight n), BitVec.toInt_sshiftRight, Int.shiftRight_eq_div_pow]; norm_cast

theorem slt_sext (x : Word) (imm : BitVec 14) : x.slt (sext imm) = decide (x.toInt < imm.toInt) := by
  rw [BitVec.slt_eq_decide, sext, BitVec.toInt_signExtend_of_le (by decide)]

/-- LIT above the low half of a word (R109). -/
theorem append_low_half_eq_ofNat (lit : BitVec 32) (x : Word) :
    lit ++ x.setWidth 32 = BitVec.ofNat 64 (lit.toNat * 2 ^ 32 + x.toNat % 2 ^ 32) := by
  have hx : x.toNat % 2 ^ 32 < 2 ^ 32 := Nat.mod_lt _ (by decide)
  have hsum : lit.toNat * 2 ^ 32 + x.toNat % 2 ^ 32 < 2 ^ 64 := by have hlit := lit.isLt; omega
  apply BitVec.eq_of_toNat_eq
  rw [BitVec.toNat_append, BitVec.toNat_setWidth, ← Nat.shiftLeft_add_eq_or_of_lt hx, Nat.shiftLeft_eq, BitVec.toNat_ofNat,
    Nat.mod_eq_of_lt hsum]

/-- The code offset of ADPC, as an integer modulo 2^15 (R109). -/
theorem State.zext_pcRel (s : State) (lit : BitVec 32) :
    zext (s.pcRel lit) = BitVec.ofNat 64 (((s.cx.pc.toNat : Int) + lit.toInt) % 2 ^ 15).toNat := by
  rw [zext_eq_ofNat]
  congr 1
  have hlit := BitVec.toInt_eq_toNat_cond lit
  simp only [State.pcRel, BitVec.toNat_add, BitVec.toNat_setWidth]
  split at hlit <;> omega

/-! ## The obligation -/

/-- Each part: the instruction's meaning, and its value as R108 writes it. -/
theorem immediateFormsResults : Claims.ImmediateFormsResults := fun _ _ _ _ _ =>
  ⟨completesG_of_doneG_eq rfl (add_sext_eq_ofInt ..),
    completesG_of_doneG_eq rfl rfl,
    completesG_of_doneG_eq rfl (congrArg _ (zext_eq_ofNat _)),
    completesG_of_doneG_eq rfl (congrArg _ (zext_eq_ofNat _)),
    completesG_of_doneG_eq rfl (shiftLeft_eq_ofNat ..),
    completesG_of_doneG_eq rfl (ushiftRight_eq_ofNat ..),
    completesG_of_doneG_eq rfl (sshiftRight_eq_ofInt ..),
    completesG_of_doneG_eq rfl (by simp only [slt_sext, decide_eq_true_eq])⟩

/-- Each part: the instruction's meaning, and its value as R109 writes it. -/
theorem literalFormsResults : Claims.LiteralFormsResults := fun s _ lit =>
  ⟨completesG_of_doneG_eq rfl rfl,
    completesG_of_doneG_eq rfl (append_low_half_eq_ofNat ..),
    completesG_of_doneG_eq rfl (s.zext_pcRel lit),
    completesG_of_doneG_eq rfl (by rw [s.zext_pcRel lit, BitVec.ofNat_add]; rfl)⟩

/-! ## Encodings -/

/-- Bits 13:6 of a shift's immediate are 0, bits 5:0 its amount (R108). -/
theorem decode32_slli (d a : GReg) (imm : BitVec 14) :
    decode32 none (TF.ofI (BitVec.ofNat 6 0x0C) d a imm) = req (decide (imm.toNat < 64)) (.slli d a (imm.setWidth 6)) :=
  congrArg (fun i : BitVec 14 => req (decide (i.toNat < 64)) (.slli d a (i.setWidth 6))) (TF.imm14_ofI ..)
theorem decode32_srli (d a : GReg) (imm : BitVec 14) :
    decode32 none (TF.ofI (BitVec.ofNat 6 0x0D) d a imm) = req (decide (imm.toNat < 64)) (.srli d a (imm.setWidth 6)) :=
  congrArg (fun i : BitVec 14 => req (decide (i.toNat < 64)) (.srli d a (i.setWidth 6))) (TF.imm14_ofI ..)
theorem decode32_srai (d a : GReg) (imm : BitVec 14) :
    decode32 none (TF.ofI (BitVec.ofNat 6 0x0E) d a imm) = req (decide (imm.toNat < 64)) (.srai d a (imm.setWidth 6)) :=
  congrArg (fun i : BitVec 14 => req (decide (i.toNat < 64)) (.srai d a (i.setWidth 6))) (TF.imm14_ofI ..)

/-- A six-bit amount below eight zero bits meets the demand and comes back out. -/
theorem req_shift_amount (f : BitVec 6 → Instr) (sh : BitVec 6) :
    req (decide ((0#8 ++ sh).toNat < 64)) (f ((0#8 ++ sh).setWidth 6)) = some (f sh) := by
  have hval : (0#8 ++ sh).toNat = sh.toNat := by
    rw [BitVec.toNat_append, BitVec.toNat_ofNat, Nat.zero_mod, Nat.zero_shiftLeft, Nat.zero_or]
  have hamount : (0#8 ++ sh).setWidth 6 = sh := by
    apply BitVec.eq_of_toNat_eq
    rw [BitVec.toNat_setWidth, hval, Nat.mod_eq_of_lt sh.isLt]
  rw [hamount, decide_eq_true (hval ▸ sh.isLt)]; rfl

/-- A shift by an immediate of 64 or more is no instruction (R108). -/
theorem decode_shift_bad (d a : GReg) (imm : BitVec 14) (op : Nat) (hop : op ∈ [0x0C, 0x0D, 0x0E]) (himm : 64 ≤ imm.toNat) :
    decode [iForm op d a imm] = .error .fieldsBad := by
  have hreq : ∀ i, req (decide (imm.toNat < 64)) i = none := fun i => by rw [decide_eq_false (by omega)]; rfl
  simp only [List.mem_cons, List.not_mem_nil, or_false] at hop
  rcases hop with rfl | rfl | rfl
  · exact decode_iForm_bad (fun _ => rfl) ((decode32_slli ..).trans (hreq _))
  · exact decode_iForm_bad (fun _ => rfl) ((decode32_srli ..).trans (hreq _))
  · exact decode_iForm_bad (fun _ => rfl) ((decode32_srai ..).trans (hreq _))

theorem immediateAndLiteralEncode : Claims.ImmediateAndLiteralEncode := fun d a imm sh _ =>
  ⟨decode_iForm_of_imm (.addi d a) (fun _ => rfl) rfl,
    decode_iForm_of_imm (.andi d a) (fun _ => rfl) rfl,
    decode_iForm_of_imm (.ori d a) (fun _ => rfl) rfl,
    decode_iForm_of_imm (.xori d a) (fun _ => rfl) rfl,
    decode_iForm_of_imm (.slti d a) (fun _ => rfl) rfl,
    decode_iForm (fun _ => rfl) ((decode32_slli ..).trans (req_shift_amount (.slli d a) sh)),
    decode_iForm (fun _ => rfl) ((decode32_srli ..).trans (req_shift_amount (.srli d a) sh)),
    decode_iForm (fun _ => rfl) ((decode32_srai ..).trans (req_shift_amount (.srai d a) sh)),
    decode_shift_bad d a imm,
    decode_literalForm rfl rfl, decode_literalForm rfl rfl, decode_literalForm rfl rfl, decode_literalForm rfl rfl⟩

/-! ## The obligation -/

/-- Settles O5: the immediate and literal forms end with their value in g(d); their parcels hold the operands in the fields of the I format
and of the 96-bit layout, and a shift whose immediate is 64 or more is refused. -/
theorem immediateAndLiteralFormsComputeTheirResults : Obligations.ImmediateAndLiteralFormsComputeTheirResults :=
  ⟨immediateFormsResults, literalFormsResults, immediateAndLiteralEncode⟩

end Sys2Proof.Machine
end

section
/-!
PROOFS. Branches, LOOP and jumps (R110, R111, R112, R124).
-/
namespace Sys2Proof.Machine

/-! ## Conditions of the branches -/

theorem not_slt_eq_decide (x y : Word) : (!x.slt y) = decide (x.toInt ≥ y.toInt) := by
  rw [BitVec.slt_eq_decide, ← decide_not]
  exact decide_eq_decide.mpr Int.not_lt

theorem not_ult_eq_decide (x y : Word) : (!x.ult y) = decide (x.toNat ≥ y.toNat) := by
  rw [BitVec.ult_eq_decide, ← decide_not]
  exact decide_eq_decide.mpr Nat.not_lt

/-- Each part: the branch's meaning, its one parcel, and its condition as R110 and R124 write it. -/
theorem branchesFollowTheirConditions : Claims.BranchesFollowTheirConditions := fun _ _ _ _ _ _ =>
  ⟨completesAt_of_branch rfl rfl rfl, completesAt_of_branch rfl rfl (decide_not ..).symm,
    completesAt_of_branch rfl rfl rfl, completesAt_of_branch rfl rfl (not_slt_eq_decide ..),
    completesAt_of_branch rfl rfl rfl, completesAt_of_branch rfl rfl (not_ult_eq_decide ..),
    completesAt_of_branch rfl rfl rfl, completesAt_of_branch rfl rfl rfl,
    completesAt_of_branch rfl rfl rfl, completesAt_of_branch rfl rfl rfl,
    completesAt_of_branch rfl rfl (decide_not ..).symm, completesAt_of_branch rfl rfl rfl⟩

/-! ## LOOP (R111) -/

/-- LOOP writes its counter less 1 and jumps: behind itself when the counter was 1, else to its target. -/
theorem exec_loop (s : State) (a : GReg) (disp : BitVec 14) :
    exec (.loop a disp) s = .next ((s.setG a (s.g a - 1)).jump (if (s.g a).toNat = 1 then s.cx.pc + 4 else branchTarget s.cx.pc disp)) := by
  have hform : exec (.loop a disp) s = (s.setG a (s.g a - 1)).branch (.loop a disp) (s.g a - 1 != 0) disp := rfl
  have hsize : (Instr.loop a disp).size = 4 := rfl
  have hpc : (s.setG a (s.g a - 1)).cx.pc = s.cx.pc := Context.putG_pc ..
  have hzero : s.g a - 1 = 0 ↔ (s.g a).toNat = 1 := by
    constructor <;> intro h <;> bv_omega
  rw [hform, State.branch]
  by_cases h : (s.g a).toNat = 1
  · have hc : (s.g a - 1 != 0) = false := by rw [hzero.mpr h]; rfl
    rw [hc, if_pos h]
    simp only [State.retire, State.jump, Context.next, hsize, hpc]
    rfl
  · have hc : (s.g a - 1 != 0) = true := bne_iff_ne.mpr fun e => h (hzero.mp e)
    rw [hc, if_neg h, State.target_eq_branchTarget, hpc]; rfl

/-- A register write and a jump: what they leave and where the context stands. -/
theorem State.setG_jump_effect (s : State) {d : GReg} (hd : d ≠ 0) (v : Word) (p : Pc) :
    ((s.setG d v).jump p).g d = v ∧ (∀ r, r ≠ d → ((s.setG d v).jump p).g r = s.g r) ∧ s.readyAt ((s.setG d v).jump p) p
      ∧ s.RegsOnly ((s.setG d v).jump p) := by
  have hg : ∀ r, ((s.setG d v).jump p).g r = (s.setG d v).g r := fun _ => rfl
  refine ⟨?_, fun r hr => ?_, State.readyAt_retire s _ p (Context.putG_inPhlx ..) (Context.putG_pos ..), State.regsOnly_retire s d v p⟩
  · rw [hg, State.g_setG, if_neg hd, if_pos rfl]
  · rw [hg, State.g_setG, if_neg hr]
    split
    next h0 => rw [h0, State.g_zero]
    next => rfl

theorem loopCountsDown : Claims.LoopCountsDown := fun s a disp ha => by
  obtain ⟨hval, hregs, hready, hframe⟩ :=
    s.setG_jump_effect ha (s.g a - 1) (if (s.g a).toNat = 1 then s.cx.pc + 4 else branchTarget s.cx.pc disp)
  have hcount : s.g a - 1 = BitVec.ofInt 64 ((s.g a).toInt - 1) := by
    rw [BitVec.sub_eq_add_neg, Int.sub_eq_add_neg, BitVec.ofInt_add, BitVec.ofInt_toInt]; rfl
  exact ⟨_, exec_loop s a disp, hval.trans hcount, hregs, hready, hframe⟩

/-! ## JMP and JMPX (R112) -/

theorem exec_jmp (s : State) (disp : BitVec 24) : exec (.jmp disp) s = .next (s.jump (branchTarget s.cx.pc disp)) :=
  congrArg (fun p => Host.Outcome.next (s.jump p)) (s.target_eq_branchTarget disp)

/-- JMPX jumps to bits [14:0] of a register whose bits [1:0] are 0. -/
theorem exec_jmpx_aligned (s : State) (a : GReg) (h : (s.g a).toNat % 4 = 0) :
    exec (.jmpx a) s = .next (s.jump (BitVec.ofNat 15 ((s.g a).toNat % 2 ^ 15))) := by
  have hpc : pcOf (s.g a) = BitVec.ofNat 15 ((s.g a).toNat % 2 ^ 15) := by
    apply BitVec.eq_of_toNat_eq
    rw [pcOf, BitVec.toNat_setWidth, BitVec.toNat_ofNat, Nat.mod_mod]
  rw [← hpc]
  exact if_neg fun hbits => hbits h

theorem trapsWith_jmpx (s : State) (a : GReg) (h : (s.g a).toNat % 4 ≠ 0) : trapsWith (.jmpx a) s 0x05 (s.g a) := if_pos h

theorem jumpsGoToTheirTargets : Claims.JumpsGoToTheirTargets := fun s a disp =>
  ⟨completesAt_of_jump _ s _ (exec_jmp s disp), fun h => completesAt_of_jump _ s _ (exec_jmpx_aligned s a h), trapsWith_jmpx s a⟩

/-! ## Encodings -/

/-- LOOP wants its counter in another register than g0 (R111). -/
theorem decode32_loop (a : GReg) (disp : BitVec 14) (ha : a ≠ 0) :
    decode32 none (TF.ofI (BitVec.ofNat 6 0x1A) a 0 disp) = some (.loop a disp) := by
  have hform : decode32 none (TF.ofI (BitVec.ofNat 6 0x1A) a 0 disp) = req (a != 0) (.loop a (TF.ofI 0 a 0 disp).imm14) := rfl
  rw [hform, bne_iff_ne.mpr ha, TF.imm14_ofI]; rfl

theorem branchesEncode : Claims.BranchesEncode := fun a b disp far =>
  ⟨decode_iForm_of_imm (.beq a b) (fun _ => rfl) rfl, decode_iForm_of_imm (.bne a b) (fun _ => rfl) rfl,
    decode_iForm_of_imm (.blt a b) (fun _ => rfl) rfl, decode_iForm_of_imm (.bge a b) (fun _ => rfl) rfl,
    decode_iForm_of_imm (.bltZ a b) (fun _ => rfl) rfl, decode_iForm_of_imm (.bgeZ a b) (fun _ => rfl) rfl,
    decode_iForm_of_imm (.bbs a b) (fun _ => rfl) rfl, decode_iForm_of_imm (.bbsHi a b) (fun _ => rfl) rfl,
    decode_iForm_of_imm (.bbc a b) (fun _ => rfl) rfl, decode_iForm_of_imm (.bbcHi a b) (fun _ => rfl) rfl,
    fun ha => decode_iForm (fun _ => rfl) (decode32_loop a disp ha), decode_iForm_bad (fun _ => rfl) rfl,
    decode_jmp far, decode_tForm rfl rfl⟩

/-! ## The obligation -/

/-- Settles O6: a branch and a jump only move the PC, LOOP also writes its counter; the model's target is that of R88, and JMPX takes ALIGN
where its register's bits [1:0] are set. -/
theorem branchesAndJumpsReachTheirTargets : Obligations.BranchesAndJumpsReachTheirTargets :=
  ⟨branchesFollowTheirConditions, loopCountsDown, jumpsGoToTheirTargets, branchesEncode⟩

end Sys2Proof.Machine
end

section
/-!
PROOFS. ERET (R253).
-/
namespace Sys2Proof.Machine

/-! ## STATUS after ERET -/

theorem bit_shiftLeft_one (i : Nat) {j : Nat} (hj : j < 64) : bit (1#64 <<< i) j = decide (j = i) := by
  rw [bit, BitVec.getLsbD_shiftLeft, BitVec.getLsbD_one, decide_eq_true hj, decide_eq_true (show 0 < 64 by decide), Bool.true_and, Bool.true_and]
  by_cases h : j < i
  · rw [decide_eq_true h, decide_eq_false (Nat.ne_of_lt h), Bool.not_true, Bool.false_and]
  · have hsub : j - i = 0 ↔ j = i := by omega
    rw [decide_eq_false h, decide_eq_decide.mpr hsub, Bool.not_false, Bool.true_and]

theorem bit_setBit (w : Word) (i : Nat) (b : Bool) {j : Nat} (hj : j < 64) : bit (setBit w i b) j = if j = i then b else bit w j := by
  have hone : (1#64 <<< i).getLsbD j = decide (j = i) := bit_shiftLeft_one i hj
  cases b with
  | false =>
    rw [setBit, if_neg Bool.false_ne_true, bit, BitVec.getLsbD_and, BitVec.getLsbD_not, hone, decide_eq_true hj, Bool.true_and]
    by_cases h : j = i
    · rw [if_pos h, decide_eq_true h, Bool.not_true, Bool.and_false]
    · rw [if_neg h, decide_eq_false h, Bool.not_false, Bool.and_true, bit]
  | true =>
    rw [setBit, if_pos rfl, bit, BitVec.getLsbD_or, hone]
    by_cases h : j = i
    · rw [if_pos h, decide_eq_true h, Bool.or_true]
    · rw [if_neg h, decide_eq_false h, Bool.or_false, bit]

/-- ERET at supervisor level: LEVEL takes PLEVEL. -/
def Context.levelRestored (c : Context) : Context := { c with status := setBit c.status 0 (bit c.status 1) }

/-- ERET in a user handler: INTRAP clears. -/
def Context.handlerLeft (c : Context) : Context := { c with status := setBit c.status 2 false }

theorem Context.super_levelRestored (c : Context) : c.levelRestored.super = bit c.status 1 := bit_setBit c.status 0 _ (by decide)
theorem Context.inTrap_levelRestored (c : Context) : c.levelRestored.inTrap = c.inTrap := bit_setBit c.status 0 _ (by decide)
theorem Context.inPhlx_levelRestored (c : Context) : c.levelRestored.inPhlx = c.inPhlx := bit_setBit c.status 0 _ (by decide)
theorem Context.super_handlerLeft (c : Context) : c.handlerLeft.super = c.super := bit_setBit c.status 2 _ (by decide)
theorem Context.inTrap_handlerLeft (c : Context) : c.handlerLeft.inTrap = false := bit_setBit c.status 2 _ (by decide)
theorem Context.inPhlx_handlerLeft (c : Context) : c.handlerLeft.inPhlx = c.inPhlx := bit_setBit c.status 2 _ (by decide)

/-! ## The three arms -/

/-- PC := EPC[14:2] ## 0b00. -/
def Context.returnPc (c : Context) : Pc := BitVec.ofNat 15 (bits c.epc 14 2 * 4)

theorem exec_eret (s : State) : exec .eret s = execEret s := rfl

theorem exec_eret_of_super {s : State} (h : s.cx.super = true) :
    exec .eret s = .next (s.setCx (s.cx.levelRestored.retire s.cx.returnPc)) := by
  rw [exec_eret, execEret, h, Context.eret, if_pos h]; rfl

theorem exec_eret_of_inTrap {s : State} (hu : s.cx.super = false) (h : s.cx.inTrap = true) :
    exec .eret s = .next (s.setCx (s.cx.handlerLeft.retire s.cx.returnPc)) := by
  rw [exec_eret, execEret, hu, h, Context.eret, hu]; rfl

theorem trapsWith_eret {s : State} (hu : s.cx.super = false) (h : s.cx.inTrap = false) : trapsWith .eret s 0x01 0x1E9 := by
  rw [trapsWith, exec_eret, execEret, hu, h]; rfl

/-- A context that retires at `p` with another STATUS: that register, the PC and the instruction in progress alone differ. -/
theorem State.setStatus_retire_effect (s : State) (w : Word) (p : Pc) (h : bit w 4 = s.cx.inPhlx) :
    let t := s.setCx (Context.retire { s.cx with status := w } p)
    s.readyAt t p ∧ (∀ r, t.g r = s.g r) ∧ (s.setCx { s.cx with status := t.cx.status }).RegsOnly t :=
  ⟨State.readyAt_retire s _ p h rfl, fun _ => rfl, State.regsOnly_retire_self (s.setCx { s.cx with status := w }) p⟩

/-! ## The obligation -/

/-- Each part: the meaning of its arm, then STATUS and the frame. -/
theorem exceptionReturn : Claims.ExceptionReturn := fun s =>
  ⟨fun h => ⟨_, exec_eret_of_super h, s.cx.super_levelRestored, s.cx.inTrap_levelRestored,
      s.setStatus_retire_effect _ s.cx.returnPc s.cx.inPhlx_levelRestored⟩,
    fun hu h => ⟨_, exec_eret_of_inTrap hu h, s.cx.super_handlerLeft.trans hu, s.cx.inTrap_handlerLeft,
      s.setStatus_retire_effect _ s.cx.returnPc s.cx.inPhlx_handlerLeft⟩,
    trapsWith_eret⟩

theorem returnEncodes : Claims.ReturnEncodes := rfl

/-- Settles O12: ERET only retires at EPC[14:2] with one bit of STATUS changed, LEVEL from PLEVEL at supervisor level and INTRAP cleared in
a user handler; in neither it is ILLEGAL with its first parcel. -/
theorem returnFromException : Obligations.ReturnFromException := ⟨exceptionReturn, returnEncodes⟩

end Sys2Proof.Machine
end

section
/-!
PROOFS. The decoder undoes the encoder: fields of an encoding meet every demand of their entry and decode to the instruction (R84–R97).
-/
namespace Sys2Proof

/-! ## What the decoder makes of fields -/

/-- The instruction that fields name behind the modifiers `p`. -/
def Fields.decode (p : Option Mods) : Fields → Option Instr
  | .t f => decode32 p f
  | .x f => decodeX p f
  | .lit f l => decodeLit f l

/-- Whether the opcode of fields is assigned to a form of their length (R92, R95). -/
def Fields.known : Fields → Bool
  | .t f => known32 f.op.toNat f.f6.toNat
  | .x f => len64 f.maj.toNat f.min.toNat == 2
  | .lit f _ => len64 f.maj.toNat f.min.toNat == 3

/-- Whether the opcode of fields accepts modifiers (R91). -/
def Fields.takesMods : Fields → Bool
  | .t f => 0x20 ≤ f.op.toNat && f.op.toNat ≤ 0x23
  | .x f => f.maj.toNat == 0x11 || (f.maj.toNat == 0x20 && 8 ≤ f.min.toNat && f.min.toNat ≤ 13)
  | .lit _ _ => false

theorem TF.op_pack (t : TF) : bits t.pack 7 2 = t.op.toNat := by
  rw [← congrArg TF.op t.unpack_pack]
  exact (BitVec.extractLsb'_toNat 2 6 _).symm

theorem decodeAfter_cons {p : Option Mods} {p0 : Parcel} {ps : List Parcel} {i : Instr} (hL : parcelL p0 ≠ 3) (hk : opcodeKnown p0 = true)
    (hm : p.isSome = true → acceptsMods p0 = true) (hlen : (p0 :: ps).length = parcelCount p0) (hi : decodeBody p (p0 :: ps) = some i) :
    decodeAfter p (p0 :: ps) = .ok i := by
  have hmods : (p.isSome && !acceptsMods p0) = false := by
    cases hp : p.isSome
    · rfl
    · rw [hm hp]; rfl
  have hbody : decodeBody p ((p0 :: ps).take (parcelCount p0)) = some i := by rw [← hlen, List.take_length, hi]
  simp only [decodeAfter, beq_eq_false_iff_ne.mpr hL, hk, hmods, hlen, hbody, Nat.lt_irrefl, Bool.false_eq_true, Bool.not_true, if_false]

/-- The parcels of known fields, behind modifiers only where they take them, decode to what the fields name. -/
theorem decodeAfter_parcels {p : Option Mods} {f : Fields} {i : Instr} (hk : f.known = true) (hm : p.isSome = true → f.takesMods = true)
    (hi : f.decode p = some i) : decodeAfter p f.parcels = .ok i := by
  cases f with
  | t f =>
    have hbody : decodeBody p [f.pack] = decode32 p f := by simp [decodeBody, f.parcelL_pack, f.unpack_pack]
    have hmods : acceptsMods f.pack = Fields.takesMods (.t f) := by simp [acceptsMods, f.parcelL_pack, f.op_pack, Fields.takesMods]
    exact decodeAfter_cons (by rw [f.parcelL_pack]; decide) (f.opcodeKnown_pack.trans hk) (fun h => hmods.trans (hm h))
      (by rw [parcelCount, f.parcelL_pack]; rfl) (hbody.trans hi)
  | x f =>
    have hL := f.parcelL_pack0 1
    have hbody : decodeBody p [f.pack0 1, f.pack1] = decodeX p f := by simp [decodeBody, f.parcelL_pack0, f.top_pack0, f.unpack_pack]
    have hmods : acceptsMods (f.pack0 1) = Fields.takesMods (.x f) := by
      simp [acceptsMods, f.parcelL_pack0, f.maj_pack0, f.min_pack0, Fields.takesMods]
    have hop : opcodeKnown (f.pack0 1) = Fields.known (.x f) := by rw [opcodeKnown, hL, f.maj_pack0, f.min_pack0]; rfl
    exact decodeAfter_cons (by rw [hL]; decide) (hop.trans hk) (fun h => hmods.trans (hm h)) (by rw [parcelCount, hL]; rfl) (hbody.trans hi)
  | lit f l =>
    have hL := f.parcelL_pack0 2
    have hbody : decodeBody p [f.pack0 2, f.pack1, l] = decodeLit f l := by simp [decodeBody, f.parcelL_pack0, f.top_pack0, f.unpack_pack]
    have hop : opcodeKnown (f.pack0 2) = Fields.known (.lit f l) := by rw [opcodeKnown, hL, f.maj_pack0, f.min_pack0]; rfl
    exact decodeAfter_cons (by rw [hL]; decide) (hop.trans hk) (fun h => absurd (hm h) Bool.false_ne_true) (by rw [parcelCount, hL]; rfl)
      (hbody.trans hi)

theorem Mods.parcelOk_pack {m : Mods} (h : m.wf = true) : Mods.parcelOk m.pack = true := by
  have hreserved : m.pack.extractLsb' 13 19 = 0 := by
    simp only [Mods.pack, BitVec.extractLsb'_append_eq_ite]; rfl
  rw [Mods.parcelOk, hreserved, m.unpack_pack, h]; rfl

theorem decode_modified {m : Mods} {f : Fields} {i : Instr} (hm : m.wf = true) (hk : f.known = true) (ht : f.takesMods = true)
    (hi : f.decode (some m) = some i) : decode (m.pack :: f.parcels) = .ok i := by
  have hafter : decode (m.pack :: f.parcels) = decodeAfter (some m) f.parcels := by
    simp [decode, m.parcelL_pack, Mods.parcelOk_pack hm, m.unpack_pack]
  rw [hafter]
  exact decodeAfter_parcels hk (fun _ => ht) hi

theorem decode_parcels {f : Fields} {i : Instr} (hk : f.known = true) (hi : f.decode none = some i) : decode f.parcels = .ok i := by
  have hafter : decode f.parcels = decodeAfter none f.parcels := by
    cases f with
    | t f => simp [Fields.parcels, decode, f.parcelL_pack]
    | x f => simp [Fields.parcels, decode, f.parcelL_pack0]
    | lit f l => simp [Fields.parcels, decode, f.parcelL_pack0]
  rw [hafter]
  exact decodeAfter_parcels hk (fun h => absurd h Bool.false_ne_true) hi

/-! ## Operands in their fields -/

@[simp] theorem TF.d_ofI (op : BitVec 6) (d a : BitVec 5) (imm : BitVec 14) : (TF.ofI op d a imm).d = d := rfl
@[simp] theorem TF.a_ofI (op : BitVec 6) (d a : BitVec 5) (imm : BitVec 14) : (TF.ofI op d a imm).a = a := rfl

/-- An operand of `n` bits stays below any bound of `n` bits or more, in a wider field too. -/
@[simp] theorem operand_lt {n : Nat} (x : BitVec n) {m k : Nat} (h : 2 ^ n ≤ k) : x.toNat % m < k :=
  Nat.lt_of_le_of_lt (Nat.mod_le _ _) (Nat.lt_of_lt_of_le x.isLt h)
@[simp] theorem r5_toNat_lt {n : Nat} (r : BitVec n) {k : Nat} (h : 2 ^ n ≤ k) : (r5 r).toNat < k := by
  rw [r5, BitVec.toNat_setWidth]
  exact operand_lt r h
@[simp] theorem r5_setWidth {n : Nat} (r : BitVec n) (h : n ≤ 5) : (r5 r).setWidth n = r := by
  rw [r5, BitVec.setWidth_setWidth_of_le _ h, BitVec.setWidth_eq]
@[simp] theorem append_lt {n a b k : Nat} (x : BitVec a) (y : BitVec b) (h : 2 ^ (a + b) ≤ k) : (0#n ++ x ++ y).toNat < k := by
  have hval : (0#n ++ x ++ y).toNat = (x ++ y).toNat := by simp [BitVec.toNat_append]
  rw [hval]
  exact Nat.lt_of_lt_of_le (x ++ y).isLt h
@[simp] theorem append_low {n a b : Nat} (x : BitVec a) (y : BitVec b) : (0#n ++ x ++ y).setWidth b = y := BitVec.setWidth_append_eq_right
@[simp] theorem append_high {n a b : Nat} (x : BitVec a) (y : BitVec b) : (0#n ++ x ++ y).extractLsb' b a = x := by
  rw [BitVec.extractLsb'_append_eq_of_le (Nat.le_refl b), Nat.sub_self]
  exact BitVec.extractLsb'_append_eq_right

@[simp] theorem isV_r5 (r : VReg) : isV (r5 r) = true := decide_eq_true (r5_toNat_lt r (by decide))
@[simp] theorem toV_r5 (r : VReg) : toV (r5 r) = r := r5_setWidth r (by decide)
@[simp] theorem isW_r5 (r : WReg) : isW (r5 r) = true := decide_eq_true (r5_toNat_lt r (by decide))
@[simp] theorem toW_r5 (r : WReg) : toW (r5 r) = r := r5_setWidth r (by decide)
@[simp] theorem isM_r5 (r : MReg) : isM (r5 r) = true := decide_eq_true (r5_toNat_lt r (by decide))
@[simp] theorem toM_r5 (r : MReg) : toM (r5 r) = r := r5_setWidth r (by decide)
/-- Bit 2 of F3 says whether the second operand is a g register (R190). -/
theorem VSrc.flag_bit (b : VSrc) : bit b.flag 2 = match b with | .v _ => false | .g _ => true := by cases b <;> simp [VSrc.flag, bit]
@[simp] theorem VSrc.flag_bit0 (b : VSrc) : bit b.flag 0 = false := by cases b <;> simp [VSrc.flag, bit]
@[simp] theorem VSrc.flag_bit1 (b : VSrc) : bit b.flag 1 = false := by cases b <;> simp [VSrc.flag, bit]
@[simp] theorem bit_or {n : Nat} (x y : BitVec n) (i : Nat) : bit (x ||| y) i = (bit x i || bit y i) := BitVec.getLsbD_or
@[simp] theorem f3Of_bit0 (a b c : Bool) : bit (f3Of a b c) 0 = a := by cases a <;> cases b <;> cases c <;> rfl
@[simp] theorem f3Of_bit1 (a b c : Bool) : bit (f3Of a b c) 1 = b := by cases a <;> cases b <;> cases c <;> rfl
@[simp] theorem f3Of_bit2 (a b c : Bool) : bit (f3Of a b c) 2 = c := by cases a <;> cases b <;> cases c <;> rfl

@[simp] theorem VSrc.toVSrc_code (b : VSrc) (f : BitVec 3) (h : bit f 2 = false) : toVSrc (b.flag ||| f) b.code = b := by
  rw [toVSrc, bit_or, h, b.flag_bit, Bool.or_false]
  cases b with
  | v r => exact congrArg VSrc.v (toV_r5 r)
  | g r => rfl
@[simp] theorem VSrc.vsrcOk_code (b : VSrc) (f : BitVec 3) : vsrcOk (b.flag ||| f) b.code = true := by
  rw [vsrcOk, bit_or, b.flag_bit]
  cases b with
  | v r => exact (congrArg _ (isV_r5 r)).trans (Bool.or_true _)
  | g r => rfl
@[simp] theorem VSrc.toVSrc_flag (b : VSrc) : toVSrc b.flag b.code = b := by
  have h := b.toVSrc_code 0 rfl
  rwa [show b.flag ||| 0 = b.flag from BitVec.or_zero] at h
@[simp] theorem VSrc.vsrcOk_flag (b : VSrc) : vsrcOk b.flag b.code = true := by
  have h := b.vsrcOk_code 0
  rwa [show b.flag ||| 0 = b.flag from BitVec.or_zero] at h

@[simp] theorem mulImm_kb (kb : BitVec 8) (ke : BitVec 9) (pa pb : BitVec 3) : (mulImm kb ke pa pb).setWidth 8 = kb :=
  BitVec.setWidth_append_eq_right
@[simp] theorem mulImm_ke (kb : BitVec 8) (ke : BitVec 9) (pa pb : BitVec 3) : (mulImm kb ke pa pb).extractLsb' 8 9 = ke := by
  rw [mulImm, BitVec.extractLsb'_append_eq_of_le (by decide)]
  exact BitVec.extractLsb'_append_eq_right
@[simp] theorem mulImm_pa (kb : BitVec 8) (ke : BitVec 9) (pa pb : BitVec 3) : (mulImm kb ke pa pb).extractLsb' 17 3 = pa := by
  rw [mulImm, BitVec.extractLsb'_append_eq_of_le (by decide), BitVec.extractLsb'_append_eq_of_le (by decide)]
  exact BitVec.extractLsb'_append_eq_right
@[simp] theorem mulImm_pb (kb : BitVec 8) (ke : BitVec 9) (pa pb : BitVec 3) : (mulImm kb ke pa pb).extractLsb' 20 3 = pb := by
  rw [mulImm, BitVec.extractLsb'_append_eq_of_le (by decide), BitVec.extractLsb'_append_eq_of_le (by decide),
    BitVec.extractLsb'_append_eq_of_le (by decide)]
  exact BitVec.extractLsb'_append_eq_right
@[simp] theorem mulImm_top (kb : BitVec 8) (ke : BitVec 9) (pa pb : BitVec 3) : bit (mulImm kb ke pa pb) 23 = false := by
  simp only [bit, mulImm, BitVec.getLsbD_append]; rfl

@[simp] theorem wireImm_wire (w : BitVec 2) (s : BitVec 22) : (wireImm w s).extractLsb' 22 2 = w := BitVec.extractLsb'_append_eq_left
@[simp] theorem wireImm_slot (w : BitVec 2) (s : BitVec 22) : (wireImm w s).setWidth 22 = s := BitVec.setWidth_append_eq_right

/-! ## Codes of widths, kinds and operations -/

@[simp] theorem LdWidth.of_code (w : LdWidth) : ldWidth? w.code = some w := by cases w <;> rfl
@[simp] theorem StWidth.of_code (x : StWidth) : stWidth? x.code = some x := by cases x <;> rfl
@[simp] theorem VLdWidth.of_code (x : VLdWidth) : vldWidth? x.code = some x := by cases x <;> rfl
@[simp] theorem VStWidth.of_code (x : VStWidth) : vstWidth? x.code = some x := by cases x <;> rfl
@[simp] theorem FamoOp.of_code (o : FamoOp) : famoOp? o.code = some o := by cases o <;> rfl
@[simp] theorem FenceKind.of_code (k : FenceKind) : fenceKind? k.code = some k := by cases k <;> rfl
@[simp] theorem NarrowMode.of_code (m : NarrowMode) : narrowMode? m.code = some m := by cases m <;> rfl
@[simp] theorem VCond.of_code (c : VCond) : vcond? (c.code.toNat % 16777216) = some c := by cases c <;> rfl
@[simp] theorem NredOp.of_code (o : NredOp) : nredOp? o.code = some o := by cases o <;> rfl
@[simp] theorem RedOp.of_code (o : RedOp) : redOp? (bit (if o.isFloat then 1#24 else 0#24) 0) o.code = some o := by cases o <;> rfl
@[simp] theorem VFmt.of_low_code (x y : VFmt) : vfmt? ((0#16 ++ x.code ++ y.code).toNat % 16) = some y := by cases x <;> cases y <;> rfl
@[simp] theorem VFmt.of_high_code (x y : VFmt) : vfmt? ((0#16 ++ x.code ++ y.code).toNat / 16) = some x := by cases x <;> cases y <;> rfl

/-! ## Fields that meet the demands of their entry -/

theorem req_eq_some {c : Bool} {i j : Instr} (hc : c = true) (hj : j = i) : req c j = some i := by rw [hc, hj]; rfl

/-- A form with one demand decodes when its fields meet it. -/
theorem decode_of_req {p : Option Mods} {f : Fields} {c : Bool} {i j : Instr} (h : f.decode p = req c j) (hc : c = true) (hj : j = i) :
    f.decode p = some i := h.trans (req_eq_some hc hj)

/-- The same of a form with a demand of its major before the rest. -/
theorem decode_of_ite {p : Option Mods} {f : Fields} {c : Prop} [Decidable c] {o o' : Option Instr} {i : Instr}
    (h : f.decode p = if c then o else o') (hc : c) (ho : o = some i) : f.decode p = some i := by rw [h, if_pos hc, ho]

theorem decode_of_some {p : Option Mods} {f : Fields} {i j : Instr} (h : f.decode p = some j) (hj : j = i) : f.decode p = some i :=
  h.trans (congrArg some hj)

/-- A form that takes the 14-bit immediate whole. -/
theorem decode_ofI {op : BitVec 6} {d a : BitVec 5} {imm : BitVec 14} {p : Option Mods} {g : BitVec 14 → Instr}
    (h : decode32 p (TF.ofI op d a imm) = some (g (TF.ofI op d a imm).imm14)) :
    Fields.decode p (.t (TF.ofI op d a imm)) = some (g imm) :=
  h.trans (by rw [TF.imm14_ofI])

/-- A form that takes the 24-bit displacement. -/
theorem decode_ofJ {op : BitVec 6} {disp : BitVec 24} {p : Option Mods} {g : BitVec 24 → Instr}
    (h : decode32 p (TF.ofJ op disp) = some (g (TF.ofJ op disp).disp24)) : Fields.decode p (.t (TF.ofJ op disp)) = some (g disp) :=
  h.trans (by rw [TF.disp24_ofJ])

/-- A load or store of one register: its width in W, its displacement in the M format. -/
theorem decode_ofM {op : BitVec 6} {d a : BitVec 5} {disp : BitVec 11} {α : Type} {w : α} {x : BitVec 3} {r : BitVec 3 → Option α} {p : Option Mods}
    {g : α → BitVec 11 → Instr} (hw : r x = some w)
    (h : decode32 p (TF.ofM op d a x disp) = (r (TF.ofM op d a x disp).w3).map fun w => g w (TF.ofM op d a x disp).disp11) :
    Fields.decode p (.t (TF.ofM op d a x disp)) = some (g w disp) :=
  h.trans (by rw [TF.w3_ofM, hw, Option.map_some, TF.disp11_ofM])

/-- A flag in bit 0 of F3 and nothing else there. -/
@[simp] theorem f3Of_flag_lt (b : Bool) : (f3Of b false false).toNat < 2 := by cases b <;> decide
@[simp] theorem f3Of_flag_le (b : Bool) : (f3Of b false false).toNat ≤ 1 := by cases b <;> decide
@[simp] theorem f3Of_two_lt (b c : Bool) : (f3Of b c false).toNat < 4 := by cases b <;> cases c <;> decide

@[simp] theorem bit_r5 {n : Nat} (r : BitVec n) (i : Nat) (h : n ≤ 5) : bit (r5 r) i = bit r i := by
  simp only [bit, r5, BitVec.getLsbD_setWidth]
  by_cases hi : i < n
  · rw [decide_eq_true (Nat.lt_of_lt_of_le hi h), Bool.true_and]
  · rw [BitVec.getLsbD_of_ge r i (Nat.le_of_not_lt hi), Bool.and_false]

@[simp] theorem r5_inj {n : Nat} {r s : BitVec n} (h : n ≤ 5) : r5 r = r5 s ↔ r = s :=
  ⟨fun he => by rw [← r5_setWidth r h, he, r5_setWidth s h], congrArg r5⟩

@[simp] theorem flagImm_le (c : Prop) [Decidable c] : (if c then 1#24 else 0#24).toNat ≤ 1 := by split <;> decide
@[simp] theorem NredOp.code_ne (o : NredOp) : o.code ≠ 6#3 := by cases o <;> decide

theorem ite_eq_some {c : Prop} [Decidable c] {o o' : Option Instr} {i : Instr} (hc : c) (ho : o = some i) : (if c then o else o') = some i := by
  rw [if_pos hc, ho]

/-- The fields of a well-formed instruction name it, behind its modifiers: most forms hold their operands whole; of the others the operands
meet the demands of their entry and come back out of wider fields. -/
theorem Instr.fields_decode {i : Instr} {f : Fields} (hwf : i.operandsWf = true) (hf : i.fields = some f) : f.decode i.mods = some i := by
  cases i
  all_goals cases hf
  case nop | addSat | addZSat | sub | subSat | subZSat | and | or | xor | andn | sll | srl | sra | rol | ror | min | max | minZ | maxZ | slt
      | sltZ | mul | mulh | mulhZ | div | divZ | rem | remZ | clz | ctz | popc | brev | li | lih | adpc | adpcLoc | jmpx | callx | ret | hstart
      | hjoin | hexit | yield | pause | echk | waita | fwait | fmcast | ffence | phlx | split | wpush | wpushClose | ndone | nabort | vyield
      | vsetl | aclaim | ardy | aknock | arel | xcopy | xcopyCode | x2d | xdeal | xgath | xput | xget | xcancel | xstat | dhops | dwho | trap
      | eret | brk | halt | csave | cload | tlbgen | migr | xbset | cstart => rfl
  case addi | andi | ori | xori | slti | beq | bne | blt | bge | bltZ | bgeZ | bbs | bbsHi | bbc | bbcHi => exact decode_ofI rfl
  case jmp | call => exact decode_ofJ rfl
  case ld p w d a disp => exact decode_ofM (g := fun w t => .ld p w d a t) w.of_code rfl
  case st p x d a disp => exact decode_ofM (g := fun x t => .st p x d a t) x.of_code rfl
  case sel | slli | srli | srai | btempo | bntempo | qput | qget | qpeek | qcnt | tbind | trd | crd | cwr | cset | cclr | fld | fst | bset
      | barrive | bwait | bar | bstat | wpop | vclaim | vbcast | vmovg | vmovgSet | vmul | vmulh | vmin | vmax | vand | vor | vxor | vshl | vshr
      | vsra | vsel | vfadd | vfsub | vfmul | vfma | vfmin | vfmax | vrcp | vrsq | vexp2 | vlog2 | vsig | vmacw | vfmacw | vwclr | vdotr | vamax
      | vperm | oclaim | orel | ozero | mclr | mmp | msp | mstat | mrd | mchk | tdef | acontrib | ardv | xkick =>
    exact decode_of_req rfl (by simp [TF.imm14_ofI]) (by simp [TF.imm14_ofI])
  case vcmp | vnred => exact decode_of_ite rfl (by simp) (by simp)
  case vred op _ _ | vscan op _ _ => cases op <;> exact decode_of_ite rfl (by simp [RedOp.isFloat]) (by simp)
  case vidot | vfdot | vcvtMxd => exact decode_of_ite rfl (by simp) (by simp [req])
  case addx | xmit | xmitR | xsel => exact decode_of_some rfl (by simp)
  case famo o _ _ _ => exact decode_of_some (congrArg (Option.map _) o.of_code) rfl
  case vld | vst | vlds | vsts | vgath | vscat => exact decode_of_ite rfl (by simp) (by simp; rfl)
  case amoAdd | amoAnd | amoOr | amoXor | amoMin | amoMax | amoMinZ | amoMaxZ | amoSwp =>
    exact decode_of_ite rfl (f3Of_flag_lt _) (req_eq_some rfl (by rw [f3Of_bit0]; rfl))
  case amoCas => exact decode_of_ite rfl (f3Of_flag_lt _) (congrArg some (by rw [f3Of_bit0]; rfl))
  case amoFadd => exact decode_of_req rfl (by simp [bit]) rfl
  case vcvtMx amax _ _ _ | vbniScan amax _ _ _ | vbni amax _ _ _ =>
    cases amax <;> exact decode_of_ite rfl (by simp) (req_eq_some (by simp) (by simp))
  case oload k a t p =>
    exact decode_of_req rfl (by rw [isW_r5]; exact decide_eq_true (append_lt p t (by decide)))
      (by rw [toW_r5]; exact congr (congrArg (Instr.oload k a) (append_low p t)) (append_high p t))
  case mbin x c k a b kb ke =>
    have hlt : (0#7 ++ ke ++ kb).toNat < 131072 := append_lt ke kb (by decide)
    have hkb : (0#7 ++ ke ++ kb).setWidth 8 = kb := append_low ke kb
    have hke : (0#7 ++ ke ++ kb).extractLsb' 8 9 = ke := append_high ke kb
    exact decode_of_req rfl (by simp [hlt]) (by simp [hkb, hke])
  case tqry d t j =>
    exact decode_of_req rfl (decide_eq_true (append_lt j t (by decide))) (congr (congrArg (Instr.tqry d) (append_low j t)) (append_high j t))
  case vslide g _ _ _ =>
    cases g with
    | none => exact decode_of_ite rfl (by simp) (req_eq_some (by simp) (by simp))
    | some g => exact decode_of_ite rfl (by simp) (by simp [req])
  case astat j _ _ =>
    cases j with
    | none => rfl
    | some j => exact decode_of_req rfl (by simp) (by simp)
  case add d a b =>
    have hne : (d == 0 && a == 0 && b == 0) = false := (Bool.not_eq_true' _).mp hwf
    have h : Fields.decode none (.t ⟨0, d, a, b, 0, 0⟩) = if (d == 0 && a == 0 && b == 0) = true then some .nop else some (.add d a b) := rfl
    exact h.trans (if_neg (by rw [hne]; exact Bool.false_ne_true))
  case loop => exact decode_of_req rfl hwf (by rw [TF.imm14_ofI]; rfl)
  case ldp | stp => exact decode_of_req rfl (by rw [TF.w3_ofM]; exact hwf) (by rw [TF.disp11_ofM]; rfl)
  case nput n =>
    have hn : n.toNat ≤ 4 := of_decide_eq_true hwf
    exact decode_of_ite rfl (by simp [r5]; omega) (req_eq_some (by simp [r5]; omega) (by simp))
  case nget n | ntry n =>
    have hn : n.toNat ≤ 3 ∨ n = 5 := by simpa using (show (decide (n.toNat ≤ 3) || n == 5) = true from hwf)
    exact decode_of_ite rfl (by simp [r5]; bv_omega) (req_eq_some (by simp [r5]; bv_omega) (by simp))
  case fence s =>
    have hs : s.toNat < 6 := of_decide_eq_true hwf
    exact decode_of_ite rfl (by simp; omega) (by simp)
  case dphase t =>
    have ht : t ≠ 3 := bne_iff_ne.mp hwf
    exact decode_of_req rfl (by simp; bv_omega) (by simp)
  case vadd sat z _ _ _ | vsub sat z _ _ _ =>
    have hz : sat = true ∨ z = false := by simpa using (show (sat || !z) = true from hwf)
    exact decode_of_req rfl (by simpa using hz) (by simp)
  case vnarrow m d a sh =>
    have h : m = .sh ∨ sh = 0 := by simpa using (show (m == .sh || sh == 0) = true from hwf)
    refine decode_of_ite rfl (by simp) ?_
    rw [NarrowMode.of_code]
    refine req_eq_some ?_ (by simp)
    rcases h with rfl | rfl <;> simp
  case vfdotC d _ _ =>
    have hd : bit d 0 = false := (Bool.not_eq_true' _).mp hwf
    exact decode_of_ite rfl (by simp) (by simp [req, hd])
  case vcvt amax y x _ _ =>
    have hxy : y ≠ x := bne_iff_ne.mp hwf
    have hlt : (0#16 ++ x.code ++ y.code).toNat < 256 := append_lt x.code y.code (by decide)
    cases amax <;> exact decode_of_ite rfl (by simp [hlt]) (ite_eq_some (by simp) (by simp [req, hxy]))
  case vnredMx e _ _ _ _ =>
    have hdc := bne_iff_ne.mp hwf
    cases e <;> exact decode_of_ite rfl (by simp) (req_eq_some (by simp [hdc]) (by simp [bit]))
  case ard w _ _ _ c _ =>
    have hc : w = true ∨ c = 0 := by simpa using (show (w || c == 0) = true from hwf)
    exact decode_of_req rfl (by simpa using hc) (by simp)

/-- The opcode of every encoding is assigned. -/
theorem Instr.fields_known {i : Instr} {f : Fields} (hf : i.fields = some f) : f.known = true := by
  cases i <;> cases hf <;> rfl

/-- An instruction with modifiers is one whose opcode accepts them. -/
theorem Instr.fields_takesMods {i : Instr} {f : Fields} {m : Mods} (hf : i.fields = some f) (hm : i.mods = some m) : f.takesMods = true := by
  cases i
  case ld | st | ldp | stp | amoAdd | amoAnd | amoOr | amoXor | amoMin | amoMax | amoMinZ | amoMaxZ | amoSwp | amoCas | amoFadd | vld | vst
      | vlds | vsts | vgath | vscat => cases hf; rfl
  all_goals cases hm

/-! ## The obligation -/

/-- Settles O56: the fields of an encoding decode to the instruction, and the decoder reads the fields, the form's length and the modifiers
back from the parcels. -/
theorem decodeInvertsEncode : Obligations.DecodeInvertsEncode := fun i hwf henc => by
  obtain ⟨f, hf⟩ := Option.isSome_iff_exists.mp henc
  obtain ⟨hmods, hops⟩ := (Bool.and_eq_true ..).mp hwf
  have hi := Instr.fields_decode hops hf
  rw [encode, hf]
  cases hm : i.mods with
  | none => exact decode_parcels (Instr.fields_known hf) (hm ▸ hi)
  | some m => exact decode_modified (by rwa [hm] at hmods) (Instr.fields_known hf) (Instr.fields_takesMods hf hm) (hm ▸ hi)

end Sys2Proof
end

section
/-!
PROOFS. The module at power-good (O7, O58), words that decode as written (O60), and the step as the fetched instruction (O59).
-/
namespace Sys2Proof.Machine
open Sys2Proof

/-! ## Power-good -/

/-- Settles O7: the state at power-good evaluates to the table of R17; the register files are read at every register. -/
theorem resetGivesTheRegisterTable : Obligations.ResetGivesTheRegisterTable := by
  refine ⟨rfl, rfl, rfl, rfl, rfl, rfl, rfl, rfl, rfl, rfl, rfl, rfl, rfl, rfl, rfl, rfl, rfl, rfl, rfl, rfl, rfl, rfl, rfl, rfl, rfl, rfl,
    rfl, rfl, rfl, rfl, rfl, ?_, ?_, rfl, rfl, rfl⟩
  · exact (by decide : ∀ r, State.reset.g r = 0)
  · exact (by decide : ∀ r : TaReg, State.reset.taImage r = 0)

/-- Settles O58: every memory is empty at power-good, and the view is on site 0. -/
theorem resetStateHasItsForm : Obligations.ResetStateHasItsForm := ⟨reset_canonical, by decide⟩

/-- Settles O60: the decoder evaluated on each word. -/
theorem wordsDecodeAsWritten : Obligations.WordsDecodeAsWritten := ⟨rfl, rfl, rfl, rfl, rfl, rfl, rfl, rfl, rfl, rfl, rfl, rfl, rfl⟩

/-! ## Fetch (R99) -/

/-- The PC as TVAL. -/
theorem word_pc (p : Pc) : word p.toNat = zext p := (zext_eq_ofNat p).symm

/-- A parcel that begins a whole, sound, listed instruction the level may run is decoded with the parcels behind it. -/
theorem State.fetchAfter_ok {s : State} {pc a : Nat} {pre : Option Parcel} {i : Instr}
    (hl : parcelL (s.parcel a) ≠ 3) (hline : a % 32 + 4 * parcelCount (s.parcel a) ≤ 32)
    (hgood : ∀ k, k < parcelCount (s.parcel a) → s.parcelBad (a + 4 * k) = false) (hop : opcodeKnown (s.parcel a) = true)
    (hpriv : s.privTval (s.parcel a) (((List.range (parcelCount (s.parcel a))).map fun k => s.parcel (a + 4 * k)).getD 1 0) = none)
    (hpre : pre.isSome = true → acceptsMods (s.parcel a) = true)
    (hdec : decode (pre.toList ++ (List.range (parcelCount (s.parcel a))).map fun k => s.parcel (a + 4 * k)) = .ok i) :
    s.fetchAfter pc a pre = .ok i := by
  have hfirst : s.parcelBad a = false := hgood 0 (Nat.succ_pos _)
  have hbad : ((List.range (parcelCount (s.parcel a))).any fun k => s.parcelBad (a + 4 * k)) = false :=
    List.any_eq_false.mpr fun k hk => by simp [hgood k (List.mem_range.mp hk)]
  have hacc : (pre.isSome && !acceptsMods (s.parcel a)) = false := by
    cases h : pre.isSome
    · rfl
    · simp [hpre h]
  have hl' : (parcelL (s.parcel a) == 3) = false := beq_eq_false_iff_ne.mpr hl
  unfold State.fetchAfter
  simp only [hfirst, hl', Nat.not_lt.mpr hline, hbad, hop, hacc, hpriv, hdec, Bool.not_true, Bool.false_eq_true, if_false]

/-- At user level the PC may not fetch below SBOUND. -/
theorem State.fetch_below {s : State} (hu : s.cx.super = false) (h : s.cx.pc.toNat < s.core.sbound.toNat) : s.fetch = .trap 0x07 (zext s.cx.pc) := by
  simp [State.fetch, hu, h, word_pc]

section
variable {s : State} (hlow : s.cx.super = true ∨ s.core.sbound.toNat ≤ s.cx.pc.toNat)
include hlow

/-- The level check of fetch passes. -/
theorem State.fetch_low_free : (!s.cx.super && decide (s.cx.pc.toNat < s.core.sbound.toNat)) = false := by
  rcases hlow with h | h
  · simp [h]
  · simp [Nat.not_lt.mpr h]

theorem State.fetch_beyond (h : s.core.xbound.toNat ≤ s.cx.pc.toNat) : s.fetch = .trap 0x03 (zext s.cx.pc) := by
  simp [State.fetch, State.fetch_low_free hlow, h, word_pc]

variable (hx : s.cx.pc.toNat < s.core.xbound.toNat)
include hx

theorem State.fetch_poisoned (h : s.parcelBad s.cx.pc.toNat = true) : s.fetch = .trap 0x19 (zext s.cx.pc) := by
  simp [State.fetch, State.fetch_low_free hlow, Nat.not_le.mpr hx, h, word_pc]

theorem State.fetch_plain (hg : s.parcelBad s.cx.pc.toNat = false) (hl : parcelL (s.parcel s.cx.pc.toNat) ≠ 3) :
    s.fetch = s.fetchAfter s.cx.pc.toNat s.cx.pc.toNat none := by
  have hl' : (parcelL (s.parcel s.cx.pc.toNat) == 3) = false := beq_eq_false_iff_ne.mpr hl
  simp only [State.fetch, State.fetch_low_free hlow, Nat.not_le.mpr hx, hg, hl', Bool.false_eq_true, if_false]

theorem State.fetch_behind (hg : s.parcelBad s.cx.pc.toNat = false) (hl : parcelL (s.parcel s.cx.pc.toNat) = 3)
    (h28 : s.cx.pc.toNat % 32 ≠ 28) (hm : Mods.parcelOk (s.parcel s.cx.pc.toNat) = true) :
    s.fetch = s.fetchAfter s.cx.pc.toNat (s.cx.pc.toNat + 4) (some (s.parcel s.cx.pc.toNat)) := by
  simp [State.fetch, State.fetch_low_free hlow, Nat.not_le.mpr hx, hg, hl, h28, hm]
end

theorem fetchReadsTheParcelsAtThePc : Claims.FetchReadsTheParcelsAtThePc := by
  intro s i pc parcels whole hlow hx
  have hlen : ∀ a, (parcels a).length = parcelCount (s.parcel a) := fun a => by simp [parcels, parcelCount]
  refine ⟨?_, ?_⟩
  · rintro ⟨hl, hline, hgood, hop, hpriv⟩ hdec
    rw [hlen] at hline hgood
    rw [State.fetch_plain hlow hx (hgood 0 (Nat.succ_pos _)) hl]
    exact State.fetchAfter_ok hl hline hgood hop hpriv (by simp) hdec
  · rintro hl hg h28 hm ⟨hl', hline, hgood, hop, hpriv⟩ hacc hdec
    rw [hlen] at hline hgood
    rw [State.fetch_behind hlow hx hg hl h28 hm]
    exact State.fetchAfter_ok hl' hline hgood hop hpriv (fun _ => hacc) hdec

theorem fetchRefusals : Claims.FetchRefusals := fun _ => ⟨State.fetch_below, State.fetch_beyond, State.fetch_poisoned⟩

/-! ## The issue turn (R38) -/

/-- The least of nothing and more is nothing. -/
theorem foldl_zero {α : Type} (f : Nat → α → Nat) (hf : ∀ a, f 0 a = 0) (l : List α) : l.foldl f 0 = 0 := by
  induction l with
  | nil => rfl
  | cons a l ih => rw [List.foldl_cons, hf, ih]

theorem State.bufferRoom_zero (s : State) : s.bufferRoom 0 = 0 :=
  foldl_zero _ (fun m => by split <;> simp) _

theorem State.roomAt_zero (s : State) (id : Nat) : s.roomAt id 0 = 0 := by
  unfold State.roomAt
  dsimp only
  cases (s.coreAt id).resumeAt <;> cases (s.coreAt id).haltAt <;> cases (s.coreAt id).reservedAt <;> cases (s.coreAt id).recallAt <;> simp

/-- No cycle passes where none is asked for. -/
theorem State.advance_zero (s : State) : s.advance 0 = s := by
  have h : s.room 0 = 0 := by
    unfold State.room
    rw [State.bufferRoom_zero]
    exact foldl_zero _ s.roomAt_zero _
  simp [State.advance, h]

theorem State.toCore_self (s : State) : s.toCore s.id = s := by simp [State.toCore]
theorem State.toCtx_self (s : State) : s.toCtx s.core.k = s := by simp [State.toCtx]
theorem Core.ctx_self (c : Core) (cur : Context) : c.ctx cur c.k = cur := by simp [Core.ctx]

/-- Without domains no context is in one. -/
theorem State.domainOf_none {s : State} (h : s.domains = []) (id : Nat) (c : Context) : s.domainOf id c = none := by
  unfold State.domainOf
  split
  · simp [h]
  · rfl

/-- A context that is not live is Stopped, Free or Exited. -/
theorem Run.dead_cases {r : Run} (h : r.live = false) : r = .stopped ∨ r = .free ∨ r = .exited := by
  cases r <;> simp_all [Run.live]

/-- A context that can issue and stands alone: what the obligation asks of the state, named. -/
structure State.Alone (s : State) : Prop where
  issued : s.core.issued ≠ some s.cy
  ptr : s.core.ptr = s.core.k
  slot : s.core.k < 11
  ready : s.cx.st = .ready
  phlx : s.cx.inPhlx = false
  yielding : s.cx.yielding = []
  pend : s.cx.pend = []
  trapNext : s.cx.trapNext = false
  held : s.cx.held = none
  breakpoints : s.core.breakpoints = []
  domains : s.domains = []
  rest : ∀ k, k < 11 → k ≠ s.core.k → (s.core.ctx s.cx k).st.live = false

section
variable {s : State} (h : s.Alone)
include h

/-- No context of the core waits at an instruction. -/
theorem State.Alone.held_nil : s.held = [] := by
  unfold State.held
  refine (congrArg (sortBy _) (List.filter_eq_nil_iff.mpr fun k hk => ?_)).trans (b := sortBy _ []) rfl
  by_cases hks : k = s.core.k
  · simp [hks, Core.ctx_self, h.ready]
  · have hl := h.rest k (List.mem_range.mp hk) hks
    rcases Run.dead_cases hl with e | e | e <;> simp [e]

/-- No context of the core is halted. -/
theorem State.Alone.not_halted : s.halted s.id = false := by
  unfold State.halted
  rw [List.any_eq_false]
  intro k hk
  have hc : s.cxAt s.id k = s.core.ctx s.cx k := by simp [State.cxAt]
  rw [hc]
  by_cases hks : k = s.core.k
  · simp [hks, Core.ctx_self, h.ready]
  · have hl := h.rest k (List.mem_range.mp hk) hks
    rcases Run.dead_cases hl with e | e | e <;> simp [e]

/-- No follower departs. -/
theorem State.Alone.departing : s.departing = s := by
  unfold State.departing
  have hc : ((s.core.ctx s.cx 0).inPhlx && (s.core.ctx s.cx 0).st == .ready) = false := by
    by_cases hk : 0 = s.core.k
    · rw [hk, Core.ctx_self, h.phlx]; rfl
    · have hl := h.rest 0 (by decide) hk
      rcases Run.dead_cases hl with e | e | e <;> simp [e]
  simp [hc]

/-- The context in view competes for the slot. -/
theorem State.Alone.candidate : s.candidate s.core.k = true := by
  unfold State.candidate
  simp [Core.ctx_self, h.ready, State.yields, h.yielding, State.domainOf_none h.domains, h.phlx]

/-- The pointer stands at it. -/
theorem State.Alone.issueOrder : s.issueOrder = s.core.k :: s.issueOrder.drop 1 := by
  have hk := h.slot
  have h0 : s.issueOrder = ((s.core.ptr + 0) % 11) :: s.issueOrder.drop 1 := rfl
  rw [h0, h.ptr, Nat.add_zero, Nat.mod_eq_of_lt hk]
  rfl

/-- Its turn is `exec` of the instruction that fetch brings, noted in the context. -/
theorem State.Alone.attempt {i : Instr} (hf : s.fetch = .ok i) : s.attempt = s.attemptOf (s.keeping i (exec i s)) := by
  have hb : s.atBreak = false := by simp [State.atBreak, h.breakpoints]
  have hbring : s.bring = .ok i := by simp [State.bring, h.held, hf]
  have ht : s.inTransfer = false := by simp [State.inTransfer, State.domainOf_none h.domains]
  have hbusy : ((s.usesOf i).any s.cx.busy) = false := by simp [Context.busy, h.pend]
  unfold State.attempt
  simp only [h.trapNext, hb, h.phlx, Bool.and_false, if_false, Bool.false_eq_true, State.fetchRun, hbring, State.runInstr, ht, hbusy, Bool.false_and]

/-- The core's turn is its issue slot, offered first to the context in view. -/
theorem State.Alone.issueCore : s.issueCore = State.issueFrom (s.core.k :: s.issueOrder.drop 1) s := by
  unfold State.issueCore
  simp only [h.not_halted, Bool.false_eq_true, if_false, h.held_nil, h.departing, State.retryFrom, if_neg h.issued]
  rw [← h.issueOrder]
end

/-- What is kept of an instruction does not bear on whether it took the slot. -/
theorem Context.took_keep (old new : Context) (i : Instr) : old.took (old.keep new i) = old.took new := rfl

theorem stepRunsTheFetchedInstruction_step : Claims.StepRunsTheFetchedInstruction := by
  rintro s i rest hs ⟨hid, hslot, hptr, hissued, hhalt, hst, hphlx, hy, hpend, htn, hheld, -, -, hbp, hdom, hrest⟩ hfetch u
  have alone : u.Alone := ⟨hissued, hptr, hslot, hst, hphlx, hy, hpend, htn, hheld, hbp, hdom, fun k hk hne => (hrest k hk hne).1⟩
  have hf : u.fetch = .ok i := hfetch
  have hstep : step s = State.issueFrom (u.core.k :: u.issueOrder.drop 1) u := by
    have hadv : step s = (u.advance 0).act (.issue u.id) := by
      unfold step State.turn; rw [hs]
    rw [hadv, State.advance_zero, ← alone.issueCore]
    have hturn : u.core.haltAt = none := hhalt
    simp [State.act, State.issueTurn, State.toCore_self, Nat.not_le.mpr (show u.id < siteCount from hid), hturn]
  have hatt : u.attempt = u.attemptOf (u.keeping i (exec i u)) := alone.attempt hf
  rw [hstep]
  unfold State.issueFrom
  simp only [alone.candidate, if_true, State.toCtx_self, hatt]
  refine ⟨fun t ht htook => ?_, fun t ht htook => ?_, fun r hr => ?_⟩
  · have hkeep : u.cx.took (u.cx.keep t.cx i) = true := (Context.took_keep ..).trans htook
    simp only [ht, State.keeping, State.attemptOf, State.setCx_cx, hkeep, if_true]
    rfl
  · have hkeep : u.cx.took (u.cx.keep t.cx i) = false := (Context.took_keep ..).trans htook
    simp only [ht, State.keeping, State.attemptOf, State.setCx_cx, hkeep, Bool.false_eq_true, if_false]
    rfl
  · simp only [hr, State.keeping, State.attemptOf]

/-- Settles O59: the issue turn of a context that stands alone, and the branches of fetch. -/
theorem stepRunsTheFetchedInstruction : Obligations.StepRunsTheFetchedInstruction :=
  ⟨stepRunsTheFetchedInstruction_step, fetchReadsTheParcelsAtThePc, fetchRefusals⟩

end Sys2Proof.Machine
end

section
/-!
PROOFS. The view: what a change of a context or of a core leaves at every core and context, and the frame of such changes.
-/
namespace Sys2Proof.Machine
open Sys2Proof

/-! ## The frame of the cores -/

/-- Nothing but cores and their contexts differs. -/
def State.OnlyCores (s t : State) : Prop := t = { s with cx := t.cx, core := t.core, others := t.others }

theorem State.OnlyCores.refl (s : State) : s.OnlyCores s := rfl
theorem State.OnlyCores.trans {s t u : State} (h : s.OnlyCores t) (k : t.OnlyCores u) : s.OnlyCores u := by
  unfold State.OnlyCores at *; rw [k, h]
theorem State.OnlyCores.foldl {α : Type} {f : State → α → State} (hf : ∀ (s : State) x, s.OnlyCores (f s x)) (l : List α) (s : State) :
    s.OnlyCores (l.foldl f s) := by
  induction l generalizing s with
  | nil => exact .refl s
  | cons x l ih => exact (hf s x).trans (ih _)

theorem State.OnlyCores.id_eq {s t : State} (h : s.OnlyCores t) : t.id = s.id := by rw [h]
theorem State.OnlyCores.mem_eq {s t : State} (h : s.OnlyCores t) : t.mem = s.mem := by rw [h]
theorem State.OnlyCores.hub_eq {s t : State} (h : s.OnlyCores t) : t.hub = s.hub := by rw [h]
theorem State.OnlyCores.cy_eq {s t : State} (h : s.OnlyCores t) : t.cy = s.cy := by rw [h]
theorem State.OnlyCores.vifs_eq {s t : State} (h : s.OnlyCores t) : t.vifs = s.vifs := by rw [h]
theorem State.OnlyCores.flight_eq {s t : State} (h : s.OnlyCores t) : t.flight = s.flight := by rw [h]
theorem State.OnlyCores.domains_eq {s t : State} (h : s.OnlyCores t) : t.domains = s.domains := by rw [h]
theorem State.OnlyCores.episodes_eq {s t : State} (h : s.OnlyCores t) : t.episodes = s.episodes := by rw [h]
theorem State.OnlyCores.phalanxes_eq {s t : State} (h : s.OnlyCores t) : t.phalanxes = s.phalanxes := by rw [h]
theorem State.OnlyCores.sameMemories {s t : State} (h : s.OnlyCores t) : s.SameMemories t :=
  ⟨h.mem_eq, by rw [h.hub_eq], by rw [h.hub_eq], h.id_eq⟩

theorem State.modCore_onlyCores (s : State) (id : Nat) (f : Core → Core) : s.OnlyCores (s.modCore id f) := by
  unfold State.modCore; split <;> rfl
theorem State.modCx_onlyCores (s : State) (id k : Nat) (f : Context → Context) : s.OnlyCores (s.modCx id k f) := by
  unfold State.modCx; split <;> rfl
theorem State.modAll_onlyCores (s : State) (id : Nat) (f : Nat → Context → Context) : s.OnlyCores (s.modAll id f) :=
  State.OnlyCores.foldl (fun s k => s.modCx_onlyCores id k (f k)) _ s

/-! ## Contexts of a core -/

theorem Core.ctx_of_ne {c : Core} {k : Nat} (h : k ≠ c.k) (cur : Context) : c.ctx cur k = (Table.find c.parked k).getD (Context.reset k) := if_neg h

/-- A context of a core after one of them has been changed. -/
theorem Core.ctx_modCtx (p : Core × Context) (k j : Nat) (f : Context → Context) :
    (Core.modCtx p k f).1.ctx (Core.modCtx p k f).2 j = if j = k then f (p.1.ctx p.2 k) else p.1.ctx p.2 j := by
  unfold Core.modCtx
  by_cases hk : k = p.1.k
  · rw [if_pos hk]
    by_cases hj : j = k
    · simp [hj, hk, Core.ctx]
    · have hjk : j ≠ p.1.k := fun e => hj (e.trans hk.symm)
      simp [hj, Core.ctx, hjk]
  · rw [if_neg hk]
    by_cases hj : j = k
    · simp [hj, Core.ctx, hk, Table.find_set]
    · by_cases hjk : j = p.1.k
      · simp [Core.ctx, hjk, Ne.symm hk]
      · simp [hj, Core.ctx, hjk, Table.find_set]

/-- Beside its contexts a core is the same after one of them has been changed. -/
theorem Core.modCtx_core (p : Core × Context) (k : Nat) (f : Context → Context) :
    (Core.modCtx p k f).1 = { p.1 with parked := (Core.modCtx p k f).1.parked } := by
  unfold Core.modCtx; split <;> rfl

theorem Core.modCtx_self (c : Core) (x : Context) (f : Context → Context) : Core.modCtx (c, x) c.k f = (c, f x) := if_pos rfl

/-! ## Reading at a core -/

/-- Core `id` with its context in view. -/
def State.pairAt (s : State) (id : Nat) : Core × Context :=
  if id = s.id then (s.core, s.cx) else (Table.find s.others id).getD (Core.reset, Context.reset 0)

theorem State.coreAt_eq (s : State) (id : Nat) : s.coreAt id = (s.pairAt id).1 := by
  unfold State.coreAt State.pairAt; split <;> rfl
theorem State.cxAt_eq (s : State) (id k : Nat) : s.cxAt id k = (s.pairAt id).1.ctx (s.pairAt id).2 k := by
  unfold State.cxAt State.pairAt; split <;> rfl
theorem State.pairAt_here (s : State) : s.pairAt s.id = (s.core, s.cx) := if_pos rfl

@[simp] theorem State.coreAt_here (s : State) : s.coreAt s.id = s.core := if_pos rfl
theorem State.cxAt_here (s : State) (k : Nat) : s.cxAt s.id k = s.core.ctx s.cx k := if_pos rfl
@[simp] theorem State.cxAt_view (s : State) : s.cxAt s.id s.core.k = s.cx := by rw [State.cxAt_here, Core.ctx_self]

theorem State.pairAt_modCx (s : State) (id k id' : Nat) (f : Context → Context) :
    (s.modCx id k f).pairAt id' = if id' = id then Core.modCtx (s.pairAt id) k f else s.pairAt id' := by
  unfold State.modCx State.pairAt
  by_cases h : id = s.id
  · subst h
    by_cases h' : id' = s.id <;> simp [h']
  · by_cases h' : id' = id
    · subst h'; simp [h, Table.find_set]
    · by_cases hs : id' = s.id
      · simp [h, hs]
        intro e; exact absurd (e ▸ hs) h'
      · simp [h, h', hs, Table.find_set]

theorem State.pairAt_modCore (s : State) (id id' : Nat) (f : Core → Core) :
    (s.modCore id f).pairAt id' = if id' = id then (f (s.pairAt id).1, (s.pairAt id).2) else s.pairAt id' := by
  unfold State.modCore State.pairAt
  by_cases h : id = s.id
  · subst h
    by_cases h' : id' = s.id <;> simp [h']
  · by_cases h' : id' = id
    · subst h'; simp [h, Table.find_set]
    · by_cases hs : id' = s.id
      · simp [h, hs]
        intro e; exact absurd (e ▸ hs) h'
      · simp [h, h', hs, Table.find_set]

theorem State.cxAt_modCx (s : State) (id k id' j : Nat) (f : Context → Context) :
    (s.modCx id k f).cxAt id' j = if id' = id ∧ j = k then f (s.cxAt id k) else s.cxAt id' j := by
  simp only [State.cxAt_eq, State.pairAt_modCx]
  by_cases h : id' = id
  · subst h; simp [Core.ctx_modCtx]
  · simp [h]

/-- Beside its contexts every core is the same after a context has been changed. -/
theorem State.coreAt_modCx (s : State) (id k id' : Nat) (f : Context → Context) :
    (s.modCx id k f).coreAt id' = { s.coreAt id' with parked := ((s.modCx id k f).coreAt id').parked } := by
  simp only [State.coreAt_eq, State.pairAt_modCx]
  by_cases h : id' = id
  · subst h; simp only [if_true]; exact Core.modCtx_core ..
  · simp [h]

theorem State.coreAt_modCore (s : State) (id id' : Nat) (f : Core → Core) :
    (s.modCore id f).coreAt id' = if id' = id then f (s.coreAt id) else s.coreAt id' := by
  simp only [State.coreAt_eq, State.pairAt_modCore]
  split <;> rfl

/-- A change of a core that keeps its contexts keeps every context of the module. -/
theorem State.cxAt_modCore (s : State) (id id' k : Nat) (f : Core → Core) (hk : ∀ c, (f c).k = c.k) (hp : ∀ c, (f c).parked = c.parked) :
    (s.modCore id f).cxAt id' k = s.cxAt id' k := by
  simp only [State.cxAt_eq, State.pairAt_modCore]
  by_cases h : id' = id
  · subst h; simp [Core.ctx, hk, hp]
  · simp [h]

/-- Beside its contexts a core is the same. -/
def Core.SameBut (c d : Core) : Prop := d = { c with parked := d.parked }

theorem Core.SameBut.refl (c : Core) : c.SameBut c := rfl
theorem Core.SameBut.trans {c d e : Core} (h : c.SameBut d) (k : d.SameBut e) : c.SameBut e := by
  unfold Core.SameBut at *; rw [k, h]

section
variable (s : State) (id : Nat) (f : Nat → Context → Context)

/-- A change of several contexts of a core, one after another. -/
theorem State.cxAt_foldl_modCx (l : List Nat) (hl : l.Nodup) (id' j : Nat) :
    (l.foldl (fun s k => s.modCx id k (f k)) s).cxAt id' j = if id' = id ∧ j ∈ l then f j (s.cxAt id j) else s.cxAt id' j := by
  induction l generalizing s with
  | nil => simp
  | cons k l ih =>
    obtain ⟨hk, hl⟩ := List.nodup_cons.mp hl
    rw [List.foldl_cons, ih _ hl, State.cxAt_modCx, State.cxAt_modCx]
    by_cases hid : id' = id
    · by_cases hj : j = k
      · subst hj; simp [hid, hk]
      · simp [hid, hj]
    · simp [hid]

theorem State.cxAt_modAll (id' j : Nat) :
    (s.modAll id f).cxAt id' j = if id' = id ∧ j < 11 then f j (s.cxAt id j) else s.cxAt id' j := by
  unfold State.modAll
  rw [State.cxAt_foldl_modCx s id f _ List.nodup_range]
  simp

theorem State.coreAt_modAll (id' : Nat) : (s.coreAt id').SameBut ((s.modAll id f).coreAt id') := by
  unfold State.modAll
  generalize List.range 11 = l
  induction l generalizing s with
  | nil => exact .refl _
  | cons k l ih => exact Core.SameBut.trans (s.coreAt_modCx id k id' (f k)) (ih _)
end

/-- The context in view and its number, read as at any core. -/
theorem State.cx_of_cxAt {s : State} {id k : Nat} (hid : s.id = id) (hk : s.core.k = k) : s.cx = s.cxAt id k := by
  subst hid; subst hk; exact (State.cxAt_view s).symm
theorem State.core_of_coreAt {s : State} {id : Nat} (hid : s.id = id) : s.core = s.coreAt id := by subst hid; exact (State.coreAt_here s).symm

/-- The core in view after a change of its own contexts. -/
theorem State.core_modAll (s : State) (id : Nat) (f : Nat → Context → Context) : s.core.SameBut (s.modAll id f).core := by
  have h := s.coreAt_modAll id f s.id
  rwa [State.coreAt_here, ← State.core_of_coreAt (s.modAll_onlyCores id f).id_eq] at h

/-- The context in view after a change of every context of its core. -/
theorem State.cx_modAll (s : State) (f : Nat → Context → Context) (h : s.core.k < 11) : (s.modAll s.id f).cx = f s.core.k s.cx := by
  have hid := (s.modAll_onlyCores s.id f).id_eq
  have hk : (s.modAll s.id f).core.k = s.core.k := by rw [s.core_modAll s.id f]
  rw [State.cx_of_cxAt hid hk, State.cxAt_modAll, if_pos ⟨rfl, h⟩, State.cxAt_view]

/-- The context in view is changed directly. -/
theorem State.modCx_view (s : State) (f : Context → Context) : s.modCx s.id s.core.k f = s.setCx (f s.cx) := by
  simp [State.modCx, Core.modCtx_self, State.setCx]
theorem State.modCore_view (s : State) (f : Core → Core) : s.modCore s.id f = s.setCore (f s.core) := by
  simp [State.modCore, State.setCore]

end Sys2Proof.Machine
end

section
/-!
PROOFS. Control registers: what reads give (O8), what plain writes do (O9), what is refused (O10).
-/
namespace Sys2Proof.Machine
open Sys2Proof

/-! ## Selectors (R17) -/

theorem word_toNat {n : Nat} (x : BitVec n) : word x.toNat = zext x := (zext_eq_ofNat x).symm

/-- The selectors that R17 lists. -/
def listedSelectors : List Nat :=
  [0x00, 0x01, 0x02, 0x03, 0x04, 0x05, 0x06, 0x08, 0x09, 0x0C, 0x0D, 0x0E, 0x10, 0x11, 0x14, 0x15, 0x16, 0x17, 0x18, 0x1C, 0x1D, 0x1E, 0x1F,
    0x20, 0x21, 0x24, 0x25, 0x26, 0x27, 0x28, 0x29, 0x2C, 0x2D, 0x30, 0x34, 0xC0, 0xC1, 0xC2, 0xC3, 0xC4]

/-- A listed selector has a value. -/
theorem State.creg_isSome (s : State) {n : Nat} (h : n ∈ listedSelectors) : (s.creg n).isSome = true := by
  simp only [listedSelectors, List.mem_cons, List.not_mem_nil, or_false] at h
  rcases h with h | h | h | h | h | h | h | h | h | h | h | h | h | h | h | h | h | h | h | h | h | h | h | h | h | h | h | h | h | h | h | h
    | h | h | h | h | h | h | h | h <;> subst h <;> rfl

/-- Any other has none. -/
theorem State.creg_none (s : State) {n : Nat} (h : n ∉ listedSelectors) : s.creg n = none := by
  unfold State.creg
  split <;> first | rfl | exact absurd (by decide) h

/-- Before the writes of the present cycle the same selectors have a value. -/
theorem State.cregBefore_none (s : State) {n : Nat} (h : n ∉ listedSelectors) : s.cregBefore n = none := by
  unfold State.cregBefore
  split
  · split <;> first | exact s.creg_none h | exact absurd (by decide) h
  · exact s.creg_none h

theorem State.cregBefore_eq_creg {s : State} (n : Nat) (h : s.cx.lateCy ≠ s.cy ∨ (n ≠ 0x0D ∧ n ≠ 0x34)) : s.cregBefore n = s.creg n := by
  unfold State.cregBefore
  rcases h with h | ⟨h1, h2⟩
  · rw [if_neg h]
  · split
    · split <;> first | rfl | contradiction
    · rfl

/-! ## PRIV (R96, R100) -/

theorem State.privBad_user {s : State} (hu : s.cx.super = false) (hl : s.cx.inPhlx = false ∨ s.cx.leader = true) : s.privBad = true := by
  rcases hl with h | h <;> simp [State.privBad, hu, h]
theorem State.privBad_super {s : State} (h : s.cx.super = true) : s.privBad = false := by simp [State.privBad, h]

/-- At supervisor level no selector is PRIV. -/
theorem State.crPriv_super {s : State} (h : s.cx.super = true) (n : Nat) (w : Bool) : s.crPriv n w = false := by
  simp [State.crPriv, State.privBad_super h]

/-- Below 0xC0 a read is never PRIV, a write only of SSP and SSLIM. -/
theorem State.crPriv_low (s : State) {n : Nat} (h : n < 0xC0) (w : Bool) (hw : w = false ∨ (n ≠ 0x2C ∧ n ≠ 0x2D)) : s.crPriv n w = false := by
  have hn : ¬ 0xC0 ≤ n := Nat.not_le.mpr h
  rcases hw with hw | ⟨h1, h2⟩ <;> simp [State.crPriv, *]

theorem State.crPriv_high {s : State} (hb : s.privBad = true) {n : Nat} (h : 0xC0 ≤ n) (w : Bool) : s.crPriv n w = true := by
  simp [State.crPriv, hb, h]

theorem State.crPriv_shadow {s : State} (hb : s.privBad = true) (hs : s.cx.sse = true) {n : Nat} (h : n = 0x2C ∨ n = 0x2D) : s.crPriv n true = true := by
  rcases h with h | h <;> simp [State.crPriv, hb, hs, h]

/-! ## CRD (R115, R116) -/

theorem completesG_crd {s : State} {d : GReg} {sel : BitVec 8} {v : Word} (hp : s.crPriv sel.toNat false = false) (hsel : sel ≠ 0x20)
    (hv : s.creg sel.toNat = some v) : completesG (.crd d sel) s d v := by
  refine completesG_of_doneG _ s d v ?_
  have hform : exec (.crd d sel) s = execCrd d sel s := rfl
  rw [hform, execCrd]
  simp only [hp, hv, hsel, if_false, Bool.false_eq_true]

/-- A register below 0xC0 is read at either level. -/
theorem completesG_crd_low {s : State} {d : GReg} {sel : BitVec 8} {v : Word} (hlow : sel.toNat < 0xC0) (hsel : sel ≠ 0x20)
    (hv : s.creg sel.toNat = some v) : completesG (.crd d sel) s d v :=
  completesG_crd (s.crPriv_low hlow false (.inl rfl)) hsel hv

theorem completesLater_crd_time (s : State) (d : GReg) : completesLater (.crd d 0x20) s d (word s.time) 4 := by
  refine completesLater_of_doneLater (w := word s.time) ?_ rfl
  have hp : s.crPriv 0x20 false = false := s.crPriv_low (by decide) false (.inl rfl)
  have hform : exec (.crd d 0x20) s = execCrd d 0x20 s := rfl
  rw [hform, execCrd]
  have hv : s.creg (0x20 : BitVec 8).toNat = some (word s.time) := rfl
  have hp' : s.crPriv (0x20 : BitVec 8).toNat false = false := hp
  simp only [hp', hv, Bool.false_eq_true, if_false, if_true]
  rfl

/-- Settles O8: CRD of a listed selector that the level may read ends with the register's value, TIME 4 cycles later. -/
theorem controlRegistersAreReadAsHeld : Obligations.ControlRegistersAreReadAsHeld := by
  intro s d
  have low {sel : BitVec 8} {v : Word} (hl : sel.toNat < 0xC0) (hs : sel ≠ 0x20) (hv : s.creg sel.toNat = some v) : completesG (.crd d sel) s d v :=
    completesG_crd_low hl hs hv
  refine ⟨fun sel v hlev hsel hv => ?_, completesLater_crd_time s d, low (by decide) (by decide) rfl, low (by decide) (by decide) rfl,
    low (by decide) (by decide) rfl, low (by decide) (by decide) rfl, low (by decide) (by decide) rfl, low (by decide) (by decide) rfl,
    low (by decide) (by decide) rfl, low (by decide) (by decide) rfl, low (by decide) (by decide) rfl, low (by decide) (by decide) rfl,
    low (by decide) (by decide) rfl, low (by decide) (by decide) rfl, low (by decide) (by decide) rfl, low (by decide) (by decide) rfl,
    low (by decide) (by decide) rfl, fun k => ?_, low (by decide) (by decide) rfl, low (by decide) (by decide) rfl,
    low (by decide) (by decide) rfl, low (by decide) (by decide) rfl, fun hsup => ?_⟩
  · rcases hlev with h | h
    · exact completesG_crd (State.crPriv_super h _ _) hsel hv
    · exact low h hsel hv
  · match k with
    | 0 => exact low (by decide) (by decide) rfl
    | 1 => exact low (by decide) (by decide) rfl
    | 2 => exact low (by decide) (by decide) rfl
    | 3 => exact low (by decide) (by decide) rfl
  · have hi {sel : BitVec 8} {v : Word} (hs : sel ≠ 0x20) (hv : s.creg sel.toNat = some v) : completesG (.crd d sel) s d v :=
      completesG_crd (State.crPriv_super hsup _ _) hs hv
    exact ⟨hi (by decide) rfl, hi (by decide) rfl, hi (by decide) rfl, hi (by decide) rfl⟩

/-! ## Refusals (O10) -/

theorem trapsWith_crd_priv {s : State} {d : GReg} {sel : BitVec 8} (h : s.crPriv sel.toNat false = true) : trapsWith (.crd d sel) s 0x0C (zext sel) := by
  have hform : exec (.crd d sel) s = execCrd d sel s := rfl
  rw [trapsWith, hform, execCrd, if_pos h, word_toNat]; rfl
theorem trapsWith_crd_unlisted {s : State} {d : GReg} {sel : BitVec 8} (h : s.crPriv sel.toNat false = false) (hn : sel.toNat ∉ listedSelectors) :
    trapsWith (.crd d sel) s 0x01 (zext sel) := by
  have hform : exec (.crd d sel) s = execCrd d sel s := rfl
  rw [trapsWith, hform, execCrd, h, s.creg_none hn, word_toNat]; rfl

section
variable {s : State} {d : GReg} {n : Nat} (i : Instr) (f : Word → Word)

theorem State.crWrite_priv (h : s.crPriv n true = true) : s.crWrite i d n f = s.trap 0x0C (word n) := by
  rw [State.crWrite, if_pos h]
theorem State.crWrite_unlisted (h : s.crPriv n true = false) (hn : n ∉ listedSelectors) : s.crWrite i d n f = s.trap 0x01 (word n) := by
  rw [State.crWrite, h, s.cregBefore_none hn]; rfl
theorem State.crWrite_trap {old : Word} {code : Nat} {v : Word} (h : s.crPriv n true = false) (ho : s.cregBefore n = some old)
    (ht : s.crTrap n old (f old) = some (code, v)) : s.crWrite i d n f = s.trap code v := by
  rw [State.crWrite, h, ho]; simp only [ht]; rfl
theorem State.crWrite_ok {old : Word} (h : s.crPriv n true = false) (ho : s.cregBefore n = some old) (ht : s.crTrap n old (f old) = none) :
    s.crWrite i d n f = .next (((s.putCreg n (crForm n old (f old))).setG d old).retire i) := by
  rw [State.crWrite, h, ho]; simp only [ht]; rfl

/-- A register marked RO takes no write. -/
theorem State.crWrite_readOnly (h : s.crPriv n true = false) (hl : n ∈ listedSelectors) (hr : crReadOnly n = true) :
    s.crWrite i d n f = s.trap 0x01 (word n) := by
  obtain ⟨old, ho⟩ := Option.isSome_iff_exists.mp (s.creg_isSome hl)
  have hb : s.cregBefore n = s.creg n :=
    s.cregBefore_eq_creg n (.inr ⟨fun e => absurd hr (by rw [e]; decide), fun e => absurd hr (by rw [e]; decide)⟩)
  exact State.crWrite_trap i f h (hb.trans ho) (by rw [State.crTrap, if_pos hr])
end

/-- The three writes are one operation with three values. -/
theorem exec_cwr (s : State) (d a : GReg) (sel : BitVec 8) : exec (.cwr d a sel) s = s.crWrite (.cwr d a sel) d sel.toNat fun _ => s.g a := rfl
theorem exec_cset (s : State) (d a : GReg) (sel : BitVec 8) : exec (.cset d a sel) s = s.crWrite (.cset d a sel) d sel.toNat fun old => old ||| s.g a := rfl
theorem exec_cclr (s : State) (d a : GReg) (sel : BitVec 8) : exec (.cclr d a sel) s = s.crWrite (.cclr d a sel) d sel.toNat fun old => old &&& ~~~(s.g a) := rfl

/-- What every write of a selector is refused with, the three writes are. -/
theorem trapsWith_writes {s : State} {d a : GReg} {sel : BitVec 8} {code : Nat}
    (h : ∀ i f, s.crWrite i d sel.toNat f = s.trap code (word sel.toNat)) :
    trapsWith (.cwr d a sel) s code (zext sel) ∧ trapsWith (.cset d a sel) s code (zext sel) ∧ trapsWith (.cclr d a sel) s code (zext sel) := by
  rw [word_toNat] at h
  exact ⟨(exec_cwr ..).trans (h _ _), (exec_cset ..).trans (h _ _), (exec_cclr ..).trans (h _ _)⟩

theorem controlRegisterRefusals : Claims.ControlRegisterRefusals := by
  intro s d a sel
  have unlisted (hp : s.crPriv sel.toNat false = false) (hw : s.crPriv sel.toNat true = false) (hn : sel.toNat ∉ listedSelectors) :
      trapsWith (.crd d sel) s 0x01 (zext sel) ∧ trapsWith (.cwr d a sel) s 0x01 (zext sel)
      ∧ trapsWith (.cset d a sel) s 0x01 (zext sel) ∧ trapsWith (.cclr d a sel) s 0x01 (zext sel) :=
    ⟨trapsWith_crd_unlisted hp hn, trapsWith_writes fun i f => State.crWrite_unlisted i f hw hn⟩
  refine ⟨fun hu hl hs => ?_, fun hs hn => ?_, fun hs hsup => ?_, fun hs => ?_⟩
  · have hp := State.crPriv_high (State.privBad_user hu hl) hs
    exact ⟨trapsWith_crd_priv (hp false), trapsWith_writes fun i f => State.crWrite_priv i f (hp true)⟩
  · have hn' : sel.toNat ∉ listedSelectors := (by decide : ∀ sel : BitVec 8, sel.toNat < 0xC0 → sel ∉ _ → sel.toNat ∉ listedSelectors) sel hs hn
    have h1 : sel.toNat ≠ 0x2C := fun e => hn' (by rw [e]; decide)
    have h2 : sel.toNat ≠ 0x2D := fun e => hn' (by rw [e]; decide)
    exact unlisted (s.crPriv_low hs _ (.inl rfl)) (s.crPriv_low hs _ (.inr ⟨h1, h2⟩)) hn'
  · have hn' : sel.toNat ∉ listedSelectors := (by decide : ∀ sel : BitVec 8, 0xC5 ≤ sel.toNat → sel.toNat ∉ listedSelectors) sel hs
    exact unlisted (State.crPriv_super hsup _ _) (State.crPriv_super hsup _ _) hn'
  · have hro : crReadOnly sel.toNat = true ∧ sel.toNat ∈ listedSelectors ∧ s.crPriv sel.toNat true = false := by
      rcases hs with h | ⟨h, hsup⟩
      · have hc := (by decide : ∀ sel : BitVec 8, sel ∈ ([0x01, 0x10, 0x17, 0x20, 0x21, 0x24, 0x25, 0x26, 0x28, 0x29] : List (BitVec 8)) →
          crReadOnly sel.toNat = true ∧ sel.toNat ∈ listedSelectors ∧ sel.toNat < 0xC0 ∧ sel.toNat ≠ 0x2C ∧ sel.toNat ≠ 0x2D) sel h
        obtain ⟨hr, hl, hlow, h1, h2⟩ := hc
        exact ⟨hr, hl, s.crPriv_low hlow _ (.inr ⟨h1, h2⟩)⟩
      · subst h; exact ⟨by decide, by decide, State.crPriv_super hsup _ _⟩
    obtain ⟨hr, hl, hp⟩ := hro
    exact trapsWith_writes fun i f => State.crWrite_readOnly i f hp hl hr

/-- A field does not reach below its lowest bit. -/
theorem bit_setBits_below (w : Word) {hi lo j : Nat} (v : Nat) (hj : j < lo) : bit (setBits w hi lo v) j = bit w j := by
  have hlow (n : Nat) : (BitVec.ofNat 64 (n <<< lo)).getLsbD j = false := by
    rw [BitVec.getLsbD_ofNat, Nat.testBit_shiftLeft, decide_eq_false (Nat.not_le.mpr hj)]; simp
  simp only [bit, setBits, BitVec.getLsbD_or, BitVec.getLsbD_and, BitVec.getLsbD_not, hlow, Bool.or_false, Bool.not_false, Bool.and_true]
  by_cases h : j < 64
  · simp [h]
  · simp [h, BitVec.getLsbD_of_ge w j (Nat.not_lt.mp h)]

/-- A word without bit 3 has nothing in common with its mask. -/
theorem and_eight_of_bit (w : Word) (h : bit w 3 = false) : w &&& 8 = 0 := by
  apply BitVec.eq_of_getLsbD_eq
  intro i _
  have h8 : (8 : Word).getLsbD i = decide (i = 3) := by
    rw [show (8 : Word) = 1#64 <<< 3 from rfl]; exact bit_shiftLeft_one 3 (by assumption)
  rw [BitVec.getLsbD_and, h8]
  by_cases hi : i = 3
  · subst hi; rw [show w.getLsbD 3 = false from h]; simp
  · simp [hi]

theorem trapsWith_cwr_sse {s : State} {d a : GReg} (hu : s.cx.super = false) (hg : s.g a = 8) (hs : s.cx.sse = false) :
    trapsWith (.cwr d a 0x00) s 0x0C 0x00 := by
  have hbit : bit s.statusWord 3 = false := (bit_setBits_below _ _ (by decide)).trans hs
  have hold : s.statusWord &&& crS 0 = 0 := and_eight_of_bit _ hbit
  refine State.crWrite_trap _ _ (s.crPriv_low (by decide) _ (.inr ⟨by decide, by decide⟩)) (s.cregBefore_eq_creg 0x00 (.inr ⟨by decide, by decide⟩)) ?_
  have hro : crReadOnly (0x00 : BitVec 8).toNat = false := rfl
  have hres : (8 : Word) &&& crReserved (0x00 : BitVec 8).toNat = 0 := by decide
  have hnew : (8 : Word) &&& crS (0x00 : BitVec 8).toNat = 8 := by decide
  have hold' : s.statusWord &&& crS (0x00 : BitVec 8).toNat = 0 := hold
  simp only [State.crTrap, hg, hro, hres, hnew, hold', hu]
  rfl

/-- A number below 2^n has no bit outside the lowest n. -/
theorem and_not_mask {v : Word} {n : Nat} (h : v.toNat < 2 ^ n) : v &&& ~~~(BitVec.ofNat 64 (2 ^ n - 1)) = 0 := by
  apply BitVec.eq_of_getLsbD_eq
  intro i hi
  rw [BitVec.getLsbD_and, BitVec.getLsbD_not, BitVec.getLsbD_ofNat, Nat.testBit_two_pow_sub_one]
  by_cases hn : i < n
  · simp [hi, hn]
  · have hv : v.getLsbD i = false := Nat.testBit_lt_two_pow (Nat.lt_of_lt_of_le h (Nat.pow_le_pow_right (by decide) (Nat.not_lt.mp hn)))
    simp [hv]

/-- ORD, SCOPE and CACHE of a value for MEMDEF as numbers. -/
theorem State.acceptable_memdef (s : State) (v : Word) :
    s.acceptable 0x09 v = (!(v.toNat % 8 == 0 || v.toNat % 8 == 7) && !(v.toNat / 8 % 8 == 0 || v.toNat / 8 % 8 ≥ 6) && v.toNat / 256 % 4 != 0) := by
  simp only [State.acceptable, bits, Nat.shiftRight_eq_div_pow]
  rw [Nat.pow_zero, Nat.div_one] <;> rfl

theorem trapsWith_cwr_memdef {s : State} {d a : GReg} (hlt : (s.g a).toNat < 2 ^ 11)
    (hbad : (s.g a).toNat % 8 = 0 ∨ (s.g a).toNat % 8 = 7 ∨ (s.g a).toNat / 8 % 8 = 0 ∨ (s.g a).toNat / 8 % 8 ≥ 6 ∨ (s.g a).toNat / 256 % 4 = 0) :
    trapsWith (.cwr d a 0x09) s 0x01 0x09 := by
  refine State.crWrite_trap _ _ (s.crPriv_low (by decide) _ (.inr ⟨by decide, by decide⟩)) (s.cregBefore_eq_creg 0x09 (.inr ⟨by decide, by decide⟩)) ?_
  have hro : crReadOnly (0x09 : BitVec 8).toNat = false := rfl
  have hres : s.g a &&& crReserved (0x09 : BitVec 8).toNat = 0 := by
    rw [show crReserved (0x09 : BitVec 8).toNat = ~~~(BitVec.ofNat 64 (2 ^ 11 - 1)) by decide]
    exact and_not_mask hlt
  have hs : crS (0x09 : BitVec 8).toNat = 0 := rfl
  have hvs : s.vsetlBlocked (0x09 : BitVec 8).toNat = false := rfl
  have hacc : s.acceptable (0x09 : BitVec 8).toNat (s.g a) = false := by
    rw [show (0x09 : BitVec 8).toNat = 0x09 from rfl, s.acceptable_memdef]
    rcases hbad with h | h | h | h | h <;> simp [h]
  simp only [State.crTrap, hro, hres, hs, hvs, hacc]
  simp; rfl

theorem protectedFieldsAreRefused : Claims.ProtectedFieldsAreRefused := by
  intro s d a
  refine ⟨fun hu hl hs => ?_, trapsWith_cwr_sse, trapsWith_cwr_memdef⟩
  have hb := State.privBad_user hu hl
  have hssp : ∀ i f, s.crWrite i d (0x2C : BitVec 8).toNat f = s.trap 0x0C (word (0x2C : BitVec 8).toNat) :=
    fun i f => State.crWrite_priv i f (State.crPriv_shadow hb hs (.inl rfl))
  have hlim : ∀ i f, s.crWrite i d (0x2D : BitVec 8).toNat f = s.trap 0x0C (word (0x2D : BitVec 8).toNat) :=
    fun i f => State.crWrite_priv i f (State.crPriv_shadow hb hs (.inr rfl))
  obtain ⟨h1, h2, h3⟩ := trapsWith_writes (a := a) hssp
  obtain ⟨h4, h5, h6⟩ := trapsWith_writes (a := a) hlim
  exact ⟨h1, h2, h3, h4, h5, h6⟩

/-- Settles O10: each refusal by the first check of R115 that fails. -/
theorem controlRegisterAccessesAreRefused : Obligations.ControlRegisterAccessesAreRefused := ⟨controlRegisterRefusals, protectedFieldsAreRefused⟩

/-! ## Writes of plain registers (O9) -/

/-- A case for each plain register. -/
theorem plainRegister_cases {sel : BitVec 8} {m : Word} (h : (sel, m) ∈ plainRegisters) :
    (sel = 0x02 ∧ m = 0x7FFC) ∨ (sel = 0x03 ∧ m = 0xFFF) ∨ (sel = 0x04 ∧ m = 0xFFFFFFFFFFFFFFFF) ∨ (sel = 0x05 ∧ m = 0x7FFC)
      ∨ (sel = 0x06 ∧ m = 0x7FFC) ∨ (sel = 0x0C ∧ m = 0xFFF) ∨ (sel = 0x0D ∧ m = 0x3F) ∨ (sel = 0x0E ∧ m = 0xFFFFFFFF)
      ∨ (sel = 0x15 ∧ m = 0xFFFFFFFF) ∨ (sel = 0x18 ∧ m = 0xFFFFFFFFFFFFFFFF) ∨ (sel = 0x30 ∧ m = 0xFFFFFFFFFFFFFFF) := by
  simpa [plainRegisters] using h

/-- What each plain register has in common: its bits are all RW, and nothing of it is protected. -/
theorem plainRegister_masks {sel : BitVec 8} {m : Word} (h : (sel, m) ∈ plainRegisters) :
    sel.toNat ∈ listedSelectors ∧ sel.toNat < 0xC0 ∧ sel.toNat ≠ 0x2C ∧ sel.toNat ≠ 0x2D ∧ sel.toNat ≠ 0x11 ∧ crReadOnly sel.toNat = false
      ∧ crReserved sel.toNat = ~~~m ∧ crRw sel.toNat = m ∧ crRo sel.toNat = 0 ∧ crW0c sel.toNat = 0 ∧ crS sel.toNat = 0 := by
  rcases plainRegister_cases h with ⟨rfl, rfl⟩ | ⟨rfl, rfl⟩ | ⟨rfl, rfl⟩ | ⟨rfl, rfl⟩ | ⟨rfl, rfl⟩ | ⟨rfl, rfl⟩ | ⟨rfl, rfl⟩ | ⟨rfl, rfl⟩
    | ⟨rfl, rfl⟩ | ⟨rfl, rfl⟩ | ⟨rfl, rfl⟩ <;> decide

theorem State.acceptable_plain (s : State) {sel : BitVec 8} {m : Word} (h : (sel, m) ∈ plainRegisters) (v : Word) : s.acceptable sel.toNat v = true := by
  rcases plainRegister_cases h with ⟨e, -⟩ | ⟨e, -⟩ | ⟨e, -⟩ | ⟨e, -⟩ | ⟨e, -⟩ | ⟨e, -⟩ | ⟨e, -⟩ | ⟨e, -⟩ | ⟨e, -⟩ | ⟨e, -⟩ | ⟨e, -⟩ <;> subst e <;> rfl

section
variable {s : State} {sel : BitVec 8} {m : Word} (h : (sel, m) ∈ plainRegisters) (old : Word) {v : Word}
include h

/-- A value within the bits of a plain register raises no trap. -/
theorem State.crTrap_plain (hv : v &&& ~~~m = 0) : s.crTrap sel.toNat old v = none := by
  obtain ⟨-, -, -, -, h11, hro, hres, -, -, -, hs⟩ := plainRegister_masks h
  have hblk : s.vsetlBlocked sel.toNat = false := by simp [State.vsetlBlocked, h11]
  simp [State.crTrap, hro, hres, hv, hs, hblk, s.acceptable_plain h]

/-- A value with a reserved bit is ILLEGAL. -/
theorem State.crTrap_plain_reserved (hv : v &&& ~~~m ≠ 0) : s.crTrap sel.toNat old v = some (0x01, word sel.toNat) := by
  obtain ⟨-, -, -, -, -, hro, hres, -, -, -, -⟩ := plainRegister_masks h
  rw [State.crTrap, hro, hres, if_neg Bool.false_ne_true, if_pos hv]

/-- The value written is formed unchanged. -/
theorem crForm_plain (hv : v &&& ~~~m = 0) : crForm sel.toNat old v = v := by
  obtain ⟨-, -, -, -, -, -, -, hrw, hro, hw0, -⟩ := plainRegister_masks h
  have hm : v &&& m = v := by
    apply BitVec.eq_of_getLsbD_eq
    intro i hi
    have hbit := congrArg (fun w : Word => w.getLsbD i) hv
    simp only [BitVec.getLsbD_and, BitVec.getLsbD_not, hi, decide_true, Bool.true_and] at hbit
    rw [BitVec.getLsbD_and]
    cases hvb : v.getLsbD i <;> simp_all
  simp [crForm, hro, hrw, hw0, hm]
end

/-- HELPERS counts contexts by their state alone. -/
theorem State.statusWord_setCx (s : State) (c : Context) (hst : c.status = s.cx.status)
    (hrun : c.st = s.cx.st ∨ (c.st.live = true ∧ s.cx.st.live = true)) : (s.setCx c).statusWord = s.statusWord := by
  have hcount : ((s.core.ctxs c).tail.filter fun x => x.st != .free && x.st != .exited).length
      = ((s.core.ctxs s.cx).tail.filter fun x => x.st != .free && x.st != .exited).length := by
    unfold Core.ctxs
    rw [← List.map_tail, ← List.map_tail, List.filter_map, List.filter_map, List.length_map, List.length_map]
    congr 2
    funext k
    simp only [Function.comp, Core.ctx]
    split
    · have hlive' : ∀ r : Run, r.live = true → (r != .free && r != .exited) = true := fun r hr => by cases r <;> simp_all [Run.live]
      rcases hrun with h | ⟨hlive, hs⟩
      · rw [h]
      · rw [hlive' _ hlive, hlive' _ hs]
    · rfl
  unfold State.statusWord
  simp only [State.setCx_cx, State.setCx_core, hst, hcount]

theorem Context.putG_eq (c : Context) (d : GReg) (v : Word) : ∃ g, c.putG d v = { c with g := g } := by
  unfold Context.putG; split
  · exact ⟨c.g, rfl⟩
  · exact ⟨_, rfl⟩

/-- The end of an instruction with a result changes no control register. -/
theorem State.creg_putG_retire (s : State) (c : Context) (d : GReg) (v : Word) (p : Pc) (n : Nat) (hlive : c.st.live = true) :
    (s.setCx ((c.putG d v).retire p)).creg n = (s.setCx c).creg n := by
  have h0 : (s.setCx ((c.putG d v).retire p)).statusWord = (s.setCx c).statusWord :=
    State.statusWord_setCx (s.setCx c) _ (by simp) (.inr ⟨rfl, hlive⟩)
  obtain ⟨g, hg⟩ := c.putG_eq d v
  rw [hg] at h0 ⊢
  unfold State.creg
  split
  · rw [h0]
  all_goals rfl

/-- The context that a write of a plain register leaves differs in that register alone. -/
structure State.PlainWrite (s : State) (c : Context) (n : Nat) (v : Word) : Prop where
  put : s.putCreg n v = s.setCx c
  regs : c.g = s.cx.g
  pc : c.pc = s.cx.pc
  live : c.st = s.cx.st
  pos : c.pos = s.cx.pos
  phlx : c.inPhlx = s.cx.inPhlx
  new : (s.setCx c).creg n = some v
  others : ∀ j, j ≠ n → (s.setCx c).creg j = s.creg j

/-- The registers that a context holds as written, DOMAIN and HMAPSEL aside. -/
def Context.ownReg (c : Context) : Nat → Word
  | 0x02 => c.epc
  | 0x03 => c.cause
  | 0x04 => c.tval
  | 0x05 => c.trapvec
  | 0x06 => c.ovlhand
  | 0x09 => c.memdef
  | 0x0C => c.arith
  | 0x0D => c.fflags
  | 0x0E => c.amax
  | 0x15 => c.btimeout
  | 0x18 => c.slotmask
  | 0x1C => c.breg[0]
  | 0x1D => c.breg[1]
  | 0x1E => c.breg[2]
  | 0x1F => c.breg[3]
  | 0x2C => c.ssp
  | 0x2D => c.sslim
  | 0x30 => c.pattern
  | 0x34 => c.errpend
  | 0xC0 => c.asid
  | 0xC1 => c.gen
  | 0xC4 => c.trapdeleg
  | _ => 0

/-- A control register reads the same from a context that agrees on what it is made of. -/
theorem State.creg_setCx (s : State) (c : Context) (n : Nat) (hs : (s.setCx c).statusWord = s.statusWord) (hd : c.domain = s.cx.domain)
    (hh : c.hmapsel = s.cx.hmapsel) (ho : c.ownReg n = s.cx.ownReg n) : (s.setCx c).creg n = s.creg n := by
  have hphase : (s.setCx c).phaseWord = s.phaseWord := by
    have hdom : (s.setCx c).domainOf s.id c = s.domainOf s.id s.cx := by unfold State.domainOf; rw [hd]; rfl
    have h1 : (s.setCx c).phaseWord = (match (s.setCx c).domainOf s.id c with
      | some d => word (d.phase + d.slotNow s.cy % 2 ^ 32 * 2 ^ 16 + d.sstep % 2 ^ 16 * 2 ^ 48) | none => 0) := rfl
    rw [h1, hdom]; rfl
  have hmap : (s.setCx { s.cx with hmapsel := c.hmapsel }) = s := by rw [hh]; rfl
  have hshape : (s.setCx c).trayShape = (s.setCx { s.cx with hmapsel := c.hmapsel }).trayShape := rfl
  have hval : (s.setCx c).hmapVal = (s.setCx { s.cx with hmapsel := c.hmapsel }).hmapVal := rfl
  have hlpt : (s.setCx c).lptWord = (s.setCx { s.cx with hmapsel := c.hmapsel }).lptWord := rfl
  rw [hmap] at hshape hval hlpt
  unfold State.creg
  split
  case h_1 => exact congrArg some hs
  case h_18 => exact congrArg some hphase
  case h_28 => exact congrArg some hshape
  case h_29 => exact congrArg some hh
  case h_30 => exact congrArg some hval
  case h_31 => exact congrArg some hlpt
  case h_15 => exact congrArg some hd
  all_goals first | rfl | exact congrArg some ho

theorem State.putCreg_plain (s : State) {sel : BitVec 8} {m : Word} (h : (sel, m) ∈ plainRegisters) (hlate : s.cx.lateCy ≠ s.cy) (v : Word) : ∃ c, s.PlainWrite c sel.toNat v := by
  have others {c : Context} (n : Nat) (hst : c.st = s.cx.st) (hs : c.status = s.cx.status) (hd : c.domain = s.cx.domain) (hh : c.hmapsel = s.cx.hmapsel)
      (ho : ∀ j, j ≠ n → c.ownReg j = s.cx.ownReg j) (j : Nat) (hj : j ≠ n) : (s.setCx c).creg j = s.creg j :=
    s.creg_setCx c j (s.statusWord_setCx c hs (.inl hst)) hd hh (ho j hj)
  rcases plainRegister_cases h with ⟨rfl, -⟩ | ⟨rfl, -⟩ | ⟨rfl, -⟩ | ⟨rfl, -⟩ | ⟨rfl, -⟩ | ⟨rfl, -⟩ | ⟨rfl, -⟩ | ⟨rfl, -⟩ | ⟨rfl, -⟩ | ⟨rfl, -⟩
    | ⟨rfl, -⟩
  case inr.inr.inr.inr.inr.inr.inl =>
    refine ⟨{ s.cx with fflags := v }, congrArg s.setCx (if_neg hlate), rfl, rfl, rfl, rfl, rfl, rfl, others _ rfl rfl rfl rfl fun j hj => ?_⟩
    unfold Context.ownReg
    split <;> first | rfl | contradiction
  all_goals
    refine ⟨_, rfl, rfl, rfl, rfl, rfl, rfl, rfl, others _ rfl rfl rfl rfl fun j hj => ?_⟩
    unfold Context.ownReg
    split <;> first | rfl | contradiction

section
variable {s : State} {d : GReg} {sel : BitVec 8} {m old : Word} (hm : (sel, m) ∈ plainRegisters) (hlive : s.cx.st.live = true)
  (ho : s.creg sel.toNat = some old) (hlate : s.cx.lateCy ≠ s.cy)
include hm hlive ho hlate

/-- A write within the bits of a plain register completes. -/
theorem writesRegister_plain {i : Instr} {f : Word → Word} (hi : exec i s = s.crWrite i d sel.toNat f) (hv : f old &&& ~~~m = 0) :
    writesRegister i s d sel old (f old) := by
  obtain ⟨-, hlow, h1, h2, -⟩ := plainRegister_masks hm
  obtain ⟨c, hc⟩ := s.putCreg_plain hm hlate (f old)
  have hw : s.crWrite i d sel.toNat f = .next (s.setCx ((c.putG d old).retire (s.after i))) := by
    rw [State.crWrite_ok i f (s.crPriv_low hlow _ (.inr ⟨h1, h2⟩)) ((s.cregBefore_eq_creg _ (.inl hlate)).trans ho)
      (State.crTrap_plain hm old hv), crForm_plain hm old hv, hc.put]
    simp [State.retire, State.setG, Context.next, State.after, hc.pc]
  have hcreg (n : Nat) := s.creg_putG_retire c d old (s.after i) n (hc.live ▸ hlive)
  have hg (r : GReg) : (s.setCx ((c.putG d old).retire (s.after i))).g r = if r = 0 then 0 else if r = d then old else s.g r := by
    have hs : (s.setCx c).g r = s.g r := State.g_congr hc.regs r
    rw [State.g_setCx_retire, ← hs]
    exact State.g_setG (s.setCx c) d r old
  refine ⟨_, hi.trans hw, (hcreg _).trans hc.new, ?_, fun r hr => ?_, fun n hn => (hcreg n).trans (hc.others n hn), fun _ => rfl,
    State.readyAt_retire s _ _ ((Context.putG_inPhlx ..).trans hc.phlx) ((Context.putG_pos ..).trans hc.pos)⟩
  · rw [hg]; simp
  · rw [hg, if_neg hr]
    split
    next h0 => rw [h0, State.g_zero]
    next => rfl
end

/-- Settles O9: within the bits of a plain register the write forms its value unchanged, and reaches that register and g(D) alone. -/
theorem controlRegistersAreWritten : Obligations.ControlRegistersAreWritten := by
  intro s d a sel m old hlive hm ho hlate
  refine ⟨fun hv => writesRegister_plain hm hlive ho hlate (exec_cwr s d a sel) hv,
    fun hv => writesRegister_plain hm hlive ho hlate (exec_cset s d a sel) hv,
    fun hv => writesRegister_plain hm hlive ho hlate (exec_cclr s d a sel) hv, fun hv => ?_⟩
  obtain ⟨-, hlow, h1, h2, -⟩ := plainRegister_masks hm
  rw [← word_toNat]
  exact (exec_cwr s d a sel).trans (State.crWrite_trap _ _ (s.crPriv_low hlow _ (.inr ⟨h1, h2⟩)) ((s.cregBefore_eq_creg _ (.inl hlate)).trans ho)
    (State.crTrap_plain_reserved hm old hv))

end Sys2Proof.Machine
end

section
/-!
PROOFS. Taking an exception (R251), BRK (R252) and the halt of a core (R35, R46).
-/
namespace Sys2Proof.Machine
open Sys2Proof

/-! ## Taking an exception outside a phalanx (R251) -/

section
variable {s : State} (hp : s.cx.inPhlx = false) (code source : Nat) (imp : Bool) (v : Word)
include hp

theorem State.trapPhlx_outside : s.trapPhlx = s := by simp [State.trapPhlx, hp]

/-- The context as the user handler, or the supervisor, finds it. -/
def Context.handling (c : Context) (code source : Nat) (imp : Bool) (v : Word) (i : Nat) (p : Pc) : Context :=
  Context.retire { c.saveTrap code source imp v with status := setBit (setBit c.status 1 false) i true } p

/-- A delegated cause enters the user handler unless one is running. -/
theorem State.trapEntry_user (hu : s.cx.super = false) (hd : s.cx.delegates code = true) (ht : s.cx.inTrap = false) :
    s.trapEntry code source imp v =
      s.unbench.setCx (s.cx.handling code source imp v 2 (BitVec.ofNat 15 (bits (if code = 0x03 then s.cx.ovlhand else s.cx.trapvec) 14 2 * 4))) := by
  have he : (s.cx.delegates code && !s.cx.inTrap) = true := by rw [hd, ht]; rfl
  have h := s.trapEntry_cases code source imp v
  rw [State.trapPhlx_outside hp] at h
  rcases h with ⟨h, -⟩ | ⟨-, -, h⟩ | ⟨-, h, -⟩
  · exact absurd (hu.symm.trans h) Bool.false_ne_true
  · exact h
  · exact absurd (h.symm.trans he) Bool.false_ne_true

/-- Any other cause below supervisor level enters the supervisor at 0. -/
theorem State.trapEntry_super (hu : s.cx.super = false) (hd : s.cx.delegates code = false ∨ s.cx.inTrap = true) :
    s.trapEntry code source imp v = s.unbench.setCx (s.cx.handling code source imp v 0 0) := by
  have he : (s.cx.delegates code && !s.cx.inTrap) = false := by rcases hd with h | h <;> simp [h]
  have h := s.trapEntry_cases code source imp v
  rw [State.trapPhlx_outside hp] at h
  rcases h with ⟨h, -⟩ | ⟨-, h, -⟩ | ⟨-, -, h⟩
  · exact absurd (hu.symm.trans h) Bool.false_ne_true
  · exact absurd (he.symm.trans h) Bool.false_ne_true
  · exact h

/-- At supervisor level it is CoreFault. -/
theorem State.trapEntry_fault (hs : s.cx.super = true) :
    s.trapEntry code source imp v = (s.unbench.setCx (s.cx.saveTrap code source imp v)).coreFault code v := by
  have h := s.trapEntry_cases code source imp v
  rw [State.trapPhlx_outside hp] at h
  rcases h with ⟨-, h⟩ | ⟨h, -⟩ | ⟨h, -⟩
  · exact h
  · exact absurd (h.symm.trans hs) Bool.false_ne_true
  · exact absurd (h.symm.trans hs) Bool.false_ne_true
end

/-- STATUS in the user handler: INTRAP set, PLEVEL clear. -/
theorem setBit_two (w : Word) : setBit (setBit w 1 false) 2 true = (w &&& ~~~2) ||| 4 := rfl
theorem setBit_zero (w : Word) : setBit (setBit w 1 false) 0 true = (w &&& ~~~2) ||| 1 := rfl

/-- Benching leaves every control register. -/
theorem State.creg_unbench (s : State) (n : Nat) : s.unbench.creg n = s.creg n := by
  have htray : (s.unbench.coreAt s.id).tray = s.core.tray  := by
    rw [show s.unbench.coreAt s.id = s.unbench.core from State.coreAt_here s.unbench]; rfl
  have hvif : s.unbench.vifOf s.id = s.vifOf s.id := by unfold State.vifOf; rw [htray, State.coreAt_here]
  have hphase : s.unbench.phaseWord = s.phaseWord := by
    have hd : s.unbench.domainOf s.id s.cx = s.domainOf s.id s.cx := by unfold State.domainOf; rw [htray, State.coreAt_here]; rfl
    have h1 : s.unbench.phaseWord = (match s.unbench.domainOf s.id s.cx with
      | some d => word (d.phase + d.slotNow s.cy % 2 ^ 32 * 2 ^ 16 + d.sstep % 2 ^ 16 * 2 ^ 48) | none => 0) := rfl
    rw [h1, hd]; rfl
  unfold State.creg
  split
  case h_2 => exact congrArg (fun x => some (word (s.core.k + x * 16))) hvif
  case h_18 => exact congrArg some hphase
  all_goals rfl

/-- Entering a handler leaves every control register but STATUS, EPC, CAUSE and TVAL. -/
theorem State.creg_handling (s : State) (code source : Nat) (imp : Bool) (v : Word) (i : Nat) (p : Pc) (n : Nat) (hn : n ∉ [0x00, 0x02, 0x03, 0x04]) :
    (s.unbench.setCx (s.cx.handling code source imp v i p)).creg n = s.creg n := by
  rw [← s.creg_unbench n]
  simp only [List.mem_cons, List.not_mem_nil, or_false, not_or] at hn
  obtain ⟨h0, h2, h3, h4⟩ := hn
  unfold State.creg
  split <;> first | rfl | contradiction

theorem exec_trap (s : State) (n : BitVec 24) : exec (.trap n) s = .next (s.trapEntry 0x0B 0 false (zext n)) := rfl

theorem trapEntrySequence : Claims.TrapEntrySequence := by
  intro s n hu hp
  have hdel : s.cx.delegates 0x0B = bit s.cx.trapdeleg 0x0B := by simp [Context.delegates]
  by_cases h : bit s.cx.trapdeleg 0x0B = true ∧ s.cx.inTrap = false
  · obtain ⟨hd, ht⟩ := h
    refine ⟨_, (exec_trap s n).trans (congrArg _ (State.trapEntry_user hp _ _ _ _ hu (hdel.trans hd) ht)), rfl, rfl, rfl, rfl,
      fun _ => ⟨rfl, setBit_two _⟩, fun hc => ?_, fun _ => rfl, rfl, fun k hk => s.creg_handling _ _ _ _ _ _ k hk, fun _ => rfl⟩
    rcases hc with h | h
    · exact absurd hd (by simp [h])
    · exact absurd ht (by simp [h])
  · have hc : bit s.cx.trapdeleg 0x0B = false ∨ s.cx.inTrap = true := by
      cases h1 : bit s.cx.trapdeleg 0x0B <;> cases h2 : s.cx.inTrap <;> simp_all
    refine ⟨_, (exec_trap s n).trans (congrArg _ (State.trapEntry_super hp _ _ _ _ hu (hdel.symm ▸ hc))), rfl, rfl, rfl, rfl,
      fun hd => absurd hd h, fun _ => ⟨rfl, setBit_zero _⟩, fun _ => rfl, rfl, fun k hk => s.creg_handling _ _ _ _ _ _ k hk, fun _ => rfl⟩

/-! ## CoreFault -/

/-- A live context halts where it is. -/
def Context.stopped (c : Context) : Context := if c.st.live then { c with st := .halted } else c

theorem Context.stopped_st (c : Context) : c.stopped.st = if c.st.live then .halted else c.st := by unfold Context.stopped; split <;> rfl
theorem Context.stopped_pc (c : Context) : c.stopped.pc = c.pc := by unfold Context.stopped; split <;> rfl
theorem Context.stopped_epc (c : Context) : c.stopped.epc = c.epc := by unfold Context.stopped; split <;> rfl
theorem Context.stopped_cause (c : Context) : c.stopped.cause = c.cause := by unfold Context.stopped; split <;> rfl
theorem Context.stopped_tval (c : Context) : c.stopped.tval = c.tval := by unfold Context.stopped; split <;> rfl

theorem State.coreFault_cx {s : State} (code : Nat) (v : Word) (hk : s.core.k < 11) : (s.coreFault code v).cx = s.cx.stopped :=
  s.cx_modAll (fun _ => Context.stopped) hk
theorem State.coreFault_cxAt (s : State) (code : Nat) (v : Word) {k : Nat} (hk : k < 11) :
    (s.coreFault code v).cxAt s.id k = (s.cxAt s.id k).stopped := by
  let t := s.modAll s.id fun _ => Context.stopped
  have hid : t.id = s.id := (s.modAll_onlyCores s.id _).id_eq
  have h1 : (s.coreFault code v).cxAt t.id k = t.cxAt t.id k := by
    rw [State.cxAt_here, show t.id = (s.coreFault code v).id from rfl, State.cxAt_here]; rfl
  rw [← hid, h1, hid, State.cxAt_modAll, if_pos ⟨rfl, hk⟩]
theorem State.coreFault_reports (s : State) (code : Nat) (v : Word) : (s.coreFault code v).hub.reports = s.hub.reports ++ [(s.id, code, v)] :=
  congrArg (fun h : Hub => h.reports ++ [(s.id, code, v)]) (s.modAll_onlyCores s.id fun _ => Context.stopped).hub_eq

theorem trapAtSupervisorLevelHaltsCore : Claims.TrapAtSupervisorLevelHaltsCore := by
  intro s n hs hp hk
  let u := s.unbench.setCx (s.cx.saveTrap 0x0B 0 false (zext n))
  have he : exec (.trap n) s = .next (u.coreFault 0x0B (zext n)) := (exec_trap s n).trans (congrArg _ (State.trapEntry_fault hp _ _ _ _ hs))
  have hcx : (u.coreFault 0x0B (zext n)).cx = (s.cx.saveTrap 0x0B 0 false (zext n)).stopped := State.coreFault_cx (s := u) _ _ hk
  refine ⟨_, he, rfl, rfl, ?_, ?_, ?_, ?_, fun k hlt => ?_, u.coreFault_reports _ _, fun k => ?_⟩
  · rw [hcx, Context.stopped_pc]; rfl
  · rw [hcx, Context.stopped_epc]; rfl
  · rw [hcx, Context.stopped_cause]; rfl
  · rw [hcx, Context.stopped_tval]; rfl
  · have hst : (u.cxAt u.id k).st = (s.cxAt s.id k).st := by
      rw [State.cxAt_here, State.cxAt_here]
      by_cases h : k = s.core.k
      · rw [h]; exact congrArg Context.st (Core.ctx_self u.core u.cx) |>.trans (congrArg Context.st (Core.ctx_self s.core s.cx)).symm
      · rw [Core.ctx_of_ne h, Core.ctx_of_ne (show k ≠ u.core.k from h)]; rfl
    exact (congrArg Context.st (u.coreFault_cxAt _ _ hlt)).trans ((Context.stopped_st _).trans (by rw [hst]))
  · rw [(u.coreFault_same 0x0B (zext n)).mem]; rfl

/-! ## Halting a core (R46, R318) -/

/-- Dropping signals keeps contexts and everything outside the cores. -/
theorem State.dropSignal_onlyCores (s : State) (core ctx which : Nat) : s.OnlyCores (s.dropSignal core ctx which) :=
  State.OnlyCores.foldl (fun s id => s.modCore_onlyCores id _) _ s
theorem State.cxAt_dropSignal (s : State) (core ctx which id k : Nat) : (s.dropSignal core ctx which).cxAt id k = s.cxAt id k := by
  unfold State.dropSignal
  generalize s.sites = l
  induction l generalizing s with
  | nil => rfl
  | cons x l ih =>
    rw [List.foldl_cons, ih, State.cxAt_modCore]
    · exact fun _ => rfl
    · exact fun _ => rfl
/-- A core without the signals dropped. -/
theorem State.coreAt_dropSignal (s : State) (core ctx which id : Nat) :
    ∃ l, (s.dropSignal core ctx which).coreAt id = { s.coreAt id with signals := l } := by
  unfold State.dropSignal
  generalize s.sites = l
  induction l generalizing s with
  | nil => exact ⟨_, rfl⟩
  | cons x l ih =>
    obtain ⟨g, hg⟩ := ih (s.modCore x fun c => { c with signals := c.signals.filter fun g => !(g.k == which && g.core == core && g.ctx == ctx) })
    rw [List.foldl_cons, hg, State.coreAt_modCore]
    split
    next h => rw [h]; exact ⟨_, rfl⟩
    next => exact ⟨_, rfl⟩

/-- Withdrawing a PHLX arrival changes episodes and signals alone. -/
theorem State.withdrawPhlx_frame (s : State) (id : Nat) :
    ∃ l, State.OnlyCores { s with episodes := l } (s.withdrawPhlx id) := by
  unfold State.withdrawPhlx
  dsimp only
  split
  · exact ⟨s.episodes, .refl s⟩
  · exact ⟨_, State.dropSignal_onlyCores _ _ _ _⟩
theorem State.cxAt_withdrawPhlx (s : State) (id id' k : Nat) : (s.withdrawPhlx id).cxAt id' k = s.cxAt id' k := by
  unfold State.withdrawPhlx
  dsimp only
  split
  · rfl
  · rw [State.cxAt_dropSignal]; rfl
theorem State.coreAt_withdrawPhlx (s : State) (id id' : Nat) : ∃ l, (s.withdrawPhlx id).coreAt id' = { s.coreAt id' with signals := l } := by
  unfold State.withdrawPhlx
  dsimp only
  split
  · exact ⟨_, rfl⟩
  · exact State.coreAt_dropSignal _ _ _ _ _

/-- The core has an arrival at PHLX that has been committed, whose member goes on (R147). -/
def State.committedPhlx (s : State) (id : Nat) : Bool := s.episodes.any fun e => e.k == 5 && e.committed && e.arrived.any fun a => a.1 == id

/-- How a context of a core halts. -/
def State.haltOf (s : State) (id : Nat) (c : Context) : Context := if s.committedPhlx id then c.haltKeep s.cy else c.halt s.cy

theorem State.haltCore_eq (s : State) (id : Nat) : s.haltCore id =
    ((s.withdrawPhlx id).modAll id fun _ => s.haltOf id).modCore id fun c => { c with frozen := true, benched := [], haltCy := s.cy } := rfl

theorem State.cxAt_haltCore (s : State) (id id' j : Nat) :
    (s.haltCore id).cxAt id' j = if id' = id ∧ j < 11 then s.haltOf id (s.cxAt id j) else s.cxAt id' j := by
  rw [State.haltCore_eq, State.cxAt_modCore]
  · rw [State.cxAt_modAll, State.cxAt_withdrawPhlx, State.cxAt_withdrawPhlx]
  · exact fun _ => rfl
  · exact fun _ => rfl

/-- A halt changes the cores, and the episodes from which it withdraws. -/
theorem State.haltCore_frame (s : State) (id : Nat) : ∃ l, State.OnlyCores { s with episodes := l } (s.haltCore id) := by
  obtain ⟨l, h⟩ := s.withdrawPhlx_frame id
  refine ⟨l, h.trans (State.OnlyCores.trans (t := (s.withdrawPhlx id).modAll id fun _ => s.haltOf id) (State.modAll_onlyCores _ _ _) ?_)⟩
  rw [State.haltCore_eq]
  exact State.modCore_onlyCores _ _ _

/-- The core halted: frozen, nothing benched, but for the places of its contexts and its signals as it was. -/
theorem State.coreAt_haltCore (s : State) (id id' : Nat) : ∃ l p, (s.haltCore id).coreAt id' =
    if id' = id then { s.coreAt id with signals := l, parked := p, frozen := true, benched := [], haltCy := s.cy }
    else { s.coreAt id' with signals := l, parked := p } := by
  obtain ⟨l, hl⟩ := s.coreAt_withdrawPhlx id id'
  have h : ∀ f : Nat → Context → Context, ((s.withdrawPhlx id).modAll id f).coreAt id'
      = { s.coreAt id' with signals := l, parked := (((s.withdrawPhlx id).modAll id f).coreAt id').parked } := fun f => by
    rw [(s.withdrawPhlx id).coreAt_modAll id f id', hl]
  rw [State.haltCore_eq, State.coreAt_modCore]
  by_cases hid : id' = id
  · subst hid
    rw [if_pos rfl, h]
    exact ⟨l, _, (if_pos rfl).symm⟩
  · rw [if_neg hid, h]
    exact ⟨l, _, (if_neg hid).symm⟩

/-- A halted context keeps its registers and its PC. -/
theorem Context.haltKeep_g (c : Context) (n : Nat) : (c.haltKeep n).g = c.g := by unfold Context.haltKeep; split <;> rfl
theorem Context.haltKeep_pc (c : Context) (n : Nat) : (c.haltKeep n).pc = c.pc := by unfold Context.haltKeep; split <;> rfl
theorem Context.haltKeep_st (c : Context) (n : Nat) : (c.haltKeep n).st = if c.st.live then .halted else c.st := by unfold Context.haltKeep; split <;> rfl
theorem Context.halt_g (c : Context) (n : Nat) : (c.halt n).g = c.g := by
  unfold Context.halt; split
  · exact c.haltKeep_g n
  · exact c.haltKeep_g n
theorem Context.halt_pc (c : Context) (n : Nat) : (c.halt n).pc = c.pc := by
  unfold Context.halt; split
  · exact c.haltKeep_pc n
  · exact c.haltKeep_pc n
theorem Context.halt_st (c : Context) (n : Nat) : (c.halt n).st = if c.st.live then .halted else c.st := by
  unfold Context.halt; split
  · exact c.haltKeep_st n
  · exact c.haltKeep_st n
theorem State.haltOf_g (s : State) (id : Nat) (c : Context) : (s.haltOf id c).g = c.g := by
  unfold State.haltOf; split
  · exact c.haltKeep_g _
  · exact c.halt_g _
theorem State.haltOf_pc (s : State) (id : Nat) (c : Context) : (s.haltOf id c).pc = c.pc := by
  unfold State.haltOf; split
  · exact c.haltKeep_pc _
  · exact c.halt_pc _
theorem State.haltOf_st (s : State) (id : Nat) (c : Context) : (s.haltOf id c).st = if c.st.live then .halted else c.st := by
  unfold State.haltOf; split
  · exact c.haltKeep_st _
  · exact c.halt_st _

/-! ## A halt by the debugger (R46, R252) -/

/-- A core whose control context is in no domain above core level halts alone. -/
theorem State.domainCores_alone {s : State} {id : Nat} (h : bits (s.cxAt id 0).domain 2 0 < 2) : s.domainCores id = [id] := by
  have hd : s.domainOf id (s.cxAt id 0) = none := by
    unfold State.domainOf
    split
    · rw [if_neg (Nat.not_le.mpr h)]
    · rfl
  simp [State.domainCores, hd]

/-- The core `id` halted by the debugger. -/
def State.debugged (s : State) (id : Nat) : State :=
  ((s.haltCore id).modAll id fun _ c => { c with budget := none }).modCore id fun c => { c with debugged := true }

theorem State.debugHalt_alone {s : State} {id : Nat} (h : bits (s.cxAt id 0).domain 2 0 < 2) : s.debugHalt id = s.debugged id := by
  unfold State.debugHalt; rw [State.domainCores_alone h]; rfl

theorem State.debugged_frame (s : State) (id : Nat) : ∃ l, State.OnlyCores { s with episodes := l } (s.debugged id) := by
  obtain ⟨l, h⟩ := s.haltCore_frame id
  exact ⟨l, h.trans ((State.modAll_onlyCores _ _ _).trans (State.modCore_onlyCores _ _ _))⟩

theorem State.cxAt_debugged (s : State) (id j : Nat) (hj : j < 11) : (s.debugged id).cxAt id j = { s.haltOf id (s.cxAt id j) with budget := none } := by
  unfold State.debugged
  rw [State.cxAt_modCore]
  · rw [State.cxAt_modAll, if_pos ⟨rfl, hj⟩, State.cxAt_haltCore, if_pos ⟨rfl, hj⟩]
  · exact fun _ => rfl
  · exact fun _ => rfl

theorem State.coreAt_debugged (s : State) (id : Nat) :
    ∃ l p, (s.debugged id).coreAt id = { s.coreAt id with signals := l, parked := p, frozen := true, benched := [], haltCy := s.cy, debugged := true } := by
  obtain ⟨l, p, h⟩ := s.coreAt_haltCore id id
  rw [if_pos rfl] at h
  unfold State.debugged
  rw [State.coreAt_modCore, if_pos rfl, (s.haltCore id).coreAt_modAll id _ id, h]
  exact ⟨l, _, rfl⟩

theorem exec_brk (s : State) (n : BitVec 24) : exec (.brk n) s = execBrk n s := rfl

theorem breakInstruction : Claims.BreakInstruction := by
  intro s n
  refine ⟨fun hb ha => ?_, fun hb ha hk hst hd _ => ?_, fun hb => ?_⟩
  · rw [trapsWith, exec_brk, execBrk, hb, ha]; rfl
  · let u := s.setCx { s.cx with passBrk := true }
    have huid : u.id = s.id := rfl
    have hcx0 : ∀ k, (u.cxAt u.id k).domain = (s.cxAt s.id k).domain ∧ (u.cxAt u.id k).st = (s.cxAt s.id k).st := fun k => by
      rw [State.cxAt_here, State.cxAt_here]
      by_cases h : k = s.core.k
      · rw [h, show s.core.k = u.core.k from rfl, Core.ctx_self, show u.core.k = s.core.k from rfl, Core.ctx_self]; exact ⟨rfl, rfl⟩
      · rw [Core.ctx_of_ne h, Core.ctx_of_ne (show k ≠ u.core.k from h)]; exact ⟨rfl, rfl⟩
    have hdom : bits (u.cxAt u.id 0).domain 2 0 < 2 := by
      rw [(hcx0 0).1, State.cxAt_here, show s.core.ctx s.cx 0 = s.cx from if_pos hk.symm]; exact hd
    have he : exec (.brk n) s = .next { u.debugged u.id with hub := { (u.debugged u.id).hub with
        reports := (u.debugged u.id).hub.reports ++ [(s.id, 0x0A, zext n)], selected := (s.id, s.core.k) } } := by
      rw [exec_brk, execBrk, hb, ha, ← State.debugHalt_alone hdom]; rfl
    obtain ⟨eps, hfr⟩ := u.debugged_frame u.id
    obtain ⟨sg, pk, hcore⟩ := u.coreAt_debugged u.id
    have hid : (u.debugged u.id).id = u.id := hfr.id_eq
    have hc : (u.debugged u.id).core = { u.core with signals := sg, parked := pk, frozen := true, benched := [], haltCy := u.cy, debugged := true } := by
      rw [State.core_of_coreAt hid, hcore, State.coreAt_here]
    have hx : (u.debugged u.id).cx = { u.haltOf u.id u.cx with budget := none } := by
      have hk0 : (u.debugged u.id).core.k = 0 := (congrArg Core.k hc).trans hk
      rw [State.cx_of_cxAt hid hk0, u.cxAt_debugged u.id 0 (by decide), State.cxAt_here, show u.core.ctx u.cx 0 = u.cx from if_pos hk.symm]
    refine ⟨_, he, ?_, ?_, ?_, ?_, fun k hlt hlive => ?_, ?_, fun r => ?_, fun a => ?_⟩
    · exact congrArg Core.debugged hc
    · exact congrArg Core.frozen hc
    · refine (congrArg Context.st hx).trans ((u.haltOf_st u.id u.cx).trans (if_pos ?_))
      rw [show u.cx.st = s.cx.st from rfl, hst]; rfl
    · exact (congrArg Context.pc hx).trans (u.haltOf_pc u.id u.cx)
    · have hv : ∀ (t : State) (h : Hub) (i : Nat), State.cxAt { t with hub := h } i k = t.cxAt i k := fun _ _ _ => rfl
      rw [hv, show s.id = u.id from rfl, u.cxAt_debugged u.id k hlt]
      exact (u.haltOf_st u.id _).trans (if_pos (by rw [(hcx0 k).2]; exact hlive))
    · exact congrArg (fun h : Hub => h.reports ++ [(s.id, 0x0A, zext n)]) hfr.hub_eq
    · exact State.g_congr (s := { u.debugged u.id with hub := _ }) (t := s) ((congrArg Context.g hx).trans (u.haltOf_g u.id u.cx)) r
    · exact congrArg (Memory.get · a) hfr.mem_eq
  · have he : exec (.brk n) s = .next ((s.setCx { s.cx with passBrk := false }).retire (.brk n)) := by rw [exec_brk, execBrk, hb]; rfl
    exact ⟨_, he, State.readyAt_retire s _ _ rfl rfl, fun _ => rfl, State.regsOnly_retire_self (s.setCx { s.cx with passBrk := false }) _⟩

/-- Settles O11: TRAP enters a handler or, at supervisor level, halts the core; BRK is a trap, a halt of the core, or passed. -/
theorem trapEntryAndBreak : Obligations.TrapEntryAndBreak := ⟨trapEntrySequence, trapAtSupervisorLevelHaltsCore, breakInstruction⟩

end Sys2Proof.Machine
end

section
/-!
PROOFS. The register forms of OP 0x00 (R102, R103).
-/
namespace Sys2Proof.Machine
open Sys2Proof

/-! ## Values (R103) -/

theorem add_eq_ofNat (x y : Word) : x + y = BitVec.ofNat 64 (x.toNat + y.toNat) := by
  apply BitVec.eq_of_toNat_eq; rw [BitVec.toNat_add, BitVec.toNat_ofNat]

theorem sub_eq_ofInt (x y : Word) : x - y = BitVec.ofInt 64 ((x.toNat : Int) - y.toNat) := by
  apply BitVec.eq_of_toNat_eq
  have hx := x.isLt
  have hy := y.isLt
  rw [BitVec.toNat_sub, BitVec.toNat_ofInt]
  omega

/-- The two parts of a rotation meet nowhere. -/
theorem rotate_parts (x : Word) {n m : Nat} (h : n + m = 64) : (x <<< n ||| x >>> m) = BitVec.ofNat 64 (x.toNat % 2 ^ m * 2 ^ n + x.toNat / 2 ^ m) := by
  have hx := x.isLt
  have hlow : x.toNat / 2 ^ m < 2 ^ n := by
    rw [Nat.div_lt_iff_lt_mul (Nat.two_pow_pos m), ← Nat.pow_add, h]; exact hx
  have hhigh : x.toNat * 2 ^ n % 2 ^ 64 = x.toNat % 2 ^ m * 2 ^ n := by
    have hpow : (2 : Nat) ^ 64 = 2 ^ m * 2 ^ n := by rw [← Nat.pow_add, Nat.add_comm m n, h]
    rw [hpow, Nat.mul_mod_mul_right]
  have hsum : x.toNat % 2 ^ m * 2 ^ n + x.toNat / 2 ^ m < 2 ^ 64 := by
    have h1 : (x.toNat % 2 ^ m + 1) * 2 ^ n ≤ 2 ^ m * 2 ^ n := Nat.mul_le_mul_right _ (Nat.mod_lt _ (Nat.two_pow_pos m))
    rw [← Nat.pow_add, Nat.add_comm m n, h, Nat.add_mul, Nat.one_mul] at h1
    omega
  apply BitVec.eq_of_toNat_eq
  rw [BitVec.toNat_or, BitVec.toNat_shiftLeft, BitVec.toNat_ushiftRight, Nat.shiftLeft_eq, Nat.shiftRight_eq_div_pow, hhigh, BitVec.toNat_ofNat,
    Nat.mod_eq_of_lt hsum, ← Nat.shiftLeft_eq, Nat.shiftLeft_add_eq_or_of_lt hlow]

theorem rotateLeft_eq_ofNat (x y : Word) :
    x.rotateLeft (shAmt y) = BitVec.ofNat 64 (x.toNat % 2 ^ (64 - shiftOf y) * 2 ^ shiftOf y + x.toNat / 2 ^ (64 - shiftOf y)) := by
  have hlt : shiftOf y < 64 := Nat.mod_lt _ (by decide)
  have h : x.rotateLeft (shAmt y) = (x <<< shiftOf y ||| x >>> (64 - shiftOf y)) := by
    rw [BitVec.rotateLeft_def, show shAmt y = shiftOf y from rfl, Nat.mod_eq_of_lt hlt]
  rw [h, rotate_parts x (by omega)]

theorem rotateRight_eq_ofNat (x y : Word) :
    x.rotateRight (shAmt y) = BitVec.ofNat 64 (x.toNat % 2 ^ shiftOf y * 2 ^ (64 - shiftOf y) + x.toNat / 2 ^ shiftOf y) := by
  have hlt : shiftOf y < 64 := Nat.mod_lt _ (by decide)
  have h : x.rotateRight (shAmt y) = (x <<< (64 - shiftOf y) ||| x >>> shiftOf y) := by
    rw [BitVec.rotateRight_def, show shAmt y = shiftOf y from rfl, Nat.mod_eq_of_lt hlt, BitVec.or_comm]
  rw [h, rotate_parts x (by omega)]

/-- The smaller of two words, where equal ones are the same word. -/
theorem min_slt (x y : Word) : (if x.slt y then x else y) = if x.toInt ≤ y.toInt then x else y := by
  rw [BitVec.slt_eq_decide]
  rcases Int.lt_trichotomy x.toInt y.toInt with h | h | h
  · simp [h, Int.le_of_lt h]
  · rw [BitVec.eq_of_toInt_eq h]; simp
  · simp [Int.not_lt.mpr (Int.le_of_lt h), Int.not_le.mpr h]
theorem max_slt (x y : Word) : (if x.slt y then y else x) = if x.toInt ≤ y.toInt then y else x := by
  rw [BitVec.slt_eq_decide]
  rcases Int.lt_trichotomy x.toInt y.toInt with h | h | h
  · simp [h, Int.le_of_lt h]
  · rw [BitVec.eq_of_toInt_eq h]; simp
  · simp [Int.not_lt.mpr (Int.le_of_lt h), Int.not_le.mpr h]
theorem min_ult (x y : Word) : (if x.ult y then x else y) = if x.toNat ≤ y.toNat then x else y := by
  rw [BitVec.ult_eq_decide]
  rcases Nat.lt_trichotomy x.toNat y.toNat with h | h | h
  · simp [h, Nat.le_of_lt h]
  · rw [BitVec.eq_of_toNat_eq h]; simp
  · simp [Nat.not_lt.mpr (Nat.le_of_lt h), Nat.not_le.mpr h]
theorem max_ult (x y : Word) : (if x.ult y then y else x) = if x.toNat ≤ y.toNat then y else x := by
  rw [BitVec.ult_eq_decide]
  rcases Nat.lt_trichotomy x.toNat y.toNat with h | h | h
  · simp [h, Nat.le_of_lt h]
  · rw [BitVec.eq_of_toNat_eq h]; simp
  · simp [Nat.not_lt.mpr (Nat.le_of_lt h), Nat.not_le.mpr h]

/-- Each part: the instruction's meaning, and its value as R103 writes it. -/
theorem registerArithmeticResults : Claims.RegisterArithmeticResults := fun _ _ _ _ =>
  ⟨completesG_of_doneG_eq rfl (add_eq_ofNat ..), completesG_of_doneG_eq rfl (sub_eq_ofInt ..), completesG_of_doneG_eq rfl rfl,
    completesG_of_doneG_eq rfl rfl, completesG_of_doneG_eq rfl rfl, completesG_of_doneG_eq rfl rfl,
    completesG_of_doneG_eq rfl (shiftLeft_eq_ofNat ..), completesG_of_doneG_eq rfl (ushiftRight_eq_ofNat ..),
    completesG_of_doneG_eq rfl (sshiftRight_eq_ofInt ..), completesG_of_doneG_eq rfl (rotateLeft_eq_ofNat ..),
    completesG_of_doneG_eq rfl (rotateRight_eq_ofNat ..), completesG_of_doneG_eq rfl (min_slt ..), completesG_of_doneG_eq rfl (max_slt ..),
    completesG_of_doneG_eq rfl (min_ult ..), completesG_of_doneG_eq rfl (max_ult ..),
    completesG_of_doneG_eq rfl (by simp only [BitVec.slt_eq_decide, decide_eq_true_eq]),
    completesG_of_doneG_eq rfl (by simp only [BitVec.ult_eq_decide, decide_eq_true_eq])⟩

/-! ## Clamping (R102) -/

/-- A clamped number, and whether it has been clamped. -/
theorem clampS_eq (x : Int) :
    clampS 64 x = (BitVec.ofInt 64 (max (-(2 ^ 63)) (min (2 ^ 63 - 1) x)), !decide (-(2 ^ 63) ≤ x ∧ x ≤ 2 ^ 63 - 1)) := by
  have hb : ((2 ^ (64 - 1) : Nat) : Int) = 2 ^ 63 := rfl
  simp only [clampS, hb]
  split
  next h => rw [Int.max_eq_left (by omega), decide_eq_false (by omega)]; rfl
  next h =>
    split
    next h2 => rw [Int.min_eq_left (by omega), Int.max_eq_right (by omega), decide_eq_false (by omega)]; rfl
    next h2 => rw [Int.min_eq_right (by omega), Int.max_eq_right (by omega), decide_eq_true (by omega)]; rfl

theorem clampZ_eq (x : Int) : clampZ 64 x = (BitVec.ofInt 64 (max 0 (min (2 ^ 64 - 1) x)), !decide (0 ≤ x ∧ x ≤ 2 ^ 64 - 1)) := by
  have hb : ((2 ^ 64 : Nat) : Int) = 2 ^ 64 := rfl
  simp only [clampZ, hb]
  split
  next h => rw [Int.max_eq_left (by omega), decide_eq_false (by omega)]; rfl
  next h =>
    split
    next h2 => rw [Int.min_eq_left (by omega), Int.max_eq_right (by omega), decide_eq_false (by omega)]; rfl
    next h2 => rw [Int.min_eq_right (by omega), Int.max_eq_right (by omega), decide_eq_true (by omega)]; rfl

/-! ## SV and FPEXC (R21, R170) -/

theorem sat_bits : Fl.saturated.bits = 0x20 := rfl
theorem none_bits : Fl.none.bits = 0 := rfl

/-- The word of one bit, cut with another word. -/
theorem bit5_and (w : Word) : (0x20 : Word) &&& w = if bit w 5 then 0x20 else 0 := by
  apply BitVec.eq_of_getLsbD_eq
  intro i hi
  have h20 : (0x20 : Word).getLsbD i = decide (i = 5) := bit_shiftLeft_one 5 hi
  rw [BitVec.getLsbD_and, h20]
  by_cases h5 : i = 5
  · subst h5
    cases hb : bit w 5
    · rw [show w.getLsbD 5 = false from hb]; rfl
    · rw [show w.getLsbD 5 = true from hb]; rfl
  · rw [decide_eq_false h5, Bool.false_and]
    split
    · rw [h20, decide_eq_false h5]
    · exact BitVec.getLsbD_zero.symm

/-- SV is newly set where it was not set. -/
theorem Context.newFlags_sat (c : Context) : c.newFlags Fl.saturated = if bit c.fflags 5 then 0 else 0x20 := by
  rw [Context.newFlags, sat_bits, bit5_and]
  have h : bit (~~~c.fflags) 5 = !bit c.fflags 5 := by rw [bit, BitVec.getLsbD_not]; rfl
  rw [h]
  cases bit c.fflags 5 <;> rfl

/-- The enable bit of SV among the enable bits. -/
theorem bit5_enables (w : Word) : bit (word (bits w 10 5)) 5 = bit w 10 := by
  rw [word, bits, bit, BitVec.getLsbD_ofNat, Nat.testBit_mod_two_pow, Nat.testBit_shiftRight]
  rfl

/-- SV raises FPEXC where it is newly set and enabled. -/
theorem Context.sat_raises (c : Context) :
    c.newFlags Fl.saturated &&& word (bits c.arith 10 5) = if bit c.fflags 5 = false ∧ bit c.arith 10 = true then 0x20 else 0 := by
  rw [c.newFlags_sat]
  cases h : bit c.fflags 5
  · rw [if_neg Bool.false_ne_true, bit5_and, bit5_enables]
    cases bit c.arith 10 <;> simp
  · simp

section
variable {s : State} {i : Instr} {d : GReg} {v : Word}

/-- A saturating form that raises no FPEXC ends with its value and SV merged when it clamped. -/
theorem State.finishFl_sat_quiet (hq : bit s.cx.fflags 5 = true ∨ bit s.cx.arith 10 = false) (c : Bool) :
    (s.setG d v).finishFl i (Fl.clamp c) = .next (((s.setG d v).setCx ((s.setG d v).cx.addFlags (Fl.clamp c))).retire i) := by
  cases c
  · rw [show Fl.clamp false = Fl.none from rfl, State.finishFl_none, State.done]
    congr 1
    have : (s.setG d v).cx.addFlags Fl.none = (s.setG d v).cx :=
      congrArg (fun w => { (s.setG d v).cx with fflags := w }) BitVec.or_zero
    rw [this, State.setCx_self]
  · have hz : (s.setG d v).cx.newFlags Fl.saturated &&& word (bits (s.setG d v).cx.arith 10 5) = 0 := by
      rw [Context.sat_raises]
      simp only [State.setG_cx, Context.putG_fflags, Context.putG_arith]
      rcases hq with h | h <;> simp [h]
    rcases (s.setG d v).finishFl_cases i Fl.saturated with ⟨-, h⟩ | ⟨h, -⟩
    · exact h
    · exact absurd hz h

/-- One that newly sets SV while it is enabled raises FPEXC behind its result. -/
theorem State.finishFl_sat_raises (h5 : bit s.cx.fflags 5 = false) (ha : bit s.cx.arith 10 = true) :
    (s.setG d v).finishFl i Fl.saturated = ((s.setG d v).setCx ((s.setG d v).cx.addFlags Fl.saturated)).trap 0x15 0x20 := by
  have hn : (s.setG d v).cx.newFlags Fl.saturated = 0x20 := by
    rw [Context.newFlags_sat, State.setG_cx, Context.putG_fflags, h5]; rfl
  have hz : (s.setG d v).cx.newFlags Fl.saturated &&& word (bits (s.setG d v).cx.arith 10 5) = 0x20 := by
    rw [Context.sat_raises, State.setG_cx, Context.putG_fflags, Context.putG_arith, if_pos ⟨h5, ha⟩]
  rcases (s.setG d v).finishFl_cases i Fl.saturated with ⟨h, -⟩ | ⟨-, h⟩
  · rw [hz] at h; exact absurd h (by decide)
  · rw [h, hn]
end

theorem State.g_setG_same (s : State) (d : GReg) (v : Word) : (s.setG d v).g d = if d = 0 then 0 else v := by rw [State.g_setG]; simp
theorem State.g_setG_other (s : State) {d r : GReg} (v : Word) (h : r ≠ d) : (s.setG d v).g r = s.g r := by
  rw [State.g_setG, if_neg h]
  split
  next h0 => rw [h0, State.g_zero]
  next => rfl

theorem Context.addFlags_putG (c : Context) (d : GReg) (v : Word) (f : Fl) : (c.putG d v).addFlags f = (c.addFlags f).putG d v := by
  unfold Context.putG; split <;> rfl

/-- A write and an end with flags, as an end of the instruction with its flags merged first. -/
theorem State.setG_addFlags_retire (s : State) (d : GReg) (v : Word) (f : Fl) (i : Instr) :
    ((s.setG d v).setCx ((s.setG d v).cx.addFlags f)).retire i = (s.setCx (s.cx.addFlags f)).setCx (((s.cx.addFlags f).putG d v).retire (s.after i)) := by
  have hpc : ((s.cx.addFlags f).putG d v).next i.size = s.after i := by rw [Context.next, Context.putG_pc]; rfl
  rw [State.retire, State.setG_cx, Context.addFlags_putG, State.setCx_cx, hpc]
  rfl

/-- A form whose meaning is a clamped value with SV, ending quietly. -/
theorem completesSat_of_clamp {i : Instr} {s : State} {d : GReg} {x lo hi : Int}
    (h : exec i s = (s.setG d (BitVec.ofInt 64 (max lo (min hi x)))).finishFl i (Fl.clamp (!decide (lo ≤ x ∧ x ≤ hi))))
    (hq : bit s.cx.fflags 5 = true ∨ bit s.cx.arith 10 = false) : completesSat i s d x lo hi := by
  generalize hf : Fl.clamp (!decide (lo ≤ x ∧ x ≤ hi)) = f at h
  rw [← hf, State.finishFl_sat_quiet hq, hf, State.setG_addFlags_retire] at h
  have hfl : s.cx.fflags ||| f.bits = if lo ≤ x ∧ x ≤ hi then s.cx.fflags else s.cx.fflags ||| 0x20 := by
    rw [← hf]
    by_cases hx : lo ≤ x ∧ x ≤ hi
    · rw [if_pos hx, decide_eq_true hx]; exact BitVec.or_zero
    · rw [if_neg hx, decide_eq_false hx]; rfl
  have hcx : (((s.cx.addFlags f).putG d (BitVec.ofInt 64 (max lo (min hi x)))).retire (s.after i)).fflags = s.cx.fflags ||| f.bits := by
    rw [Context.retire_fflags, Context.putG_fflags, Context.addFlags_fflags]
  refine ⟨_, h, State.g_setG_same (s.setCx (s.cx.addFlags f)) .., fun r hr => State.g_setG_other (s.setCx (s.cx.addFlags f)) _ hr, hcx.trans hfl,
    State.readyAt_retire s _ _ (Context.putG_inPhlx ..) (Context.putG_pos ..), ?_⟩
  have hs : s.setCx { s.cx with fflags := s.cx.fflags ||| f.bits } = s.setCx (s.cx.addFlags f) := rfl
  rw [State.setCx_cx, hcx, hs]
  exact State.regsOnly_retire (s.setCx (s.cx.addFlags f)) d _ _

theorem saturatingFormsClamp : Claims.SaturatingFormsClamp := by
  intro s d a b hq
  refine ⟨completesSat_of_clamp ?_ hq, completesSat_of_clamp ?_ hq, completesSat_of_clamp ?_ hq, completesSat_of_clamp ?_ hq⟩
  · rw [show exec (.addSat d a b) s = execAddSat d a b s from rfl, execAddSat, clampS_eq]
  · rw [show exec (.addZSat d a b) s = execAddZSat d a b s from rfl, execAddZSat, clampZ_eq]
  · rw [show exec (.subSat d a b) s = execSubSat d a b s from rfl, execSubSat, clampS_eq]
  · rw [show exec (.subZSat d a b) s = execSubZSat d a b s from rfl, execSubZSat, clampZ_eq]

/-- A form whose meaning is a clamped value with SV, where SV is not set and raises FPEXC. -/
theorem clampTraps_of_clamp {i : Instr} {s : State} {d : GReg} {x lo hi : Int}
    (h : exec i s = (s.setG d (BitVec.ofInt 64 (max lo (min hi x)))).finishFl i (Fl.clamp (!decide (lo ≤ x ∧ x ≤ hi))))
    (h5 : bit s.cx.fflags 5 = false) (ha : bit s.cx.arith 10 = true) (hu : s.cx.super = false) (hp : s.cx.inPhlx = false)
    (ht : s.cx.inTrap = false) (hd : bit s.cx.trapdeleg 0x15 = true) : clampTraps i s d x lo hi := by
  intro hx
  rw [decide_eq_false (show ¬ (lo ≤ x ∧ x ≤ hi) by omega), show Fl.clamp (!false) = Fl.saturated from rfl, State.finishFl_sat_raises h5 ha] at h
  generalize hv : BitVec.ofInt 64 (max lo (min hi x)) = v at h
  have hc : (s.setG d v).cx.addFlags Fl.saturated = (s.cx.addFlags Fl.saturated).putG d v := Context.addFlags_putG ..
  rw [hc, State.trap] at h
  let c := (s.cx.addFlags Fl.saturated).putG d v
  have hst : c.status = s.cx.status := Context.putG_status ..
  have hdel : c.delegates 0x15 = true := by
    rw [Context.delegates, show c.trapdeleg = s.cx.trapdeleg from Context.putG_trapdeleg .., hd]; rfl
  rw [State.trapEntry_user (s := (s.setG d v).setCx c) (by rw [State.setCx_cx, Context.inPhlx, hst]; exact hp) _ _ _ _
    (by rw [State.setCx_cx, Context.super, hst]; exact hu) hdel (by rw [State.setCx_cx, Context.inTrap, hst]; exact ht)] at h
  refine ⟨_, h, State.g_setG_same (s.setCx (s.cx.addFlags Fl.saturated)) .., ?_, ?_, rfl, rfl, ?_, ?_,
    fun r hr => State.g_setG_other (s.setCx (s.cx.addFlags Fl.saturated)) _ hr, fun _ => rfl⟩
  · exact Context.putG_fflags (s.cx.addFlags Fl.saturated) d v
  · exact congrArg zext (Context.putG_pc (s.cx.addFlags Fl.saturated) d v)
  · exact bit_setBit _ 2 true (by decide)
  · exact congrArg (fun w : Word => BitVec.ofNat 15 (bits w 14 2 * 4)) (Context.putG_trapvec (s.cx.addFlags Fl.saturated) d v)

/-- One that does not clamp sets no flag. -/
theorem completesG_of_unclamped {i : Instr} {s : State} {d : GReg} {x lo hi : Int}
    (h : exec i s = (s.setG d (BitVec.ofInt 64 (max lo (min hi x)))).finishFl i (Fl.clamp (!decide (lo ≤ x ∧ x ≤ hi)))) (hl : lo ≤ x) (hh : x ≤ hi) :
    completesG i s d (BitVec.ofInt 64 x) := by
  rw [decide_eq_true (And.intro hl hh), show Fl.clamp (!true) = Fl.none from rfl, State.finishFl_none, Int.min_eq_right hh, Int.max_eq_right hl] at h
  exact completesG_of_doneG i s d _ h

theorem saturationTrapsWhenEnabled : Claims.SaturationTrapsWhenEnabled := by
  intro s d a b h5 ha all
  have e1 : exec (.addSat d a b) s = _ := (show exec (.addSat d a b) s = execAddSat d a b s from rfl).trans (by rw [execAddSat, clampS_eq])
  have e2 : exec (.addZSat d a b) s = _ := (show exec (.addZSat d a b) s = execAddZSat d a b s from rfl).trans (by rw [execAddZSat, clampZ_eq])
  have e3 : exec (.subSat d a b) s = _ := (show exec (.subSat d a b) s = execSubSat d a b s from rfl).trans (by rw [execSubSat, clampS_eq])
  have e4 : exec (.subZSat d a b) s = _ := (show exec (.subZSat d a b) s = execSubZSat d a b s from rfl).trans (by rw [execSubZSat, clampZ_eq])
  refine ⟨fun hu hp ht hd => ?_, ?_⟩
  · exact ⟨clampTraps_of_clamp e1 h5 ha hu hp ht hd, clampTraps_of_clamp e2 h5 ha hu hp ht hd, clampTraps_of_clamp e3 h5 ha hu hp ht hd,
      clampTraps_of_clamp e4 h5 ha hu hp ht hd⟩
  · exact ⟨completesG_of_unclamped e1, completesG_of_unclamped e2, completesG_of_unclamped e3, completesG_of_unclamped e4⟩

/-! ## Encodings (R103) -/

/-- An F6 of 17 or more is no opcode of OP 0x00. -/
theorem decode_alu_unknown (d a b : GReg) {f6 f3 : Nat} (h : 17 ≤ f6) (hlt : f6 < 64) : decode [tForm 0x00 f6 f3 d a b] = .error .unknownOpcode := by
  let t : TF := ⟨BitVec.ofNat 6 0x00, d, a, b, BitVec.ofNat 3 f3, BitVec.ofNat 6 f6⟩
  have hk : opcodeKnown t.pack = false := by
    have hf : (BitVec.ofNat 6 f6).toNat = f6 := by rw [BitVec.toNat_ofNat, Nat.mod_eq_of_lt hlt]
    rw [t.opcodeKnown_pack, show t.f6.toNat = f6 from hf]
    exact decide_eq_false (by omega)
  have hL : parcelL t.pack = 0 := t.parcelL_pack
  have hdec : decode [t.pack] = .error .unknownOpcode := by simp [decode, decodeAfter, hL, hk]
  exact hdec

/-- An assigned F6 with an F3 it does not have. -/
theorem decode_alu_bad (d a b : GReg) {f6 f3 : Nat} (h : f6 ≤ 16) (h3 : f3 < 8) (hbad : (f6 ≤ 1 → 3 ≤ f3) ∧ 1 ≤ f3) :
    decode [tForm 0x00 f6 f3 d a b] = .error .fieldsBad := by
  let t : TF := ⟨BitVec.ofNat 6 0x00, d, a, b, BitVec.ofNat 3 f3, BitVec.ofNat 6 f6⟩
  have hf6 : t.f6.toNat = f6 := by rw [show t.f6.toNat = f6 % 2 ^ 6 from BitVec.toNat_ofNat .., Nat.mod_eq_of_lt (by omega)]
  have hf3 : t.f3.toNat = f3 := by rw [show t.f3.toNat = f3 % 2 ^ 3 from BitVec.toNat_ofNat .., Nat.mod_eq_of_lt (by omega)]
  have hk : known32 t.op.toNat t.f6.toNat = true := by rw [hf6]; exact decide_eq_true h
  have hnone : decode32 none t = none := by
    rw [show decode32 none t = decodeAlu t from rfl]
    unfold decodeAlu
    rw [hf6, hf3]
    split <;> first | rfl | omega
  have hdec := decode_pack t hk
  rw [hnone] at hdec
  exact hdec

theorem registerFormsEncode : Claims.RegisterFormsEncode := by
  intro d a b
  refine ⟨fun h => decode_tForm rfl ?_, decode_tForm rfl rfl, decode_tForm rfl rfl, decode_tForm rfl rfl, decode_tForm rfl rfl, decode_tForm rfl rfl,
    decode_tForm rfl rfl, decode_tForm rfl rfl, decode_tForm rfl rfl, decode_tForm rfl rfl, decode_tForm rfl rfl, decode_tForm rfl rfl,
    decode_tForm rfl rfl, decode_tForm rfl rfl, decode_tForm rfl rfl, decode_tForm rfl rfl, decode_tForm rfl rfl, decode_tForm rfl rfl,
    decode_tForm rfl rfl, decode_tForm rfl rfl, decode_tForm rfl rfl, fun f6 f3 h hlt _ => decode_alu_unknown d a b h hlt,
    fun f6 f3 h h3 hlt => decode_alu_bad d a b (by omega) hlt ⟨fun _ => h3, by omega⟩,
    fun f6 f3 h h16 h3 hlt => decode_alu_bad d a b h16 hlt ⟨fun h1 => by omega, h3⟩⟩
  have hform : decode32 none ⟨BitVec.ofNat 6 0, d, a, b, BitVec.ofNat 3 0, BitVec.ofNat 6 0⟩
      = if d == 0 && a == 0 && b == 0 then some .nop else some (.add d a b) := rfl
  rw [hform, if_neg]
  simp only [Bool.and_eq_true, beq_iff_eq, not_and]
  rintro ⟨hd, ha⟩ hb
  rcases h with h | h | h
  · exact h hd
  · exact h ha
  · exact h hb

/-- Settles O2: the values of R103 for the forms that do not clamp, the clamp with SV and FPEXC for those that do, and F6 and F3 of each. -/
theorem registerFormsComputeTheirResults : Obligations.RegisterFormsComputeTheirResults :=
  ⟨registerArithmeticResults, saturatingFormsClamp, saturationTrapsWhenEnabled, registerFormsEncode⟩

end Sys2Proof.Machine
end

section
/-!
PROOFS. Refutations of O13, O18, O23 and O26. Their statements take "every byte stands in the core's own buffers" for "the access can be
forwarded"; the model, as R265 has it, forwards nothing while an FLD of the context to a word of the access is unanswered.
-/
namespace Sys2Proof.Machine
open Sys2Proof

/-- How the context in view stands after a step. -/
def runAfter (r : Result) : Option Run :=
  match r with
  | .next t => some t.cx.st
  | _ => none

theorem runAfter_next (t : State) : runAfter (.next t) = some t.cx.st := rfl

/-- The word of the own SRAM at 0x5000, with its address. -/
def fldKey : Nat := sramKey 0 0x5000
def fldVa : Word := 0xF000000005000

/-- The control context of core 0, its FLD to that word unanswered. -/
def fldCx : Context :=
  { Context.reset 0 with
    st := .ready, pc := 0x800, g := ((Vector.replicate 32 0).set 2 fldVa).set 5 fldVa,
    tickets := [⟨0, 0, false, false, none, fldKey, fldVa, none, 1⟩] }

/-- Behind the FLD the context has stored to the word; the store stands in the core's buffer. -/
def fldOpen : State :=
  { State.reset with
    cx := fldCx, cy := 100, seq := 3,
    core := { State.reset.core with sbuf := [⟨2, .ctx 0 0, .core 0, .w, true, 1, 1, fldVa, .store fldKey 8 16, false⟩] } }

/-- Refutes O13: RET waits when the return address stands in the core's own buffer behind an unanswered FLD to it. -/
theorem not_callsAndReturns : ¬ Obligations.CallsAndReturns := by
  rintro ⟨-, -, h⟩
  obtain ⟨hret, -⟩ := h fldOpen (by decide +kernel) (by decide +kernel) (by decide +kernel) (by decide +kernel) (by decide +kernel)
    (by decide +kernel) (by decide +kernel)
  obtain ⟨t, ht, -, -, hr, -⟩ := hret (by decide +kernel) (by decide +kernel) (by decide +kernel)
  obtain ⟨-, hst, -⟩ := hr
  have hw : runAfter (exec .ret fldOpen) = some (.waiting .reply) := by decide +kernel
  rw [ht, runAfter_next, hst] at hw
  exact absurd hw (by decide)

/-- Refutes O18: LD waits when its word stands in the core's own buffer behind an unanswered FLD to it. -/
theorem not_loadsReadOrWait : ¬ Obligations.LoadsReadOrWait := by
  rintro ⟨h, -⟩
  obtain ⟨hld, -⟩ := h fldOpen none .d 6 5 0 ⟨2, 4, 0, 1, false⟩ (by decide +kernel) (by decide +kernel) (by decide +kernel)
  obtain ⟨t, ht, hr, -⟩ := hld (by decide +kernel) (by decide +kernel) (by decide +kernel)
  obtain ⟨-, hst, -⟩ := hr.ready
  have hw : runAfter (exec (.ld none .d 6 5 0) fldOpen) = some (.waiting .reply) := by decide +kernel
  rw [ht, runAfter_next, hst] at hw
  exact absurd hw (by decide)

/-- The same, the context waiting for its LD of the word: FORWARD serves nothing. -/
def fldForward : State :=
  { fldOpen with cx := { fldCx with st := .waiting .reply, await := some ⟨[⟨fldKey, fldVa, 8, .asked⟩], .load 6 8 false, 2, 1, false, 0, 4, 0⟩ } }

/-- Refutes O26: FORWARD gives a load nothing while an earlier FLD to its word has no answer. -/
theorem not_loadsThatWaitAreServed : ¬ Obligations.LoadsThatWaitAreServed := by
  rintro ⟨h, -⟩
  obtain ⟨hf, -⟩ := h fldForward 6 8 false fldKey fldVa _ rfl rfl rfl (by decide +kernel)
  obtain ⟨t, ht, -, hst, -⟩ := hf rfl (by decide +kernel)
  have hw : runAfter (exec (.forward fldForward.id fldForward.core.k 0) fldForward) = some (.waiting .reply) := by decide +kernel
  rw [ht, runAfter_next, hst] at hw
  exact absurd hw (by decide)

/-- The same, the context watching the word. -/
def fldWatch : State :=
  { fldOpen with cx := { fldCx with st := .waiting .watch, watch := some ⟨fldKey, fldVa, 16, 0, 0, false⟩ } }

/-- What a step leaves as the reply of the context in view. -/
def replyAfter (r : Result) : Option Word :=
  match r with
  | .next t => t.cx.reply
  | _ => none

theorem replyAfter_next (t : State) : replyAfter (.next t) = t.cx.reply := rfl

/-- Refutes O23: WAITA_WAKE reads nothing while an earlier FLD to the watched word has no answer. -/
theorem not_watchedWords : ¬ Obligations.WatchedWords := by
  rintro ⟨-, h⟩
  obtain ⟨hw, -⟩ := h fldWatch _ rfl rfl rfl (by decide +kernel) (by decide +kernel) (by decide +kernel)
  obtain ⟨t, ht, hr, -⟩ := hw (.inl rfl) _ (.inl ⟨.inl (by decide +kernel), rfl⟩)
  have hn : replyAfter (exec (.waitaWake fldWatch.id fldWatch.core.k) fldWatch) = none := by decide +kernel
  rw [ht, replyAfter_next, hr] at hn
  exact absurd hn (by simp)

end Sys2Proof.Machine
end

section
/-!
PROOFS. How an instruction ends that changes more than registers; the queue and the tempo instructions (R117, R118, R122).
-/
namespace Sys2Proof.Machine
open Sys2Proof

/-! ## The end of an instruction after a change elsewhere -/

/-- Between `s` and `u` the context in view keeps its registers, PC, status, flags and place in its stream, and no byte of memory differs. -/
structure State.Still (s u : State) : Prop where
  regs : u.cx.g = s.cx.g
  pc : u.cx.pc = s.cx.pc
  status : u.cx.status = s.cx.status
  flags : u.cx.fflags = s.cx.fflags
  pos : u.cx.pos = s.cx.pos
  memory : ∀ a, Memory.get u.mem a = Memory.get s.mem a

theorem State.Still.refl (s : State) : s.Still s := ⟨rfl, rfl, rfl, rfl, rfl, fun _ => rfl⟩

theorem State.Still.trans {s t u : State} (h : s.Still t) (k : t.Still u) : s.Still u :=
  ⟨k.regs.trans h.regs, k.pc.trans h.pc, k.status.trans h.status, k.flags.trans h.flags, k.pos.trans h.pos, fun a => (k.memory a).trans (h.memory a)⟩

/-- A change of anything but the context in view and memory. -/
theorem State.Still.of_cx_eq {s u : State} (h : u.cx = s.cx) (hm : u.mem = s.mem) : s.Still u := by
  constructor <;> simp [h, hm]

theorem State.still_setCore (s : State) (c : Core) : s.Still (s.setCore c) := .of_cx_eq rfl rfl

theorem State.Still.g {s u : State} (h : s.Still u) (r : GReg) : u.g r = s.g r := State.g_congr h.regs r

theorem State.Still.inPhlx {s u : State} (h : s.Still u) : u.cx.inPhlx = s.cx.inPhlx := by rw [Context.inPhlx, h.status, Context.inPhlx]

/-- A wait from there holds everything. -/
theorem State.Still.holds_waitOn {s u : State} (h : s.Still u) (w : Wait) : s.Holds (u.waitOn w) :=
  ⟨fun r => (State.g_congr (by simp) r).trans (h.g r), by simp [h.pc], by simp [h.status], by simp [h.flags], fun a => by simp [h.memory]⟩

theorem State.Still.holds_waitFor {s u : State} (h : s.Still u) (w : Wait) (n : Nat) :
    s.Holds ((u.waitOn w).setCx { (u.waitOn w).cx with want := n }) := by
  obtain ⟨hr, hp, hs, hf, hm⟩ := h.holds_waitOn w
  exact ⟨hr, hp, hs, hf, hm⟩

theorem State.Still.holds {s u : State} (h : s.Still u) : s.Holds u := ⟨h.g, h.pc, h.status, h.flags, h.memory⟩

/-- The end of an instruction that writes g(d). -/
theorem State.Still.went {s u : State} (h : s.Still u) (i : Instr) (d : GReg) (v : Word) : s.Went ((u.setG d v).retire i) i d where
  regs r hr := (State.g_setG_other u v hr).trans (h.g r)
  ready := by
    have hs : u.cx.inPhlx = s.cx.inPhlx := h.inPhlx
    simp [State.readyAt, State.retire, Context.next, State.after, State.setG, Context.putG_inPhlx, h.pc, h.pos, hs]
  status := by simp [State.retire, State.setG, h.status]
  flags := by simp [State.retire, State.setG, h.flags]
  memory a := h.memory a

theorem State.took_doneG (u : State) (i : Instr) (d : GReg) (v : Word) : ((u.setG d v).retire i).took d v := State.g_setG_same u d v

/-- The end of one that writes none. -/
theorem State.Still.went_retire {s u : State} (h : s.Still u) (i : Instr) : s.Went (u.retire i) i 0 := h.went i 0 0

/-- An instruction that waits for one end of a queue or port has changed no register, flag or byte. -/
theorem waitsWith_of_waitFor {i : Instr} {s : State} {w : Wait} {n : Nat} (h : exec i s = s.waitFor w n) : waitsWith i s w :=
  ⟨_, h, State.waitOn_cx_st s w, (State.Still.refl s).holds_waitFor w n, State.waitOn_core s w⟩

/-! ## Queues (R117, R118) -/

theorem exec_qput (a : GReg) (q : QReg) (s : State) : exec (.qput a q) s = execQput a q s := rfl
theorem exec_qget (d : GReg) (q : QReg) (s : State) : exec (.qget d q) s = execQget d q s := rfl
theorem exec_qpeek (d : GReg) (q : QReg) (s : State) : exec (.qpeek d q) s = execQpeek d q s := rfl

/-- The join of a word's clock leaves everything that a program sees of the context (R273). -/
theorem State.still_acquire (s : State) (now : Nat) (k : Clock) : s.Still (s.setCx (s.cx.acquire now k)) := ⟨rfl, rfl, rfl, rfl, rfl, fun _ => rfl⟩

theorem execQput_room {a : GReg} {q : QReg} {s : State} (hp : s.performed 1 = true) (hl : s.core.q[q.toFin].length < 8)
    (hb : s.behind (4 + q.toNat) = false) :
    execQput a q s = (s.setQ q (s.core.q[q.toFin] ++ [⟨s.g a, s.releaseClk s.cx.clk s.id⟩])).done (.qput a q) := by
  exact (if_neg (by simp [hp])).trans (if_neg (by simpa [hb] using hl))

theorem execQput_full {a : GReg} {q : QReg} {s : State} (hp : s.performed 1 = true) (hl : 8 ≤ s.core.q[q.toFin].length) :
    execQput a q s = s.waitFor .queue (4 + q.toNat) := by
  exact (if_neg (by simp [hp])).trans (if_pos (by simpa using .inl hl))

section
variable {d : GReg} {q : QReg} {s : State} {w : QWord} {r : List QWord}

theorem execQget_head (h : s.core.q[q.toFin] = w :: r) (hb : s.behind q.toNat = false) :
    execQget d q s = ((s.setQ q r).setCx ((s.setQ q r).cx.acquire (s.setQ q r).cy w.clk)).doneG (.qget d q) d w.val := by
  simp [execQget, h, hb]

theorem execQpeek_head (h : s.core.q[q.toFin] = w :: r) (hb : s.behind q.toNat = false) :
    execQpeek d q s = (s.setCx (s.cx.acquire s.cy w.clk)).doneG (.qpeek d q) d w.val := by
  simp [execQpeek, h, hb]

theorem execQget_empty (h : s.core.q[q.toFin] = []) : execQget d q s = s.waitFor .queue q.toNat := by simp [execQget, h]
theorem execQpeek_empty (h : s.core.q[q.toFin] = []) : execQpeek d q s = s.waitFor .queue q.toNat := by simp [execQpeek, h]
end

/-- Settles O14: each queue instruction by the state of its queue. -/
theorem queueInstructionsMoveWords : Obligations.QueueInstructionsMoveWords := by
  intro s d a q l
  refine ⟨fun hp hl hb => ?_, fun hp hl => ?_, fun w r hw hb => ⟨?_, ?_⟩, fun hl => ⟨?_, ?_⟩, completesG_of_doneG _ s d _ rfl⟩
  · exact ⟨_, _, (exec_qput a q s).trans (execQput_room hp hl hb), rfl, rfl, (s.still_setCore _).went_retire _⟩
  · exact waitsWith_of_waitFor ((exec_qput a q s).trans (execQput_full hp hl))
  · exact ⟨_, (exec_qget d q s).trans (execQget_head hw hb), State.took_doneG _ _ _ _, rfl,
      ((s.still_setCore _).trans ((s.setQ q r).still_acquire _ _)).went _ d _⟩
  · exact ⟨_, (exec_qpeek d q s).trans (execQpeek_head hw hb), State.took_doneG _ _ _ _, rfl, (s.still_acquire _ _).went _ d _⟩
  · exact waitsWith_of_waitFor ((exec_qget d q s).trans (execQget_empty hl))
  · exact waitsWith_of_waitFor ((exec_qpeek d q s).trans (execQpeek_empty hl))

/-! ## Tempo registers (R122) -/

theorem exec_tbind (k : TaReg) (a : GReg) (s : State) : exec (.tbind k a) s = execTbind k a s := rfl

theorem execTbind_bad {k : TaReg} {a : GReg} {s : State} (h : s.bindOk (s.g a) = false) : execTbind k a s = s.illegal (.tbind k a) := by
  simp [execTbind, h]

theorem execTbind_ok {k : TaReg} {a : GReg} {s : State} (h : s.bindOk (s.g a) = true) :
    execTbind k a s = ((s.setCx { s.cx with ta := s.cx.ta.set k.toFin (if bits (s.g a) 11 9 = 0 then 0 else s.g a ||| 256) }).returnCredits).done
      (.tbind k a) := by
  simp only [execTbind, h, Bool.not_true, Bool.false_eq_true, if_false]
  rfl

/-- A change of the tempo registers, with the credits that it returns. -/
theorem State.still_bind (s : State) (ta : Vector Word 16) : s.Still (s.setCx { s.cx with ta := ta }).returnCredits :=
  ⟨rfl, rfl, rfl, rfl, rfl, fun _ => rfl⟩

theorem bits_low (w : Word) (n : Nat) : bits w n 0 = w.toNat % 2 ^ (n + 1) := by simp [bits]

theorem bits_nine (w : Word) : bits w 11 9 = w.toNat / 512 % 8 := by simp [bits, Nat.shiftRight_eq_div_pow]

theorem bits_high (w : Word) : bits w 63 39 = w.toNat / 2 ^ 39 := by
  have h : w.toNat / 2 ^ 39 < 2 ^ 25 := by omega
  simp only [bits, Nat.shiftRight_eq_div_pow]
  omega

/-- An image with low bits, with bits above the fields, or of no kind, is not bound (R122). -/
theorem State.bindOk_bad {s : State} {w : Word} (h : w.toNat % 512 ≠ 0 ∨ 2 ^ 39 ≤ w.toNat ∨ w.toNat / 512 % 8 ≥ 5) : s.bindOk w = false := by
  rcases h with h | h | h
  · have h0 : bits w 8 0 ≠ 0 := by rw [bits_low]; exact h
    simp [State.bindOk, h0]
  · have h0 : bits w 63 39 ≠ 0 := by rw [bits_high]; omega
    simp [State.bindOk, h0]
  · rw [← bits_nine] at h
    have hk : ∀ n : Nat, 5 ≤ n → n = bits w 11 9 → s.bindOk w = false := by
      intro n hn e
      unfold State.bindOk
      rw [← e]
      match n, hn with
      | n + 5, _ => simp
    exact hk _ h rfl

/-- Settles O16: TBIND by its check of the operand, TRD from the image. -/
theorem tempoRegistersBind : Obligations.TempoRegistersBind := fun s d a k =>
  ⟨fun h => ⟨_, (exec_tbind k a s).trans (execTbind_ok h), rfl, (s.still_bind _).went_retire _⟩,
    fun h => (exec_tbind k a s).trans (execTbind_bad h), completesG_of_doneG _ s d _ rfl, State.bindOk_bad⟩

end Sys2Proof.Machine
end

section
/-!
PROOFS. Neighbour ports and routed messages (R119–R121, R326).
-/
namespace Sys2Proof.Machine
open Sys2Proof

/-! ## Neighbour ports (R119) -/

theorem State.modCore_cx (s : State) (id : Nat) (f : Core → Core) : (s.modCore id f).cx = s.cx := by
  unfold State.modCore; split <;> rfl

theorem State.modCore_mem (s : State) (id : Nat) (f : Core → Core) : (s.modCore id f).mem = s.mem := by
  unfold State.modCore; split <;> rfl

theorem State.still_modCore (s : State) (id : Nat) (f : Core → Core) : s.Still (s.modCore id f) :=
  .of_cx_eq (s.modCore_cx id f) (s.modCore_mem id f)

/-- Words that arrive change a receive FIFO only. -/
theorem State.still_land (s : State) (id port : Nat) : s.Still (s.land id port) := by
  unfold State.land
  split
  · exact s.still_modCore id _
  · exact State.Still.refl s

/-- What a context does with itself leaves every core as it was. -/
theorem State.coreAt_setCx (s : State) (c : Context) (id : Nat) : (s.setCx c).coreAt id = s.coreAt id := by
  unfold State.coreAt State.setCx; split <;> rfl

theorem Core.portWords_portTake (c : Core) (n : Nat) : (c.portTake n).portWords n = (c.portWords n).drop 1 := by
  unfold Core.portTake Core.portWords
  by_cases h5 : n = 5
  · simp [h5]
  · by_cases h4 : n < 4
    · simp [h5, h4, Vector.getD]
    · simp [h5, h4, Vector.getD]

section
variable {s : State} {i : Instr} {port id : Nat} {v : Word}

theorem State.putNeighbour_none (h : s.neighbour s.id port = none) : s.putNeighbour i port v = s.trap 0x07 (word port) := by
  rw [State.putNeighbour, h]

theorem State.putNeighbour_room (h : s.neighbour s.id port = some id)
    (hr : ((s.land id ((port + 2) % 4)).coreAt id).fifoUsed ((port + 2) % 4) < 4) (hb : (s.land id ((port + 2) % 4)).behind (16 + port) = false) :
    s.putNeighbour i port v = ((s.land id ((port + 2) % 4)).modCore id fun c =>
      { c with nFly := c.nFly ++ [⟨(port + 2) % 4, v, (s.land id ((port + 2) % 4)).cy, (s.land id ((port + 2) % 4)).sendTau id⟩] }).done i := by
  rw [State.putNeighbour, h]
  exact if_neg (by simpa [hb] using hr)

end

theorem execNput_neighbour {a : GReg} {n : BitVec 3} (s : State) (h : n.toNat ≤ 3) :
    exec (.nput a n) s = s.putNeighbour (.nput a n) n.toNat (s.g a) := if_pos h

section
variable {d : GReg} {n : BitVec 3} {s : State}

/-- The ports that can be read. -/
theorem readable_port (h : n.toNat ≤ 3 ∨ n.toNat = 5) : ¬ (n = 4 ∨ n.toNat > 5) := by
  rintro (rfl | h5)
  · revert h; decide
  · omega

theorem execNget_empty (h : n.toNat ≤ 3 ∨ n.toNat = 5) (he : (s.land s.id n.toNat).core.portWords n.toNat = []) :
    exec (.nget d n) s = (s.land s.id n.toNat).waitFor .port (8 + n.toNat) := by
  refine (if_neg (readable_port h)).trans ?_
  simp only [he]

theorem execNget_head {w : Word} {r : List Word} (h : n.toNat ≤ 3 ∨ n.toNat = 5) (he : (s.land s.id n.toNat).core.portWords n.toNat = w :: r)
    (hb : (s.land s.id n.toNat).behind (8 + n.toNat) = false) :
    exec (.nget d n) s = ((s.land s.id n.toNat).setCore ((s.land s.id n.toNat).core.portTake n.toNat)).doneG (.nget d n) d w := by
  refine (if_neg (readable_port h)).trans ?_
  simp only [he, hb]; rfl

theorem execNtry_eq (h : n.toNat ≤ 3 ∨ n.toNat = 5) :
    exec (.ntry d n) s = (s.land s.id n.toNat).doneG (.ntry d n) d (word ((s.land s.id n.toNat).core.portWords n.toNat).length) :=
  if_neg (readable_port h)

end

theorem neighbourPortInstructions : Claims.NeighbourPortInstructions := by
  intro s d a n port far
  refine ⟨fun hp hn => ?_, fun id hp hn hid hr hb => ?_, fun hp => ⟨fun w r hw hb => ?_, fun he => ?_, ?_⟩⟩
  · exact (execNput_neighbour s hp).trans (State.putNeighbour_none hn)
  · refine ⟨_, ⟨far, s.g a, (s.land id far).cy, (s.land id far).sendTau id⟩, (execNput_neighbour s hp).trans (State.putNeighbour_room hn hr hb), rfl, rfl, ?_, ((s.still_land id far).trans (State.still_modCore _ id _)).went_retire _⟩
    rw [State.retire, State.coreAt_setCx, State.coreAt_modCore, if_pos rfl]
  · refine ⟨_, execNget_head hp hw hb, State.took_doneG _ _ _ _, ?_, ((s.still_land s.id port).trans (State.still_setCore _ _)).went _ d _⟩
    exact (Core.portWords_portTake _ _).trans (by rw [hw]; rfl)
  · exact ⟨_, execNget_empty hp he, State.waitOn_cx_st _ _, (s.still_land s.id port).holds_waitFor _ _⟩
  · exact ⟨_, execNtry_eq hp, State.took_doneG _ _ _ _, (s.still_land s.id port).went _ d _⟩

/-! ## Routed messages (R120, R121) -/

theorem exec_nput_routed (a : GReg) (s : State) : exec (.nput a 4) s = s.putRouted (.nput a 4) (s.g a) := rfl

section
variable {s : State} {i : Instr} {v : Word}

theorem State.putRouted_bad (ho : s.core.n4.owner = none) (h : bits v 21 18 = 0 ∨ bits v 63 22 ≠ 0) : s.putRouted i v = s.illegal i := by
  rw [State.putRouted, ho]; exact if_pos h

theorem State.putRouted_nowhere (ho : s.core.n4.owner = none) (hl : bits v 21 18 ≠ 0) (hz : bits v 63 22 = 0)
    (hd : s.siteAt (bits v 3 0) (bits v 10 4) (bits v 17 11) = none) : s.putRouted i v = s.trap 0x07 4 := by
  rw [State.putRouted, ho]
  refine (if_neg (by simp [hl, hz])).trans ?_
  rw [hd]

/-- A header to a core of the tray: it waits for n4, or is sent to that core (R120, R123). -/
theorem State.putRouted_header {id : Nat} (ho : s.core.n4.owner = none) (hl : bits v 21 18 ≠ 0) (hz : bits v 63 22 = 0)
    (hd : s.siteAt (bits v 3 0) (bits v 10 4) (bits v 17 11) = some id) :
    s.putRouted i v = if s.behind 20 ∨ s.core.n4.full then s.waitFor .port 20
      else s.send [(.core id, 1 + bits v 21 18)] fun t =>
        (t.setCore { t.core with n4 := t.core.n4.put t.core.k (bits v 21 18) v, n4Paid := t.core.n4Paid ++ [t.core.paying], paying := [] }).done i := by
  rw [State.putRouted, ho]
  refine (if_neg (by simp [hl, hz])).trans ?_
  rw [hd]

theorem SendPort.full_iff (p : SendPort) : p.full = true ↔ 4 ≤ p.fifo.length := by simp [SendPort.full]

theorem State.putRouted_wait {o : Nat} (ho : s.core.n4.owner = some o) (h : o ≠ s.core.k ∨ 4 ≤ s.core.n4.fifo.length) :
    s.putRouted i v = s.waitFor .port 20 := by
  rw [State.putRouted, ho]; exact if_pos (by rwa [SendPort.full_iff])

theorem State.putRouted_word (ho : s.core.n4.owner = some s.core.k) (h : s.core.n4.fifo.length < 4) :
    s.putRouted i v = (s.setCore { s.core with n4 := s.core.n4.put s.core.k (s.core.n4.left - 1) v }).done i := by
  rw [State.putRouted, ho]; exact if_neg (by rw [SendPort.full_iff]; omega)

end

/-- The fabric takes a payload word that is not the last. -/
theorem State.takeWord_more {s : State} {k : Nat} {w h : Word} {f : List (Nat × Word)} {r : List Word} (hf : s.core.n4.fifo = (k, w) :: f)
    (hw : s.core.n4.words = h :: r) (hl : r.length + 1 < bits h 21 18) :
    s.takeWord = s.setCore { s.core with n4 := { s.core.n4 with fifo := f, words := h :: (r ++ [w]) } } := by
  rw [State.takeWord, hf]
  refine (if_pos ?_).trans ?_
  · simp only [hw, List.cons_append, List.headD_cons, List.length_cons, List.length_append, List.length_nil]; omega
  · rw [hw]; rfl

/-- The fabric takes the last payload word: the message is on its route. -/
theorem State.takeWord_last {s : State} {k id : Nat} {w h : Word} {f : List (Nat × Word)} {r : List Word} (hf : s.core.n4.fifo = (k, w) :: f)
    (hw : s.core.n4.words = h :: r) (hd : s.siteAt (bits h 3 0) (bits h 10 4) (bits h 17 11) = some id) (hl : bits h 21 18 ≤ r.length + 1) :
    ∃ m : Msg, s.takeWord.flight = s.flight ++ [m] ∧ m.dest = .core id ∧ m.src = .ctx s.id k
      ∧ m.body = .routed id (s.routedHeader (bits h 21 18) :: (r ++ [w])) ∧ s.takeWord.core.n4 = { s.core.n4 with fifo := f, words := [] } := by
  let t := s.setCore { s.core with
    n4 := { s.core.n4 with fifo := f, words := [] }
    paying := s.core.n4Paid.headD []
    n4Paid := s.core.n4Paid.drop 1 }
  have he : s.takeWord = t.inject (.ctx t.id k) (.core id) .m 0 (.routed id (t.routedHeader (bits h 21 18) :: (r ++ [w]))) := by
    rw [State.takeWord, hf]
    refine (if_neg ?_).trans ?_
    · simp only [hw, List.cons_append, List.headD_cons, List.length_cons, List.length_append, List.length_nil]; omega
    · simp only [hw, List.cons_append, List.headD_cons, List.drop_succ_cons, List.drop_zero]
      rw [hd]
  have hp : (t.payFor t.seq).core.n4 = t.core.n4 := by unfold State.payFor; split <;> rfl
  rw [he]
  exact ⟨_, rfl, rfl, rfl, rfl, hp⟩

theorem routedMessagesAreBuilt : Claims.RoutedMessagesAreBuilt := by
  intro s a v len dest
  refine ⟨fun ho h => ?_, fun ho hl hz hd => ?_, fun id ho hl hz hd => ⟨fun hb hf hm => ?_, fun h => ?_⟩, fun ho hf => ?_, fun o ho h => ?_,
    fun k w f h r id hf hw hd => ⟨fun hl => State.takeWord_last hf hw hd hl, fun hl => ?_⟩⟩
  · exact (exec_nput_routed a s).trans (State.putRouted_bad ho h)
  · exact (exec_nput_routed a s).trans (State.putRouted_nowhere ho hl hz hd)
  · have he : exec (.nput a 4) s = _ := ((exec_nput_routed a s).trans (State.putRouted_header ho hl hz hd)).trans
      ((if_neg (by rw [SendPort.full_iff, hb]; simpa using hf)).trans (State.send_free s _ _ (by simpa using hm)))
    refine ⟨_, he, ?_, rfl, ((s.still_setCore _).trans (State.still_setCore _ _)).went_retire _⟩
    show SendPort.put _ _ _ _ = _
    rw [SendPort.put, if_neg hl]; rfl
  · exact waitsWith_of_waitFor (((exec_nput_routed a s).trans (State.putRouted_header ho hl hz hd)).trans (if_pos (by rwa [SendPort.full_iff])))
  · refine ⟨_, (exec_nput_routed a s).trans (State.putRouted_word ho hf), rfl, rfl, rfl, ?_, rfl, (s.still_setCore _).went_retire _⟩
    show (if s.core.n4.left - 1 = 0 then none else some s.core.k) = _
    simp only [Nat.sub_eq_zero_iff_le]
  · exact waitsWith_of_waitFor ((exec_nput_routed a s).trans (State.putRouted_wait ho h))
  · rw [State.takeWord_more hf hw hl]; exact ⟨rfl, rfl⟩

/-- Settles O15. -/
theorem portsAndRoutedMessages : Obligations.PortsAndRoutedMessages := ⟨neighbourPortInstructions, routedMessagesAreBuilt⟩

end Sys2Proof.Machine
end

section
/-!
PROOFS. Helper contexts, issue hints and HALT (R36, R37, R125–R127, R254).
-/
namespace Sys2Proof.Machine
open Sys2Proof

/-! ## Another context of the core in view -/

theorem State.modCx_parked {s : State} {k : Nat} (hk : k ≠ s.core.k) (f : Context → Context) :
    s.modCx s.id k f = s.setCore { s.core with parked := Table.set s.core.parked k (f (s.core.ctx s.cx k)) } := by
  simp [State.modCx, Core.modCtx, hk, State.setCore]

/-- What a context does with itself leaves the others as they were. -/
theorem State.cxAt_setCx_of_ne {s : State} {k : Nat} (hk : k ≠ s.core.k) (c : Context) : (s.setCx c).cxAt s.id k = s.cxAt s.id k := by
  have h : (s.setCx c).cxAt (s.setCx c).id k = s.cxAt s.id k := by
    rw [State.cxAt_here, State.cxAt_here, State.setCx_core, Core.ctx_of_ne hk, Core.ctx_of_ne hk]
  exact h

/-- The end of an instruction of the context in view leaves the others as they were. -/
theorem State.cxAt_doneG {u : State} {id k : Nat} (hid : u.id = id) (hk : k ≠ u.core.k) (c : Context) (d : GReg) (v : Word) (i : Instr) :
    ((((u.setCx c).setG d v).retire i).cxAt id k) = u.cxAt id k := by
  subst hid
  exact State.cxAt_setCx_of_ne hk _

theorem helperNumbers : (List.range 11).drop 1 = List.range' 1 10 := rfl

/-- The lowest Free slot, and that there is none. -/
theorem State.find_free {s : State} {k : Nat} (h1 : 1 ≤ k) (h10 : k ≤ 10) (hk : (s.cxAt s.id k).st = .free)
    (hl : ∀ j, 1 ≤ j → j < k → (s.cxAt s.id j).st ≠ .free) :
    (((List.range 11).drop 1).find? fun k => (s.core.ctx s.cx k).st = .free) = some k := by
  rw [helperNumbers, List.find?_range'_eq_some]
  refine ⟨by simpa [State.cxAt_here] using hk, List.mem_range'_1.mpr (by omega), fun j hj hjk => ?_⟩
  simpa [State.cxAt_here] using hl j hj hjk

theorem State.find_none {s : State} (h : ∀ k, 1 ≤ k → k ≤ 10 → (s.cxAt s.id k).st ≠ .free) :
    (((List.range 11).drop 1).find? fun k => (s.core.ctx s.cx k).st = .free) = none := by
  rw [helperNumbers, List.find?_eq_none]
  intro k hk
  obtain ⟨h1, h10⟩ := List.mem_range'_1.mp hk
  simpa [State.cxAt_here] using h k h1 (by omega)

theorem bits_low_two (w : Word) : bits w 1 0 = w.toNat % 4 := bits_low w 1

theorem pcOf_toNat (w : Word) : pcOf w = BitVec.ofNat 15 (w.toNat % 2 ^ 15) := by
  exact BitVec.eq_of_toNat_eq (by simp [pcOf])

/-! ## HSTART (R36, R37, R125) -/

section
variable {d a b : GReg} {s : State}

theorem execHstart_refused (h : s.core.k ≠ 0 ∨ s.cx.inPhlx = true) : exec (.hstart d a b) s = s.illegal (.hstart d a b) := if_pos h

theorem execHstart_misaligned (h0 : s.core.k = 0) (hp : s.cx.inPhlx = false) (h : (s.g a).toNat % 4 ≠ 0) :
    exec (.hstart d a b) s = s.trap 0x05 (s.g a) :=
  (if_neg (by simp [h0, hp])).trans (if_pos (by rwa [bits_low_two]))

theorem execHstart_ready (h0 : s.core.k = 0) (hp : s.cx.inPhlx = false) (h : (s.g a).toNat % 4 = 0) (hr : s.performed 1 = true) :
    exec (.hstart d a b) s = match ((List.range 11).drop 1).find? fun k => (s.core.ctx s.cx k).st = .free with
      | none => s.doneG (.hstart d a b) d 0
      | some k => (s.modCx s.id k fun _ => s.cx.helper k (s.core.sslimOf s.cx k) (pcOf (s.g a)) (s.g b) (s.releaseClk s.cx.clk s.id) s.cy).doneG
          (.hstart d a b) d (word k) :=
  (if_neg (by simp [h0, hp])).trans ((if_neg (by rw [bits_low_two]; omega)).trans (if_neg (by simp [hr])))

end

/-- STATUS of a helper keeps SSE alone (R37). -/
theorem helper_status (w : Word) : bit (w &&& mask 3 3) 0 = false ∧ bit (w &&& mask 3 3) 3 = bit w 3 := by
  have h0 : (mask 3 3).getLsbD 0 = false := by decide
  have h3 : (mask 3 3).getLsbD 3 = true := by decide
  constructor
  · show (w &&& mask 3 3).getLsbD 0 = false
    rw [BitVec.getLsbD_and, h0, Bool.and_false]
  · show (w &&& mask 3 3).getLsbD 3 = w.getLsbD 3
    rw [BitVec.getLsbD_and, h3, Bool.and_true]

theorem helperStart : Claims.HelperStart := by
  intro s d a b
  refine ⟨execHstart_refused, execHstart_misaligned, fun h0 hp ha hr => ⟨fun k h1 h10 hk hl => ?_, fun h => ?_⟩⟩
  · have hne : k ≠ s.core.k := by omega
    have he := execHstart_ready (d := d) (b := b) h0 hp ha hr
    rw [State.find_free h1 h10 hk hl] at he
    have hu := State.modCx_parked hne fun _ => s.cx.helper k (s.core.sslimOf s.cx k) (pcOf (s.g a)) (s.g b) (s.releaseClk s.cx.clk s.id) s.cy
    have hs : s.Still (s.modCx s.id k fun _ => s.cx.helper k (s.core.sslimOf s.cx k) (pcOf (s.g a)) (s.g b) (s.releaseClk s.cx.clk s.id) s.cy) := by
      rw [hu]; exact s.still_setCore _
    have hi : ∀ j, j ≠ 0 → ∀ t, t = (s.modCx s.id k fun _ =>
        s.cx.helper k (s.core.sslimOf s.cx k) (pcOf (s.g a)) (s.g b) (s.releaseClk s.cx.clk s.id) s.cy) →
        (((t.setG d (word k)).retire (.hstart d a b)).cxAt s.id j) = t.cxAt s.id j := by
      rintro j hj t ht
      have hid : t.id = s.id := by rw [ht, hu]; rfl
      have hk' : t.core.k = s.core.k := by rw [ht, hu]; rfl
      exact State.cxAt_doneG hid (by omega) t.cx d (word k) _
    refine ⟨_, he, State.took_doneG _ _ _ _, hs.went _ d _, ?_, fun j hj hj0 => ?_⟩
    · rw [hi k (by omega) _ rfl, State.cxAt_modCx, if_pos ⟨rfl, rfl⟩]
      obtain ⟨hu0, hsse⟩ := helper_status s.cx.status
      exact ⟨rfl, pcOf_toNat _, rfl, rfl, rfl, hu0, rfl, rfl, rfl, rfl, rfl, hsse, rfl⟩
    · rw [hi j hj0 _ rfl, State.cxAt_modCx, if_neg (by simp [hj])]
  · have he := execHstart_ready (d := d) (b := b) h0 hp ha hr
    rw [State.find_none h] at he
    exact ⟨_, he, State.took_doneG _ _ _ _, (State.Still.refl s).went _ d _⟩

/-! ## What a context gives back when it ends (R37, R254) -/

/-- Freed lanes go to reservations: of the core in view nothing else changes, nor does the context in view or memory. -/
def State.Reserved (s t : State) : Prop :=
  t.id = s.id ∧ t.cx = s.cx ∧ t.mem = s.mem ∧ ∃ r a, t.core = { s.core with reserved := r, reservedAt := a }

theorem State.Reserved.refl (s : State) : s.Reserved s := ⟨rfl, rfl, rfl, _, _, rfl⟩

theorem State.Reserved.trans {s t u : State} (h : s.Reserved t) (k : t.Reserved u) : s.Reserved u := by
  obtain ⟨hi, hc, hm, r, a, hk⟩ := h
  obtain ⟨ki, kc, km, r', a', kk⟩ := k
  exact ⟨ki.trans hi, kc.trans hc, km.trans hm, r', a', by rw [kk, hk]⟩

theorem State.reserveFor_reserved (p : State × Nat) (c : Nat) : p.1.Reserved (State.reserveFor p c).1 := by
  unfold State.reserveFor
  dsimp only
  split
  · exact .refl _
  · unfold State.modCore
    dsimp only
    split <;> exact ⟨rfl, rfl, rfl, _, _, rfl⟩

theorem State.reserve_reserved (s : State) (id n : Nat) : s.Reserved (s.reserve id n) := by
  have h : ∀ (l : List Nat) (p : State × Nat), p.1.Reserved (l.foldl State.reserveFor p).1 := by
    intro l
    induction l with
    | nil => exact fun p => .refl _
    | cons c l ih => exact fun p => (State.reserveFor_reserved p c).trans (ih _)
  exact h _ (s, n)

/-- The holder that gives its lanes back: the core has no holder, and of the context only the results still due to lanes change. -/
theorem State.dropLanes_view {s : State} (h : s.core.holder = some s.core.k) :
    (s.dropLanes s.id).core.holder = none ∧ (s.dropLanes s.id).core.k = s.core.k
      ∧ (s.dropLanes s.id).cx = s.cx.cutPend 0 ∧ (s.dropLanes s.id).mem = s.mem := by
  unfold State.dropLanes State.resizeLanes
  simp only [State.coreAt_here, h]
  rw [State.modCx_view, State.modCore, if_pos (by rfl)]
  obtain ⟨-, hc, hm, r, a, hk⟩ := State.reserve_reserved ({ (s.setCx (s.cx.cutPend 0)) with
    core := { (s.core.cut 0) with holder := none, claim := none, reserved := 0, reservedAt := none, recallAt := none } }) s.id (s.core.lanes + s.core.reserved)
  exact ⟨by rw [State.setCx_core, hk], by rw [State.setCx_core, hk]; rfl, hc, hm⟩

/-- After what a context gives back: no lanes of its own, no slots, no bindings, its registers as they were. -/
structure State.GaveBack (s t : State) : Prop where
  holder : t.core.holder ≠ some s.core.k
  slots : ∀ o, o < 8 → (t.core.o.getD o OSlot.free).holder ≠ some s.core.k
  bindings : t.cx.ta = Vector.replicate 16 0
  regs : t.cx.g = s.cx.g
  memory : t.mem = s.mem

theorem getD_mapVec {α β : Type} {n : Nat} (f : α → β) (v : Vector α n) {i : Nat} (h : i < n) (d : α) (e : β) : (mapVec f v).getD i e = f (v.getD i d) := by
  simp [Vector.getD, mapVec, h]

theorem Core.releaseSlots_slot (c : Core) (k : Nat) {o : Nat} (h : o < 8) : ((c.releaseSlots k).o.getD o OSlot.free).holder ≠ some k := by
  unfold Core.releaseSlots
  dsimp only
  rw [getD_mapVec _ _ h OSlot.free]
  split
  · simp [OSlot.free]
  · assumption

/-- What is left to give back once the lanes are. -/
def State.unbind (u : State) : State :=
  let s1 := u.unbench
  let s2 := s1.setCore { (s1.core.releaseSlots s1.core.k) with liveAt := s1.cy }
  (s2.setCx { s2.cx with ta := Vector.replicate 16 0 }).returnCredits

theorem State.giveBack_eq (s : State) : s.giveBack = (if s.core.holder = some s.core.k then s.dropLanes s.id else s).unbind := rfl

theorem State.unbind_holder (u : State) : u.unbind.core.holder = u.core.holder := by
  simp only [State.unbind, State.returnCredits, State.unbench, State.setCore_core, State.setCx_core, Core.releaseSlots]
theorem State.unbind_slots (u : State) : u.unbind.core.o = (u.core.releaseSlots u.core.k).o := by
  simp only [State.unbind, State.returnCredits, State.unbench, State.setCore_core, State.setCx_core, Core.releaseSlots]
  rfl
theorem State.unbind_g (u : State) : u.unbind.cx.g = u.cx.g := by
  simp only [State.unbind, State.returnCredits, State.unbench, State.setCore_cx, State.setCx_cx]
theorem State.unbind_mem (u : State) : u.unbind.mem = u.mem := by
  simp only [State.unbind, State.returnCredits, State.unbench, State.setCore_mem, State.setCx_mem]
theorem State.unbind_ta (u : State) : u.unbind.cx.ta = Vector.replicate 16 0 := by
  simp only [State.unbind, State.returnCredits, State.unbench, State.setCore_cx, State.setCx_cx]

theorem State.giveBack_gaveBack (s : State) : s.GaveBack s.giveBack := by
  rw [State.giveBack_eq]
  by_cases h : s.core.holder = some s.core.k
  · obtain ⟨hh, hk, hc, hm⟩ := State.dropLanes_view h
    rw [if_pos h]
    generalize s.dropLanes s.id = u at hh hk hc hm
    exact ⟨by rw [u.unbind_holder, hh]; simp, fun o ho => by rw [u.unbind_slots, hk]; exact Core.releaseSlots_slot _ _ ho, u.unbind_ta,
      by rw [u.unbind_g, hc]; rfl, by rw [u.unbind_mem, hm]⟩
  · rw [if_neg h]
    exact ⟨by rwa [s.unbind_holder], fun o ho => by rw [s.unbind_slots]; exact Core.releaseSlots_slot _ _ ho, s.unbind_ta, s.unbind_g, s.unbind_mem⟩

theorem State.checkPoint_clean {s : State} (hn : s.core.node = none) (he : bit s.cx.errpend 0 = false) (f : State → Result) : s.checkPoint f = f s := by
  simp [State.checkPoint, hn, he]

/-! ## HJOIN and HEXIT (R36, R125, R126) -/

section
variable {d a : GReg} {s : State}

theorem execHjoin_number (h : s.core.k ≠ 0 ∨ (s.g a).toNat = 0 ∨ 10 < (s.g a).toNat) : exec (.hjoin d a) s = s.illegal (.hjoin d a) :=
  if_pos (by omega)

theorem execHjoin_slot (h0 : s.core.k = 0) (h1 : 1 ≤ (s.g a).toNat) (h10 : (s.g a).toNat ≤ 10) :
    exec (.hjoin d a) s = match (s.cxAt s.id (s.g a).toNat).st with
      | .free => s.illegal (.hjoin d a)
      | .exited =>
        let t := (s.keepClock s.id).modCx s.id (s.g a).toNat fun _ => Context.reset (s.g a).toNat
        (t.setCx (t.cx.acquire t.cy (s.cxAt s.id (s.g a).toNat).clk)).doneG (.hjoin d a) d (s.cxAt s.id (s.g a).toNat).exitValue
      | _ => s.wait .join := by
  rw [State.cxAt_here]
  exact if_neg (by omega)

theorem execHexit_control (h0 : s.core.k = 0) : exec (.hexit a) s = s.illegal (.hexit a) := if_pos h0

theorem execHexit_ends (h0 : s.core.k ≠ 0) (hc : s.checked = true) (hp : s.performed 1 = true) (hs : s.core.heldSlotRead s.core.k = false)
    (hn : s.core.node = none) (he : bit s.cx.errpend 0 = false) : exec (.hexit a) s = .next (s.endHelper (s.g a)) :=
  (if_neg h0).trans ((if_neg (by simp [hc, hp, hs])).trans (State.checkPoint_clean hn he _))

end

theorem helperJoinAndExit : Claims.HelperJoinAndExit := by
  intro s d a k
  refine ⟨fun h0 h1 h10 hx => ?_, fun h0 h1 h10 hx hf => ?_, fun h => ?_, execHexit_control, fun h0 hc hp hs hn he _ => ?_⟩
  · have hne : k ≠ s.core.k := by omega
    have e := execHjoin_slot (d := d) h0 h1 h10
    rw [hx] at e
    let u := (s.keepClock s.id).modCx s.id k fun _ => Context.reset k
    have hu : u = (s.keepClock s.id).setCore { s.core with parked := Table.set s.core.parked k (Context.reset k) } :=
      State.modCx_parked (s := s.keepClock s.id) hne _
    have hs : s.Still u := by rw [hu]; exact .of_cx_eq rfl rfl
    refine ⟨_, e, State.took_doneG _ _ _ _, ?_, (hs.trans (u.still_acquire _ _)).went _ d _⟩
    have hid : u.id = s.id := by rw [hu]; rfl
    have hk : u.core.k = s.core.k := by rw [hu]; rfl
    have hat : u.cxAt s.id k = Context.reset k := by
      show ((s.keepClock s.id).modCx s.id k _).cxAt s.id k = _
      rw [State.cxAt_modCx, if_pos ⟨rfl, rfl⟩]
    have hend := State.cxAt_doneG hid (by omega : k ≠ u.core.k) (u.cx.acquire u.cy (s.cxAt s.id k).clk) d (s.cxAt s.id k).exitValue (.hjoin d a)
    rw [hat] at hend
    rw [hend]
    exact if_neg (by omega)
  · refine waitsWith_of_wait _ s _ ((execHjoin_slot h0 h1 h10).trans ?_)
    split
    · contradiction
    · contradiction
    · rfl
  · by_cases hn : s.core.k ≠ 0 ∨ k = 0 ∨ 10 < k
    · exact execHjoin_number hn
    · have hf : (s.cxAt s.id k).st = .free := by
        rcases h with h | h | h | h
        · exact absurd (.inl h) hn
        · exact absurd (.inr (.inl h)) hn
        · exact absurd (.inr (.inr h)) hn
        · exact h
      refine (execHjoin_slot (by omega) (by omega) (by omega)).trans ?_
      rw [hf]; rfl
  · have g := s.giveBack_gaveBack
    exact ⟨_, execHexit_ends h0 hc hp hs hn he, rfl, rfl, g.bindings, g.holder, g.slots, fun r => State.g_congr g.regs r, fun m => by
      show Memory.get s.giveBack.mem m = _
      rw [g.memory]⟩

/-! ## YIELD, PAUSE and HALT (R127, R254) -/

theorem State.helpers_any (s : State) : ((s.core.ctxs s.cx).tail.any fun c => c.st != .free) = true ↔ ∃ k, 1 ≤ k ∧ k ≤ 10 ∧ (s.cxAt s.id k).st ≠ .free := by
  have ht : (s.core.ctxs s.cx).tail = (List.range' 1 10).map (s.core.ctx s.cx) := rfl
  simp only [ht, List.any_map, List.any_eq_true, List.mem_range'_1, Function.comp_apply, bne_iff_ne, State.cxAt_here]
  exact ⟨fun ⟨k, hk, hf⟩ => ⟨k, hk.1, by omega, hf⟩, fun ⟨k, h1, h10, hf⟩ => ⟨k, by omega, hf⟩⟩

theorem execHalt_refused {s : State} (h : s.core.k ≠ 0 ∨ s.cx.inPhlx = true ∨ s.core.node.isSome = true
    ∨ (∃ k, 1 ≤ k ∧ k ≤ 10 ∧ (s.cxAt s.id k).st ≠ .free) ∨ s.cx.barPending = true) : exec .halt s = s.illegal .halt := by
  refine if_pos ?_
  rw [State.helpers_any]
  rcases h with h | h | h | h | h
  · exact .inl h
  · exact .inr (.inr (.inl h))
  · exact .inr (.inr (.inr (.inl h)))
  · exact .inr (.inl h)
  · exact .inr (.inr (.inr (.inr h)))

theorem execHalt_ends {s : State} (h0 : s.core.k = 0) (hp : s.cx.inPhlx = false) (hn : s.core.node = none)
    (hh : ∀ k, 1 ≤ k → k ≤ 10 → (s.cxAt s.id k).st = .free) (hb : s.cx.barPending = false) (hc : s.checked = true) (hr : s.performed 4 = true)
    (hs : s.core.heldSlotRead 0 = false) (he : bit s.cx.errpend 0 = false) :
    exec .halt s = .next (s.giveBack.setCx { (s.giveBack.cx.retire (s.giveBack.cx.next (Instr.size .halt))) with st := .stopped }) := by
  refine (if_neg ?_).trans ((if_neg (by simp [hc, hr, h0, hs])).trans (State.checkPoint_clean hn he _))
  rw [State.helpers_any]
  simp only [h0, hp, hn, hb, ne_eq, not_true_eq_false, Option.isSome_none, Bool.false_eq_true, or_false, false_or, not_exists]
  intro k ⟨h1, h10, hf⟩
  exact hf (hh k h1 h10)

theorem State.still_yield (s : State) (l : List Nat) : s.Still (s.setCx { s.cx with yielding := l }) := ⟨rfl, rfl, rfl, rfl, rfl, fun _ => rfl⟩

theorem hintsAndHalt : Claims.HintsAndHalt := by
  intro s
  refine ⟨⟨_, rfl, rfl, (s.still_yield _).went_retire _⟩, ⟨_, rfl, rfl, rfl, rfl, fun _ => rfl, fun _ => rfl⟩,
    execHalt_refused, fun h0 hp hn hh hb hc hr hs he => ?_⟩
  have g := s.giveBack_gaveBack
  rw [← h0]
  exact ⟨_, execHalt_ends h0 hp hn hh hb hc hr hs he, rfl, g.holder, g.bindings, g.slots, fun r => State.g_congr g.regs r, fun m => by
    show Memory.get s.giveBack.mem m = _
    rw [g.memory]⟩

/-- Settles O17. -/
theorem helpersAndHalt : Obligations.HelpersAndHalt := ⟨helperStart, helperJoinAndExit, hintsAndHalt⟩

end Sys2Proof.Machine
end

section
/-!
PROOFS. What an access answers: its modifiers and checks (R88, R129, R132), and how a store, an AMO and a fence enter the machine
(R133–R138).
-/
namespace Sys2Proof.Machine
open Sys2Proof

/-! ## Addresses (R88, R89) -/

theorem sext_eq_ofInt {n : Nat} (x : BitVec n) : sext x = BitVec.ofInt 64 x.toInt := rfl

theorem State.eaM_eq (s : State) (a : GReg) (disp : BitVec 11) (size : Nat) : s.eaM a disp size = addressM s a disp size := by
  rw [State.eaM, addressM, BitVec.ofInt_add, BitVec.ofInt_toInt, BitVec.ofInt_mul, sext_eq_ofInt, word, BitVec.ofInt_natCast]

theorem State.eaX_eq (s : State) (a : GReg) (disp : BitVec 24) : s.eaX a disp = addressX s a disp := by
  rw [State.eaX, addressX, BitVec.ofInt_add, BitVec.ofInt_toInt, sext_eq_ofInt]

/-! ## Modifiers (R90, R129) -/

theorem effOf_load_none {m : Mods} (h : m.ord = 4 ∨ m.ord = 5) (md : Word) : effOf .load (some m) md = none := by
  rcases h with h | h <;> simp [effOf, ordFor, h]

theorem effOf_store_none {m : Mods} (h : m.ord = 3 ∨ m.ord = 5) (md : Word) : effOf .store (some m) md = none := by
  rcases h with h | h <;> simp [effOf, ordFor, h]

/-- An access that carries no modifiers of its own has those of MEMDEF. -/
theorem effOf_bare (k : AccKind) (md : Word) : ∃ e, effOf k none md = some e ∧ e.space = bits md 7 6 := by
  cases k <;> exact ⟨_, rfl, rfl⟩

/-! ## The checks (R132) -/

section
variable {s : State} {k : AccKind} {space size : Nat} {ea : Word}

theorem regionOf_beyond (h : 2 ^ 52 ≤ ea.toNat) : regionOf ea = .bad := if_pos h

theorem regionOf_gap (h : 0xF000000008000 ≤ ea.toNat) (h' : ea.toNat < 0xF800000000000) : regionOf ea = .bad := by
  unfold regionOf
  rw [if_neg (by omega), if_neg (by omega), if_neg (by omega), if_neg (by omega), if_pos h']

theorem regionOf_peer (h : 0xF800000000000 ≤ ea.toNat) (h' : ea.toNat < 2 ^ 52) : regionOf ea = .peer := by
  unfold regionOf
  rw [if_neg (by omega), if_neg (by omega), if_neg (by omega), if_neg (by omega), if_neg (by omega)]

theorem regionOf_loc (h : 0xF000000000000 ≤ ea.toNat) (h' : ea.toNat < 0xF000000008000) : regionOf ea = .loc := by
  unfold regionOf
  rw [if_neg (by omega), if_neg (by omega), if_neg (by omega), if_pos (by omega)]

theorem regionOf_low (h : ea.toNat < 0xF000000008000) : regionOf ea ≠ .bad ∧ regionOf ea ≠ .peer := by
  unfold regionOf
  rw [if_neg (by omega)]
  split
  · exact ⟨by decide, by decide⟩
  · split
    · exact ⟨by decide, by decide⟩
    · exact ⟨by decide, by decide⟩

theorem State.check_bad (h : regionOf ea = .bad) : s.check k space ea size = .trap 0x07 ea := if_pos h

theorem State.check_peer (h : regionOf ea = .peer) : s.check k space ea size = .trap 0x08 ea := by
  unfold State.check
  rw [h]; rfl

theorem spaceOk_any (r : Region) : spaceOk 0 r = true := rfl

theorem State.check_misaligned (h : ea.toNat < 0xF000000008000) (ha : ea.toNat % size ≠ 0) : s.check k 0 ea size = .trap 0x05 ea := by
  obtain ⟨hb, hp⟩ := regionOf_low h
  unfold State.check
  dsimp only
  rw [if_neg hb, if_neg hp, if_neg (by simp [spaceOk_any]), if_pos ha]

theorem bits_loc (h : 0xF000000000000 ≤ ea.toNat) (h' : ea.toNat < 0xF000000008000) : bits ea 14 0 = ea.toNat - 0xF000000000000 := by
  rw [bits_low]; omega

theorem State.ownOff_loc (h : 0xF000000000000 ≤ ea.toNat) (h' : ea.toNat < 0xF000000008000) : s.ownOff ea = some (ea.toNat - 0xF000000000000) := by
  unfold State.ownOff
  rw [regionOf_loc h h']
  dsimp only
  rw [bits_loc h h']

/-- The instruction store is closed to accesses at user level (R23). -/
theorem State.check_code (h : 0xF000000000000 ≤ ea.toNat) (h' : ea.toNat < 0xF000000008000) (ha : ea.toNat % size = 0) (hu : s.cx.super = false)
    (hx : ea.toNat - 0xF000000000000 < s.core.xbound.toNat) : s.check k 0 ea size = .trap 0x04 ea := by
  have hr := regionOf_loc h h'
  unfold State.check
  dsimp only
  rw [hr, if_neg (by decide), if_neg (by decide), if_neg (by simp [spaceOk_any]), if_neg (by simp [ha]), State.ownOff_loc h h']
  exact if_pos (by simpa [hu] using hx)

end

/-! ## What an access answers (R129, R132) -/

section
variable {s : State} {i : Instr} {k : AccKind} {p : Option Mods} {ea : Word} {size : Nat} {e : Eff}

theorem State.access_illegal {f : State → Eff → Nat → Result} (h : effOf k p s.cx.memdef = none) : s.access i k p ea size f = s.illegal i := by
  rw [State.access, h]

theorem State.access_trap {f : State → Eff → Nat → Result} {c : Nat} {v : Word} (h : effOf k p s.cx.memdef = some e)
    (hc : s.check k e.space ea size = .trap c v) : s.access i k p ea size f = s.trap c v := by
  rw [State.access, h]
  dsimp only
  rw [hc]

theorem State.access_ok {f : State → Eff → Nat → Result} {key : Nat} (h : effOf k p s.cx.memdef = some e)
    (hc : s.check k e.space ea size = .ok key) (hg : s.gate e.ord e.scope = true) :
    s.access i k p ea size f = f ((s.touchTlb ea).passGate) e key := by
  rw [State.access, h]
  dsimp only
  rw [hc]
  exact if_pos hg

variable {costs : List Nat} {l : List (Word × Nat)} {f : State → Eff → List (Word × Nat × Nat) → Result}

theorem State.accessAll_illegal (h : effOf k p s.cx.memdef = none) : s.accessAll i k p costs l f = s.illegal i := by
  rw [State.accessAll, h]

theorem State.accessAll_trap {c : Nat} {v : Word} (h : effOf k p s.cx.memdef = some e)
    (hc : s.checkFrom k e.space (s.stagedNow k costs) l = .error (.trap c v)) : s.accessAll i k p costs l f = s.trap c v := by
  rw [State.accessAll, h]
  dsimp only
  rw [hc]

theorem State.accessAll_ok {ks : List (Word × Nat × Nat)} (h : effOf k p s.cx.memdef = some e)
    (hc : s.checkFrom k e.space (s.stagedNow k costs) l = .ok ks) (hg : s.gate e.ord e.scope = true) :
    s.accessAll i k p costs l f = f (((l.map (·.1)).foldl State.touchTlb s).passGate) e ks := by
  rw [State.accessAll, h]
  dsimp only
  rw [hc]
  exact if_pos hg

theorem State.checkFrom_trap {space : Nat} {used : Option (Nat × List Nat)} {c : Nat} {v : Word} (hc : s.check k space ea size = .trap c v) :
    s.checkFrom k space used [(ea, size)] = .error (.trap c v) := by
  rw [State.checkFrom, hc]

/-- One store that is not staged, or finds room, passes as its checks do; STAGEFULL is its last check (R351). -/
theorem State.checkFrom_one {space key : Nat} {used : Option (Nat × List Nat)} (hc : s.check k space ea size = .ok key)
    (hf : s.stageFull key (stageNext used (s.staged key) size) = false) : s.checkFrom k space used [(ea, size)] = .ok [(ea, size, key)] := by
  rw [State.checkFrom, hc]
  dsimp only
  rw [if_neg (by simp [hf])]
  rfl

theorem State.checkFrom_full {space key : Nat} {used : Option (Nat × List Nat)} (hc : s.check k space ea size = .ok key)
    (hf : s.stageFull key (stageNext used (s.staged key) size) = true) : s.checkFrom k space used [(ea, size)] = .error (.trap 0x14 ea) := by
  rw [State.checkFrom, hc]
  dsimp only
  rw [if_pos hf]

end

/-- A load whose access has passed its checks (R133). -/
def loadOf (w : LdWidth) (d : GReg) (i : Instr) (ea : Word) (u : State) (e : Eff) (key : Nat) : Result :=
  u.loadG i e ea (ldBytes w) key (.load d (ldBytes w) (ldSigned w)) fun n s v =>
    .next ((if d = 0 then s else s.later (.g d) [ldValue (ldBytes w) (ldSigned w) v] n).retire i)

/-- A store whose accesses have passed their checks (R133). -/
def storeOf (i : Instr) (val : State → Nat) (u : State) (e : Eff) (ks : List (Word × Nat × Nat)) : Result :=
  .next ((ks.foldl (fun t k => t.putStore e k.1 k.2.1 k.2.2 (val u)) u).afterStore i e
    (asElements (ks.filter fun k => !u.staged k.2.2)) .ack fun t => t.retire i)

theorem exec_ld (p : Option Mods) (w : LdWidth) (d a : GReg) (disp : BitVec 11) (s : State) :
    exec (.ld p w d a disp) s = s.access (.ld p w d a disp) .load p (s.eaM a disp (ldBytes w)) (ldBytes w)
      (loadOf w d (.ld p w d a disp) (s.eaM a disp (ldBytes w))) := rfl
theorem exec_st (p : Option Mods) (wd : StWidth) (d a : GReg) (disp : BitVec 11) (s : State) :
    exec (.st p wd d a disp) s = s.accessAll (.st p wd d a disp) .store p [] [(s.eaM a disp (stBytes wd), stBytes wd)]
      (storeOf (.st p wd d a disp) fun u => (u.g d).toNat) := rfl
theorem exec_stp (p : Option Mods) (d a : GReg) (disp : BitVec 11) (s : State) :
    exec (.stp p d a disp) s = s.accessAll (.stp p d a disp) .store p [] [(s.eaM a disp 16, 16)]
      (storeOf (.stp p d a disp) fun u => (u.g d).toNat + (u.g (d + 1)).toNat * 2 ^ 64) := rfl

section
variable {s : State} {p : Option Mods} {d a : GReg} {disp : BitVec 11} {e : Eff}

/-- A load takes the trap of its checks. -/
theorem trapsWith_ld {w : LdWidth} {c : Nat} {v : Word} (h : effOf .load p s.cx.memdef = some e)
    (hc : s.check .load e.space (addressM s a disp (ldBytes w)) (ldBytes w) = .trap c v) : trapsWith (.ld p w d a disp) s c v := by
  rw [← State.eaM_eq] at hc
  exact (exec_ld p w d a disp s).trans (State.access_trap h hc)

theorem trapsWith_st {wd : StWidth} {c : Nat} {v : Word} (h : effOf .store p s.cx.memdef = some e)
    (hc : s.check .store e.space (addressM s a disp (stBytes wd)) (stBytes wd) = .trap c v) : trapsWith (.st p wd d a disp) s c v := by
  rw [← State.eaM_eq] at hc
  exact (exec_st p wd d a disp s).trans (State.accessAll_trap h (State.checkFrom_trap hc))

end

/-- Settles O19: each refusal from the modifiers or from the check that decides it. -/
theorem accessesAreChecked : Obligations.AccessesAreChecked := by
  intro s m w v d a disp la sa
  obtain ⟨el, hl, hls⟩ := effOf_bare .load s.cx.memdef
  obtain ⟨es, hs, hss⟩ := effOf_bare .store s.cx.memdef
  refine ⟨fun h => ?_, fun h => ?_, fun h => ?_, fun h h' => ?_, fun h h' => ?_, fun hm h ha => ?_, fun hm h h' ha hu hx => ?_,
    fun hm h h' ha hu hx => ?_⟩
  · exact (exec_ld _ w d a disp s).trans (State.access_illegal (effOf_load_none h _))
  · exact (exec_st _ v d a disp s).trans (State.accessAll_illegal (effOf_store_none h _))
  · exact trapsWith_ld hl (State.check_bad (regionOf_beyond h))
  · exact trapsWith_ld hl (State.check_bad (regionOf_gap h h'))
  · exact trapsWith_ld hl (State.check_peer (regionOf_peer h h'))
  · exact trapsWith_ld hl (by rw [hls, hm]; exact State.check_misaligned h ha)
  · exact trapsWith_ld hl (by rw [hls, hm]; exact State.check_code h h' ha hu hx)
  · exact trapsWith_st hs (by rw [hss, hm]; exact State.check_code h h' ha hu hx)

/-! ## An access enters the machine -/

/-- What the translation of an access and the gate change: nothing a program sees, and of the core only its TLB. -/
theorem State.still_touchTlb (s : State) (ea : Word) : s.Still (s.touchTlb ea) := by
  unfold State.touchTlb
  dsimp only
  split
  · exact .refl s
  · split
    · exact s.still_setCore _
    · exact .refl s

theorem State.still_passGate (s : State) : s.Still s.passGate := ⟨rfl, rfl, rfl, rfl, rfl, fun _ => rfl⟩

/-- The state an access that passes its checks and the gate goes on from. -/
def State.passed (s : State) (ea : Word) : State := (s.touchTlb ea).passGate

theorem State.still_passed (s : State) (ea : Word) : s.Still (s.passed ea) := (s.still_touchTlb ea).trans (State.still_passGate _)

/-- It has the core's buffers, and everything else an access reads. -/
theorem State.passed_view (s : State) (ea : Word) :
    (s.passed ea).id = s.id ∧ (s.passed ea).core.sbuf = s.core.sbuf ∧ (s.passed ea).core.staging = s.core.staging
      ∧ (s.passed ea).core.node = s.core.node ∧ (s.passed ea).core.k = s.core.k ∧ (s.passed ea).cx.arith = s.cx.arith := by
  unfold State.passed State.passGate State.touchTlb
  dsimp only
  split
  · exact ⟨rfl, rfl, rfl, rfl, rfl, rfl⟩
  · split <;> exact ⟨rfl, rfl, rfl, rfl, rfl, rfl⟩

theorem State.still_enter (s : State) (src : Src) (key : Nat) (cls : Cls) (e : Eff) (va : Word) (b : Body) (chk : Bool) :
    s.Still (s.enter src key cls e va b chk) := .of_cx_eq rfl rfl
theorem State.still_stage (s : State) (key : Nat) (cls : Cls) (e : Eff) (va : Word) (b : Body) (cost : Nat) :
    s.Still (s.stage key cls e va b cost) := .of_cx_eq rfl rfl

theorem State.awaiting_st (s : State) (i : Instr) (e : Eff) (els : List El) (fin : Finish) : (s.awaiting i e els fin).cx.st = .waiting .reply :=
  State.waitOn_cx_st s .reply

theorem State.Still.holds_awaiting {s u : State} (h : s.Still u) (i : Instr) (e : Eff) (els : List El) (fin : Finish) : s.Holds (u.awaiting i e els fin) := by
  obtain ⟨hr, hp, hs, hf, hm⟩ := h.holds_waitOn .reply
  exact ⟨hr, hp, hs, hf, hm⟩

theorem State.awaiting_core (s : State) (i : Instr) (e : Eff) (els : List El) (fin : Finish) : (s.awaiting i e els fin).core = s.core :=
  State.waitOn_core s .reply

/-! ## Stores (R133, R134, R157, R351) -/

section
variable {s : State} {p : Option Mods} {a d : GReg} {disp : BitVec 11} {e : Eff} {key size val : Nat} {ea : Word} {i : Instr}

theorem State.staged_none (hn : s.core.node = none) (key : Nat) : s.staged key = false := by simp [State.staged, hn]

theorem State.staged_some (hn : s.core.node.isSome = true) (hk : homeOf key ≠ .core s.id) : s.staged key = true := by
  simp [State.staged, hn, hk]

theorem State.stageFull_unstaged (h : s.staged key = false) (now : Option (Nat × List Nat)) : s.stageFull key now = false := by
  unfold State.stageFull
  split
  · simp [h]
  · rfl

/-- A store that is buffered: it has ended, or under CHK waits for its acknowledgement. -/
theorem storeOf_buffered {val : State → Nat} (h : s.staged key = false) :
    storeOf i val s e [(ea, size, key)] = .next (if e.chk then (s.enter s.mine key .w e ea (.store key size (val s)) e.chk).awaiting i e [⟨key, ea, size, .asked⟩] .ack
      else (s.enter s.mine key .w e ea (.store key size (val s)) e.chk).retire i) := by
  have hput : s.putStore e ea size key (val s) = s.enter s.mine key .w e ea (.store key size (val s)) e.chk := by
    rw [State.putStore, State.putCost, h]; rfl
  have hels : asElements ([(ea, size, key)].filter fun k => !s.staged k.2.2) = [⟨key, ea, size, .asked⟩] := by simp [h, asElements]
  rw [storeOf, hels, List.foldl_cons, List.foldl_nil, hput, State.afterStore]
  simp

/-- One that is staged has ended (R157). -/
theorem storeOf_staged {val : State → Nat} (h : s.staged key = true) :
    storeOf i val s e [(ea, size, key)] = .next ((s.stage key .w e ea (.store key size (val s)) ((size + 7) / 8)).retire i) := by
  have hput : s.putStore e ea size key (val s) = s.stage key .w e ea (.store key size (val s)) ((size + 7) / 8) := by
    rw [State.putStore, State.putCost, h]; rfl
  have hels : asElements ([(ea, size, key)].filter fun k => !s.staged k.2.2) = [] := by simp [h, asElements]
  rw [storeOf, hels, List.foldl_cons, List.foldl_nil, hput, State.afterStore]
  simp

/-- How a store of one access ends that is not staged. -/
theorem store_buffered {val : State → Nat} (hv : ∀ u, s.Still u → val u = val s)
    (he : exec i s = s.accessAll i .store p [] [(ea, size)] (storeOf i val)) (h : effOf .store p s.cx.memdef = some e)
    (hg : s.gate e.ord e.scope = true) (hn : s.core.node = none) (hc : s.check .store e.space ea size = .ok key) :
    ∃ t, ∃ x : Entry, exec i s = .next t ∧ t.core.sbuf = s.core.sbuf ++ [x] ∧ x.body = .store key size (val s) ∧ x.ord = e.ord ∧ x.scope = e.scope
      ∧ x.src = .ctx s.id s.core.k ∧ x.chk = e.chk
      ∧ (e.chk = false → s.Went t i 0) ∧ (e.chk = true → t.cx.st = .waiting .reply ∧ s.Holds t) := by
  obtain ⟨hid, hb, -, hno, hk, -⟩ := s.passed_view ea
  have hst : (s.passed ea).staged key = false := State.staged_none (hno.trans hn) key
  have hx : exec i s = storeOf i val (s.passed ea) e [(ea, size, key)] :=
    he.trans (State.accessAll_ok h (State.checkFrom_one hc (State.stageFull_unstaged (State.staged_none hn key) _)) hg)
  rw [storeOf_buffered hst, hv _ (s.still_passed ea)] at hx
  have hmine : (s.passed ea).mine = .ctx s.id s.core.k := by rw [State.mine, hid, hk]
  have hu : s.Still ((s.passed ea).enter (s.passed ea).mine key .w e ea (.store key size (val s)) e.chk) :=
    (s.still_passed ea).trans (State.still_enter _ _ _ _ _ _ _ _)
  refine ⟨_, ⟨(s.passed ea).seq, (s.passed ea).mine, homeOf key, .w, !(s.passed ea).cx.super, e.ord, e.scope, ea, .store key size (val s), e.chk⟩, hx,
    ?_, rfl, rfl, rfl, hmine, rfl, fun hchk => ?_, fun hchk => ?_⟩
  · rw [← hb]
    split
    · rw [State.awaiting_core]; rfl
    · rfl
  · rw [hchk] at hu ⊢; exact hu.went_retire i
  · rw [hchk] at hu ⊢; exact ⟨State.awaiting_st _ _ _ _ _, hu.holds_awaiting _ _ _ _⟩

end

theorem storesEnterTheBuffer : Claims.StoresEnterTheBuffer := by
  intro s p wd d a disp e key h hg hn ends
  refine ⟨fun hc => ?_, fun hc => ?_⟩
  · rw [← State.eaM_eq] at hc
    obtain ⟨t, x, ht, hb, hbody, ho, hsc, hsrc, hend⟩ := store_buffered (fun u hu => by rw [hu.g]) (exec_st p wd d a disp s) h hg hn hc
    exact ⟨t, x, ht, hb, hbody, ho, hsc, hsrc, hend⟩
  · rw [← State.eaM_eq] at hc
    obtain ⟨t, x, ht, hb, hbody, ho, hsc, -, hend⟩ := store_buffered (fun u hu => by rw [hu.g, hu.g]) (exec_stp p d a disp s) h hg hn hc
    exact ⟨t, x, ht, hb, hbody, ho, hsc, hend⟩

theorem stBytes_words (wd : StWidth) : (stBytes wd + 7) / 8 = 1 := by cases wd <;> rfl

theorem nodeStoresAreStaged : Claims.NodeStoresAreStaged := by
  intro s p wd d a disp e key ea h hg hn hk hc
  have hst : s.staged key = true := State.staged_some hn hk
  have hnow : stageNext (s.stagedNow .store []) (s.staged key) (stBytes wd) = some (s.core.stageUsed + 1, []) := by
    rw [hst]
    simp [State.stagedNow, stageNext, stBytes_words]
  have hea : ea = s.eaM a disp (stBytes wd) := (s.eaM_eq a disp _).symm
  refine ⟨fun hu => ?_, fun hu => ?_⟩
  · have hroom : s.stageFull key (stageNext (s.stagedNow .store []) (s.staged key) (stBytes wd)) = false := by
      rw [hnow]; simp [State.stageFull]; omega
    obtain ⟨hid, hb, hsg, hno, -, -⟩ := s.passed_view ea
    have hst' : (s.passed ea).staged key = true := by rw [State.staged, hno, hid]; exact hst
    have hx : exec (.st p wd d a disp) s = storeOf (.st p wd d a disp) (fun u => (u.g d).toNat) (s.passed ea) e [(ea, stBytes wd, key)] := by
      rw [exec_st, ← hea]
      exact State.accessAll_ok h (State.checkFrom_one hc hroom) hg
    rw [storeOf_staged hst', (s.still_passed ea).g, stBytes_words] at hx
    refine ⟨_, ⟨(s.passed ea).core.k, ⟨(s.passed ea).seq, .node (s.passed ea).id, homeOf key, .w, !(s.passed ea).cx.super, e.ord, e.scope, ea,
      .store key (stBytes wd) (s.g d).toNat, false⟩, 1⟩, hx, ?_, hb, rfl, rfl, ((s.still_passed ea).trans (State.still_stage _ _ _ _ _ _ _)).went_retire _⟩
    rw [← hsg]; rfl
  · have hfull : s.stageFull key (stageNext (s.stagedNow .store []) (s.staged key) (stBytes wd)) = true := by
      rw [hnow]; simp [State.stageFull, hst]; omega
    rw [hea]
    exact (exec_st p wd d a disp s).trans (State.accessAll_trap h (State.checkFrom_full (by rw [← hea]; exact hc) hfull))

/-- Settles O20. -/
theorem storesAreBuffered : Obligations.StoresAreBuffered := ⟨storesEnterTheBuffer, nodeStoresAreStaged⟩

end Sys2Proof.Machine
end

section
/-!
PROOFS. Atomics, FENCE and ECHK (R135–R138, R270, R349).
-/
namespace Sys2Proof.Machine
open Sys2Proof

/-! ## Atomics (R135, R136) -/

/-- An AMO whose access has passed its checks. -/
def amoOf (i : Instr) (op : AmoOp) (size : Nat) (d b : GReg) (exp ea : Word) (u : State) (e : Eff) (key : Nat) : Result :=
  let t := u.enter u.mine key .a e ea (.amo op key size ((u.g b).toNat % 256 ^ size) (exp.toNat % 256 ^ size) [] (d != 0) u.cx.detred)
    (d != 0 || e.chk || e.ord == 3 || e.ord == 5 || e.ord == 6)
  if d != 0 || e.chk || e.ord == 3 || e.ord == 5 || e.ord == 6 then .next (t.awaiting i e [⟨key, ea, size, .asked⟩] (.amo d size (amoSigned op)))
  else .next (t.retire i)

theorem State.amo_eq (s : State) (i : Instr) (p : Option Mods) (op : AmoOp) (size : Nat) (d b : GReg) (exp ea : Word) :
    s.amo i p op size d b exp ea = s.access i .amo p ea size (amoOf i op size d b exp ea) := rfl

/-- An instruction that is an AMO enters the buffer as one (R135). -/
theorem amoEnters_of_amo {s : State} {i : Instr} {p : Option Mods} {op : AmoOp} {size : Nat} {d b : GReg} {exp ea ea' : Word} (ha : ea' = ea)
    (he : exec i s = s.amo i p op size d b exp ea') : amoEnters s i p op size d b exp ea := by
  subst ha
  intro e key h hg hc
  have hx := he.trans ((s.amo_eq i p op size d b exp ea').trans (State.access_ok h hc hg))
  obtain ⟨-, hb, -, -, -, har⟩ := s.passed_view ea'
  have hs := s.still_passed ea'
  let body : Body := .amo op key size ((s.g b).toNat % 256 ^ size) (exp.toNat % 256 ^ size) [] (d != 0) (bit s.cx.arith 11)
  let waits := d != 0 || e.chk || e.ord == 3 || e.ord == 5 || e.ord == 6
  have hbody : ((s.passed ea').enter (s.passed ea').mine key .a e ea' (.amo op key size (((s.passed ea').g b).toNat % 256 ^ size) (exp.toNat % 256 ^ size) []
      (d != 0) (s.passed ea').cx.detred) waits) = (s.passed ea').enter (s.passed ea').mine key .a e ea' body waits := by
    rw [hs.g, Context.detred, har]
  have hu : s.Still ((s.passed ea').enter (s.passed ea').mine key .a e ea' body waits) := hs.trans (State.still_enter _ _ _ _ _ _ _ _)
  have hy : exec i s = .next (if waits then ((s.passed ea').enter (s.passed ea').mine key .a e ea' body waits).awaiting i e [⟨key, ea', size, .asked⟩]
      (.amo d size (amoSigned op)) else ((s.passed ea').enter (s.passed ea').mine key .a e ea' body waits).retire i) := by
    rw [hx, ← hbody]
    exact (apply_ite _ _ _ _).symm
  refine ⟨_, ⟨(s.passed ea').seq, (s.passed ea').mine, homeOf key, .a, !(s.passed ea').cx.super, e.ord, e.scope, ea', body, waits⟩, hy, ?_, rfl, rfl, rfl,
    fun hn => ?_, fun hd => ?_⟩
  · rw [← hb]
    split
    · rw [State.awaiting_core]; rfl
    · rfl
  · obtain ⟨rfl, hchk, ho⟩ := hn
    have hw : waits = false := by rcases ho with ho | ho | ho <;> simp [waits, hchk, ho]
    rw [if_neg (by simp [hw])]
    exact hu.went_retire i
  · have hne : (d != 0) = true := bne_iff_ne.mpr hd
    have hw : waits = true := by simp only [waits, hne, Bool.true_or]
    rw [if_pos hw]
    exact ⟨State.awaiting_st _ _ _ _ _, hu.holds_awaiting _ _ _ _, _, rfl, rfl, rfl⟩

theorem amoBytes_eq (w : Bool) : amoBytes w = if w then 4 else 8 := rfl

theorem atomicsEnterTheBuffer : Claims.AtomicsEnterTheBuffer := fun s _ _ _ _ _ a disp =>
  have h := s.eaX_eq a disp
  ⟨amoEnters_of_amo h rfl, amoEnters_of_amo h rfl, amoEnters_of_amo h rfl, amoEnters_of_amo h rfl, amoEnters_of_amo h rfl, amoEnters_of_amo h rfl,
    amoEnters_of_amo h rfl, amoEnters_of_amo h rfl, amoEnters_of_amo h rfl, amoEnters_of_amo h rfl, amoEnters_of_amo h rfl⟩

/-- A signed comparison of two numbers below 2^n as words of n bits. -/
theorem slt_ofNat (n x y : Nat) : (BitVec.ofNat n x).slt (BitVec.ofNat n y) = decide (Int.bmod x (2 ^ n) < Int.bmod y (2 ^ n)) := by
  rw [BitVec.slt, BitVec.toInt_ofNat', BitVec.toInt_ofNat']

/-- The integer operations of an AMO on n bits. -/
theorem amoNew_results (size old x e : Nat) (ho : old < 2 ^ (8 * size)) (hx : x < 2 ^ (8 * size)) (he : e < 2 ^ (8 * size)) :
    let m := 2 ^ (8 * size)
    amoNew .add size old x e = (old + x) % m ∧ amoNew .and size old x e = old &&& x ∧ amoNew .or size old x e = old ||| x
    ∧ amoNew .xor size old x e = old ^^^ x ∧ amoNew .swp size old x e = x ∧ amoNew .cas size old x e = (if old = e then x else old)
    ∧ amoNew .minZ size old x e = min old x ∧ amoNew .maxZ size old x e = max old x
    ∧ amoNew .min size old x e = (if Int.bmod old m ≤ Int.bmod x m then old else x)
    ∧ amoNew .max size old x e = (if Int.bmod old m ≤ Int.bmod x m then x else old) := by
  intro m
  have told : (BitVec.ofNat (8 * size) old).toNat = old := by rw [BitVec.toNat_ofNat, Nat.mod_eq_of_lt ho]
  have tx : (BitVec.ofNat (8 * size) x).toNat = x := by rw [BitVec.toNat_ofNat, Nat.mod_eq_of_lt hx]
  have te : (BitVec.ofNat (8 * size) e).toNat = e := by rw [BitVec.toNat_ofNat, Nat.mod_eq_of_lt he]
  have hinj : Int.bmod old m = Int.bmod x m → old = x := by
    intro h
    have hi : (BitVec.ofNat (8 * size) old).toInt = (BitVec.ofNat (8 * size) x).toInt := by rw [BitVec.toInt_ofNat', BitVec.toInt_ofNat']; exact h
    rw [← told, ← tx, BitVec.eq_of_toInt_eq hi]
  have hslt : (BitVec.ofNat (8 * size) old).slt (BitVec.ofNat (8 * size) x) = decide (Int.bmod old m < Int.bmod x m) := slt_ofNat _ _ _
  refine ⟨?_, ?_, ?_, ?_, tx, ?_, ?_, ?_, ?_, ?_⟩
  · simp only [amoNew, BitVec.toNat_add, told, tx]; rfl
  · simp only [amoNew, BitVec.toNat_and, told, tx]
  · simp only [amoNew, BitVec.toNat_or, told, tx]
  · simp only [amoNew, BitVec.toNat_xor, told, tx]
  · have heq : BitVec.ofNat (8 * size) old = BitVec.ofNat (8 * size) e ↔ old = e := by
      rw [← BitVec.toNat_inj, told, te]
    simp only [amoNew, heq]
    split <;> assumption
  · simp only [amoNew, BitVec.ult, told, tx]
    split <;> simp_all <;> omega
  · simp only [amoNew, BitVec.ult, told, tx]
    split <;> simp_all <;> omega
  · simp only [amoNew, hslt, decide_eq_true_eq]
    split
    · rw [if_pos (by omega), told]
    · split
      · rw [tx]; exact (hinj (by omega)).symm
      · exact tx
  · simp only [amoNew, hslt, decide_eq_true_eq]
    split
    · rw [if_pos (by omega), tx]
    · split
      · rw [told]; exact hinj (by omega)
      · exact told

theorem atomicResults : Claims.AtomicResults := by
  intro size old x e _ ho hx he
  have hm : 256 ^ size = 2 ^ (8 * size) := by rw [Nat.pow_mul]
  intro m
  have hmm : m = 2 ^ (8 * size) := hm
  have hc : (m : Int) = ((2 ^ (8 * size) : Nat) : Int) := by rw [hmm]
  rw [hmm]
  exact amoNew_results size old x e (hm ▸ ho) (hm ▸ hx) (hm ▸ he)

/-- Settles O21. -/
theorem atomicsComputeAtTheirHome : Obligations.AtomicsComputeAtTheirHome := ⟨atomicsEnterTheBuffer, atomicResults⟩

/-! ## FENCE and ECHK (R137, R138, R270) -/

section
variable {s : State} {k : FenceKind} {sc : BitVec 3}

/-- The scope a fence names, MEMDEF's for 0. -/
def State.fenceScope (s : State) (sc : BitVec 3) : Nat := if sc = 0 then bits s.cx.memdef 5 3 else sc.toNat

theorem execFence_waits (h : s.fenceReady k (s.fenceScope sc) = false) : exec (.fence k sc) s = s.wait .reply :=
  if_neg (fun hr => Bool.false_ne_true (h.symm.trans hr))

theorem execFence_goes (h : s.fenceReady k (s.fenceScope sc) = true) :
    exec (.fence k sc) s = match k with
      | .full => (s.setCx (s.cx.fenceAcquire s.cy)).done (.fence k sc)
      | .acq => (s.setCx (s.cx.fenceAcquire s.cy)).done (.fence k sc)
      | .rel => s.done (.fence k sc)
      | .ss => s.done (.fence k sc) := by
  cases k <;> exact if_pos h

end

theorem State.still_fenceAcquire (s : State) (now : Nat) : s.Still (s.setCx (s.cx.fenceAcquire now)) := ⟨rfl, rfl, rfl, rfl, rfl, fun _ => rfl⟩

theorem fencesOrderTheContext : Claims.FencesOrderTheContext := by
  intro s k sc scope
  refine ⟨fun h => ?_, fun h => waitsWith_of_wait _ s _ (execFence_waits h)⟩
  have he := execFence_goes h
  cases k with
  | full => exact ⟨_, he, (s.still_fenceAcquire _).went_retire _, rfl, fun _ => ⟨rfl, rfl, rfl⟩, fun hk => by simp at hk⟩
  | acq => exact ⟨_, he, (s.still_fenceAcquire _).went_retire _, rfl, fun _ => ⟨rfl, rfl, rfl⟩, fun hk => by simp at hk⟩
  | rel => exact ⟨_, he, (State.Still.refl s).went_retire _, rfl, fun hk => by simp at hk, fun _ => ⟨rfl, rfl, rfl⟩⟩
  | ss => exact ⟨_, he, (State.Still.refl s).went_retire _, rfl, fun hk => by simp at hk, fun _ => ⟨rfl, rfl, rfl⟩⟩

/-- Below supervisor level and outside a phalanx a trap saves its registers and changes no general register and no memory. -/
theorem State.trapEntry_saves {s : State} (hp : s.cx.inPhlx = false) (hu : s.cx.super = false) (code source : Nat) (imp : Bool) (v : Word) :
    let t := s.trapEntry code source imp v
    t.cx.epc = zext s.cx.pc ∧ t.cx.tval = v ∧ t.cx.cause = BitVec.ofNat 64 (code + (if imp then 256 else 0) + source * 512) ∧ (∀ r, t.g r = s.g r)
      ∧ t.mem = s.mem := by
  intro t
  by_cases h : s.cx.delegates code = true ∧ s.cx.inTrap = false
  · have e : t = _ := State.trapEntry_user hp code source imp v hu h.1 h.2
    rw [e]; exact ⟨rfl, rfl, rfl, fun _ => rfl, rfl⟩
  · have e : t = _ := State.trapEntry_super hp code source imp v hu (by
      cases hd : s.cx.delegates code
      · exact .inl rfl
      · exact .inr (by simpa [hd] using h))
    rw [e]; exact ⟨rfl, rfl, rfl, fun _ => rfl, rfl⟩

section
variable {s : State}

theorem execEchk_waits (h : s.checked = false) : exec .echk s = s.wait .reply := if_neg (by simp [h])

theorem execEchk_checks (h : s.checked = true) (hn : s.core.nodeErr = none) :
    exec .echk s = if bit s.cx.errpend 0 then s.trapPending else s.done .echk := by
  refine (if_pos h).trans ?_
  simp [State.checkPoint, hn]

end

theorem checkTakesPendingErrors : Claims.CheckTakesPendingErrors := by
  intro s hn
  refine ⟨fun hc he => completesAt_of_jump .echk s _ ?_, fun hc => waitsWith_of_wait _ s _ (execEchk_waits hc), fun hc he hu hp => ?_⟩
  · refine (execEchk_checks hc hn).trans ((if_neg (by simp [he])).trans rfl)
  · have h : exec .echk s = s.trapPending := (execEchk_checks hc hn).trans (if_pos he)
    obtain ⟨hepc, htval, hcause, hg, hm⟩ := State.trapEntry_saves (s := s.setCx { s.cx with trapNext := false }) hp hu (bits s.cx.errpend 15 8) s.cx.errSource
      true s.cx.errTval
    exact ⟨_, h, hepc, htval, hcause, hg, fun k => by rw [hm]; rfl⟩

/-- Settles O22. -/
theorem fencesAndErrorChecks : Obligations.FencesAndErrorChecks := ⟨fencesOrderTheContext, checkTakesPendingErrors⟩

end Sys2Proof.Machine
end

section
/-!
PROOFS. Writes on their way: DRAIN and APPLY (R263–R266); lines, applied vectors and results (R101, R272, R334).
-/
namespace Sys2Proof.Machine
open Sys2Proof

/-! ## What the application of a write does beside its bytes -/

theorem State.setStamp_same (s : State) (w : Nat) (ws ls : Stamp) : s.SameMemories (s.setStamp w ws ls) := ⟨rfl, rfl, rfl, rfl⟩

theorem State.amoStamp_same (s : State) (w : Nat) (rlx : Bool) (st : Stamp) : s.SameMemories (s.amoStamp w rlx st) := by
  unfold State.amoStamp
  exact State.SameMemories.ite _ (s.setStamp_same _ _ _) (s.setStamp_same _ _ _)

theorem State.placeWrite_same (s : State) (m : Msg) (w : Nat) : s.SameMemories (s.placeWrite m w) := by
  have hb : s.SameMemories (s.bumpOrder w) := ⟨rfl, rfl, rfl, rfl⟩
  unfold State.placeWrite
  refine State.SameMemories.ite _ hb (hb.trans (State.SameMemories.trans (State.sameMemories_foldl _ (fun t p => ?_) m.parts _)
    ((State.modAll_same _ _ _).trans (State.modCore_same _ _ _))))
  split
  · exact t.modCx_same _ _ _
  · exact .refl t

theorem State.stampWord_same (s : State) (m : Msg) (isAmo : Bool) (w : Nat) : s.SameMemories (s.stampWord m isAmo w) := by
  unfold State.stampWord
  exact (State.SameMemories.ite _ (s.amoStamp_same _ _ _) (s.setStamp_same _ _ _)).trans (State.placeWrite_same _ m w)

theorem State.stampWords_same (s : State) (m : Msg) (isAmo : Bool) (ws : List Nat) : s.SameMemories (ws.foldl (fun t w => t.stampWord m isAmo w) s) :=
  State.sameMemories_foldl _ (fun t w => t.stampWord_same m isAmo w) ws s

theorem State.forget_same (s : State) (m : Msg) : s.SameMemories (s.forget m) := s.modAll_same _ _

theorem State.answerTo_same (s : State) (m : Msg) (p : Part) (size key : Nat) (isAmo : Bool) (v : Nat) (ws ls : Stamp) (bad : Bool) :
    s.SameMemories (s.answerTo m p size key isAmo v ws ls bad) := by
  unfold State.answerTo
  split
  · exact State.SameMemories.ite _ (s.modCx_same _ _ _) (State.SameMemories.ite _ (s.modCore_same _ _) (.refl s))
  · exact .refl s

theorem State.answerAll_same (s : State) (m : Msg) (size key : Nat) (isAmo : Bool) (v : Nat) (ws ls : Stamp) (bad : Bool) :
    s.SameMemories (s.answerAll m size key isAmo v ws ls bad) :=
  State.sameMemories_foldl _ (fun t p => t.answerTo_same m p size key isAmo v ws ls bad) m.parts s

theorem State.dropMsg_same (s : State) (id : Nat) : s.SameMemories (s.dropMsg id) := ⟨rfl, rfl, rfl, rfl⟩

/-! ## What is written (R135, R266) -/

theorem State.storeAt_mem (s : State) (m : Msg) (key size val : Nat) : (s.storeAt m key size val).mem = Memory.putN s.mem key size val := by
  unfold State.storeAt
  exact ((State.stampWords_same _ m false _).trans (State.forget_same _ m)).mem

theorem State.applyAmo_mem {s : State} {key : Nat} (h : key / 8 ∉ s.poison) (m : Msg) (op : AmoOp) (size x e : Nat) :
    (s.applyAmo m op key size x e).mem = Memory.putN s.mem key size (amoNew op size (Memory.getN s.mem key size) x e) := by
  unfold State.applyAmo
  dsimp only
  rw [if_neg (by simpa using h)]
  exact ((State.stampWord_same _ m true _).trans ((State.forget_same _ m).trans (State.answerAll_same _ m _ _ _ _ _ _ _))).mem

theorem State.applyDeps_mem {s : State} {key : Nat} (h : bits (s.nodeWord key 0) 43 20 ≠ 1) (m : Msg) :
    (s.applyDeps m key).mem = Memory.putN s.mem key 8 (setBits (s.nodeWord key 0) 43 20 (bits (s.nodeWord key 0) 43 20 - 1)).toNat := by
  have hn : (bits (s.nodeWord key 0) 43 20 == 1) = false := by simpa using h
  unfold State.applyDeps
  dsimp only
  rw [hn, Bool.false_and]
  exact (State.stampWord_same _ m true _).mem

/-- What a write of `n` bytes leaves there, and outside them. -/
theorem Memory.putN_spec (m : List Host.Cell) (key n v : Nat) :
    Memory.getN (Memory.putN m key n v) key n = v % 256 ^ n ∧ ∀ a, a < key ∨ key + n ≤ a → Memory.get (Memory.putN m key n v) a = Memory.get m a :=
  ⟨Memory.getN_putN m key n v, fun a h => Memory.get_putN_outside m key n v a h⟩

section
variable {s : State} {item : Nat} {m : Msg}

/-- APPLY of a write at the head of its route that is released. -/
theorem execApply_eq (hm : s.msg item = some m) (hh : s.atHead m = true) (hr : s.released m = true) :
    exec (.apply item) s = match m.body with
      | .store key size val =>
        match (s.dropMsg item).dropCode m key size with
        | some code => .next ((s.dropMsg item).dropWrite m key size code false)
        | none => .next (((s.dropMsg item).storeAt m key size val).answerAll m size key false 0 [] [] false)
      | .bits key size val mask =>
        match (s.dropMsg item).dropCode m key size with
        | some code => .next ((s.dropMsg item).dropWrite m key size code false)
        | none => .next (((s.dropMsg item).storeAt m key size (blend (Memory.getN s.mem key size) val mask)).answerAll m size key false 0 [] [] false)
      | .amo op key size x e _ _ _ =>
        match (s.dropMsg item).dropCode m key size with
        | some code => .next ((s.dropMsg item).dropWrite m key size code true)
        | none => .next ((s.dropMsg item).applyAmo m op key size x e)
      | .deps key => .next ((s.dropMsg item).applyDeps m key)
      | .push key wq => .next (((s.dropMsg item).pushNode key wq).stampWord m false (key / 8))
      | _ => .next s := by
  have he : exec (.apply item) s = execApply item s := rfl
  rw [he, execApply, hm]
  exact (if_neg (by simp [hh, hr])).trans rfl

end

/-- Settles O24: each kind of write puts its bytes at its place, and what else its application does changes no byte. -/
theorem writesChangeExactlyTheirBytes : Obligations.WritesChangeExactlyTheirBytes := by
  intro s item m hm hh hr
  have he := execApply_eq hm hh hr
  refine ⟨fun key size val hb hd => ?_, fun op key size x e more res det hb hd hp => ?_, fun key size val mask hb hd => ?_, fun key hb hn => ?_⟩
  · simp only [hb, hd] at he
    refine ⟨_, he, ?_⟩
    rw [(State.answerAll_same _ m _ _ _ _ _ _ _).mem, State.storeAt_mem]
    exact Memory.putN_spec s.mem key size val
  · simp only [hb, hd] at he
    refine ⟨_, he, ?_⟩
    rw [State.applyAmo_mem (s := s.dropMsg item) hp]
    exact Memory.putN_spec s.mem key size _
  · simp only [hb, hd] at he
    refine ⟨_, he, ?_⟩
    rw [(State.answerAll_same _ m _ _ _ _ _ _ _).mem, State.storeAt_mem]
    exact Memory.putN_spec s.mem key size _
  · simp only [hb] at he
    refine ⟨_, he, ?_⟩
    rw [State.applyDeps_mem (s := s.dropMsg item) hn]
    obtain ⟨h, h'⟩ := Memory.putN_spec s.mem key 8 (setBits (s.nodeWord key 0) 43 20 (bits (s.nodeWord key 0) 43 20 - 1)).toNat
    exact ⟨h.trans (Nat.mod_eq_of_lt (BitVec.isLt _)), h'⟩

/-! ## DRAIN (R263, R264) -/

theorem Clock.at_putGrow (c : Clock) (i n : Nat) : Clock.at (putGrow 0 c i n) i = n := by
  have h : i < (c ++ List.replicate (i + 1 - c.length) 0).length := by simp; omega
  simp [Clock.at, putGrow, List.getD_eq_getElem?_getD, List.getElem?_set_self h]

theorem Core.l1Store_sbuf (c : Core) (b : Body) (id : Nat) : (c.l1Store b id).sbuf = c.sbuf := by
  unfold Core.l1Store; split <;> rfl

/-- The core in view with an entry sent (R263). -/
def State.sentOff (s : State) (item : Nat) (e : Entry) : State :=
  let s1 := s.modCore s.id fun c => { (c.l1Store e.body e.id) with sbuf := c.sbuf.filter fun x => x.id != item }
  { s1 with dieN := if e.body.isWrite then putGrow 0 s1.dieN (pdieOf s.id) (Clock.at s1.dieN (pdieOf s.id) + 1) else s1.dieN }

/-- A body that is no flit takes the other way. -/
theorem Body.not_flit {b : Body} (x : Flit → Result) (y : Result) : (∀ f, b ≠ .flit f) → (match b with | .flit f => x f | _ => y) = y := by
  intro h
  split
  · exact absurd rfl (h _)
  · rfl

theorem execDrain_eq {s : State} {item : Nat} {e : Entry} (he : s.core.entry item = some e) (hd : s.drainable s.id e = true) (hp : e.dest.isPeer = false)
    (hf : ∀ f, e.body ≠ .flit f) : exec (.drain s.id item) s = .next { s.sentOff item e with flight := s.flight ++ [s.messageOf s.id e] } := by
  have hx : exec (.drain s.id item) s = execDrain s.id item s := rfl
  rw [hx, execDrain, State.coreAt_here, he]
  refine (if_neg (by simp [hd, hp])).trans ?_
  have hfl : (s.sentOff item e).flight = s.flight := by
    show (s.modCore s.id _).flight = s.flight
    rw [State.modCore_view]; rfl
  refine (Body.not_flit _ _ hf).trans ?_
  rw [← hfl]; rfl

/-- Settles the first part of O25. -/
theorem drainSendsABufferedWrite : Claims.DrainSendsABufferedWrite := by
  intro s item e he hd hp hf
  have hc : (s.sentOff item e).core = { (s.core.l1Store e.body e.id) with sbuf := s.core.sbuf.filter fun x => x.id != item } := by
    show (s.modCore s.id _).core = _
    rw [State.modCore_view]; rfl
  have hn : (s.modCore s.id fun c => { (c.l1Store e.body e.id) with sbuf := c.sbuf.filter fun x => x.id != item }).dieN = s.dieN := by
    rw [State.modCore_view]; rfl
  refine ⟨_, s.messageOf s.id e, execDrain_eq he hd hp hf, rfl, rfl, rfl, rfl, rfl, by rw [hc], fun hw => ⟨?_, ?_⟩, fun a => ?_⟩
  · simp [State.messageOf, hw]
  · show Clock.at (s.sentOff item e).dieN (pdieOf s.id) = _
    unfold State.sentOff
    dsimp only
    rw [hw, hn]
    exact Clock.at_putGrow _ _ _
  · show Memory.get (s.modCore s.id _).mem a = _
    rw [State.modCore_mem]

/-! ## Lines, applied vectors, results (R101, R272, R334) -/

/-- A change made from the context in view, which stays in view, is made in place. -/
theorem State.within_view {s : State} {f : State → State} (hid : (f s).id = s.id) (hk : (f s).core.k = s.core.k) : s.within s.id s.core.k f = f s := by
  have hf : s.focus s.id s.core.k = s := by rw [State.focus, State.toCore_self, State.toCtx_self]
  have hc : (f s).toCore s.id = f s := by rw [← hid, State.toCore_self]
  have hx : (f s).toCtx s.core.k = f s := by rw [← hk, State.toCtx_self]
  unfold State.within
  rw [hf]
  dsimp only
  rw [hc, hx, hc, hx]

theorem State.writePending_view (s : State) (p : Pending) : (s.writePending p).id = s.id ∧ (s.writePending p).core.k = s.core.k := by
  unfold State.writePending
  split
  · exact ⟨rfl, rfl⟩
  · exact ⟨rfl, rfl⟩
  · split <;> exact ⟨rfl, rfl⟩
  · exact ⟨rfl, rfl⟩

/-- The results that are due, written. -/
def State.writeDue (s : State) : State :=
  let t := (s.cx.pend.filter fun p => decide (p.due ≤ s.cy)).foldl State.writePending s
  t.setCx { t.cx with pend := s.cx.pend.filter fun p => decide (s.cy < p.due) }

theorem execResultWriteback_view (s : State) : exec (.resultWriteback s.id s.core.k) s = .next s.writeDue := by
  have h : ∀ (l : List Pending) (t : State), (l.foldl State.writePending t).id = t.id ∧ (l.foldl State.writePending t).core.k = t.core.k := by
    intro l
    induction l with
    | nil => exact fun t => ⟨rfl, rfl⟩
    | cons p l ih => exact fun t => ⟨(ih _).1.trans (t.writePending_view p).1, (ih _).2.trans (t.writePending_view p).2⟩
  obtain ⟨hid, hk⟩ := h (s.cx.pend.filter fun p => decide (p.due ≤ s.cy)) s
  exact congrArg Host.Outcome.next (State.within_view (f := State.writeDue) hid hk)

section
variable {s : State} {x : Dest} {vs : List Word} {c : Nat}

/-- One result, due or not. -/
theorem State.writeDue_due (hp : s.cx.pend = [⟨x, vs, c⟩]) (hc : c ≤ s.cy) :
    s.writeDue = (s.writePending ⟨x, vs, c⟩).setCx { (s.writePending ⟨x, vs, c⟩).cx with pend := [] } := by
  have hn : ¬ s.cy < c := by omega
  simp [State.writeDue, hp, hc, hn]

theorem State.writeDue_later (hp : s.cx.pend = [⟨x, vs, c⟩]) (hc : s.cy < c) : s.writeDue = s := by
  have hn : ¬ c ≤ s.cy := by omega
  simp only [State.writeDue, hp, hn, hc, List.filter_cons, List.filter_nil, decide_true, decide_false, Bool.false_eq_true, if_true, if_false, List.foldl_nil]
  rw [← hp]; rfl

end

theorem Table.find_set_self {α : Type} (l : List (Nat × α)) (a : Nat) (x : α) : Table.find (Table.set l a x) a = some x := by
  rw [Table.find_set, if_pos rfl]

theorem State.still_pend (s : State) (l : List Pending) : s.Still (s.setCx { s.cx with pend := l }) := ⟨rfl, rfl, rfl, rfl, rfl, fun _ => rfl⟩

theorem evictBroadcastAndWriteback : Claims.EvictBroadcastAndWriteback := by
  intro s line die
  have hw := execResultWriteback_view s
  refine ⟨⟨_, rfl, ?_, (s.still_modCore _ _).holds⟩, ⟨_, rfl, fun h hh => ?_, ⟨fun _ => rfl, rfl, rfl, rfl, fun _ => rfl⟩⟩, fun d v c hp => ?_,
    fun d vs c hp hc => ?_, fun n v c w hp hc hf => ?_⟩
  · rw [State.modCore_view]; rfl
  · show Clock.at (((List.range 16).map fun h => putGrow 0 (s.dieV.getD h []) die (s.appliedOf die)).getD h []) die = _
    rw [List.getD_eq_getElem?_getD, List.getElem?_map, List.getElem?_range hh]
    exact Clock.at_putGrow _ _ _
  · refine ⟨_, hw, fun r hr => ?_, fun a => ?_, fun hc => ?_, fun hc => ?_⟩
    · rcases Nat.lt_or_ge s.cy c with hc | hc
      · rw [State.writeDue_later hp hc]
      · rw [State.writeDue_due hp hc]
        exact State.g_setG_other s v hr
    · rcases Nat.lt_or_ge s.cy c with hc | hc
      · rw [State.writeDue_later hp hc]
      · rw [State.writeDue_due hp hc]; rfl
    · rw [State.writeDue_due hp hc]
      exact ⟨State.g_setG_same s d v, rfl⟩
    · rw [State.writeDue_later hp hc]
      exact ⟨rfl, rfl⟩
  · rw [State.writeDue_due hp hc] at hw
    exact ⟨_, hw, rfl, rfl, ((s.still_setCore _).trans (State.still_pend _ _)).holds⟩
  · rw [State.writeDue_due hp hc] at hw
    have ht : s.writePending ⟨.tid n, [v], c⟩ = s.setCx { s.cx with tid := Table.set s.cx.tid n (setBits w.1 23 16 v.toNat, w.2) } := by
      simp only [State.writePending, hf]; rfl
    rw [ht] at hw
    exact ⟨_, hw, Table.find_set_self _ _ _, rfl, rfl, ⟨fun _ => rfl, rfl, rfl, rfl, fun _ => rfl⟩⟩

/-- Settles O25. -/
theorem writesLeaveTheirBuffers : Obligations.WritesLeaveTheirBuffers := ⟨drainSendsABufferedWrite, evictBroadcastAndWriteback⟩

end Sys2Proof.Machine
end

section
/-!
PROOFS. Refutation of O34: as for LD, its statement takes "every byte stands in the core's own buffers" for "the access can be forwarded".
-/
namespace Sys2Proof.Machine
open Sys2Proof

/-- The word behind the unanswered FLD, the context holding a lane. -/
def fldVector : State :=
  { fldOpen with core := { fldOpen.core with holder := some fldOpen.core.k, lanes := 8, vsetl := 1 } }

/-- Refutes O34: VLD waits when its element stands in the core's own buffer behind an unanswered FLD to it. -/
theorem not_vectorsMoveThroughMemory : ¬ Obligations.VectorsMoveThroughMemory := by
  rintro ⟨h, -⟩
  obtain ⟨hload, -⟩ := h fldVector none .w .w 0 0 5 0 0 (by decide +kernel)
  obtain ⟨⟨-, hvld⟩, -, -⟩ := hload ⟨2, 4, 0, 1, false⟩ (by decide +kernel) (by decide +kernel) (by decide +kernel)
  have hone : ∀ j, j < fldVector.core.vsetl.toNat → j = 0 := by
    intro j hj
    have hv : fldVector.core.vsetl.toNat = 1 := by decide +kernel
    omega
  obtain ⟨t, ht, hwent, -⟩ := hvld (.inl (by decide +kernel)) fun j hj => by
    rw [hone j hj]
    exact ⟨by decide +kernel, by decide +kernel, by decide +kernel⟩
  obtain ⟨-, hst, -⟩ := hwent.ready
  have hw : runAfter (exec (.vld none .w 0 5 0) fldVector) = some (.waiting .reply) := by decide +kernel
  rw [ht, runAfter_next, hst] at hw
  exact absurd hw (by decide)

end Sys2Proof.Machine
end

section
/-!
PROOFS. Refutations of O39 and O44: as for LD, their statements take "every byte stands in the core's own buffers" for "the access can be
forwarded", the one for the words of a tensor identifier, the other for those of a descriptor.
-/
namespace Sys2Proof.Machine
open Sys2Proof

/-- Behind the unanswered FLD the context has stored a tensor identifier of zeros. -/
def fldTensor : State :=
  { fldOpen with core := { fldOpen.core with sbuf := [⟨2, .ctx 0 0, .core 0, .w, true, 1, 1, fldVa, .store fldKey 32 0, false⟩] } }

/-- Refutes O39: TDEF waits when its words stand in the core's own buffer behind an unanswered FLD to one of them. -/
theorem not_operandMemoryIsLoaded : ¬ Obligations.OperandMemoryIsLoaded := by
  rintro ⟨h, -⟩
  obtain ⟨-, -, -, -, -, htdef⟩ := h fldTensor 0 0 5 0 0 0
  obtain ⟨-, hzero, -⟩ := htdef ⟨2, 4, 0, 1, false⟩ (by decide +kernel) (by decide +kernel) (by decide +kernel) (by decide +kernel)
    (by decide +kernel) (by decide +kernel)
  obtain ⟨t, ht, -, -, hwent⟩ := hzero (by decide +kernel)
  obtain ⟨-, hst, -⟩ := hwent.ready
  have hw : runAfter (exec (.tdef 0 5) fldTensor) = some (.waiting .reply) := by decide +kernel
  rw [ht, runAfter_next, hst] at hw
  exact absurd hw (by decide)

/-- A store of the context to the own SRAM, in the store buffer. -/
def fldStore (j value : Nat) : Entry := ⟨2, .ctx 0 0, .core 0, .w, true, 1, 1, fldVa + word (8 * j), .store (fldKey + 8 * j) 8 value, false⟩

/-- Behind the unanswered FLD the context has stored the descriptor of a copy of 8 bytes within the own data. -/
def fldCommand : State :=
  { fldOpen with core := { fldOpen.core with
      sbuf := [fldStore 0 0xF000000005100, fldStore 1 0xF000000005200, fldStore 2 8, fldStore 3 0, fldStore 4 0, fldStore 5 0, fldStore 6 0, fldStore 7 0] } }

/-- Refutes O44: XCOPY waits when its descriptor stands in the core's own buffer behind an unanswered FLD to one of its words. -/
theorem not_copyEngineCopies : ¬ Obligations.CopyEngineCopies := by
  rintro ⟨h, -⟩
  obtain ⟨hcopy, -⟩ := h fldCommand 6 5 0
  obtain ⟨hgo, -⟩ := hcopy
  obtain ⟨t, m, ht, -, -, -, -, -, -, -, -, -, -, -, -, hwent⟩ := hgo 0
    ⟨by decide +kernel, by decide +kernel, by decide +kernel, by decide +kernel, by decide +kernel, by decide +kernel, by decide +kernel⟩
    (by decide +kernel) (by decide +kernel)
  obtain ⟨-, hst, -⟩ := hwent.ready
  have hw : runAfter (exec (.xcopy 6 5) fldCommand) = some (.waiting .engine) := by decide +kernel
  rw [ht, runAfter_next, hst] at hw
  exact absurd hw (by decide)

end Sys2Proof.Machine
end

section
/-!
PROOFS. Refutation of O38. Its clause on VCVT.MXD has the core serve every unit at issue; under a MEMDEF whose ORD acquires each of several units
waits for the one before (R268), so that none is read yet and the REPLY that the clause names finds nothing to end.
-/
namespace Sys2Proof.Machine
open Sys2Proof

/-- The context holds 32 lanes, its loads acquire at CORE scope, and its tensor 1 is of one plane in the own SRAM. -/
def mxdAcquire : State :=
  { State.reset with
    cx := { Context.reset 0 with
      st := .ready, pc := 0x800, memdef := 3,
      tid := [(1, (BitVec.ofNat 64 (1 + 32 + 512 + 32 * 2 ^ 24 + 16 * 2 ^ 48), BitVec.ofNat 64 (16 + 256 * 2 ^ 16), 0xF000000005000, 0xF000000006000))] },
    core := { State.reset.core with holder := some State.reset.core.k, lanes := 32, vsetl := 32 } }

/-- That tensor. -/
def mxdTensor : Tensor := (mxdAcquire.tensor 1).getD default
/-- The units VCVT.MXD reads of its first block. -/
def mxdKeys : List (Word × Nat × Nat) := [(0xF000000005000, 4, sramKey 0 0x5000), (0xF000000006000, 1, sramKey 0 0x6000)]
/-- What they hold. -/
def mxdValues : List (Nat × Bool) := [(0, false), (0, false)]

/-- An access list that passes its checks, from its keys. -/
theorem ok_of_toOption {ε α : Type} {r : Except ε α} {v : α} (h : r.toOption = some v) : r = .ok v := by
  cases r with
  | error e => exact absurd h (by simp [Except.toOption])
  | ok w => simpa [Except.toOption] using h

/-- How the context stands after a VCVT.MXD and a REPLY behind it. -/
def runAfterReply (r : Result) : Option Run :=
  match r with
  | .next t => runAfter (execReply t.id t.core.k 0 t)
  | _ => none

theorem runAfterReply_next (t : State) : runAfterReply (.next t) = runAfter (execReply t.id t.core.k 0 t) := rfl

/-- Refutes O38: under an acquiring MEMDEF the units of VCVT.MXD are not served at issue, and a REPLY behind it ends nothing. -/
theorem not_reductionsAndTensorConversions : ¬ Obligations.ReductionsAndTensorConversions := by
  rintro ⟨-, -, h⟩
  obtain ⟨-, -, hconv⟩ := h mxdAcquire false 0 0 1 (by decide +kernel)
  obtain ⟨-, -, -, hmxd⟩ := hconv mxdTensor .bni (by decide +kernel) (by decide +kernel) (by decide +kernel)
  obtain ⟨t, u, ht, -, -, hu, -, -, -, hready, -⟩ := hmxd ⟨3, 0, 0, 0, false⟩ mxdKeys mxdValues (by decide +kernel) (by decide +kernel)
    (ok_of_toOption (by decide +kernel)) (by decide +kernel) (by decide +kernel) (by decide +kernel) (by decide +kernel)
  obtain ⟨-, hst, -⟩ := hready
  have hw : runAfterReply (exec (.vcvtMxd 0 0 1) mxdAcquire) = some (.waiting .reply) := by decide +kernel
  have hu : execReply t.id t.core.k 0 t = .next u := hu
  rw [ht, runAfterReply_next, hu, runAfter_next, hst] at hw
  exact absurd hw (by decide)

end Sys2Proof.Machine
end

section
/-!
PROOFS. Refutation of O45. Its clause on a CSAVE of a core that can still issue has the trap taken in the state of the issue; the model, as R298
has it, has by then copied the translation of the area from the octet's TLB into the core's.
-/
namespace Sys2Proof.Machine
open Sys2Proof

/-- The supervisor of a core of an interface's tray names its own core for a CSAVE to a page of 256 KiB that only the octet's TLB translates. -/
def saveMiss : State :=
  { State.reset with
    cx := { Context.reset 0 with
      st := .ready, pc := 0x800, status := 1, g := ((Vector.replicate 32 0).set 5 0x40000).set 6 0xE000000000000 },
    core := { State.reset.core with tray := some (0, 0) },
    vifs := [(0, { Vif.empty with dies := [(0, 0)] })],
    tlb2 := [(0, [⟨0, 0, 18, 1, 1, true, true, true⟩])] }

/-- The keys of the area's pages. -/
def saveMissKeys : List (Word × Nat × Nat) := (saveArea 0x40000).map fun p => (p.1, p.2, p.1.toNat)

/-- The core's TLB after a step. -/
def tlbAfter (r : Result) : List Tlb :=
  match r with
  | .next t => t.core.tlb
  | _ => []

/-- Refutes O45: a CSAVE of a core that can still issue is ILLEGAL with the area's translation already in the core's TLB. -/
theorem not_systemQueriesSaveAndGenerations : ¬ Obligations.SystemQueriesSaveAndGenerations := by
  rintro ⟨-, h, -⟩
  obtain ⟨-, -, -, -, -, h⟩ := h saveMiss 7 5 6
  obtain ⟨hsave, -⟩ := h 0 saveMissKeys (by decide +kernel) (by decide +kernel) (by decide +kernel) (by decide +kernel) (by decide +kernel)
  obtain ⟨hill, -⟩ := hsave (ok_of_toOption (by decide +kernel)) (by decide +kernel)
  have ht : exec (.csave 7 5 6) saveMiss = .next (saveMiss.trapEntry 0x01 0 false (zext (Instr.first (.csave 7 5 6)))) := hill (by decide +kernel)
  have hone : (tlbAfter (exec (.csave 7 5 6) saveMiss)).length = 1 := by decide +kernel
  have hzero : (tlbAfter (.next (saveMiss.trapEntry 0x01 0 false (zext (Instr.first (.csave 7 5 6)))))).length = 0 := by decide +kernel
  rw [ht, hzero] at hone
  exact absurd hone (by decide)

end Sys2Proof.Machine
end

section
/-!
PROOFS. Refutation of O51. Its statement on doorbells has every byte of memory stay; the model, as R309 and R297 have it, reads the head entry that
the accepted TAIL covers, and so sets A in the leaf of the ring's page where it stood clear.
-/
namespace Sys2Proof.Machine
open Sys2Proof

/-- The leaf of the first GiB of address space 0, readable, with A clear. -/
def ringLeaf : Nat := 0x20000

/-- An empty user queue whose ring stands in that page. -/
def ringQueue : UserQueue := ⟨0, 0, 4, 0, 0, 0, 0, 0, 0, none, none, false⟩

/-- The queue, and the tables of its address space. -/
def ringState : State :=
  { State.reset with
    mem := [(0x10000, 1), (0x10002, 2), (ringLeaf, 7)], asids := [(0, 0x10000, 0)], hub := { State.reset.hub with queues := [(0, ringQueue)] } }

/-- A byte of memory after a step. -/
def byteAfter (a : Nat) (r : Result) : Byte :=
  match r with
  | .next t => Memory.get t.mem a
  | _ => 0

theorem byteAfter_next (a : Nat) (t : State) : byteAfter a (.next t) = Memory.get t.mem a := rfl

/-- Refutes O51: a doorbell that covers one entry sets A in the leaf of the ring's page. -/
theorem not_jobsAreDispatched : ¬ Obligations.JobsAreDispatched := by
  rintro ⟨h, -⟩
  obtain ⟨hgo, -⟩ := h ringState 0 1 ringQueue (by decide +kernel)
  obtain ⟨t, -, ht, -, -, hholds⟩ := hgo (by decide +kernel) (by decide +kernel) (by decide +kernel)
  have hset : byteAfter ringLeaf (exec (.doorbellWrite 0 1) ringState) = 0x17 := by decide +kernel
  have hclear : Memory.get ringState.mem ringLeaf = 7 := by decide +kernel
  rw [ht, byteAfter_next, hholds.memory, hclear] at hset
  exact absurd hset (by decide)

end Sys2Proof.Machine
end

section
/-! PROOFS. Rounding (O37): the quotient and the remainder decide the direction, and a number of the format keeps its code. -/
namespace Sys2Proof.Machine
open Sys2Proof

/-- Whether rounding of a quotient `n` with the remainder `r` goes up, `half` being half a unit. -/
def roundsUp (rm : Rm) (neg : Bool) (n r half : Nat) : Bool :=
  match rm with
  | .rne => decide (half < r) || (r == half && n % 2 == 1)
  | .rtz => false
  | .rup => !neg && r != 0
  | .rdn => neg && r != 0

theorem roundQ_shift (rm : Rm) (neg : Bool) (m : Nat) {sh : Nat} (h : 0 < sh) :
    roundQ rm neg m 0 sh
      = (if roundsUp rm neg (m / 2 ^ sh) (m % 2 ^ sh) (2 ^ (sh - 1)) then m / 2 ^ sh + 1 else m / 2 ^ sh, m % 2 ^ sh != 0) := by
  have hq : ¬ ((sh : Int) ≤ 0) := by omega
  have hr : m - m / 2 ^ sh * 2 ^ sh = m % 2 ^ sh := by rw [Nat.mod_eq_sub_div_mul]
  rw [roundQ, if_neg hq]
  simp only [Int.sub_zero, Int.toNat_natCast, Nat.shiftRight_eq_div_pow, Nat.shiftLeft_eq, hr, Nat.one_mul]
  cases rm <;> rfl

theorem roundQ_exact (rm : Rm) (neg : Bool) (m : Nat) (e : Int) : roundQ rm neg m e e = (m, false) := by
  simp [roundQ]

theorem roundingModes : Claims.RoundingModes := by
  intro neg m sh h r
  have hpow : 2 ^ sh = 2 * 2 ^ (sh - 1) := by rw [Nat.mul_comm, ← Nat.pow_succ]; congr 1; omega
  have hm := Nat.div_add_mod' m (2 ^ sh)
  have hlt : m % 2 ^ sh < 2 ^ sh := Nat.mod_lt _ (Nat.two_pow_pos sh)
  have hr (rm : Rm) : r rm = if roundsUp rm neg (m / 2 ^ sh) (m % 2 ^ sh) (2 ^ (sh - 1)) then m / 2 ^ sh + 1 else m / 2 ^ sh := by
    show (roundQ rm neg m 0 sh).1 = _
    rw [roundQ_shift rm neg m h]
  refine ⟨fun rm => ?_, hr .rtz, ?_, ?_, ?_⟩
  · rw [roundQ_shift rm neg m h, decide_not]
    rfl
  · rw [hr]
    by_cases hz : m % 2 ^ sh = 0 <;> cases neg <;> simp [roundsUp, hz]
  · rw [hr]
    by_cases hz : m % 2 ^ sh = 0 <;> cases neg <;> simp [roundsUp, hz]
  · rw [hr .rne]
    simp only [roundsUp, Bool.or_eq_true, Bool.and_eq_true, decide_eq_true_eq, beq_iff_eq]
    split
    · rw [Nat.add_mul, Nat.one_mul]
      generalize m / 2 ^ sh * 2 ^ sh = w at *
      omega
    · generalize m / 2 ^ sh * 2 ^ sh = w at *
      omega

theorem bitLen_of_range {m k : Nat} (hl : 2 ^ k ≤ m) (hu : m < 2 ^ (k + 1)) : bitLen m = k + 1 := by
  have hne : m ≠ 0 := by have := Nat.two_pow_pos k; omega
  rw [bitLen, if_neg hne, (Nat.log2_eq_iff hne).2 ⟨hl, hu⟩]

theorem bitLen_le {m k : Nat} (hu : m < 2 ^ k) : bitLen m ≤ k := by
  by_cases h0 : m = 0
  · simp [bitLen, h0]
  · rw [bitLen, if_neg h0]
    exact Nat.succ_le_of_lt ((Nat.log2_lt h0).2 hu)

/-- A magnitude that needs no bit below `2 ^ q`, the format's last place there, keeps its bits, without flags. -/
theorem f32_round_exact (rm : Rm) (sat neg : Bool) (m : Nat) (q : Int) (h0 : m ≠ 0)
    (hq : max ((bitLen m : Int) - 24 + q) (-149) = q) (hc : ((q + 149).toNat <<< 23) + m < 0x7F800000) :
    f32.round rm sat neg m q = (f32.signBit neg + (((q + 149).toNat <<< 23) + m), Fl.none) := by
  have hq' : max ((bitLen m : Int) - 1 + q - (f32.mbits : Int)) (f32.emin - (f32.mbits : Int)) = q := by
    rw [← hq]
    show max ((bitLen m : Int) - 1 + _ - (23 : Int)) (-149) = _
    rw [hq]; omega
  have hb : (q + (f32.mbits : Int) + f32.bias - 1).toNat = (q + 149).toNat := by
    show (q + 23 + 127 - 1).toNat = _
    omega
  refine (if_neg h0).trans ?_
  simp only [roundP, hq', roundQ_exact, hb, Bool.and_false]
  exact if_neg (Nat.not_le.2 hc)

theorem roundingKeepsRepresentable : Claims.RoundingKeepsRepresentable := by
  intro rm sat x hx hfin
  have hsign : f32.signBit (x.testBit 31) = x / 2 ^ 31 * 2 ^ 31 := by
    have : x / 2 ^ 31 < 2 := by omega
    rw [Nat.testBit_eq_decide_div_mod_eq]
    have hcase : x / 2 ^ 31 = 0 ∨ x / 2 ^ 31 = 1 := by omega
    rcases hcase with h | h <;> rw [h] <;> rfl
  have he : f32.decode x = if x >>> 23 % 2 ^ 8 = 255 then (if x % 2 ^ 23 = 0 then .inf (x.testBit 31) else .nan (!(x % 2 ^ 23).testBit 22))
      else if x >>> 23 % 2 ^ 8 = 0 then .fin (x.testBit 31) (x % 2 ^ 23) (-149)
      else .fin (x.testBit 31) (x % 2 ^ 23 + 2 ^ 23) (((x >>> 23 % 2 ^ 8 : Nat) : Int) - 127 - 23) := rfl
  have hk : x >>> 23 % 2 ^ 8 = x % 2 ^ 31 / 2 ^ 23 := by rw [Nat.shiftRight_eq_div_pow]; omega
  rw [he, hk, if_neg (by omega)]
  split
  case isTrue h =>
    show f32.round rm sat (x.testBit 31) (x % 2 ^ 23) (-149) = _
    by_cases h0 : x % 2 ^ 23 = 0
    · refine (if_pos h0).trans ?_; rw [hsign]
      congr 1; omega
    · have := bitLen_le (show x % 2 ^ 23 < 2 ^ 23 by omega)
      rw [f32_round_exact _ _ _ _ _ h0 (by omega) (by simp; omega), hsign]
      congr 1; simp; omega
  case isFalse h =>
    show f32.round rm sat (x.testBit 31) (x % 2 ^ 23 + 2 ^ 23) _ = _
    have hl := bitLen_of_range (m := x % 2 ^ 23 + 2 ^ 23) (k := 23) (by omega) (by omega)
    have hn : ((((x % 2 ^ 31 / 2 ^ 23 : Nat) : Int) - 127 - 23) + 149).toNat = x % 2 ^ 31 / 2 ^ 23 - 1 := by omega
    rw [f32_round_exact _ _ _ _ _ (by omega) (by rw [hl]; omega) (by rw [hn, Nat.shiftLeft_eq]; omega), hsign, hn, Nat.shiftLeft_eq]
    congr 1; omega

/-- Settles O37: each mode reads its direction off the remainder, and a number of binary32 is rounded at its own last place. -/
theorem roundingIsNearest : Obligations.RoundingIsNearest := ⟨roundingModes, roundingKeepsRepresentable⟩

end Sys2Proof.Machine
end

section
/-! PROOFS. Merging on the way (O49): two packets in one queue, one contribution of two, and one operand of two. -/
namespace Sys2Proof.Machine
open Sys2Proof

theorem State.msg_mem {s : State} {i : Nat} {m : Msg} (h : s.msg i = some m) : m ∈ s.flight ∧ m.id = i :=
  ⟨List.mem_of_find?_eq_some h, by simpa using List.find?_some h⟩

/-! ## Two packets of one queue -/

/-- No packet stands ahead of itself. -/
theorem State.mayMeet_ne {s : State} {i j : Nat} (h : s.mayMeet i j = true) : i ≠ j := by
  rintro rfl
  have hany : (s.spots.takeWhile fun z => z.item != i).any (fun z => z.item == i) = false := by
    rw [List.any_eq_false]
    intro z hz
    have := List.all_eq_true.1 List.all_takeWhile z hz
    simpa using this
  unfold State.mayMeet at h
  split at h
  · rw [hany, Bool.and_false] at h
    cases h
  · cases h

/-- The packet in which both are. -/
def Msg.merged (p q : Msg) (b : Body) : Msg := { p with body := b, ident := p.ident ++ q.ident, stamp := p.stamp ++ q.stamp, also := p.also ++ q.parts }

/-- The state with packet `q` taken into `p`. -/
def State.mergedInto (s : State) (i j : Nat) (m : Msg) : State :=
  { s with
    flight := (s.flight.map fun x => if x.id = i then m else x).filter fun x => x.id != j
    spots := (s.spots.filter fun x => x.item != j).map fun x => if x.item = i then { x with joined := true } else x
    paid := s.paid.map fun x => if x.item = j then { x with item := i } else x }

theorem execPacketMerge_merges {s : State} {i j : Nat} {p q : Msg} {b : Body} (hp : s.msg i = some p) (hq : s.msg j = some q) (hm : s.mayMeet i j = true)
    (hd : p.dest = q.dest) (hc : p.cls = q.cls) (hb : s.between p q = false) (hbody : mergeBodies p.body q.body = some b)
    (hl : p.dest.isCore = false ∨ ∀ x ∈ p.parts ++ q.parts, x.user = p.user) :
    exec (.packetMerge i j) s = .next (s.mergedInto i j (p.merged q b)) := by
  have hlev : (!((p.parts ++ q.parts).all fun x => x.user == p.user) && p.dest.isCore) = false := by
    rcases hl with h | h
    · rw [h, Bool.and_false]
    · rw [show ((p.parts ++ q.parts).all fun x => x.user == p.user) = true from List.all_eq_true.2 fun x hx => beq_iff_eq.2 (h x hx)]; rfl
  have hno : ¬ ((!s.mayMeet i j || p.dest != q.dest || p.cls != q.cls || s.between p q
      || (!((p.parts ++ q.parts).all fun x => x.user == p.user) && p.dest.isCore)) = true) := by
    rw [hm, hlev, hd, hc, hb]; simp
  show execPacketMerge i j s = _
  rw [execPacketMerge, hp, hq]
  refine (if_neg hno).trans ?_
  rw [hbody]
  rfl

theorem packetsOfOneQueueMerge (s : State) (i j : Nat) (p q : Msg) (b : Body) (hp : s.msg i = some p) (hq : s.msg j = some q) (hm : s.mayMeet i j = true)
    (hd : p.dest = q.dest) (hc : p.cls = q.cls) (hb : s.between p q = false) (hbody : mergeBodies p.body q.body = some b)
    (hl : p.dest.isCore = false ∨ ∀ x ∈ p.parts ++ q.parts, x.user = p.user) :
    ∃ t x, exec (.packetMerge i j) s = .next t ∧ x ∈ t.flight ∧ x.id = i ∧ x.body = b ∧ x.also = p.also ++ q.parts ∧ x.ident = p.ident ++ q.ident
      ∧ (∀ y ∈ t.flight, y.id ≠ j) ∧ s.Holds t := by
  obtain ⟨hin, hid⟩ := State.msg_mem hp
  refine ⟨_, p.merged q b, execPacketMerge_merges hp hq hm hd hc hb hbody hl, ?_, hid, rfl, rfl, rfl, ?_, State.Still.holds (.of_cx_eq rfl rfl)⟩
  · rw [State.mergedInto, List.mem_filter]
    exact ⟨List.mem_map.2 ⟨p, hin, by rw [if_pos hid]⟩, by simpa [Msg.merged, hid] using State.mayMeet_ne hm⟩
  · intro y hy
    simpa using (List.mem_filter.1 hy).2

/-! ## Two contributions -/

theorem mergePackets_some {p q r : Packet} (h : mergePackets p q = some r) :
    r.handle = p.handle ∧ q.handle = p.handle ∧ r.anchor = p.anchor ∧ q.anchor = p.anchor ∧ r.n = p.n + q.n ∧ r.spans.length ≤ 2
      ∧ r.from_ = p.from_ ++ q.from_ ∧ r.from_.length ≤ 4 ∧ ∀ x ∈ q.spans, touches p.spans x = false := by
  unfold mergePackets at h
  dsimp only at h
  split at h
  case isFalse => cases h
  case isTrue hc =>
    simp only [Bool.and_eq_true, beq_iff_eq, decide_eq_true_eq, Bool.not_eq_true', List.any_eq_false, Bool.not_eq_true] at hc
    obtain ⟨⟨⟨⟨⟨⟨hh, ha⟩, -⟩, -⟩, hd⟩, hs⟩, hf⟩ := hc
    cases h
    exact ⟨rfl, hh.symm, rfl, ha.symm, rfl, hs, rfl, by rwa [List.length_append], hd⟩

/-! ## Leaving the merge buffer -/

theorem State.arriveAt_moves {s : State} {m : Msg} (hm : m ∈ s.flight) :
    (∃ x ∈ (s.arriveAt m).flight, x.id = m.id ∧ x.body = m.body ∧ x.stage = if m.body.applied then .arrived else .home) ∧ s.Holds (s.arriveAt m) := by
  unfold State.arriveAt
  split
  all_goals exact ⟨⟨_, List.mem_map.2 ⟨m, hm, if_pos rfl⟩, rfl, rfl, rfl⟩, State.Still.holds (.of_cx_eq rfl rfl)⟩

theorem packetsMerge : Claims.PacketsMerge := by
  refine ⟨packetsOfOneQueueMerge, fun _ _ _ => mergePackets_some, fun s item m hm => ⟨fun hst hx => ?_, fun hno => ?_⟩⟩
  all_goals
    have hexec : exec (.mergeBufferFlush item) s = .next (if m.stage == .buffer && s.mayCross m then s.arriveAt m else s) := by
      show execMergeBufferFlush item s = _
      rw [execMergeBufferFlush, hm]
  · rw [hst, hx] at hexec
    exact ⟨_, hexec, State.arriveAt_moves (State.msg_mem hm).1⟩
  · rw [hexec, if_neg]
    rw [Bool.and_eq_true, beq_iff_eq]
    rintro ⟨hb, hc⟩
    exact hno.elim (fun h => h hb) fun h => Bool.false_ne_true (h.symm.trans hc)

/-! ## Operands of two AMOs -/

/-- The lesser of two values, by an order: which pair is compared first makes no difference. -/
theorem least_assoc {α : Type} (lt : α → α → Bool) (key : α → Int) (hlt : ∀ a b, lt a b = true ↔ key a < key b) (a b c : α) :
    let m (x y : α) := if lt x y then x else y
    m a (m b c) = m (m a b) c := by
  intro m
  simp only [m, hlt]
  grind

theorem greatest_assoc {α : Type} (lt : α → α → Bool) (key : α → Int) (hlt : ∀ a b, lt a b = true ↔ key a < key b) (a b c : α) :
    let m (x y : α) := if lt x y then y else x
    m a (m b c) = m (m a b) c := by
  intro m
  simp only [m, hlt]
  grind

theorem combinedAtomics : Claims.CombinedAtomicsHaveTheSameEffect := by
  intro op size old x y v e hop hv
  have hslt (a b : BitVec (8 * size)) : a.slt b = true ↔ a.toInt < b.toInt := BitVec.slt_iff_toInt_lt
  have hult (a b : BitVec (8 * size)) : a.ult b = true ↔ (a.toNat : Int) < b.toNat := by
    rw [BitVec.ult_iff_lt, BitVec.lt_def]; omega
  cases op
  case fadd => exact absurd rfl hop
  case swp => cases hv
  case cas => cases hv
  all_goals
    cases hv
    simp only [amoNew, BitVec.ofNat_toNat, BitVec.setWidth_eq]
    congr 1
  case add => exact (BitVec.add_assoc _ _ _).symm
  case and => exact (BitVec.and_assoc _ _ _).symm
  case or => exact (BitVec.or_assoc _ _ _).symm
  case xor => exact (BitVec.xor_assoc _ _ _).symm
  case min => exact least_assoc BitVec.slt BitVec.toInt hslt _ _ _
  case max => exact greatest_assoc BitVec.slt BitVec.toInt hslt _ _ _
  case minZ => exact least_assoc BitVec.ult (fun a => (a.toNat : Int)) hult _ _ _
  case maxZ => exact greatest_assoc BitVec.ult (fun a => (a.toNat : Int)) hult _ _ _

/-- Settles O49. -/
theorem packetsAndAtomicsMerge : Obligations.PacketsAndAtomicsMerge := ⟨packetsMerge, combinedAtomics⟩

end Sys2Proof.Machine
end

section
/-! PROOFS. The plane passes of a dense product (O41): the sum over pairs of planes, taken position by position, is a product of two sums over planes. -/
namespace Sys2Proof.Machine
open Sys2Proof

/-- The sum of `f` over the numbers below `n`. -/
def total (n : Nat) (f : Nat → Int) : Int := ((List.range n).map f).sum

theorem total_zero (f : Nat → Int) : total 0 f = 0 := rfl

theorem total_succ (n : Nat) (f : Nat → Int) : total (n + 1) f = total n f + f n := by
  rw [total, List.range_succ, List.map_append, List.sum_append]
  exact congrArg (total n f + ·) (Int.add_zero _)

theorem total_congr {f g : Nat → Int} (n : Nat) (h : ∀ k < n, f k = g k) : total n f = total n g :=
  congrArg List.sum (List.map_congr_left fun k hk => h k (List.mem_range.1 hk))

theorem total_add (n : Nat) (f g : Nat → Int) : total n (fun k => f k + g k) = total n f + total n g := by
  induction n with
  | zero => rfl
  | succ n ih => rw [total_succ, total_succ, total_succ, ih]; omega

theorem mul_total (n : Nat) (c : Int) (f : Nat → Int) : c * total n f = total n fun k => c * f k := by
  induction n with
  | zero => exact Int.mul_zero c
  | succ n ih => rw [total_succ, total_succ, Int.mul_add, ih]

theorem total_mul (n : Nat) (c : Int) (f : Nat → Int) : total n f * c = total n fun k => f k * c := by
  induction n with
  | zero => exact Int.zero_mul c
  | succ n ih => rw [total_succ, total_succ, Int.add_mul, ih]

/-- Two sums may change places. -/
theorem total_comm (a b : Nat) (f : Nat → Nat → Int) : (total a fun i => total b fun j => f i j) = total b fun j => total a fun i => f i j := by
  induction a with
  | zero =>
    induction b with
    | zero => rfl
    | succ b ih => rw [total_succ, ← ih]; rfl
  | succ a ih => rw [total_succ, ih, ← total_add]; exact total_congr b fun j _ => (total_succ a _).symm

theorem total_append (a b : Nat) (f : Nat → Int) : total (a + b) f = total a f + total b fun j => f (a + j) := by
  induction b with
  | zero => exact (Int.add_zero _).symm
  | succ b ih => rw [← Nat.add_assoc, total_succ, total_succ, ih, Int.add_assoc]

/-- A sum over the numbers below `a * b` as one over quotients and remainders. -/
theorem total_mul_div_mod (a : Nat) {b : Nat} (hb : 0 < b) (f : Nat → Nat → Int) :
    (total (a * b) fun n => f (n / b) (n % b)) = total a fun i => total b fun j => f i j := by
  induction a with
  | zero => rw [Nat.zero_mul]; rfl
  | succ a ih =>
    rw [Nat.succ_mul, total_append, ih, total_succ]
    refine congrArg (_ + ·) (total_congr b fun j hj => ?_)
    rw [Nat.add_comm, Nat.add_mul_div_right _ _ hb, Nat.div_eq_of_lt hj, Nat.add_mul_mod_self_right, Nat.mod_eq_of_lt hj, Nat.zero_add]

/-- A sum of natural numbers, as an integer. -/
theorem sum_cast (n : Nat) (f : Nat → Nat) : ((((List.range n).map f).sum : Nat) : Int) = total n fun k => (f k : Int) := by
  induction n with
  | zero => rfl
  | succ n ih =>
    rw [total_succ, ← ih, List.range_succ, List.map_append, List.sum_append_nat, Int.natCast_add, List.map_singleton, List.sum_singleton]

/-- The scale of a position of a product. -/
def productScale (x y : OSlot) (row col k : Nat) : Int := 2 ^ (62 - x.off row (k / 32) - y.off col (k / 32))

/-- What plane `i` adds to the value of a position. -/
def planeValue (o : OSlot) (r k i : Nat) : Int := if o.useBit i r k then planeWeight i else 0

/-- The sum of one pass, position by position. -/
theorem passTerm_dense (q : MCmd) (x y : OSlot) (row col n : Nat) (h : q.op = 1) :
    passTerm { q with step := n } x y row col
      = total (q.ke - q.kb) fun k => planeValue x row (k + q.kb) (n / q.pb) * planeValue y col (k + q.kb) (n % q.pb) * productScale x y row col (k + q.kb) := by
  rw [passTerm, if_neg (by simp [h]), if_neg (by simp [h])]
  simp only [MCmd.positions, List.map_map]
  rw [sum_cast, mul_total]
  refine total_congr _ fun k _ => ?_
  simp only [planeValue, productScale, Function.comp_apply]
  cases x.useBit (n / q.pb) row (k + q.kb) <;> cases y.useBit (n % q.pb) col (k + q.kb) <;> simp

/-- Settles O41: the passes run through every pair of planes, and a position's sum over pairs is the product of its two values. -/
theorem planePassesSumToTheProduct : Obligations.PlanePassesSumToTheProduct := by
  intro q x y row col hop hpb value
  have hvalue (o : OSlot) (r k n : Nat) : value o r k n = total n (planeValue o r k) := rfl
  have hresult : ((q.positions.map fun k => value x row k q.pa * value y col k q.pb * 2 ^ (62 - x.off row (k / 32) - y.off col (k / 32))).sum : Int)
      = total (q.ke - q.kb) fun k => value x row (k + q.kb) q.pa * value y col (k + q.kb) q.pb * productScale x y row col (k + q.kb) := by
    rw [MCmd.positions, List.map_map]; rfl
  calc ((List.range (q.pa * q.pb)).map fun n => passTerm { q with step := n } x y row col).sum
      = total q.pa fun i => total q.pb fun j => total (q.ke - q.kb) fun k =>
          planeValue x row (k + q.kb) i * planeValue y col (k + q.kb) j * productScale x y row col (k + q.kb) := by
        rw [← total_mul_div_mod q.pa hpb]
        exact total_congr _ fun n _ => passTerm_dense q x y row col n hop
    _ = total (q.ke - q.kb) fun k => total q.pa fun i => total q.pb fun j =>
          planeValue x row (k + q.kb) i * planeValue y col (k + q.kb) j * productScale x y row col (k + q.kb) :=
        (total_congr _ fun i _ => total_comm _ _ _).trans (total_comm _ _ _)
    _ = _ := by
        refine (total_congr _ fun k _ => ?_).trans hresult.symm
        rw [hvalue, hvalue, total_mul, total_mul]
        refine total_congr _ fun i _ => ?_
        rw [mul_total, total_mul]

end Sys2Proof.Machine
end

section
/-! PROOFS. Vector results (O35): what a computing instruction leaves, and the integer operations lane by lane. -/
namespace Sys2Proof.Machine
open Sys2Proof

/-! ## An instruction whose result is on its way (R190) -/

theorem State.later_eq_withResult (s : State) (d : Dest) (vals : List Word) (n : Nat) :
    (if vals.isEmpty then s else s.later d vals n) = s.setCx { s.cx with pend := withResult s d vals n } := by
  cases vals with
  | nil => exact (State.setCx_self s).symm
  | cons v vals => rfl

/-- The state in which a result is on its way and the flags are merged. -/
def State.computed (s : State) (d : Dest) (vals : List Word) (f : Fl) (n : Nat) : State :=
  s.setCx { s.cx with pend := withResult s d vals n, fflags := s.cx.fflags ||| f.bits }

theorem State.finishFl_later (s : State) (i : Instr) (d : Dest) (vals : List Word) (f : Fl) (n : Nat) :
    (quietFlags s f → (if vals.isEmpty then s else s.later d vals n).finishFl i f = .next ((s.computed d vals f n).setCx ((s.computed d vals f n).cx.retire (s.after i))))
    ∧ (¬ quietFlags s f → (if vals.isEmpty then s else s.later d vals n).finishFl i f = .next ((s.computed d vals f n).trapEntry 0x15 0 false (s.cx.newFlags f))) := by
  rw [State.later_eq_withResult]
  rcases (s.setCx { s.cx with pend := withResult s d vals n }).finishFl_cases i f with ⟨hq, h⟩ | ⟨hq, h⟩
  · exact ⟨fun _ => h, fun hn => absurd hq hn⟩
  · exact ⟨fun hn => absurd hn hq, fun _ => h⟩

theorem computes_of_finishFl {i : Instr} {s : State} {d : Dest} {vals : List Word} {f : Fl} {n : Nat}
    (h : exec i s = (if vals.isEmpty then s else s.later d vals n).finishFl i f) : computes i s d vals f n := by
  obtain ⟨hq, hr⟩ := s.finishFl_later i d vals f n
  refine ⟨fun k => ⟨_, h.trans (hq k), rfl, rfl, fun _ => rfl, ?_, ?_⟩, fun k => ⟨_, h.trans (hr k), rfl, rfl, rfl, fun _ => rfl⟩⟩
  · exact State.readyAt_retire s (s.computed d vals f n).cx (s.after i) rfl rfl
  · exact State.regsOnly_retire_self (s.computed d vals f n) (s.after i)

theorem computes_of_gdone {i : Instr} {s : State} {d : GReg} {v : Word} {f : Fl} {n : Nat} (h : exec i s = s.gdone i d v f n) :
    computes i s (.g d) (toG d v) f n := by
  refine computes_of_finishFl (h.trans ?_)
  unfold State.gdone toG
  by_cases hd : d = 0
  · rw [if_pos hd, if_pos hd]; rfl
  · rw [if_neg hd, if_neg hd]; rfl

/-! ## Lanes -/

theorem State.vec_granted {s : State} (hn : s.noLanes = false) (f : Nat → Result) : s.vec f = f s.core.vsetl.toNat := by
  rw [State.vec, hn]; rfl

theorem flagsOf_none {α : Type} (l : List Nat) (f : Nat → α) : flagsOf (l.map fun j => (f j, Fl.none)) = Fl.none := by
  unfold flagsOf
  rw [List.foldl_map]
  induction l with
  | nil => rfl
  | cons j l ih => exact ih

theorem laneResultFl_of_vec {i : Instr} {s : State} {d : VReg} {lat : Nat} {f : Nat → Lane × Fl} {F : Nat → Result} (hn : s.noLanes = false)
    (h : exec i s = s.vec F) (hF : F s.core.vsetl.toNat = s.vdone i d ((List.range s.core.vsetl.toNat).map f) lat) : laneResultFl i s d lat f := by
  refine computes_of_finishFl ((h.trans (State.vec_granted hn F)).trans (hF.trans ?_))
  rw [State.vdone, List.map_map, List.isEmpty_map, List.isEmpty_map]
  rfl

theorem laneResult_of_fl {i : Instr} {s : State} {d : VReg} {lat : Nat} {f : Nat → Lane} (h : laneResultFl i s d lat fun j => (f j, Fl.none)) :
    laneResult i s d lat f := by
  unfold laneResultFl at h
  rwa [flagsOf_none] at h

theorem quiet_map (l : List Nat) (f : Nat → Lane) : quiet (l.map f) = l.map fun j => (f j, Fl.none) := List.map_map ..

theorem laneResult_of_vec {i : Instr} {s : State} {d : VReg} {lat : Nat} {f : Nat → Lane} {F : Nat → Result} (hn : s.noLanes = false)
    (h : exec i s = s.vec F) (hF : F s.core.vsetl.toNat = s.vdone i d (quiet ((List.range s.core.vsetl.toNat).map f)) lat) : laneResult i s d lat f :=
  laneResult_of_fl (laneResultFl_of_vec hn h (hF.trans (by rw [quiet_map])))

theorem zipWith_range {α β γ : Type} (n : Nat) (f : α → β → γ) (x : Nat → α) (y : Nat → β) :
    List.zipWith f ((List.range n).map x) ((List.range n).map y) = (List.range n).map fun j => f (x j) (y j) := by
  rw [List.zipWith_map, List.zipWith_self]

theorem zip_range {α β : Type} (n : Nat) (x : Nat → α) (y : Nat → β) :
    ((List.range n).map x).zip ((List.range n).map y) = (List.range n).map fun j => (x j, y j) := zipWith_range n Prod.mk x y

theorem State.srcOf_eq_map (s : State) (b : VSrc) (n : Nat) : s.srcOf b n = (List.range n).map (operandLane s b) := by
  cases b with
  | v r => rfl
  | g r =>
    exact ((List.map_const' (l := List.range n)).trans (congrArg (List.replicate · _) List.length_range)).symm

theorem State.lanewise_eq (s : State) (i : Instr) (d a : VReg) (b : VSrc) (lat : Nat) (f : Lane → Lane → Lane × Fl) :
    s.lanewise i d a b lat f = s.vec fun n => s.vdone i d ((List.range n).map fun j => f (s.lane a j) (operandLane s b j)) lat := by
  simp only [State.lanewise, State.lanesOf, State.srcOf_eq_map, zipWith_range]

theorem laneResultFl_of_lanewise {i : Instr} {s : State} {d a : VReg} {b : VSrc} {lat : Nat} {f : Lane → Lane → Lane × Fl} {g : Nat → Lane × Fl}
    (hn : s.noLanes = false) (h : exec i s = s.lanewise i d a b lat f) (hg : ∀ j, f (s.lane a j) (operandLane s b j) = g j) :
    laneResultFl i s d lat g := by
  rw [State.lanewise_eq] at h
  obtain rfl : (fun j => f (s.lane a j) (operandLane s b j)) = g := funext hg
  exact laneResultFl_of_vec hn h rfl

theorem laneResult_of_lanewise {i : Instr} {s : State} {d a : VReg} {b : VSrc} {lat : Nat} {f : Lane → Lane → Lane} {g : Nat → Lane}
    (hn : s.noLanes = false) (h : exec i s = s.lanewise i d a b lat (plain f)) (hg : ∀ j, f (s.lane a j) (operandLane s b j) = g j) :
    laneResult i s d lat g :=
  laneResult_of_fl (laneResultFl_of_lanewise hn h fun j => congrArg (·, Fl.none) (hg j))

/-! ## The values of R194 -/

theorem bv_add_ofNat {w : Nat} (x y : BitVec w) : x + y = BitVec.ofNat w (x.toNat + y.toNat) := by
  apply BitVec.eq_of_toNat_eq; rw [BitVec.toNat_add, BitVec.toNat_ofNat]

theorem bv_mul_ofNat {w : Nat} (x y : BitVec w) : x * y = BitVec.ofNat w (x.toNat * y.toNat) := by
  apply BitVec.eq_of_toNat_eq; rw [BitVec.toNat_mul, BitVec.toNat_ofNat]

theorem lane_sub_ofInt (x y : Lane) : x - y = BitVec.ofInt 32 ((x.toNat : Int) - y.toNat) := by
  apply BitVec.eq_of_toNat_eq
  have hx := x.isLt
  have hy := y.isLt
  rw [BitVec.toNat_sub, BitVec.toNat_ofInt]
  omega

theorem bv_shiftLeft_ofNat {w : Nat} (x : BitVec w) (k : Nat) : x <<< k = BitVec.ofNat w (x.toNat * 2 ^ k) := by
  apply BitVec.eq_of_toNat_eq; rw [BitVec.toNat_shiftLeft, BitVec.toNat_ofNat, Nat.shiftLeft_eq]

theorem bv_ushiftRight_ofNat {w : Nat} (x : BitVec w) (k : Nat) : x >>> k = BitVec.ofNat w (x.toNat / 2 ^ k) := by
  apply BitVec.eq_of_toNat_eq
  rw [BitVec.toNat_ushiftRight, BitVec.toNat_ofNat, Nat.shiftRight_eq_div_pow, Nat.mod_eq_of_lt (Nat.lt_of_le_of_lt (Nat.div_le_self _ _) x.isLt)]

theorem bv_sshiftRight_ofInt {w : Nat} (x : BitVec w) (k : Nat) : x.sshiftRight k = BitVec.ofInt w (x.toInt / 2 ^ k) := by
  rw [BitVec.sshiftRight, Int.shiftRight_eq_div_pow]
  push_cast
  rfl

theorem bne_eq_decide_ne {w : Nat} (x y : BitVec w) : (x != y) = decide (x ≠ y) := Bool.eq_iff_iff.2 (bne_iff_ne.trans decide_eq_true_iff.symm)

theorem minLane_eq (x y : Lane) : minLane false x y = if x.toInt ≤ y.toInt then x else y := by
  simp only [minLane, BitVec.slt_eq_decide, decide_eq_true_eq, Bool.false_eq_true, if_false]
  have := @BitVec.eq_of_toInt_eq 32 x y
  grind
theorem minLane_z (x y : Lane) : minLane true x y = if x.toNat ≤ y.toNat then x else y := by
  simp only [minLane, BitVec.ult_eq_decide, decide_eq_true_eq, if_true]
  have := @BitVec.eq_of_toNat_eq 32 x y
  grind
theorem maxLane_eq (x y : Lane) : maxLane false x y = if x.toInt ≤ y.toInt then y else x := by
  simp only [maxLane, BitVec.slt_eq_decide, decide_eq_true_eq, Bool.false_eq_true, if_false]
  have := @BitVec.eq_of_toInt_eq 32 x y
  grind
theorem maxLane_z (x y : Lane) : maxLane true x y = if x.toNat ≤ y.toNat then y else x := by
  simp only [maxLane, BitVec.ult_eq_decide, decide_eq_true_eq, if_true]
  have := @BitVec.eq_of_toNat_eq 32 x y
  grind

/-- A lane clamped to s32 and to z32 (R102). -/
theorem clampS_lane (v : Int) : ((clampS 32 v).1, Fl.clamp (clampS 32 v).2) = clampedLane (-(2 ^ 31)) (2 ^ 31 - 1) v := by
  have hb : ((2 ^ (32 - 1) : Nat) : Int) = 2 ^ 31 := rfl
  simp only [clampS, clampedLane, hb]
  split
  next h => rw [Int.max_eq_left (by omega), if_neg (by omega)]; rfl
  next h =>
    split
    next h2 => rw [Int.min_eq_left (by omega), Int.max_eq_right (by omega), if_neg (by omega)]; rfl
    next h2 => rw [Int.min_eq_right (by omega), Int.max_eq_right (by omega), if_pos (by omega)]; rfl

theorem clampZ_lane (v : Int) : ((clampZ 32 v).1, Fl.clamp (clampZ 32 v).2) = clampedLane 0 (2 ^ 32 - 1) v := by
  have hb : ((2 ^ 32 : Nat) : Int) = 2 ^ 32 := rfl
  simp only [clampZ, clampedLane, hb]
  split
  next h => rw [Int.max_eq_left (by omega), if_neg (by omega)]; rfl
  next h =>
    split
    next h2 => rw [Int.min_eq_left (by omega), Int.max_eq_right (by omega), if_neg (by omega)]; rfl
    next h2 => rw [Int.min_eq_right (by omega), Int.max_eq_right (by omega), if_pos (by omega)]; rfl

theorem clampLane_s (f : Int → Int → Int) (x y : Lane) : clampLane false f x y = clampedLane (-(2 ^ 31)) (2 ^ 31 - 1) (f x.toInt y.toInt) := by
  rw [← clampS_lane, clampLane, if_neg Bool.false_ne_true]
theorem clampLane_z (f : Int → Int → Int) (x y : Lane) : clampLane true f x y = clampedLane 0 (2 ^ 32 - 1) (f x.toNat y.toNat) := by
  rw [← clampZ_lane, clampLane, if_pos rfl]

theorem mulhLane_s (x y : Lane) : mulhLane false x y = BitVec.ofInt 32 (x.toInt * y.toInt / 2 ^ 32) := if_neg Bool.false_ne_true
theorem mulhLane_z (x y : Lane) : mulhLane true x y = BitVec.ofNat 32 (x.toNat * y.toNat / 2 ^ 32) := if_pos rfl

theorem vectorIntegerResults : Claims.VectorIntegerResults := by
  intro s d a b hn x y k
  exact ⟨fun _ => ⟨laneResult_of_lanewise hn rfl fun _ => bv_add_ofNat .., laneResult_of_lanewise hn rfl fun _ => lane_sub_ofInt ..⟩,
    laneResultFl_of_lanewise (f := clampLane false (· + ·)) hn rfl fun _ => clampLane_s .., laneResultFl_of_lanewise (f := clampLane false (· - ·)) hn rfl fun _ => clampLane_s ..,
    laneResultFl_of_lanewise (f := clampLane true (· + ·)) hn rfl fun _ => clampLane_z .., laneResultFl_of_lanewise (f := clampLane true (· - ·)) hn rfl fun _ => clampLane_z ..,
    laneResult_of_lanewise hn rfl fun _ => bv_mul_ofNat .., laneResult_of_lanewise hn rfl fun _ => mulhLane_s .., laneResult_of_lanewise hn rfl fun _ => mulhLane_z ..,
    laneResult_of_lanewise hn rfl fun _ => minLane_eq .., laneResult_of_lanewise hn rfl fun _ => minLane_z ..,
    laneResult_of_lanewise hn rfl fun _ => maxLane_eq .., laneResult_of_lanewise hn rfl fun _ => maxLane_z ..,
    laneResult_of_lanewise hn rfl fun _ => rfl, laneResult_of_lanewise hn rfl fun _ => rfl, laneResult_of_lanewise hn rfl fun _ => rfl,
    laneResult_of_lanewise hn rfl fun _ => bv_shiftLeft_ofNat .., laneResult_of_lanewise hn rfl fun _ => bv_ushiftRight_ofNat ..,
    laneResult_of_lanewise hn rfl fun _ => bv_sshiftRight_ofInt ..⟩

/-! ## Moves, comparison and selection (R193, R195) -/

theorem replicate_eq_map_range {α : Type} (n : Nat) (v : α) : List.replicate n v = (List.range n).map fun _ => v :=
  ((List.map_const' (l := List.range n)).trans (congrArg (List.replicate · v) List.length_range)).symm

theorem set_map_range {α : Type} (n k : Nat) (f : Nat → α) (v : α) :
    ((List.range n).map f).set k v = (List.range n).map fun j => if j = k then v else f j := by
  apply List.ext_getElem
  · simp
  · intro j h1 h2
    simp only [List.getElem_set, List.getElem_map, List.getElem_range, eq_comm]

/-- What VSLIDE puts where no lane stands. -/
def State.slideFill (s : State) (g : Option GReg) : Lane := match g with | some r => (s.g r).setWidth 32 | none => 0

theorem vslide_eq (s : State) (g : Option GReg) (d a : VReg) (k : BitVec 8) : exec (.vslide g d a k) s = s.vec fun n =>
    s.vdone (.vslide g d a k) d (quiet ((List.range n).map fun (i : Nat) =>
      let j : Int := (i : Int) + k.toInt
      if 0 ≤ j ∧ j < n then s.lane a j.toNat else s.slideFill g)) 2 := rfl

theorem vperm_eq (s : State) (d a b : VReg) : exec (.vperm d a b) s = s.vec fun n =>
    s.vdone (.vperm d a b) d (quiet ((s.lanesOf b n).map fun j => if j.toNat < n then s.lane a j.toNat else 0)) 2 := rfl

theorem vbcast_eq (s : State) (d : VReg) (a : GReg) : exec (.vbcast d a) s = s.vec fun n =>
    s.vdone (.vbcast d a) d (quiet (List.replicate n ((s.g a).setWidth 32))) 2 := rfl

theorem vmovg_eq (s : State) (d : GReg) (a : VReg) (b : GReg) : exec (.vmovg d a b) s = s.vec fun n =>
    if (s.g b).toNat ≥ n then s.illegal (.vmovg d a b) else s.gdone (.vmovg d a b) d (sext (s.lane a (s.g b).toNat)) Fl.none 2 := rfl

theorem vmovgSet_eq (s : State) (d : VReg) (a b : GReg) : exec (.vmovgSet d a b) s = s.vec fun n =>
    if (s.g b).toNat ≥ n then s.illegal (.vmovgSet d a b)
    else s.vdone (.vmovgSet d a b) d (quiet ((s.lanesOf d n).set (s.g b).toNat ((s.g a).setWidth 32))) 2 := rfl

theorem vsel_eq (s : State) (d x y z : VReg) : exec (.vsel d x y z) s = s.vec fun n =>
    s.vdone (.vsel d x y z) d (quiet ((List.range n).map fun i => if s.lane z i != 0 then s.lane x i else s.lane y i)) 2 := rfl

theorem vectorMovesAndSelection : Claims.VectorMovesAndSelection := by
  intro s d x y z a b dg o k hn n idx low slide test
  have hcmp (cc : VCond) : laneResultFl (.vcmp cc d x o) s d 2 fun j => (test (cmpLane cc (s.lane x j) (operandLane s o j)).1, (cmpLane cc (s.lane x j) (operandLane s o j)).2) :=
    laneResultFl_of_lanewise hn rfl fun _ => rfl
  refine ⟨laneResult_of_vec hn (h := vbcast_eq ..) ?_, fun hi => ⟨computes_of_gdone ?_, laneResult_of_vec hn (h := vmovgSet_eq ..) ?_⟩, fun hi => ⟨?_, ?_⟩, laneResult_of_vec hn (h := vperm_eq ..) ?_,
    laneResult_of_vec hn (h := vslide_eq s none d x k) ?_, laneResult_of_vec hn (h := vslide_eq s (some a) d x k) ?_, laneResult_of_vec hn (h := vsel_eq ..) ?_, laneResult_of_fl (hcmp .eq), laneResult_of_fl ?_,
    laneResult_of_fl (hcmp .lt), laneResult_of_fl ?_, laneResult_of_fl (hcmp .ltZ), laneResult_of_fl ?_, hcmp⟩
  · exact congrArg (fun l => s.vdone _ d (quiet l) 2) (replicate_eq_map_range n (low a))
  · rw [vmovg_eq, State.vec_granted hn]
    exact if_neg (Nat.not_le.2 hi)
  · exact (if_neg (Nat.not_le.2 hi)).trans (congrArg (fun l => s.vdone _ d (quiet l) 2) (set_map_range ..))
  · rw [trapsWith, vmovg_eq, State.vec_granted hn]
    exact if_pos hi
  · rw [trapsWith, vmovgSet_eq, State.vec_granted hn]
    exact if_pos hi
  · exact congrArg (fun l => s.vdone _ d (quiet l) 2) (List.map_map ..)
  · rfl
  · rfl
  · simp only [bne_iff_ne]
  · have h := hcmp .ne
    simp only [cmpLane, bne_eq_decide_ne] at h
    exact h
  · have h := hcmp .ge
    simp only [cmpLane, BitVec.slt_eq_decide, ← decide_not, Int.not_lt] at h
    exact h
  · have h := hcmp .geZ
    simp only [cmpLane, BitVec.ult_eq_decide, ← decide_not, Nat.not_lt] at h
    exact h

/-- Settles O35: every operation is a function of the lanes, and its result is on its way. -/
theorem vectorIntegersCompute : Obligations.VectorIntegersCompute := ⟨vectorIntegerResults, vectorMovesAndSelection⟩

end Sys2Proof.Machine
end

section
/-! PROOFS. Floating vector operations, wide accumulators, dot products and conversions (O36). -/
namespace Sys2Proof.Machine
open Sys2Proof

/-! ## Element operations (R196, R197) -/

theorem vfma_eq (s : State) (d a : VReg) (b : VSrc) (c : VReg) : exec (.vfma d a b c) s = s.vec fun n =>
    s.vdone (.vfma d a b c) d (List.zipWith (fun p z => asLane (f32.fma s.cx.rm p.1 p.2 z))
      (List.zipWith (fun x y => (x.toNat, y.toNat)) (s.lanesOf a n) (s.srcOf b n)) ((s.lanesOf c n).map (·.toNat))) 4 := rfl

theorem unaryResult_of_vunary {i : Instr} {s : State} {d a : VReg} {f : Rm → Nat → Nat × Fl} (hn : s.noLanes = false) (h : exec i s = s.vunary i d a f) :
    unaryResult i s d a f :=
  laneResultFl_of_vec hn h (congrArg (s.vdone i d · 12) (List.map_map ..))

theorem vectorFloatResults : Claims.VectorFloatResults := by
  intro s d a c b hn x y out
  refine ⟨laneResultFl_of_lanewise hn rfl fun _ => rfl, laneResultFl_of_lanewise hn rfl fun _ => rfl, laneResultFl_of_lanewise hn rfl fun _ => rfl, ?_,
    laneResultFl_of_lanewise hn rfl fun _ => rfl, laneResultFl_of_lanewise hn rfl fun _ => rfl, unaryResult_of_vunary hn rfl, unaryResult_of_vunary hn rfl,
    unaryResult_of_vunary hn rfl, unaryResult_of_vunary hn rfl, unaryResult_of_vunary hn rfl⟩
  refine laneResultFl_of_vec hn (vfma_eq ..) (congrArg (s.vdone _ d · 4) ?_)
  rw [State.srcOf_eq_map, State.lanesOf, State.lanesOf, List.map_map, zipWith_range, zipWith_range]
  rfl

/-! ## The wide accumulators (R198, R199) -/

theorem computesWide_of_vec {i : Instr} {s : State} {d : WReg} {lat : Nat} {f : Nat → Word × Fl} {F : Nat → Result} (hn : s.noLanes = false)
    (h : exec i s = s.vec F) (hF : F s.core.vsetl.toNat = s.wdone i d ((List.range s.core.vsetl.toNat).map f) lat) :
    computes i s (.w d) ((List.range s.core.vsetl.toNat).map fun j => (f j).1) (flagsOf ((List.range s.core.vsetl.toNat).map f)) lat := by
  refine computes_of_finishFl ((h.trans (State.vec_granted hn F)).trans (hF.trans ?_))
  rw [State.wdone, List.map_map, List.isEmpty_map, List.isEmpty_map]
  rfl

theorem computesWide_of_wideOp {i : Instr} {s : State} {d : WReg} {a b : VReg} {f : Word → Lane → Lane → Word × Fl} {g : Nat → Word × Fl}
    (hn : s.noLanes = false) (h : exec i s = s.wideOp i d a b f) (hg : ∀ j, f (wideLane s d j) (s.lane a j) (s.lane b j) = g j) :
    computes i s (.w d) ((List.range s.core.vsetl.toNat).map fun j => (g j).1) (flagsOf ((List.range s.core.vsetl.toNat).map g)) 4 := by
  refine computesWide_of_vec hn h (congrArg (s.wdone i d · 4) ?_)
  obtain rfl : (fun j => f (wideLane s d j) (s.lane a j) (s.lane b j)) = g := funext hg
  rw [State.lanesOf, State.lanesOf, zip_range]
  exact zipWith_range _ _ (wideLane s d) _

/-- The value and the flag of a number clamped to s64 (R102). -/
theorem clampS64_word (v : Int) : ((clampS 64 v).1, Fl.clamp (clampS 64 v).2)
    = (BitVec.ofInt 64 (max (-(2 ^ 63)) (min (2 ^ 63 - 1) v)), if -(2 ^ 63) ≤ v ∧ v ≤ 2 ^ 63 - 1 then Fl.none else { Fl.none with sv := true }) := by
  rw [clampS_eq]
  by_cases h : -(2 ^ 63) ≤ v ∧ v ≤ 2 ^ 63 - 1
  · rw [if_pos h, decide_eq_true h]; rfl
  · rw [if_neg h, decide_eq_false h]; rfl

theorem vfmacw_eq (s : State) (d : WReg) (a b : VReg) : exec (.vfmacw d a b) s = s.wideOp (.vfmacw d a b) d a b fun w x y =>
    let r := f64.fmaV s.cx.rm (f32.decode x.toNat) (f32.decode y.toNat) (f64.decode w.toNat)
    (word r.1, r.2) := rfl

theorem vwclr_eq (s : State) (d : WReg) : exec (.vwclr d) s = s.vec fun n => s.wdone (.vwclr d) d (List.replicate n (0, Fl.none)) 2 := rfl

theorem macw_wraps (z : Bool) (w : Word) (x y : Lane) :
    macw false z w x y = (BitVec.ofInt 64 (w.toInt + if z then (x.toNat : Int) * y.toNat else x.toInt * y.toInt), Fl.none) := by
  cases z <;> rfl

theorem macw_clamps (z : Bool) (w : Word) (x y : Lane) (v : Int) (hv : v = w.toInt + if z then (x.toNat : Int) * y.toNat else x.toInt * y.toInt) :
    macw true z w x y = ((clampS 64 v).1, Fl.clamp (clampS 64 v).2) := by
  subst hv; cases z <;> rfl

/-! ## The integer dot product (R200) -/

theorem laneByte_eq (z : Bool) (x : Lane) (k : Nat) :
    laneByte z x k = if z then ((BitVec.ofNat 8 (x.toNat / 256 ^ k)).toNat : Int) else (BitVec.ofNat 8 (x.toNat / 256 ^ k)).toInt := by
  rw [laneByte, Nat.shiftRight_eq_div_pow, Nat.pow_mul]

/-- The bytes of two lanes multiplied and added to a third lane. -/
theorem foldl_byteDot (z : Bool) (x y : Lane) (c : Int) : ((List.range 4).map fun k => laneByte z x k * laneByte z y k).foldl (· + ·) c = c + byteDot z x y := by
  have ht : byteDot z x y = ((List.range 4).map fun k => laneByte z x k * laneByte z y k).sum := by
    simp only [laneByte_eq]
    cases z <;> rfl
  rw [ht]
  show c + _ + _ + _ + _ = c + (_ + (_ + (_ + (_ + 0))))
  omega

theorem vidot_eq (sat z : Bool) (d a b c : VReg) (s : State) : exec (.vidot sat z d a b c) s = s.vec fun n =>
    s.vdone (.vidot sat z d a b c) d (List.zipWith (fun z2 p => idotLane sat z z2 p.1 p.2) (s.lanesOf c n) ((s.lanesOf a n).zip (s.lanesOf b n))) 4 := rfl

theorem vnarrow_eq (m : NarrowMode) (d : VReg) (a : WReg) (sh : BitVec 6) (s : State) : exec (.vnarrow m d a sh) s = s.vec fun n =>
    s.vdone (.vnarrow m d a sh) d ((s.wideOf a n).map (narrowLane s.cx m sh.toNat)) 4 := rfl

theorem laneResultFl_of_vidot {sat z : Bool} {d a b c : VReg} {s : State} {g : Nat → Lane × Fl} (hn : s.noLanes = false)
    (hg : ∀ j, idotLane sat z (s.lane c j) (s.lane a j) (s.lane b j) = g j) : laneResultFl (.vidot sat z d a b c) s d 4 g := by
  refine laneResultFl_of_vec hn (vidot_eq ..) (congrArg (s.vdone _ d · 4) ?_)
  obtain rfl : (fun j => idotLane sat z (s.lane c j) (s.lane a j) (s.lane b j)) = g := funext hg
  rw [State.lanesOf, State.lanesOf, State.lanesOf, zip_range, zipWith_range]

theorem wideAndIntegerDotResults : Claims.WideAndIntegerDotResults := by
  intro s d a b c w m sh z hn n x y prod wideRes clamp64
  refine ⟨computesWide_of_wideOp hn rfl fun j => macw_wraps .., computesWide_of_wideOp hn rfl fun j => ?_, computesWide_of_wideOp hn (vfmacw_eq ..) fun j => rfl,
    computesWide_of_vec hn (vwclr_eq ..) (congrArg (s.wdone _ w · 2) (replicate_eq_map_range ..)),
    laneResultFl_of_vec hn (vnarrow_eq ..) (congrArg (s.vdone _ d · 4) (List.map_map ..)), laneResult_of_fl (laneResultFl_of_vidot hn fun j => ?_),
    laneResultFl_of_vidot hn fun j => ?_⟩
  · exact (macw_clamps z _ _ _ _ rfl).trans (clampS64_word _)
  · rw [← foldl_byteDot]; rfl
  · rw [← foldl_byteDot, ← clampS_lane]; rfl

/-! ## The floating dot products (R180, R181, R201, R202) -/

theorem Fl.none_or (f : Fl) : Fl.or Fl.none f = f := by
  cases f; simp [Fl.or, Fl.none]
theorem Fl.or_none (f : Fl) : Fl.or f Fl.none = f := by
  cases f; simp [Fl.or, Fl.none]

/-- A dot product of two terms by the two chains: one term in each. -/
theorem dotMain_two (f : Fmt) (rm : Rm) (c : Nat) (p q : Fp × Fp) :
    dotMain f rm c [p, q] =
      let e := f.fmaV rm p.1 p.2 (f.decode c)
      let o := f.fmaV rm q.1 q.2 (f.decode 0)
      let r := f.add rm e.1 o.1
      (r.1, Fl.or (Fl.or e.2 o.2) r.2) := by
  simp only [dotMain, chains, Bool.false_eq_true, if_false, Bool.not_false, if_true, Fl.none_or]

/-- A dot product of two terms by the tree: two leaves, one sum, added to the initial value. -/
theorem dotTree_two (f : Fmt) (rm : Rm) (c : Nat) (p q : Fp × Fp) :
    dotTree f rm c [p, q] =
      let x := f.mulV rm p.1 p.2
      let y := f.mulV rm q.1 q.2
      let t := f.add rm x.1 y.1
      let r := f.add rm c t.1
      (r.1, Fl.or (Fl.or x.2 y.2) (Fl.or t.2 r.2)) := by
  simp only [dotTree, treeSum, treeBlocks, treeLevels, treeLevel, flagsOf, List.map_cons, List.map_nil, List.length_cons, List.length_nil, List.take, List.headD,
    Nat.reduceAdd, Nat.reduceDiv, List.foldl_cons, List.foldl_nil, Fl.none_or, Fl.or_none]

theorem vfdot_eq (s : State) (h16 : Bool) (d a b c : VReg) : exec (.vfdot h16 d a b c) s = s.vec fun n =>
    s.vdone (.vfdot h16 d a b c) d (List.zipWith (fun z p =>
      let t := halfTerms h16 p.1 p.2
      asLane (if s.cx.fpord then dotTree f32 s.cx.rm z.toNat [t.1, t.2] else dotMain f32 s.cx.rm z.toNat [t.1, t.2]))
      (s.lanesOf c n) ((s.lanesOf a n).zip (s.lanesOf b n))) 4 := rfl

theorem laneResultFl_of_vfdot {s : State} {h16 : Bool} {d a b c : VReg} {g : Nat → Lane × Fl} (hn : s.noLanes = false)
    (hg : ∀ j, (let t := halfTerms h16 (s.lane a j) (s.lane b j)
      asLane (if s.cx.fpord then dotTree f32 s.cx.rm (s.lane c j).toNat [t.1, t.2] else dotMain f32 s.cx.rm (s.lane c j).toNat [t.1, t.2])) = g j) :
    laneResultFl (.vfdot h16 d a b c) s d 4 g := by
  refine laneResultFl_of_vec hn (vfdot_eq ..) (congrArg (s.vdone _ d · 4) ?_)
  obtain rfl := funext hg
  rw [State.lanesOf, State.lanesOf, State.lanesOf, zip_range, zipWith_range]

theorem vdotr_eq (s : State) (d : GReg) (a b : VReg) (c : GReg) (hn : s.noLanes = false) : exec (.vdotr d a b c) s =
    let n := s.core.vsetl.toNat
    let z := (s.g c).toNat % 2 ^ 32
    let ts := (List.range n).map fun j => (f32.decode (s.lane a j).toNat, f32.decode (s.lane b j).toNat)
    let r := if n = 0 then (z, Fl.none) else if s.cx.fpord then dotTree f32 s.cx.rm z ts else dotMain f32 s.cx.rm z ts
    s.gdone (.vdotr d a b c) d (word r.1) r.2 8 := by
  show execVdotr d a b c s = _
  rw [execVdotr, State.vec_granted hn]
  simp only [State.lanesOf, zipWith_range]

/-- The two chains of VFDOT.C. -/
def evenChain (s : State) (h16 : Bool) (d a b : VReg) (j : Nat) : Nat × Fl :=
  let t := (halfTerms h16 (s.lane a j) (s.lane b j)).1
  f32.fmaV s.cx.rm t.1 t.2 (f32.decode (s.lane d j).toNat)
def oddChain (s : State) (h16 : Bool) (d a b : VReg) (j : Nat) : Nat × Fl :=
  let t := (halfTerms h16 (s.lane a j) (s.lane b j)).2
  f32.fmaV s.cx.rm t.1 t.2 (f32.decode (s.lane (d + 1) j).toNat)

theorem vfdotC_eq (s : State) (h16 : Bool) (d a b : VReg) (hn : s.noLanes = false) : exec (.vfdotC h16 d a b) s =
    if s.cx.fpord ∨ bit d 0 then s.illegal (.vfdotC h16 d a b)
    else
      let n := s.core.vsetl.toNat
      let ev := (List.range n).map fun j => asLane (evenChain s h16 d a b j)
      let od := (List.range n).map fun j => asLane (oddChain s h16 d a b j)
      (if n = 0 then s else (s.later (.v d) (ev.map fun p => zext p.1) 4).later (.v (d + 1)) (od.map fun p => zext p.1) 4).finishFl (.vfdotC h16 d a b)
        (Fl.or (flagsOf ev) (flagsOf od)) := by
  show execVfdotC h16 d a b s = _
  rw [execVfdotC, State.vec_granted hn]
  simp only [State.lanesOf, zip_range, zipWith_range]
  rfl

theorem flagsOf_asLane (n : Nat) (f : Nat → Nat × Fl) :
    flagsOf ((List.range n).map fun j => asLane (f j)) = ((List.range n).map f).foldl (fun f p => Fl.or f p.2) Fl.none := by
  rw [flagsOf, List.foldl_map, List.foldl_map]
  rfl

theorem zext_asLane (r : Nat × Fl) : (zext (asLane r).1 : Word) = BitVec.ofNat 64 (r.1 % 2 ^ 32) := by
  apply BitVec.eq_of_toNat_eq
  simp [asLane, zext]

/-- VFDOT.C ends with both chains on their way. -/
theorem vfdotC_ends {s : State} {h16 : Bool} {d a b : VReg} (hn : s.noLanes = false) (hf : s.cx.fpord = false) (hd : bit d 0 = false)
    (h0 : s.core.vsetl.toNat ≠ 0) :
    let ev := (List.range s.core.vsetl.toNat).map (evenChain s h16 d a b)
    let od := (List.range s.core.vsetl.toNat).map (oddChain s h16 d a b)
    let f := Fl.or (ev.foldl (fun f p => Fl.or f p.2) Fl.none) (od.foldl (fun f p => Fl.or f p.2) Fl.none)
    let c : Context := { s.cx with fflags := s.cx.fflags ||| f.bits, pend := s.cx.pend
      ++ [⟨.v d, ev.map fun p => BitVec.ofNat 64 (p.1 % 2 ^ 32), s.cy + 4⟩, ⟨.v (d + 1), od.map fun p => BitVec.ofNat 64 (p.1 % 2 ^ 32), s.cy + 4⟩] }
    quietFlags s f → exec (.vfdotC h16 d a b) s = .next (s.setCx (c.retire (s.after (.vfdotC h16 d a b)))) := by
  intro ev od f c hq
  have hno : ¬ (s.cx.fpord = true ∨ bit d 0 = true) := by rw [hf, hd]; simp
  have hv (g : Nat → Nat × Fl) : (((List.range s.core.vsetl.toNat).map fun j => asLane (g j)).map fun p => (zext p.1 : Word))
      = ((List.range s.core.vsetl.toNat).map g).map fun p => BitVec.ofNat 64 (p.1 % 2 ^ 32) := by
    simp only [List.map_map, Function.comp_def, zext_asLane]
  refine ((vfdotC_eq s h16 d a b hn).trans (if_neg hno)).trans ?_
  simp only [if_neg h0, flagsOf_asLane, hv]
  rcases State.finishFl_cases ((s.later (.v d) (ev.map fun p => BitVec.ofNat 64 (p.1 % 2 ^ 32)) 4).later (.v (d + 1)) (od.map fun p => BitVec.ofNat 64 (p.1 % 2 ^ 32)) 4)
    (.vfdotC h16 d a b) f with ⟨-, h⟩ | ⟨hr, -⟩
  · refine h.trans ?_
    simp only [State.later, State.setCx_cx, List.append_assoc]
    rfl
  · exact absurd hq hr

theorem floatDotResults : Claims.FloatDotResults := by
  intro s h d a b c dg cg hn n dec lo hi fma
  refine ⟨fun hf => ⟨laneResultFl_of_vfdot hn fun j => ?_, ?_, fun hd h0 => ?_⟩, fun hf => ⟨laneResultFl_of_vfdot hn fun j => ?_, ?_⟩, fun hd => ?_⟩
  · simp only [hf, Bool.false_eq_true, if_false, dotMain_two]
    rfl
  · refine computes_of_gdone ((vdotr_eq s dg a b cg hn).trans ?_)
    simp only [hf, Bool.false_eq_true, if_false]
    rfl
  · intro ev od f hq
    exact ⟨_, vfdotC_ends hn hf hd h0 hq, rfl, rfl, fun _ => rfl, State.readyAt_retire s { s.cx with fflags := _, pend := _ } _ rfl rfl, rfl, fun _ => rfl⟩
  · simp only [hf, if_true, dotTree_two]
    rfl
  · refine computes_of_gdone ((vdotr_eq s dg a b cg hn).trans ?_)
    simp only [hf, if_true]
    rfl
  · rw [trapsWith, vfdotC_eq s h d a b hn]
    exact if_pos hd

/-! ## Conversions and AMAX (R174, R175, R203, R207) -/

theorem vcvt_eq (s : State) (amax : Bool) (y x : VFmt) (d a : VReg) : exec (.vcvt amax y x d a) s = s.vec fun n =>
    (if amax && n != 0 then s.setCx (s.cx.updateAmax ((s.lanesOf a n).map (fmtValue x))) else s).vdone (.vcvt amax y x d a) d
      ((List.range n).map fun j => cvtLane s.cx y x (s.lane a j)) 4 := by
  show execVcvt amax y x d a s = _
  simp only [execVcvt, State.lanesOf, List.map_map]
  rfl

theorem Context.updateAmax_eq (c : Context) (l : List Fp) : c.updateAmax l = { c with amax := (c.updateAmax l).amax } := by
  unfold Context.updateAmax
  dsimp only
  split <;> rfl

/-- A conversion with AMAX ends with its lanes on their way. -/
theorem vcvtAmax_ends {s : State} {y x : VFmt} {d a : VReg} (hn : s.noLanes = false) (h0 : s.core.vsetl.toNat ≠ 0) {m : Word}
    (hm : (s.cx.updateAmax ((s.lanesOf a s.core.vsetl.toNat).map (fmtValue x))).amax = m) {rs : List (Lane × Fl)}
    (hrs : ((List.range s.core.vsetl.toNat).map fun j => cvtLane s.cx y x (s.lane a j)) = rs) (hq : quietFlags s (flagsOf rs)) {u : State}
    (hu : (s.setCx { s.cx with amax := m }).computed (.v d) (rs.map fun p => zext p.1) (flagsOf rs) 4 = u) :
    exec (.vcvt true y x d a) s = .next (u.setCx (u.cx.retire (s.after (.vcvt true y x d a)))) := by
  subst hu
  have hb : (true && s.core.vsetl.toNat != 0) = true := by simpa using h0
  rw [vcvt_eq, State.vec_granted hn, if_pos hb, Context.updateAmax_eq, hm, hrs]
  have hend := ((s.setCx { s.cx with amax := m }).finishFl_later (.vcvt true y x d a) (.v d) (rs.map fun p => zext p.1) (flagsOf rs) 4).1 hq
  rw [List.isEmpty_map] at hend
  exact hend

/-- The largest number of a list, and 0: it is reached and no number of the list passes it. -/
theorem foldl_max_spec (l : List Nat) (z : Nat) : (l.foldl max z = z ∨ l.foldl max z ∈ l) ∧ z ≤ l.foldl max z ∧ ∀ m ∈ l, m ≤ l.foldl max z := by
  induction l generalizing z with
  | nil => simp
  | cons a l ih =>
    obtain ⟨h1, h2, h3⟩ := ih (max z a)
    rw [List.foldl_cons]
    refine ⟨?_, by omega, ?_⟩
    · rcases h1 with h1 | h1
      · rcases (by omega : max z a = z ∨ max z a = a) with h | h
        · exact .inl (h1.trans h)
        · exact .inr (List.mem_cons.2 (.inl (h1.trans h)))
      · exact .inr (List.mem_cons_of_mem _ h1)
    · intro m hm
      rcases List.mem_cons.1 hm with rfl | hm
      · omega
      · exact h3 m hm

theorem vamax_eq (s : State) (d : GReg) (a : VReg) (hn : s.noLanes = false) : exec (.vamax d a) s =
    let ls := (List.range s.core.vsetl.toNat).map fun j => (s.lane a j).toNat % 2 ^ 31
    let nan := fun x => decide (x > 0x7F800000)
    let r := if s.cx.amaxnan && ls.any nan then 0x7FC00000 else (ls.filter fun x => !nan x).foldl max 0
    s.gdone (.vamax d a) d (word r)
      (if (List.range s.core.vsetl.toNat).any fun j => (f32.decode (s.lane a j).toNat).signals then Fl.invalid else Fl.none) 8 := by
  show execVamax d a s = _
  rw [execVamax, State.vec_granted hn]
  simp only [State.lanesOf, List.map_map, List.any_map]
  rfl

theorem conversionsAndAmax : Claims.ConversionsAndAmax := by
  intro s y x d a dg hn n mags nv
  refine ⟨laneResultFl_of_vec hn (vcvt_eq ..) ?_, fun h0 hq => ?_, fun h0 => ?_, fun ⟨m, hm, hbig⟩ hnan => computes_of_gdone ((vamax_eq s dg a hn).trans ?_),
    fun hno => ⟨(mags.filter fun x => !decide (x > 0x7F800000)).foldl max 0, computes_of_gdone ((vamax_eq s dg a hn).trans ?_), ?_⟩⟩
  · rw [Bool.false_and, if_neg Bool.false_ne_true]
  · generalize hrs : ((List.range s.core.vsetl.toNat).map fun j => cvtLane s.cx y x (s.lane a j)) = rs at hq
    generalize hm : (s.cx.updateAmax ((s.lanesOf a n).map (fmtValue x))).amax = m
    let u := (s.setCx { s.cx with amax := m }).computed (.v d) (rs.map fun p => zext p.1) (flagsOf rs) 4
    refine ⟨_, vcvtAmax_ends (u := u) hn h0 hm hrs hq rfl, rfl, ?_, fun _ => rfl, State.readyAt_retire s u.cx _ rfl rfl, fun _ => rfl⟩
    have hne : rs.map (fun p => (zext p.1 : Word)) ≠ [] := by
      rw [← hrs, Ne, List.map_eq_nil_iff, List.map_eq_nil_iff, List.range_eq_nil]; exact h0
    refine (if_neg hne).trans ?_
    rw [← hrs, List.map_map]
    rfl
  · have h : exec (.vcvt true y x d a) s = s.done (.vcvt true y x d a) := by
      rw [vcvt_eq, State.vec_granted hn, show s.core.vsetl.toNat = 0 from h0]
      exact State.finishFl_none ..
    exact completesAt_of_jump _ _ _ h
  · have hany : (s.cx.amaxnan && mags.any fun x => decide (x > 0x7F800000)) = true := by
      rw [hnan, Bool.true_and, List.any_eq_true]
      exact ⟨m, hm, decide_eq_true hbig⟩
    show s.gdone _ dg (word (if (s.cx.amaxnan && mags.any fun x => decide (x > 0x7F800000)) = true then 0x7FC00000 else _)) _ 8 = _
    rw [if_pos hany]
    rfl
  · have hany : ¬ (s.cx.amaxnan && mags.any fun x => decide (x > 0x7F800000)) = true := by
      rcases hno with h | h
      · rw [show (mags.any fun x => decide (x > 0x7F800000)) = false from List.any_eq_false.2 fun m hm => by simpa using h m hm, Bool.and_false]
        exact Bool.false_ne_true
      · rw [h]
        exact Bool.false_ne_true
    show s.gdone _ dg (word (if (s.cx.amaxnan && mags.any fun x => decide (x > 0x7F800000)) = true then 0x7FC00000 else _)) _ 8 = _
    rw [if_neg hany]
    rfl
  · obtain ⟨h1, -, h3⟩ := foldl_max_spec (mags.filter fun x => !decide (x > 0x7F800000)) 0
    have hin (m : Nat) : m ∈ (mags.filter fun x => !decide (x > 0x7F800000)) ↔ m ∈ mags ∧ m ≤ 0x7F800000 := by
      rw [List.mem_filter, ← decide_not, decide_eq_true_eq, Nat.not_lt]
    refine ⟨h1.imp_right fun h => ((hin _).1 h).1, ?_, fun m hm hle => h3 m ((hin m).2 ⟨hm, hle⟩)⟩
    rcases h1 with h | h
    · rw [h]; decide
    · exact ((hin _).1 h).2

/-- Settles O36. -/
theorem vectorFloatsCompute : Obligations.VectorFloatsCompute := ⟨vectorFloatResults, wideAndIntegerDotResults, floatDotResults, conversionsAndAmax⟩

end Sys2Proof.Machine
end

section
/-! PROOFS. The write effects of control registers as steps (O47). -/
namespace Sys2Proof.Machine
open Sys2Proof

/-! ## A write made from the context in view -/

/-- What a register write does to the context it is made from. -/
def State.writeHere (s : State) (sel : Nat) (v : Word) : State :=
  match s.cregBefore sel with
  | none => s
  | some old =>
    match s.crTrap sel old v with
    | some t => s.trapEntry t.1 0 false t.2
    | none => s.putCreg sel (crForm sel old v)

theorem State.still_takeSignals (s : State) (k : Nat) (v : Word) : s.Still (s.takeSignals k v) := by
  unfold State.takeSignals
  split
  · exact s.still_setCore _
  · exact .refl s

@[simp] theorem State.takeSignals_cx (s : State) (k : Nat) (v : Word) : (s.takeSignals k v).cx = s.cx := by unfold State.takeSignals; split <;> rfl
@[simp] theorem State.takeSignals_id (s : State) (k : Nat) (v : Word) : (s.takeSignals k v).id = s.id := by unfold State.takeSignals; split <;> rfl
@[simp] theorem State.takeSignals_k (s : State) (k : Nat) (v : Word) : (s.takeSignals k v).core.k = s.core.k := by unfold State.takeSignals; split <;> rfl

theorem State.putCreg_view (s : State) (sel : Nat) (v : Word) : (s.putCreg sel v).id = s.id ∧ (s.putCreg sel v).core.k = s.core.k := by
  unfold State.putCreg
  split <;> simp

section
variable {s : State} {sel : Nat} {v old : Word}

theorem State.regWrite_writes (ho : s.cregBefore sel = some old) (ht : s.crTrap sel old v = none) :
    s.regWrite s.id s.core.k sel v = .next (s.putCreg sel (crForm sel old v)) := by
  have h : s.writeHere sel v = s.putCreg sel (crForm sel old v) := by simp only [State.writeHere, ho, ht]
  obtain ⟨hid, hk⟩ := s.putCreg_view sel (crForm sel old v)
  exact (congrArg Host.Outcome.next (State.within_view (f := fun s => s.writeHere sel v) (by rw [h, hid]) (by rw [h, hk]))).trans (by rw [h])

/-- Outside a phalanx and below supervisor level a trap is taken by the context alone. -/
theorem State.trapEntry_own (hp : s.cx.inPhlx = false) (hu : s.cx.super = false) (code source : Nat) (imp : Bool) (w : Word) :
    ∃ c, s.trapEntry code source imp w = s.unbench.setCx c ∧ c.g = s.cx.g := by
  by_cases h : s.cx.delegates code = true ∧ s.cx.inTrap = false
  · exact ⟨_, State.trapEntry_user hp code source imp w hu h.1 h.2, rfl⟩
  · refine ⟨_, State.trapEntry_super hp code source imp w hu ?_, rfl⟩
    cases hd : s.cx.delegates code
    · exact .inl rfl
    · exact .inr (by simpa [hd] using h)

theorem State.regWrite_traps (hp : s.cx.inPhlx = false) (hu : s.cx.super = false) {code : Nat} {w : Word} (ho : s.cregBefore sel = some old)
    (ht : s.crTrap sel old v = some (code, w)) : s.regWrite s.id s.core.k sel v = .next (s.trapEntry code 0 false w) := by
  have h : s.writeHere sel v = s.trapEntry code 0 false w := by simp only [State.writeHere, ho, ht]
  obtain ⟨c, hc, -⟩ := State.trapEntry_own hp hu code 0 false w
  exact (congrArg Host.Outcome.next (State.within_view (f := fun s => s.writeHere sel v) (by rw [h, hc]; rfl) (by rw [h, hc]; rfl))).trans (by rw [h])

/-! ## Masks -/

theorem State.crTrap_none (hro : crReadOnly sel = false) (hres : v &&& crReserved sel = 0) (hs : crS sel = 0) (hb : s.vsetlBlocked sel = false)
    (ha : s.acceptable sel v = true) : s.crTrap sel old v = none := by
  simp [State.crTrap, hro, hres, hs, hb, ha]

theorem and_eq_of_and_not {v m : Word} (h : v &&& ~~~m = 0) : v &&& m = v := by
  apply BitVec.eq_of_getLsbD_eq
  intro i hi
  have hbit := congrArg (fun w : Word => w.getLsbD i) h
  simp only [BitVec.getLsbD_and, BitVec.getLsbD_not, hi, decide_true, Bool.true_and] at hbit
  rw [BitVec.getLsbD_and]
  cases hvb : v.getLsbD i <;> simp_all

theorem crForm_within (hro : crRo sel = 0) (hw0 : crW0c sel = 0) (hv : v &&& ~~~(crRw sel) = 0) : crForm sel old v = v := by
  simp [crForm, hro, hw0, and_eq_of_and_not hv]

end

/-! ## XBOUND and VSETL (R23, R26) -/

/-- XBOUND may take this value now. -/
def State.xboundOk (s : State) (v : Word) : Prop :=
  s.core.k = 0 ∧ (∀ j, 1 ≤ j → j ≤ 10 → (s.core.ctx s.cx j).st = .free ∨ (s.core.ctx s.cx j).st = .exited) ∧ s.core.sbound.toNat ≤ v.toNat
    ∧ v.toNat ≤ 0x8000 ∧ v.toNat % 32 = 0

theorem State.acceptable_xbound (s : State) (v : Word) : s.acceptable 0x08 v = true ↔ s.xboundOk v := by
  have ht : (s.core.ctxs s.cx).tail = (List.range' 1 10).map (s.core.ctx s.cx) := rfl
  have hb : bits v 4 0 = v.toNat % 32 := bits_low v 4
  have hall : ((s.core.ctxs s.cx).tail.all fun c => c.st == .free || c.st == .exited) = true
      ↔ ∀ j, 1 ≤ j → j ≤ 10 → (s.core.ctx s.cx j).st = .free ∨ (s.core.ctx s.cx j).st = .exited := by
    simp only [ht, List.all_map, List.all_eq_true, List.mem_range'_1, Function.comp_apply, Bool.or_eq_true, beq_iff_eq]
    exact ⟨fun h j h1 h10 => h j ⟨h1, by omega⟩, fun h j hj => h j hj.1 (by omega)⟩
  show (decide _ && decide _ && _ && _ && _) = true ↔ _
  rw [hb]
  simp only [Bool.and_eq_true, decide_eq_true_eq, beq_iff_eq, hall, State.xboundOk]
  exact ⟨fun ⟨⟨⟨⟨hlo, hhi⟩, h32⟩, hk⟩, hl⟩ => ⟨hk, hl, hlo, hhi, h32⟩, fun ⟨hk, hl, hlo, hhi, h32⟩ => ⟨⟨⟨⟨hlo, hhi⟩, h32⟩, hk⟩, hl⟩⟩

theorem State.crTrap_xbound_refused {s : State} {v : Word} (h : ¬ s.xboundOk v) (old : Word) : s.crTrap 0x08 old v = some (0x01, 0x08) := by
  have ha : s.acceptable 0x08 v = false := by rw [← Bool.not_eq_true, s.acceptable_xbound]; exact h
  rw [State.crTrap, if_neg (show ¬ crReadOnly 0x08 = true from Bool.false_ne_true)]
  by_cases hr : v &&& crReserved 0x08 = 0
  · have hs : ¬ ((!s.cx.super && (v &&& crS 0x08) != (old &&& crS 0x08)) = true) := by simp [show crS 0x08 = 0 from rfl]
    rw [if_neg (fun k => k hr), if_neg hs, if_neg (show ¬ s.vsetlBlocked 0x08 = true from Bool.false_ne_true), ha]
    rfl
  · exact if_pos hr

theorem State.crTrap_vsetl_refused {s : State} {v : Word} (hv : v.toNat < 256) (hb : s.heldByOther = true) (old : Word) :
    s.crTrap 0x11 old v = some (0x16, 0) := by
  have hr : v &&& crReserved 0x11 = 0 := and_not_mask (n := 8) hv
  have hs : ¬ ((!s.cx.super && (v &&& crS 0x11) != (old &&& crS 0x11)) = true) := by simp [show crS 0x11 = 0 from rfl]
  rw [State.crTrap, if_neg (show ¬ crReadOnly 0x11 = true from Bool.false_ne_true), if_neg (fun k => k hr), if_neg hs]
  exact if_pos hb

/-! ## BREGk (R145) -/

/-- What a write of BREGk comes to: SENSE, bit 1, is kept. -/
theorem bregWrite_masks (s : State) (k : BitVec 2) (v : Word) :
    s.cregBefore (0x1C + k.toNat) = some s.cx.breg[bregIdx k]
    ∧ s.putCreg (0x1C + k.toNat) v = (s.setCx (s.cx.putBreg (bregIdx k) v)).takeSignals k.toNat v
    ∧ crRw (0x1C + k.toNat) = 0xFFFFFFF01 ∧ crRo (0x1C + k.toNat) = 2 ∧ crW0c (0x1C + k.toNat) = 0#64 ∧ crReadOnly (0x1C + k.toNat) = false := by
  have hk : k = 0 ∨ k = 1 ∨ k = 2 ∨ k = 3 := by revert k; decide
  rcases hk with rfl | rfl | rfl | rfl
  all_goals
    refine ⟨s.cregBefore_eq_creg _ (.inr ⟨by decide, by decide⟩), rfl, by decide, by decide, by decide, by decide⟩

theorem breg_formed {v r : Word} (h : v &&& ~~~(r ||| 2) = 0) (hr : r &&& 2 = 0) : v &&& r = v &&& ~~~2 := by
  apply BitVec.eq_of_getLsbD_eq
  intro i hi
  have h1 : (v &&& ~~~(r ||| 2)).getLsbD i = false := by rw [h]; exact BitVec.getLsbD_zero
  have h2 : (r &&& 2).getLsbD i = false := by rw [hr]; exact BitVec.getLsbD_zero
  simp only [BitVec.getLsbD_and, BitVec.getLsbD_not, BitVec.getLsbD_or, hi, decide_true, Bool.true_and] at h1 h2 ⊢
  revert h1 h2
  generalize v.getLsbD i = a
  generalize r.getLsbD i = b
  generalize (2 : Word).getLsbD i = c
  revert a b c
  decide

theorem crForm_breg {s : State} {k : BitVec 2} {old v : Word} (ht : s.crTrap (0x1C + k.toNat) old v = none) :
    crForm (0x1C + k.toNat) old v = (v &&& ~~~2) ||| (old &&& 2) := by
  obtain ⟨-, -, hrw, hro, hw0, hread⟩ := bregWrite_masks s k v
  have hres : v &&& ~~~((0xFFFFFFF01 : Word) ||| 2) = 0 := by
    refine Classical.byContradiction fun hne => ?_
    have h : v &&& crReserved (0x1C + k.toNat) ≠ 0 := by rwa [crReserved, hrw, hro, hw0, BitVec.or_zero]
    rw [State.crTrap, hread, if_neg Bool.false_ne_true, if_pos h] at ht
    cases ht
  rw [crForm, hrw, hro, hw0, BitVec.and_zero, BitVec.or_zero, breg_formed hres (by decide), BitVec.or_comm]

theorem getD_set_self {α : Type} {n : Nat} (l : Vector α n) (i : Nat) (x d : α) (h : i < n) : (l.set i x h).getD i d = x := by
  simp [Vector.getD, h]

theorem bregWrite_puts {s : State} {k : BitVec 2} {v : Word} (ht : s.crTrap (0x1C + k.toNat) s.cx.breg[bregIdx k] v = none) :
    ∃ t, exec (.bregWrite s.id s.core.k k v) s = .next t ∧ t.cx.breg[bregIdx k] = (v &&& ~~~2) ||| (s.cx.breg[bregIdx k] &&& 2) ∧ (t.cx.bar k.toNat).pend = false
      ∧ s.Holds t := by
  obtain ⟨ho, hput, -⟩ := bregWrite_masks s k ((v &&& ~~~2) ||| (s.cx.breg[bregIdx k] &&& 2))
  refine ⟨_, State.regWrite_writes ho ht, ?_⟩
  rw [crForm_breg ht, hput]
  generalize (v &&& ~~~2) ||| (s.cx.breg[bregIdx k] &&& 2) = w
  have hput : s.Still (s.setCx (s.cx.putBreg (bregIdx k) w)) := ⟨rfl, rfl, rfl, rfl, rfl, fun _ => rfl⟩
  refine ⟨?_, ?_, (hput.trans (State.still_takeSignals _ _ _)).holds⟩
  · rw [State.takeSignals_cx]
    exact Vector.getElem_set_self _
  · rw [State.takeSignals_cx]
    exact congrArg Bar.pend (getD_set_self (h := by have := (bregIdx k).isLt; omega) ..)

/-! ## ERRPEND and FFLAGS in a cycle of their own (R25, R170) -/

theorem Context.post_fflags (c : Context) (code sub source : Nat) (w : Word) : (c.post code sub source w).fflags = c.fflags := by
  unfold Context.post; split <;> rfl
theorem Context.post_g (c : Context) (code sub source : Nat) (w : Word) : (c.post code sub source w).g = c.g := by
  unfold Context.post; split <;> rfl

/-- The errors of a cycle posted after a write change no flag and no general register. -/
theorem Context.foldl_post (l : List (Nat × Nat × Nat × Word)) (c : Context) :
    (l.foldl (fun x e => x.post e.1 e.2.1 e.2.2.1 e.2.2.2) c).fflags = c.fflags ∧ (l.foldl (fun x e => x.post e.1 e.2.1 e.2.2.1 e.2.2.2) c).g = c.g := by
  induction l generalizing c with
  | nil => exact ⟨rfl, rfl⟩
  | cons e l ih => exact ⟨(ih _).1.trans (c.post_fflags ..), (ih _).2.trans (c.post_g ..)⟩

theorem Context.writeBefore_fflags {c : Context} {now : Nat} (h : c.lateCy = now) (v : Word) :
    (c.writeBefore now fun c => { c with fflags := v }).fflags = v ||| c.lateFl ∧ (c.writeBefore now fun c => { c with fflags := v }).g = c.g := by
  rw [Context.writeBefore, if_pos h]
  refine ⟨congrArg (· ||| c.lateFl) (Context.foldl_post ..).1, (Context.foldl_post ..).2.trans ?_⟩
  split <;> rfl

theorem fflagsWrite_merges {s : State} {v : Word} (h : s.cx.lateCy = s.cy) (hv : v &&& ~~~(0x3F : Word) = 0) :
    ∃ t, exec (.controlRegisterWrite s.id s.core.k 0x0D v) s = .next t ∧ t.cx.fflags = v ||| s.cx.lateFl ∧ ∀ r, t.g r = s.g r := by
  have hm : ((0x0D : BitVec 8), (0x3F : Word)) ∈ plainRegisters := by decide
  have ho : s.cregBefore (0x0D : BitVec 8).toNat = some (if s.cx.lateFl = 0 then s.cx.fflags else s.cx.lateFlOld) := if_pos h
  refine ⟨_, State.regWrite_writes ho (State.crTrap_plain hm _ hv), ?_⟩
  rw [crForm_plain hm _ hv]
  obtain ⟨hf, hg⟩ := Context.writeBefore_fflags h v
  exact ⟨hf, fun r => State.g_congr hg r⟩

/-- ERRPEND cleared. -/
def Context.noError (c : Context) : Context := { c with errpend := 0, errTval := 0, errSource := 0 }

/-- ERRPEND_CLEAR writes 0 to VALID: what stood there goes, what hardware records in the cycle comes after it. -/
theorem errpendClear_eq (s : State) : exec (.errpendClear s.id s.core.k) s = .next (s.setCx (s.cx.writeBefore s.cy Context.noError)) := by
  obtain ⟨old, ho⟩ : ∃ old, s.cregBefore 0x34 = some old := by
    unfold State.cregBefore
    split
    · exact ⟨_, rfl⟩
    · exact ⟨_, rfl⟩
  have hbit : bit (crForm 0x34 old 0) 0 = false := by
    have hm : (mask 23 8)[0] = false := by decide
    simp [crForm, bit, show crRo 0x34 = mask 23 8 from rfl, hm]
  refine (State.regWrite_writes ho (State.crTrap_none rfl (by simp) rfl rfl rfl)).trans (congrArg (fun f => Host.Outcome.next (s.setCx (s.cx.writeBefore s.cy f))) ?_)
  funext c
  rw [hbit]
  rfl

theorem Context.writeBefore_noError {c : Context} {now : Nat} (h : c.lateCy ≠ now ∨ c.lateErr = []) :
    ∃ f, c.writeBefore now Context.noError = { c.noError with fflags := f } := by
  by_cases hc : c.lateCy = now
  · rw [Context.writeBefore, if_pos hc, h.resolve_left (fun k => k hc)]
    exact ⟨_, rfl⟩
  · rw [Context.writeBefore, if_neg hc]
    exact ⟨_, rfl⟩

theorem errpendClear_clears {s : State} (h : s.cx.lateCy ≠ s.cy ∨ s.cx.lateErr = []) :
    ∃ t, exec (.errpendClear s.id s.core.k) s = .next t ∧ bit t.cx.errpend 0 = false ∧ bit t.cx.errpend 1 = false ∧ (∀ r, t.g r = s.g r)
      ∧ t.cx.pc = s.cx.pc ∧ t.cx.status = s.cx.status ∧ ∀ a, Memory.get t.mem a = Memory.get s.mem a := by
  obtain ⟨f, hf⟩ := Context.writeBefore_noError h
  rw [errpendClear_eq, hf]
  have h0 : bit (0 : Word) 0 = false := rfl
  have h1 : bit (0 : Word) 1 = false := rfl
  exact ⟨_, rfl, h0, h1, fun _ => rfl, rfl, rfl, fun _ => rfl⟩

/-- The fields of ERRPEND for a single error. -/
theorem errpend_fields (c b : Nat) : let w := word (1 + c % 256 * 256 + b % 256 * 65536)
    bit w 0 = true ∧ bits w 15 8 = c % 256 ∧ bits w 23 16 = b % 256 := by
  intro w
  have hw : w.toNat = 1 + c % 256 * 256 + b % 256 * 65536 := by
    show (BitVec.ofNat 64 _).toNat = _
    rw [BitVec.toNat_ofNat]
    omega
  refine ⟨?_, ?_, ?_⟩
  · show w.toNat.testBit 0 = true
    rw [hw, Nat.testBit_zero]
    exact decide_eq_true (by omega)
  · rw [bits, hw, Nat.shiftRight_eq_div_pow]; omega
  · rw [bits, hw, Nat.shiftRight_eq_div_pow]; omega

theorem Context.noError_post (c : Context) (code sub source : Nat) (w : Word) : c.noError.post code sub source w
    = { c.noError with errpend := word (1 + code % 256 * 256 + sub % 256 * 65536), errTval := w, errSource := source } :=
  if_neg (show ¬ bit (0 : Word) 0 = true from Bool.false_ne_true)

theorem errpendClear_posts {s : State} {c b q : Nat} {w : Word} (hc : s.cx.lateCy = s.cy) (he : s.cx.lateErr = [(c, b, q, w)]) :
    ∃ t, exec (.errpendClear s.id s.core.k) s = .next t ∧ bit t.cx.errpend 0 = true ∧ bits t.cx.errpend 15 8 = c % 256
      ∧ bits t.cx.errpend 23 16 = b % 256 ∧ t.cx.errTval = w ∧ t.cx.errSource = q := by
  obtain ⟨h0, h1, h2⟩ := errpend_fields c b
  rw [errpendClear_eq, Context.writeBefore, if_pos hc, he]
  simp only [List.foldl_cons, List.foldl_nil, Context.noError_post]
  exact ⟨_, rfl, h0, h1, h2, rfl, rfl⟩

/-! ## The steps -/

theorem pauseExpiry_eq (s : State) : exec (.pauseExpiry s.id s.core.k) s = .next
    (if s.cx.st = .waiting .operand ∧ s.cx.pauseEnd ≠ 0 ∧ s.cx.pauseEnd ≤ s.cy then s.setCx { s.cx with st := .ready, pauseEnd := 0 } else s) := by
  refine congrArg Host.Outcome.next (State.within_view (f := fun s => if s.cx.st = .waiting .operand ∧ s.cx.pauseEnd ≠ 0 ∧ s.cx.pauseEnd ≤ s.cy then
    s.setCx { s.cx with st := .ready, pauseEnd := 0 } else s) ?_ ?_)
  all_goals dsimp only; split <;> rfl

theorem plainRegister_writes {s : State} {sel : BitVec 8} {m v : Word} (hm : (sel, m) ∈ plainRegisters) (hv : v &&& ~~~m = 0) (hc : s.cx.lateCy ≠ s.cy) :
    ∃ t, exec (.controlRegisterWrite s.id s.core.k sel v) s = .next t ∧ t.creg sel.toNat = some v ∧ (∀ n, n ≠ sel.toNat → t.creg n = s.creg n)
      ∧ (∀ r, t.g r = s.g r) ∧ t.cx.pc = s.cx.pc ∧ ∀ a, Memory.get t.mem a = Memory.get s.mem a := by
  obtain ⟨hlist, -⟩ := plainRegister_masks hm
  obtain ⟨old, ho⟩ := Option.isSome_iff_exists.1 (s.creg_isSome hlist)
  obtain ⟨c, hput⟩ := s.putCreg_plain hm hc v
  refine ⟨_, State.regWrite_writes ((s.cregBefore_eq_creg _ (.inl hc)).trans ho) (State.crTrap_plain hm old hv), ?_⟩
  rw [crForm_plain hm old hv, hput.put]
  exact ⟨hput.new, hput.others, fun r => State.g_congr hput.regs r, hput.pc, fun _ => rfl⟩

theorem clampVl_eq (c : Core) {v : Word} : c.clampVl v = BitVec.ofNat 64 (min v.toNat c.lanes) := by
  unfold Core.clampVl
  split
  next h => rw [Nat.min_eq_right (by omega)]; rfl
  next h => rw [Nat.min_eq_left (by omega), BitVec.ofNat_toNat, BitVec.setWidth_eq]

theorem registerWriteSteps : Claims.RegisterWriteSteps := by
  intro s sel m v k helpersDone xok
  refine ⟨plainRegister_writes, fun hx => ?_, fun hx hu hp => ?_, fun hv hb => ?_, fun hv hb hu hp => ?_, fun hv ha => ?_, bregWrite_puts, fflagsWrite_merges,
    errpendClear_clears, fun c b q w => errpendClear_posts, fun hst h0 => ⟨fun hle => ?_, fun hlt => ?_⟩⟩
  · have hv : v &&& ~~~(crRw 0x08) = 0 := and_not_mask (n := 16) (Nat.lt_of_le_of_lt hx.2.2.2.1 (by decide))
    refine ⟨_, State.regWrite_writes (s.cregBefore_eq_creg 0x08 (.inr ⟨by decide, by decide⟩)) (State.crTrap_none rfl hv rfl rfl ((s.acceptable_xbound v).2 hx)), ?_⟩
    rw [crForm_within rfl rfl hv]
    exact ⟨rfl, (s.still_setCore _).holds⟩
  · obtain ⟨c, hc, -⟩ := State.trapEntry_own hp hu 0x01 0 false 0x08
    obtain ⟨hepc, htval, hcause, -, -⟩ := State.trapEntry_saves hp hu 0x01 0 false 0x08
    refine ⟨_, State.regWrite_traps hp hu (s.cregBefore_eq_creg 0x08 (.inr ⟨by decide, by decide⟩)) (State.crTrap_xbound_refused hx _), ?_, hcause, htval, hepc⟩
    rw [hc]
    rfl
  · have hres : v &&& ~~~(crRw 0x11) = 0 := and_not_mask (n := 8) hv
    refine ⟨_, State.regWrite_writes (s.cregBefore_eq_creg 0x11 (.inr ⟨by decide, by decide⟩)) (State.crTrap_none rfl hres rfl hb rfl), ?_⟩
    rw [crForm_within rfl rfl hres]
    exact ⟨clampVl_eq _, (s.still_setCore _).holds⟩
  · obtain ⟨c, hc, -⟩ := State.trapEntry_own hp hu 0x16 0 false 0
    obtain ⟨hepc, -, hcause, -, -⟩ := State.trapEntry_saves hp hu 0x16 0 false 0
    refine ⟨_, State.regWrite_traps hp hu (s.cregBefore_eq_creg 0x11 (.inr ⟨by decide, by decide⟩)) (State.crTrap_vsetl_refused hv hb _), ?_, hcause, hepc⟩
    rw [hc]
    rfl
  · have hmask : crRw 0x14 = 0xFFFFFFFF7 := by decide
    have hres : crReserved 0x14 = ~~~(0xFFFFFFFF7 : Word) := by decide
    refine ⟨_, State.regWrite_writes (s.cregBefore_eq_creg 0x14 (.inr ⟨by decide, by decide⟩)) (State.crTrap_none rfl (hres ▸ hv) rfl rfl ha), ?_⟩
    rw [crForm_within rfl rfl (hmask ▸ hv)]
    exact ⟨rfl, State.Still.holds ⟨rfl, rfl, rfl, rfl, rfl, fun _ => rfl⟩⟩
  · rw [pauseExpiry_eq, if_pos ⟨hst, h0, hle⟩]
    exact ⟨_, rfl, rfl, State.Still.holds ⟨rfl, rfl, rfl, rfl, rfl, fun _ => rfl⟩⟩
  · rw [pauseExpiry_eq, if_neg (by omega)]

/-- Settles O47. -/
theorem controlRegisterEffectsAsSteps : Obligations.ControlRegisterEffectsAsSteps := registerWriteSteps

end Sys2Proof.Machine
end

section
/-! PROOFS. Port deliveries, cycles of waits and lent credits (O48). -/
namespace Sys2Proof.Machine
open Sys2Proof

/-! ## Another context of the core in view -/

theorem State.cxAt_toCtx (s : State) (k id j : Nat) : (s.toCtx k).cxAt id j = s.cxAt id j := by
  unfold State.toCtx
  split
  · rfl
  next hk =>
    simp only [State.cxAt_eq, State.pairAt]
    by_cases hid : id = s.id
    · simp only [hid, if_true]
      by_cases hj : j = k
      · simp [Core.ctx, hj]
      · by_cases hs : j = s.core.k
        · simp [Core.ctx, hs, Table.find_set, Ne.symm hk]
        · simp [Core.ctx, hj, hs, Table.find_set, Table.find_del_ne _ _ _ hj]
    · simp [hid]

theorem State.toCtx_k (s : State) (k : Nat) : (s.toCtx k).core.k = k := by
  unfold State.toCtx
  split
  next h => exact h.symm
  next => rfl

theorem State.toCtx_cx (s : State) (k : Nat) : (s.toCtx k).cx = s.cxAt s.id k := by
  rw [State.cx_of_cxAt (State.toCtx_same s k).place (s.toCtx_k k), State.cxAt_toCtx]

/-- A change made from another context of the core in view, which keeps that view. -/
theorem State.within_here {s : State} {k : Nat} {f : State → State} (hid : (f (s.toCtx k)).id = s.id) (hk : (f (s.toCtx k)).core.k = k) :
    s.within s.id k f = (f (s.toCtx k)).toCtx s.core.k := by
  have hf : s.focus s.id k = s.toCtx k := by rw [State.focus, State.toCore_self]
  have hc : (f (s.toCtx k)).toCore s.id = f (s.toCtx k) := by rw [← hid, State.toCore_self]
  have hx : (f (s.toCtx k)).toCtx k = f (s.toCtx k) := by rw [State.toCtx, if_pos hk.symm]
  unfold State.within
  rw [hf]
  dsimp only
  rw [hc, hx, hc]

/-! ## Leaving a phalanx (R45) -/

/-- A context as it was, but perhaps out of its phalanx. -/
structure Context.Left (c d : Context) : Prop where
  rest : d = { c with status := d.status, pos := d.pos }
  super : d.super = c.super
  phlx : c.inPhlx = false → d.inPhlx = false

theorem Context.Left.refl (c : Context) : c.Left c := ⟨rfl, rfl, fun h => h⟩
theorem Context.Left.trans {c d e : Context} (h : c.Left d) (k : d.Left e) : c.Left e :=
  ⟨by rw [k.rest, h.rest], k.super.trans h.super, fun hc => k.phlx (h.phlx hc)⟩

theorem Context.left_leavePhlx (c : Context) : c.Left c.leavePhlx := by
  refine ⟨rfl, ?_, fun _ => ?_⟩
  · simp [Context.super, Context.leavePhlx, bit_setBit]
  · simp [Context.inPhlx, Context.leavePhlx, bit_setBit]

/-- Every context of every core as it was, but perhaps out of its phalanx. -/
def State.Left (s t : State) : Prop := ∀ id k, (s.cxAt id k).Left (t.cxAt id k)

theorem State.Left.trans {s t u : State} (h : s.Left t) (k : t.Left u) : s.Left u := fun id j => (h id j).trans (k id j)

theorem State.left_modCx (s : State) (id : Nat) : s.Left (s.modCx id 0 Context.leavePhlx) := fun id' j => by
  rw [State.cxAt_modCx]
  split
  next h => rw [h.1, h.2]; exact Context.left_leavePhlx _
  next => exact .refl _

theorem State.left_foldl (l : List Nat) (s : State) : s.Left (l.foldl (fun s m => s.modCx m 0 Context.leavePhlx) s) := by
  induction l generalizing s with
  | nil => exact fun _ _ => .refl _
  | cons m l ih => exact (s.left_modCx m).trans (ih _)

theorem State.left_trapPhlx (s : State) : s.Left s.trapPhlx := by
  unfold State.trapPhlx
  split
  · split
    · unfold State.dissolve
      split
      · exact fun _ _ => .refl _
      · exact s.left_foldl _
    · exact s.left_modCx s.id
  · exact fun _ _ => .refl _

theorem State.trapPhlx_k (s : State) : s.trapPhlx.core.k = s.core.k := by
  have hone (s : State) (m : Nat) : (s.modCx m 0 Context.leavePhlx).core.k = s.core.k := by
    rw [State.core_of_coreAt (s.modCx_onlyCores m 0 _).id_eq, State.coreAt_modCx, State.coreAt_here]
  have hall (l : List Nat) : ∀ s : State, (l.foldl (fun s m => s.modCx m 0 Context.leavePhlx) s).core.k = s.core.k := by
    induction l with
    | nil => exact fun _ => rfl
    | cons m l ih => exact fun s => (ih _).trans (hone s m)
  unfold State.trapPhlx
  split
  · split
    · unfold State.dissolve
      split
      · rfl
      · exact hall _ s
    · exact hone s s.id
  · rfl

/-- Below supervisor level a trap touches no other context but to take it out of its phalanx. -/
theorem State.trapEntry_others {s : State} (hu : s.cx.super = false) (code source : Nat) (imp : Bool) (v : Word) :
    let t := s.trapEntry code source imp v
    t.id = s.id ∧ t.core.k = s.core.k ∧ t.mem = s.mem ∧ ∀ j, j ≠ s.core.k → (s.cxAt s.id j).Left (t.cxAt s.id j) := by
  intro t
  have hid : s.trapPhlx.id = s.id := (s.trapPhlx_same).place
  have hcx : s.cx.Left s.trapPhlx.cx := by
    have h := s.left_trapPhlx s.id s.core.k
    rwa [State.cxAt_view, ← State.cx_of_cxAt hid s.trapPhlx_k] at h
  have hset : ∃ c, t = s.trapPhlx.unbench.setCx c := by
    rcases s.trapEntry_cases code source imp v with ⟨h, -⟩ | ⟨-, -, h⟩ | ⟨-, -, h⟩
    · exact absurd (hcx.super.trans hu ▸ h) Bool.false_ne_true
    · exact ⟨_, h⟩
    · exact ⟨_, h⟩
  obtain ⟨c, hc⟩ := hset
  rw [hc]
  refine ⟨hid, s.trapPhlx_k, s.trapPhlx_same.mem, fun j hj => ?_⟩
  have hset : (s.trapPhlx.unbench.setCx c).cxAt s.trapPhlx.id j = s.trapPhlx.cxAt s.trapPhlx.id j :=
    (State.cxAt_setCx_of_ne (s := s.trapPhlx.unbench) (s.trapPhlx_k ▸ hj) c).trans rfl
  rw [hid] at hset
  rw [hset]
  exact s.left_trapPhlx s.id j

/-! ## RCYCLE (R48) -/

/-- What RCYCLE does at one context. -/
def State.breakWait (s : State) : State := if s.cx.inCycleWait then s.trapEntry 0x10 0 false (word s.cx.cyclePort) else s

theorem State.breakWait_others {s : State} (hu : s.cx.super = false) :
    s.breakWait.id = s.id ∧ s.breakWait.core.k = s.core.k ∧ s.breakWait.mem = s.mem ∧ ∀ j, j ≠ s.core.k → (s.cxAt s.id j).Left (s.breakWait.cxAt s.id j) := by
  unfold State.breakWait
  split
  · exact State.trapEntry_others hu ..
  · exact ⟨rfl, rfl, rfl, fun _ _ => .refl _⟩

/-- The context in view as RCYCLE leaves it. -/
structure Context.Broken (c d : Context) : Prop where
  epc : d.epc = zext c.pc
  cause : d.cause = 0x10
  tval : d.tval = word c.cyclePort
  regs : d.g = c.g

theorem Context.Broken.left {c d e : Context} (h : c.Broken d) (k : d.Left e) : c.Broken e := by
  have hr := k.rest
  exact ⟨by rw [hr]; exact h.epc, by rw [hr]; exact h.cause, by rw [hr]; exact h.tval, by rw [hr]; exact h.regs⟩

theorem State.breakWait_broken {u : State} {c : Context} (h : c.Left u.cx) (hw : c.inCycleWait = true) (hp : c.inPhlx = false) (hu : c.super = false) :
    c.Broken u.breakWait.cx := by
  have hr := h.rest
  have hst : u.cx.st = c.st := by rw [hr]
  have hwant : u.cx.want = c.want := by rw [hr]
  have hw' : u.cx.inCycleWait = true := by rw [← hw, Context.inCycleWait, Context.inCycleWait, hst, hwant]
  have hport : u.cx.cyclePort = c.cyclePort := by rw [Context.cyclePort, Context.cyclePort, hwant]
  have hbreak : u.breakWait = u.trapEntry 0x10 0 false (word c.cyclePort) := (if_pos hw').trans (by rw [hport])
  obtain ⟨hepc, htval, hcause, -, -⟩ := State.trapEntry_saves (h.phlx hp) (h.super.trans hu) 0x10 0 false (word c.cyclePort)
  obtain ⟨d, hd, hg⟩ := State.trapEntry_own (h.phlx hp) (h.super.trans hu) 0x10 0 false (word c.cyclePort)
  rw [hbreak]
  refine ⟨hepc.trans (by rw [hr]), hcause, htval, ?_⟩
  rw [hd]
  exact hg.trans (by rw [hr])

/-- What holds while RCYCLE goes through the contexts of the core, `l` being those to come. -/
structure State.Breaking (s : State) (l : List Nat) (u : State) : Prop where
  id : u.id = s.id
  k : u.core.k = s.core.k
  mem : u.mem = s.mem
  next : ∀ j ∈ l, (s.cxAt s.id j).Left (u.cxAt s.id j)
  done : s.core.k ∉ l → s.cx.Broken u.cx

theorem State.Breaking.step {s u : State} {k : Nat} {l : List Nat} (hl : (k :: l).Nodup) (hw : s.cx.inCycleWait = true) (hp : s.cx.inPhlx = false)
    (hu : ∀ j ∈ k :: l, (s.cxAt s.id j).super = false) (h : s.Breaking (k :: l) u) : s.Breaking l (u.within s.id k State.breakWait) := by
  obtain ⟨hk, -⟩ := List.nodup_cons.1 hl
  have hv := h.next k (List.mem_cons_self ..)
  have hvid : (u.toCtx k).id = s.id := (State.toCtx_same u k).place.trans h.id
  have hcx : (u.toCtx k).cx = u.cxAt s.id k := by rw [State.toCtx_cx, h.id]
  have hus : (u.toCtx k).cx.super = false := by rw [hcx, hv.super]; exact hu k (List.mem_cons_self ..)
  obtain ⟨bid, bk, bmem, bothers⟩ := State.breakWait_others hus
  rw [State.toCtx_k] at bk bothers
  rw [hvid] at bid bothers
  have hstep : u.within s.id k State.breakWait = (u.toCtx k).breakWait.toCtx s.core.k := by
    rw [← h.id, State.within_here (bid.trans h.id.symm) bk, h.k]
  have hlater (j : Nat) (hj : j ≠ k) : (u.cxAt s.id j).Left ((u.within s.id k State.breakWait).cxAt s.id j) := by
    rw [hstep, State.cxAt_toCtx, ← State.cxAt_toCtx u k]
    exact bothers j hj
  have hid : (u.within s.id k State.breakWait).id = s.id := by rw [hstep]; exact (State.toCtx_same _ _).place.trans bid
  have hkk : (u.within s.id k State.breakWait).core.k = s.core.k := by rw [hstep, State.toCtx_k]
  refine ⟨hid, hkk, ?_, fun j hj => ?_, fun hdone => ?_⟩
  · rw [hstep, (State.toCtx_same _ _).mem, bmem, (State.toCtx_same _ _).mem, h.mem]
  · exact (h.next j (List.mem_cons_of_mem _ hj)).trans (hlater j fun e => hk (e ▸ hj))
  · rw [State.cx_of_cxAt hid hkk]
    by_cases hview : s.core.k = k
    · have hto : u.toCtx k = u := if_pos (hview.symm.trans h.k.symm)
      rw [hto] at bid bk
      rw [hstep, State.cxAt_toCtx, hto, hview, ← State.cx_of_cxAt bid bk]
      rw [← hview, State.cxAt_view, ← State.cx_of_cxAt h.id h.k] at hv
      exact State.breakWait_broken hv hw hp (by rw [← State.cxAt_view s, hview]; exact hu k (List.mem_cons_self ..))
    · have hb := h.done (by simpa [hview] using hdone)
      rw [State.cx_of_cxAt h.id h.k] at hb
      exact hb.left (hlater s.core.k hview)

theorem State.Breaking.foldl {s : State} (hw : s.cx.inCycleWait = true) (hp : s.cx.inPhlx = false) (l : List Nat) (hl : l.Nodup)
    (hu : ∀ j ∈ l, (s.cxAt s.id j).super = false) (u : State) (h : s.Breaking l u) :
    s.Breaking [] (l.foldl (fun u k => u.within s.id k State.breakWait) u) := by
  induction l generalizing u with
  | nil => exact h
  | cons k l ih => exact ih (List.nodup_cons.1 hl).2 (fun j hj => hu j (List.mem_cons_of_mem _ hj)) _ (h.step hl hw hp hu)

/-- RCYCLE at one core: the contexts named break their waits one after another. -/
def State.breakWaits (s : State) (l : List Nat) : State := l.foldl (fun u k => u.within s.id k State.breakWait) s

theorem exec_rcycle (s : State) : exec (.rcycle [s.id]) s =
    if [s.id].any s.halted ∨ !s.isCycle [s.id] then .next s
    else if decide (s.cy - s.cycleSince [s.id] < (s.vif (s.vifOf s.id)).dltime) then .next s
    else .next (s.breakWaits (List.range 11)) := by
  show execRcycle [s.id] s = _
  simp only [execRcycle, List.foldl_cons, List.foldl_nil, List.headD_cons]
  rfl

theorem State.breakWaits_broken {s : State} (hw : s.cx.inCycleWait = true) (hp : s.cx.inPhlx = false) (hk : s.core.k < 11)
    (hu : ∀ k, k < 11 → (s.cxAt s.id k).super = false) : s.Breaking [] (s.breakWaits (List.range 11)) :=
  State.Breaking.foldl hw hp _ List.nodup_range (fun j hj => hu j (List.mem_range.1 hj)) s
    ⟨rfl, rfl, rfl, fun _ _ => .refl _, fun h => absurd (List.mem_range.2 hk) h⟩

theorem cyclesOfWaitsAreBroken : Claims.CyclesOfWaitsAreBroken := by
  intro s hh hc
  have hrun : ¬ ([s.id].any s.halted = true ∨ (!s.isCycle [s.id]) = true) := by simp [hh, hc]
  refine ⟨fun hlt => ?_, fun hle hk hw hq hu hp => ?_⟩
  · rw [exec_rcycle, if_neg hrun, if_pos (decide_eq_true hlt)]
  · have hend := State.breakWaits_broken hw hp hk hu
    have hport : s.cx.cyclePort = 8 + s.cx.want % 4 := if_pos hq
    rw [exec_rcycle, if_neg hrun, if_neg (by simpa using hle)]
    generalize s.breakWaits (List.range 11) = u at hend
    obtain ⟨hepc, hcause, htval, hg⟩ := hend.done (List.not_mem_nil)
    exact ⟨u, rfl, hepc, hcause, htval.trans (by rw [hport]; rfl), fun r => State.g_congr hg r, fun a => by rw [hend.mem]⟩

/-! ## Deliveries (R119, R120, R262, R326) -/

theorem execRoutedMessageDeliver_eq {s : State} {item n : Nat} {m : Msg} {ws : List Word} (hm : s.msg item = some m) (hb : m.body = .routed n ws) :
    exec (.routedMessageDeliver item) s
      = if ((s.flight.takeWhile fun x => x.id != item).any fun x => x.src == m.src && x.dest == m.dest && x.cls == .m) || m.stage != .home
          || !s.fitsN5 m n ws.length then .next s
        else .next { s.modCore n fun c => { c with n5 := c.n5 ++ ws } with flight := s.flight.filter fun x => x.id != item } := by
  show execRoutedMessageDeliver item s = _
  rw [execRoutedMessageDeliver, show (s.flight.find? fun m => m.id == item) = some m from hm]
  dsimp only
  rw [hb]

/-- A lone word on the wires of a port with room. -/
theorem State.land_one {s : State} {port : Nat} {v : Word} {c : Nat} (h : port < 4) (hfly : s.core.nFly = [⟨port, v, c, none⟩])
    (hroom : s.core.nIn[port].length < 4) :
    s.land s.id port = if c + 2 ≤ s.cy then s.setCore { s.core with nFly := [], nIn := s.core.nIn.set port (s.core.nIn[port] ++ [v]) }
      else s.setCore { s.core with nFly := [⟨port, v, c, none⟩], nIn := s.core.nIn.set port s.core.nIn[port] } := by
  have hdue : s.wordDue s.id ⟨port, v, c, none⟩ = decide (c + 2 ≤ s.cy) := rfl
  have hland : landWords (s.wordDue s.id) port [⟨port, v, c, none⟩] s.core.nIn[port]
      = if c + 2 ≤ s.cy then ([], s.core.nIn[port] ++ [v]) else ([⟨port, v, c, none⟩], s.core.nIn[port]) := by
    rw [landWords, if_neg (fun k => k rfl), hdue, decide_eq_true hroom, Bool.and_true]
    simp only [decide_eq_true_eq]
    rfl
  rw [State.land, dif_pos h, State.modCore_view]
  simp only [State.coreAt_here, hfly, hland]
  split <;> rfl

theorem portDeliveries : Claims.PortDeliveries := by
  intro s item n port m ws v c
  constructor
  · intro hm hb used
    have hfit : s.fitsN5 m n ws.length = decide (used ≤ 16) := rfl
    rw [execRoutedMessageDeliver_eq hm hb, hfit]
    refine ⟨fun hst hearly hle => ?_, fun hno => if_pos ?_⟩
    · refine ⟨_, if_neg (by simp [hst, hearly, hle]), ?_, rfl, State.Still.holds (.of_cx_eq (s.modCore_cx n _) (s.modCore_mem n _))⟩
      exact congrArg Core.n5 ((s.coreAt_modCore n n _).trans (if_pos rfl))
    · rcases hno with h | h
      · simp [Nat.not_le.2 h]
      · simp [h]
  · intro hport hfly hroom
    have hexec : exec (.neighbourWordArrive s.id port) s = .next (s.land s.id port) := rfl
    rw [State.land_one hport hfly hroom] at hexec
    refine ⟨fun hdue => ?_, fun hdue => ?_⟩
    · rw [if_pos hdue] at hexec
      exact ⟨_, hexec, Vector.getElem_set_self _, rfl, (s.still_setCore _).holds⟩
    · rw [if_neg (Nat.not_le.2 hdue)] at hexec
      exact ⟨_, hexec, Vector.set_getElem_self _, hfly.symm, (s.still_setCore _).holds⟩

/-! ## Lent credits (R372) -/

theorem lenderNo_core {n : Nat} (h : n < 102400) : lenderNo n = .core n := if_pos h

theorem State.lendWord_view {s t : State} {core : Nat} {l : Lender} (h : s.lendWord core l = some t) : t.id = s.id ∧ t.core.k = s.core.k := by
  unfold State.lendWord at h
  split at h
  · cases h; exact ⟨rfl, rfl⟩
  · cases h

theorem State.lendWords_view (s : State) (core : Nat) (l : Lender) (w : Nat) : (s.lendWords core l w).id = s.id ∧ (s.lendWords core l w).core.k = s.core.k := by
  induction w generalizing s with
  | zero => exact ⟨rfl, rfl⟩
  | succ w ih =>
    unfold State.lendWords
    split
    next t ht => exact ⟨(ih t).1.trans (State.lendWord_view ht).1, (ih t).2.trans (State.lendWord_view ht).2⟩
    next => exact ⟨rfl, rfl⟩

theorem execCreditReturn_core (s : State) {n : Nat} (h : n < 102400) (w : Nat) : exec (.creditReturn n s.id w) s = .next (s.lendWords s.id (.core n) w) := by
  show execCreditReturn n s.id w s = _
  rw [execCreditReturn, lenderNo_core h]
  dsimp only
  rw [State.coreAt_here]
  obtain ⟨hid, hk⟩ := s.lendWords_view s.id (.core n) w
  rw [State.within_view (f := fun u => u.lendWords s.id (.core n) w) hid hk]

theorem State.lendWords_none {s : State} {core : Nat} {l : Lender} (h : s.lendWord core l = none) (w : Nat) : s.lendWords core l w = s := by
  cases w with
  | zero => rfl
  | succ w => rw [State.lendWords, h]

/-- One word more lent to the core in view by core `n`. -/
def State.lentOne (s : State) (n : Nat) : State :=
  { s with
    core := { s.core with credits := (s.core.credits.filter fun p => p.1 != .core n) ++ [(.core n, s.core.creditOf (.core n) + 1)] }
    lendTurn := Table.set s.lendTurn n s.id }

theorem State.creditOf_lentOne (s : State) (n : Nat) : (s.lentOne n).core.creditOf (.core n) = s.core.creditOf (.core n) + 1 := by
  have hf : ((s.core.credits.filter fun p => p.1 != .core n) ++ [(Lender.core n, s.core.creditOf (.core n) + 1)]).find? (fun p => p.1 == .core n)
      = some (.core n, s.core.creditOf (.core n) + 1) := by
    rw [List.find?_append, List.find?_eq_none.2 fun p hp => by simpa using (List.mem_filter.1 hp).2]
    simp
  rw [Core.creditOf, State.lentOne, hf]

theorem State.lendWord_lends {s : State} {n : Nat} (hb : s.bound (.core n) = true) (hc : s.core.creditOf (.core n) < 255)
    (hnext : s.nextBorrower s.id (.core n) = some s.id) (hroom : 1 ≤ s.roomOf s.id (.core n)) : s.lendWord s.id (.core n) = some (s.lentOne n) :=
  if_pos (by simp [hb, hc, hnext, hroom])

theorem creditsAreLent : Claims.CreditsAreLent := by
  intro s n words hn
  refine ⟨fun hb hc hnext hroom => ?_, fun o hbor hlt hturn => ?_, fun hb => ?_⟩
  · have hlend := State.lendWord_lends hb hc hnext hroom
    have hmany (w : Nat) : exec (.creditReturn n s.id (w + 1)) s = .next ((s.lentOne n).lendWords s.id (.core n) w) := by
      rw [execCreditReturn_core s hn, State.lendWords, hlend]
    exact ⟨s.lentOne n, hmany 0, s.creditOf_lentOne n, Table.find_set_self .., State.Still.holds (.of_cx_eq rfl rfl),
      (hmany words).trans (execCreditReturn_core (s.lentOne n) hn words).symm⟩
  · rw [execCreditReturn_core s hn, State.lendWords_none]
    have hnext : s.nextBorrower s.id (.core n) = some o := by
      rw [State.nextBorrower, hbor, show s.lenderKey s.id (.core n) = n from rfl, hturn]
      simp [hlt]
    exact if_neg (by simp [hnext]; omega)
  · rw [execCreditReturn_core s hn, State.lendWords_none]
    exact if_neg (by simp [hb])

/-- Settles O48. -/
theorem portsDeliverAndWaitsAreBroken : Obligations.PortsDeliverAndWaitsAreBroken := ⟨portDeliveries, cyclesOfWaitsAreBroken, creditsAreLent⟩

end Sys2Proof.Machine
end

section
/-! PROOFS. Accumulator tiles (O43): accepted contributions, their evaluation, and the requests of a tile. -/
namespace Sys2Proof.Machine
open Sys2Proof

/-! ## Posted errors leave registers and traffic alone (R25, R349) -/

/-- A change of a context that leaves what an instruction reads of it. -/
structure Context.Calm (f : Context → Context) : Prop where
  regs : ∀ c, (f c).g = c.g
  pc : ∀ c, (f c).pc = c.pc
  status : ∀ c, (f c).status = c.status
  flags : ∀ c, (f c).fflags = c.fflags
  pos : ∀ c, (f c).pos = c.pos

theorem State.cx_modCx (s : State) (id k : Nat) (f : Context → Context) : (s.modCx id k f).cx = if s.id = id ∧ s.core.k = k then f s.cx else s.cx := by
  have hid := (s.modCx_onlyCores id k f).id_eq
  have hk : (s.modCx id k f).core.k = s.core.k := by
    rw [State.core_of_coreAt hid, State.coreAt_modCx, State.coreAt_here]
  rw [State.cx_of_cxAt hid hk, State.cxAt_modCx]
  split
  next h => rw [← h.1, ← h.2, State.cxAt_view]
  next => rw [State.cxAt_view]

theorem State.still_modCx (s : State) (id k : Nat) {f : Context → Context} (hf : Context.Calm f) : s.Still (s.modCx id k f) := by
  have hm : ∀ a, Memory.get (s.modCx id k f).mem a = Memory.get s.mem a := fun a => by rw [(s.modCx_onlyCores id k f).mem_eq]
  have hcx := s.cx_modCx id k f
  split at hcx
  · exact ⟨by rw [hcx, hf.regs], by rw [hcx, hf.pc], by rw [hcx, hf.status], by rw [hcx, hf.flags], by rw [hcx, hf.pos], hm⟩
  · exact ⟨by rw [hcx], by rw [hcx], by rw [hcx], by rw [hcx], by rw [hcx], hm⟩

theorem Context.postAt_calm (now code sub source : Nat) (v : Word) : Context.Calm fun c => c.postAt now code sub source v := by
  constructor
  all_goals
    intro c
    unfold Context.postAt Context.post
    dsimp only
    split <;> rfl

/-- What posting an error leaves as it was. -/
structure State.Posts (s t : State) : Prop where
  still : s.Still t
  flight : t.flight = s.flight
  tiles : t.tiles = s.tiles

theorem State.Posts.refl (s : State) : s.Posts s := ⟨.refl s, rfl, rfl⟩
theorem State.Posts.trans {s t u : State} (h : s.Posts t) (k : t.Posts u) : s.Posts u :=
  ⟨h.still.trans k.still, k.flight.trans h.flight, k.tiles.trans h.tiles⟩

theorem State.posts_of_onlyCores {s t : State} (h : s.OnlyCores t) (k : s.Still t) : s.Posts t := ⟨k, h.flight_eq, by rw [h]⟩

theorem State.posts_logErr (s : State) (c u code sub p a v x n : Nat) : s.Posts (s.logErr c u code sub p a v x n) := by
  obtain ⟨l, m, k, h⟩ := s.logErr_eq c u code sub p a v x n
  rw [h]
  exact ⟨.of_cx_eq rfl rfl, rfl, rfl⟩

theorem State.posts_postWith (s : State) (id k code sub source : Nat) (v : Word) (n : Option Nat) (u p a : Nat) :
    s.Posts (s.postWith id k code sub source v n u p a) := by
  unfold State.postWith
  dsimp only
  generalize hlog : s.logErr _ _ _ _ _ _ _ _ _ = s1
  have h1 : s.Posts s1 := hlog ▸ s.posts_logErr ..
  split
  · have h2 : s.Posts (if (s.coreAt id).forNode n && (s.coreAt id).nodeErr.isNone && (code == 0x11 || code == 0x12)
        then s1.modCore id fun c => { c with nodeErr := some (code, sub, source, v) } else s1) := by
      split
      · exact h1.trans (State.posts_of_onlyCores (s1.modCore_onlyCores id _) (s1.still_modCore id _))
      · exact h1
    exact h2.trans (State.posts_of_onlyCores (State.modCx_onlyCores _ id k _) (State.still_modCx _ id k (Context.postAt_calm ..)))
  · exact h1

theorem State.posts_accErrors (s : State) (slice : Nat) (p : Packet) (code : Nat) : s.Posts (s.accErrors slice p code) := by
  unfold State.accErrors
  split
  · generalize p.from_ = l
    induction l generalizing s with
    | nil => exact .refl s
    | cons c l ih => exact (s.posts_postWith ..).trans (ih _)
  · exact .refl s

/-! ## Accepted contributions (R231) -/

theorem covered_iff (l : List (Nat × Nat)) (x : Nat × Nat) : covered l x = true ↔ ∃ r ∈ l, r.1 ≤ x.1 ∧ x.2 ≤ r.2 := by
  simp [covered]

/-- A record covers the interval last added. -/
theorem covered_addSpan (l : List (Nat × Nat)) (p x : Nat × Nat) (h1 : p.1 ≤ x.1) (h2 : x.2 ≤ p.2) : covered (addSpan l p) x = true := by
  rw [covered_iff]
  induction l generalizing p with
  | nil => exact ⟨p, List.mem_singleton.2 rfl, h1, h2⟩
  | cons r l ih =>
    unfold addSpan
    split
    · exact ⟨p, List.mem_cons_self .., h1, h2⟩
    · split
      · obtain ⟨q, hq, h⟩ := ih p h1 h2
        exact ⟨q, List.mem_cons_of_mem _ hq, h⟩
      · exact ih _ (by show min r.1 p.1 ≤ _; omega) (by show _ ≤ max r.2 p.2; omega)

theorem acceptedContributionsAreDisjoint : Claims.AcceptedContributionsAreDisjoint := by
  intro t p g h
  unfold outcome at h
  split at h
  next => cases h
  next hgen =>
  split at h
  next => cases h
  next hk =>
  split at h
  next => cases h
  next hanc =>
  split at h
  next => cases h
  next =>
  split at h
  next => cases h
  next hdis =>
  split at h
  next => cases h
  next hsix =>
  split at h
  next => cases h
  next hcount =>
  split at h
  next => cases h
  next hbad =>
  simp only [List.any_eq_true, decide_eq_true_eq, not_exists, not_and, Nat.not_lt] at hk
  simp only [List.any_eq_true, not_exists, not_and, Bool.not_eq_true] at hdis
  simp only [Bool.or_eq_true, not_or, Bool.not_eq_true] at hbad
  refine ⟨Classical.not_not.1 hgen, fun x hx => ⟨hk x hx, hdis x hx⟩, ?_, by omega, by omega, hbad.1, hbad.2, fun x hx _ => ?_⟩
  · cases ha : p.anchor with
    | none => exact .inl rfl
    | some a => exact .inr (by simpa [ha] using hanc)
  · rw [hx]
    exact covered_addSpan t.record x x (Nat.le_refl _) (Nat.le_refl _)

/-! ## Evaluation (R231) -/

theorem execContributionEvaluate_eq {s : State} {item slice : Nat} {m : Msg} {p : Packet} (hm : s.msg item = some m) (hb : m.body = .contrib slice p)
    (hh : s.atHead m = true) (g : Bool) :
    exec (.contributionEvaluate item g) s = .next (match s.tileOf slice p.handle with
      | none =>
        match Table.find s.tiles (tileKey slice (handleTile p.handle)) with
        | some x => ((s.dropMsg item).putTile slice (handleTile p.handle) { x with last := 8 }).accErrors slice p 8
        | none => (s.dropMsg item).accErrors slice p 8
      | some x => ((s.dropMsg item).putTile slice (handleTile p.handle) (x.after p (outcome x p g) g)).accErrors slice p (outcome x p g)) := by
  show execContributionEvaluate item g s = _
  rw [execContributionEvaluate, hm]
  dsimp only
  rw [hb]
  dsimp only
  rw [hh]
  rfl

/-- What an outcome leaves of a tile. -/
theorem AccTile.after_spec (t : AccTile) (p : Packet) (code : Nat) (g : Bool) :
    (t.after p code g).last = code ∧ (t.after p code g).k = t.k ∧ (t.after p code g).gen = t.gen ∧ (t.after p code g).check = t.check
      ∧ (code = 0 → (t.after p code g).acc = addTiles t.acc p.acc ∧ (t.after p code g).record = addSpans t.record p.spans ∧ (t.after p code g).count = t.count + p.n)
      ∧ (code ≠ 0 → (t.after p code g).acc = t.acc ∧ (t.after p code g).record = t.record ∧ (t.after p code g).count = t.count)
      ∧ (code = 1 → (t.after p code g).ndup = min 4095 (t.ndup + p.n)) ∧ (code = 5 → (t.after p code g).nstale = min 4095 (t.nstale + p.n)) := by
  unfold AccTile.after
  split
  · exact ⟨rfl, rfl, rfl, rfl, fun _ => ⟨rfl, rfl, rfl⟩, fun h => absurd rfl h, fun h => absurd h (by decide), fun h => absurd h (by decide)⟩
  · exact ⟨rfl, rfl, rfl, rfl, fun h => absurd h (by decide), fun _ => ⟨rfl, rfl, rfl⟩, fun _ => rfl, fun h => absurd h (by decide)⟩
  · exact ⟨rfl, rfl, rfl, rfl, fun h => absurd h (by decide), fun _ => ⟨rfl, rfl, rfl⟩, fun h => absurd h (by decide), fun _ => rfl⟩
  · exact ⟨rfl, rfl, rfl, rfl, fun h => absurd h (by decide), fun _ => ⟨rfl, rfl, rfl⟩, fun h => absurd h (by decide), fun h => absurd h (by decide)⟩
  next h0 h1 h5 _ => exact ⟨rfl, rfl, rfl, rfl, fun h => absurd h h0, fun _ => ⟨rfl, rfl, rfl⟩, fun h => absurd h h1, fun h => absurd h h5⟩

theorem State.logErr_view (s : State) (c u code sub p a v x n : Nat) :
    (s.logErr c u code sub p a v x n).cx = s.cx ∧ (s.logErr c u code sub p a v x n).id = s.id ∧ (s.logErr c u code sub p a v x n).core.k = s.core.k := by
  obtain ⟨l, m, k, h⟩ := s.logErr_eq c u code sub p a v x n
  rw [h]
  exact ⟨rfl, rfl, rfl⟩

theorem State.modCore_k (s : State) (id : Nat) {f : Core → Core} (hf : ∀ c, (f c).k = c.k) : (s.modCore id f).core.k = s.core.k := by
  unfold State.modCore
  split
  · exact hf _
  · rfl

/-- An error posted to a live context is recorded there, behind what goes to the log and to the core. -/
theorem State.postWith_live {s : State} {id k code sub source : Nat} {v : Word} {n : Option Nat} {u p a : Nat} (hl : (s.cxAt id k).st.live = true) :
    ∃ t : State, s.postWith id k code sub source v n u p a = t.modCx id k (fun x => x.postAt s.cy code sub source v) ∧ t.cx = s.cx ∧ t.id = s.id
      ∧ t.core.k = s.core.k := by
  unfold State.postWith
  rw [if_pos hl]
  refine ⟨_, rfl, ?_⟩
  obtain ⟨h1, h2, h3⟩ := s.logErr_view (errClass code sub) u code sub p a (s.vifOf id) k _
  split
  · exact ⟨(State.modCore_cx ..).trans h1, (State.modCore_onlyCores _ _ _).id_eq.trans h2, (State.modCore_k _ _ (by exact fun _ => rfl)).trans h3⟩
  · exact ⟨h1, h2, h3⟩

/-- The context in view, live, after an error posted to it. -/
theorem State.postWith_cx {s : State} {code sub source : Nat} {v : Word} {n : Option Nat} {u p a : Nat} (hl : s.cx.st.live = true) :
    (s.postWith s.id s.core.k code sub source v n u p a).cx = s.cx.postAt s.cy code sub source v := by
  obtain ⟨t, h, hcx, hid, hk⟩ := State.postWith_live (s := s) (id := s.id) (k := s.core.k) (code := code) (sub := sub) (source := source) (v := v) (n := n) (u := u)
    (p := p) (a := a) (by rwa [State.cxAt_view])
  rw [h, State.cx_modCx, if_pos ⟨hid, hk⟩, hcx]

/-- The first error is recorded. -/
theorem Context.postAt_first {c : Context} (he : bit c.errpend 0 = false) (now code sub source : Nat) (v : Word) :
    (c.postAt now code sub source v).errpend = word (1 + code % 256 * 256 + sub % 256 * 65536) ∧ (c.postAt now code sub source v).errTval = v
      ∧ (c.postAt now code sub source v).errSource = source := by
  have hb : ¬ bit c.errpend 0 = true := by rw [he]; exact Bool.false_ne_true
  simp only [Context.postAt, Context.post, if_neg hb, and_self]

theorem contributionsAreEvaluated : Claims.ContributionsAreEvaluated := by
  intro s item slice m p g hm hb hh key
  refine ⟨fun x hx => ?_, fun hx hk hfrom hl he _ => ?_⟩
  · have h := execContributionEvaluate_eq hm hb hh g
    rw [hx] at h
    obtain ⟨hlast, hk, hgen, hcheck, hacc⟩ := x.after_spec p (outcome x p g) g
    have hp := ((s.dropMsg item).putTile slice (handleTile p.handle) (x.after p (outcome x p g) g)).posts_accErrors slice p (outcome x p g)
    obtain ⟨h0, hne, h1, h5⟩ := hacc
    exact ⟨_, x.after p (outcome x p g) g, h, by rw [hp.tiles]; exact Table.find_set_self .., hlast, hk, hgen, hcheck, hp.flight, h0, hne, h1, h5,
      fun r => State.g_congr hp.still.regs r, hp.still.memory⟩
  · have h := execContributionEvaluate_eq hm hb hh g
    rw [hx, show Table.find s.tiles _ = none from hk] at h
    have hp := (s.dropMsg item).posts_accErrors slice p 8
    have hacc : (s.dropMsg item).accErrors slice p 8 = (s.dropMsg item).postWith s.id s.core.k 0x13 8 3 (word (bits p.handle 31 0)) none (errUnit 0x13 8) (keyPlace (sliceKey slice 0)) 0 := by
      rw [State.accErrors, hfrom]; rfl
    obtain ⟨hpend, htval, -⟩ := Context.postAt_first he s.cy 0x13 8 3 (word (bits p.handle 31 0))
    obtain ⟨-, hcode, hsub⟩ := errpend_fields 0x13 8
    have hcx := (congrArg State.cx hacc).trans (State.postWith_cx (s := s.dropMsg item) hl)
    refine ⟨_, h, hp.tiles, ?_, ?_, ?_, State.Still.holds ⟨hp.still.regs, hp.still.pc, hp.still.status, hp.still.flags, hp.still.pos, hp.still.memory⟩⟩
    all_goals dsimp only; rw [hcx]
    · exact (congrArg (bits · 15 8) hpend).trans hcode
    · exact (congrArg (bits · 23 16) hpend).trans hsub
    · exact htval.trans (congrArg (BitVec.ofNat 64) (bits_low _ 31))

/-! ## Requests (R228, R234, R235) -/

/-- A request of the context in view at the head of its route is served in place. -/
theorem execTileRequestServe_eq {s : State} {item slice : Nat} {m : Msg} {q : TileReq} (hm : s.msg item = some m) (hsrc : m.src = .ctx s.id s.core.k)
    (hh : s.atHead m = true) (ha : s.aheadOf m (.slice slice) = false) (hb : m.body = .tile slice q) (hq : ∀ t : State, t.readSlices slice q = [slice])
    (hid : ((s.dropMsg item).serveTile slice q).id = s.id) (hk : ((s.dropMsg item).serveTile slice q).core.k = s.core.k) :
    exec (.tileRequestServe item) s = .next ((s.dropMsg item).serveTile slice q) := by
  show execTileRequestServe item s = _
  rw [execTileRequestServe, hm]
  dsimp only
  rw [hb, hsrc]
  dsimp only
  rw [if_pos (by simp [hh, hq, ha])]
  exact congrArg Host.Outcome.next (State.within_view (s := s.dropMsg item) (f := fun t => t.serveTile slice q) hid hk)

/-- What every served request leaves as it was. -/
structure State.Serves (s t : State) : Prop where
  id : t.id = s.id
  k : t.core.k = s.core.k
  flight : t.flight = s.flight
  still : s.Still t

/-- A reply to the context in view, the tiles and their generations being as they may. -/
theorem State.serves_answer (s : State) (tiles : List (Nat × AccTile)) (gens : List (Nat × Nat × BitVec 32)) (v : Word) :
    s.Serves (({ s with tiles := tiles, tileGens := gens }).answer v) := ⟨rfl, rfl, rfl, ⟨rfl, rfl, rfl, rfl, rfl, fun _ => rfl⟩⟩

section
variable {s : State} {slice : Nat} {h : Word}

theorem State.serveTile_ardy (s : State) (slice : Nat) (h : Word) : s.serveTile slice (.ardy h)
    = s.answer (word (if s.tileStatus slice h ≠ 0 then s.tileStatus slice h else match s.tileOf slice h with | some t => b2n t.proofed | none => 8)) := rfl

theorem State.serveTile_unnamed (hn : s.tileOf slice h = none) : s.serveTile slice (.ardy h) = s.answer 8 ∧ s.serveTile slice (.arel h) = s.answer 8
    ∧ s.serveTile slice (.aknock h) = s.answer 0 ∧ s.serveTile slice (.astat h none) = s.answer 0 := by
  refine ⟨?_, ?_, ?_, ?_⟩ <;> simp [State.serveTile, State.tileStatus, hn, word]

theorem State.serveTile_stale {x : AccTile} (hx : s.tileOf slice h = some x) (hg : bits h 7 0 ≠ x.gen) : s.serveTile slice (.ardy h) = s.answer 5
    ∧ s.serveTile slice (.arel h) = s.answer 5 ∧ s.serveTile slice (.aknock h) = s.answer 0 := by
  refine ⟨?_, ?_, ?_⟩ <;> simp [State.serveTile, State.tileStatus, hx, hg, word]

/-- The tile as AKNOCK leaves it. -/
def AccTile.knocked (x : AccTile) : AccTile :=
  { x with acc := [], marks := [], poison := false, record := [], count := 0, gen := (x.gen + 1) % 256, last := 0, ndup := 0, nstale := 0 }

theorem State.serveTile_current {x : AccTile} (hx : s.tileOf slice h = some x) (hg : bits h 7 0 = x.gen) :
    (x.poison = false → s.serveTile slice (.ardy h) = s.answer (if x.record = [(0, x.k)] then 1 else 0))
    ∧ (x.poison = true → s.serveTile slice (.ardy h) = s.answer 10)
    ∧ s.serveTile slice (.arel h) = ({ s with tiles := Table.del s.tiles (tileKey slice (handleTile h)) }).answer 0
    ∧ s.serveTile slice (.aknock h) = ({ s with
        tiles := Table.set s.tiles (tileKey slice (handleTile h)) x.knocked
        tileGens := Table.set s.tileGens (tileKey slice (handleTile h)) ((x.gen + 1) % 256, x.check) }).answer (setBits h 7 0 ((x.gen + 1) % 256)) := by
  simp only [State.serveTile, State.tileStatus, hx, if_neg (fun k : bits h 7 0 ≠ x.gen => k hg)]
  refine ⟨fun hp => ?_, fun hp => ?_, trivial, rfl⟩
  · rw [hp, if_neg Bool.false_ne_true, if_neg (fun k => k rfl), AccTile.proofed]
    by_cases hr : x.record = [(0, x.k)]
    · rw [if_pos hr, beq_iff_eq.2 hr]; rfl
    · rw [if_neg hr, beq_eq_false_iff_ne.2 hr]; rfl
  · rw [hp]; rfl

theorem State.serveTile_astat {x : AccTile} (hx : s.tileOf slice h = some x) : s.serveTile slice (.astat h none) = s.answer x.statWord := by
  simp only [State.serveTile, hx]

end

theorem tileRequestsAreServed : Claims.TileRequestsAreServed := by
  intro s item slice m h hm hsrc hh ha key run
  have serve {q : TileReq} {r : State → Prop} {t : State} (hq : ∀ t : State, t.readSlices slice q = [slice]) (ht : (s.dropMsg item).serveTile slice q = t)
      (hs : (s.dropMsg item).Serves t) (hr : r t) : run q r := fun hb => by
    subst ht
    exact ⟨_, execTileRequestServe_eq hm hsrc hh ha hb hq hs.id hs.k, hr, hs.flight,
      State.Still.holds ⟨hs.still.regs, hs.still.pc, hs.still.status, hs.still.flags, hs.still.pos, hs.still.memory⟩⟩
  have plain (v : Word) : (s.dropMsg item).Serves ((s.dropMsg item).answer v) := State.serves_answer _ _ _ v
  refine ⟨fun hn => ?_, fun x hx => ⟨fun hg => ?_, fun hg => ?_, ?_⟩⟩
  · obtain ⟨h1, h2, h3, h4⟩ := State.serveTile_unnamed (s := s.dropMsg item) hn
    exact ⟨serve (fun _ => rfl) h1 (plain _) ⟨rfl, rfl⟩, serve (fun _ => rfl) h2 (plain _) ⟨rfl, rfl⟩, serve (fun _ => rfl) h3 (plain _) ⟨rfl, rfl⟩,
      serve (fun _ => rfl) h4 (plain _) ⟨rfl, rfl⟩⟩
  · obtain ⟨h1, h2, h3⟩ := State.serveTile_stale (s := s.dropMsg item) hx hg
    exact ⟨serve (fun _ => rfl) h1 (plain _) ⟨rfl, rfl⟩, serve (fun _ => rfl) h2 (plain _) ⟨rfl, rfl⟩, serve (fun _ => rfl) h3 (plain _) ⟨rfl, rfl⟩⟩
  · obtain ⟨h1, h2, h3, h4⟩ := State.serveTile_current (s := s.dropMsg item) hx hg
    exact ⟨fun hp => serve (fun _ => rfl) (h1 hp) (plain _) ⟨rfl, rfl⟩, fun hp => serve (fun _ => rfl) (h2 hp) (plain _) ⟨rfl, rfl⟩,
      serve (fun _ => rfl) h3 (State.serves_answer _ _ _ _) ⟨rfl, rfl⟩,
      serve (fun _ => rfl) h4 (State.serves_answer _ _ _ _) ⟨rfl, x.knocked, Table.find_set_self .., rfl, rfl, rfl, rfl, rfl, rfl, rfl, rfl⟩⟩
  · exact serve (fun _ => rfl) (State.serveTile_astat (s := s.dropMsg item) hx) (plain _) ⟨rfl, rfl⟩

/-- Settles O43. -/
theorem tilesAnswer : Obligations.TilesAnswer := ⟨contributionsAreEvaluated, acceptedContributionsAreDisjoint, tileRequestsAreServed⟩

end Sys2Proof.Machine
end

section
/-! PROOFS. Errors posted, scrubbed and sampled (O50). -/
namespace Sys2Proof.Machine
open Sys2Proof

/-! ## What a posted error leaves of the core and of the logs -/

theorem State.core_modCx (s : State) (id k : Nat) (f : Context → Context) :
    (s.modCx id k f).core = { s.core with parked := (s.modCx id k f).core.parked } := by
  have h := s.coreAt_modCx id k s.id f
  rwa [State.coreAt_here, ← State.core_of_coreAt (s.modCx_onlyCores id k f).id_eq] at h

theorem State.core_modCore (s : State) (f : Core → Core) : (s.modCore s.id f).core = f s.core := by
  rw [State.modCore_view]; rfl

/-- A log record leaves everything but the hub. -/
theorem State.logErr_frame (s : State) (c u code sub p a v x n : Nat) :
    (s.logErr c u code sub p a v x n).core = s.core ∧ (s.logErr c u code sub p a v x n).poison = s.poison ∧ (s.logErr c u code sub p a v x n).dies = s.dies := by
  obtain ⟨l, m, k, h⟩ := s.logErr_eq c u code sub p a v x n
  rw [h]
  exact ⟨rfl, rfl, rfl⟩

/-- An error recorded against the Running node (R352). -/
def recordsNode (c : Core) (n : Option Nat) (code : Nat) : Bool := c.forNode n && c.nodeErr.isNone && (code == 0x11 || code == 0x12)

theorem recordsNode_old {c : Core} {n code : Nat} (h : c.node = none ∨ n < c.nodeFrom) : recordsNode c (some n) code = false := by
  have hf : c.forNode (some n) = false := by
    rcases h with h | h
    · simp [Core.forNode, h]
    · simp [Core.forNode, h]
  rw [recordsNode, hf, Bool.false_and, Bool.false_and]

theorem recordsNode_new {c : Core} {n code : Nat} (hc : code = 0x11 ∨ code = 0x12) (hn : c.node.isSome = true) (he : c.nodeErr = none) (hf : c.nodeFrom ≤ n) :
    recordsNode c (some n) code = true := by
  have hcode : (code == 0x11 || code == 0x12) = true := by rcases hc with rfl | rfl <;> rfl
  rw [recordsNode, hcode, he]
  simp [Core.forNode, hn, hf]

/-- The core in view after an error posted to one of its contexts. -/
theorem State.postWith_core (s : State) (k code sub source : Nat) (v : Word) (n : Option Nat) (u p a : Nat) :
    let t := s.postWith s.id k code sub source v n u p a
    t.core = { s.core with
      parked := t.core.parked
      nodeErr := if (s.cxAt s.id k).st.live = true ∧ recordsNode s.core n code = true then some (code, sub, source, v) else s.core.nodeErr } := by
  have hlog := fun c u code sub p a v x n => s.logErr_frame c u code sub p a v x n
  have hid := fun c u code sub p a v x n => (s.logErr_view c u code sub p a v x n).2.1
  unfold State.postWith
  dsimp only
  rw [State.coreAt_here]
  generalize hs1 : s.logErr _ _ _ _ _ _ _ _ _ = s1
  have h1 : s1.core = s.core := hs1 ▸ (hlog ..).1
  have h2 : s1.id = s.id := hs1 ▸ hid ..
  generalize hs2 : (if (s.core.forNode n && s.core.nodeErr.isNone && (code == 0x11 || code == 0x12)) = true
    then s1.modCore s.id fun c => { c with nodeErr := some (code, sub, source, v) } else s1) = s2
  have h3 : s2.core = { s.core with nodeErr := if recordsNode s.core n code = true then some (code, sub, source, v) else s.core.nodeErr } := by
    by_cases hr : recordsNode s.core n code = true
    · rw [if_pos hr, ← hs2, if_pos (by exact hr), ← h2, State.core_modCore, h1]
    · rw [if_neg hr, ← hs2, if_neg (by exact hr), h1]
  by_cases hl : (s.cxAt s.id k).st.live = true
  · rw [if_pos hl, State.core_modCx, h3]
    by_cases hr : recordsNode s.core n code = true
    · rw [if_pos hr, if_pos ⟨hl, hr⟩]
    · rw [if_neg hr, if_neg fun h => hr h.2]
  · rw [if_neg hl, if_neg fun h => hl h.1, h1]

/-- An error posted to a context that is not live goes to the log alone. -/
theorem State.postWith_dead {s : State} {id k code sub source : Nat} {v : Word} {n : Option Nat} {u p a : Nat} (hl : (s.cxAt id k).st.live = false) :
    (s.postWith id k code sub source v n u p a).cx = s.cx := by
  unfold State.postWith
  rw [if_neg (by rw [hl]; decide)]
  exact (s.logErr_view ..).1

theorem errClass_lt (code sub : Nat) : errClass code sub < 8 := by unfold errClass; split <;> omega

/-- An error posted adds one record to the log of the place's die. -/
theorem State.postWith_logs (s : State) (id k code sub source : Nat) (v : Word) (n : Option Nat) (u p a : Nat) (hp : p < 2 ^ 18) :
    logsOne s (s.postWith id k code sub source v n u p a) (p / 2 ^ 14) := by
  intro x _
  have hhub : (s.postWith id k code sub source v n u p a).hub = (s.logErr (errClass code sub) u code sub p a (s.vifOf id) k
      (match (s.coreAt id).node with | some n => (s.nodeAddr id n.1).toNat | none => 0)).hub := by
    unfold State.postWith
    dsimp only
    split
    · rw [(State.modCx_onlyCores ..).hub_eq]
      split
      · exact (State.modCore_onlyCores ..).hub_eq
      · rfl
    · rfl
  rw [logSize, hhub]
  exact s.logErr_size _ u code sub p a _ k _ x (errClass_lt ..) hp

/-! ## ERROR_POST -/

/-- PIPE is the trap of the context in view that can issue, with nothing of its instruction begun. -/
theorem State.pipe_ready {s : State} (hst : s.cx.st = .ready) (ha : s.cx.asked = false) (hr : s.cx.arrived = false) (hw : s.cx.await = none) :
    s.pipe = s.trapEntry 0x0D 0 false (word (Memory.getN s.mem (sramKey s.id s.cx.pc.toNat) 4)) := by
  have hu : s.undone = some s := by
    unfold State.undone
    rw [ha, hr, hw]
    rfl
  unfold State.pipe
  rw [hu, hst]
  rfl

theorem State.trapEntry_place {s : State} (hp : s.cx.inPhlx = false) (hu : s.cx.super = false) (code source : Nat) (imp : Bool) (v : Word) :
    (s.trapEntry code source imp v).id = s.id ∧ (s.trapEntry code source imp v).core.k = s.core.k := by
  obtain ⟨c, h, -⟩ := State.trapEntry_own hp hu code source imp v
  rw [h]
  exact ⟨rfl, rfl⟩

/-- PIPE as the context in view takes it. -/
theorem State.within_pipe {s : State} (hst : s.cx.st = .ready) (ha : s.cx.asked = false) (hr : s.cx.arrived = false) (hw : s.cx.await = none)
    (hu : s.cx.super = false) (hp : s.cx.inPhlx = false) :
    s.within s.id s.core.k State.pipe = s.trapEntry 0x0D 0 false (word (Memory.getN s.mem (sramKey s.id s.cx.pc.toNat) 4)) := by
  have h := State.pipe_ready hst ha hr hw
  obtain ⟨hid, hk⟩ := State.trapEntry_place hp hu 0x0D 0 false (word (Memory.getN s.mem (sramKey s.id s.cx.pc.toNat) 4))
  rw [State.within_view (f := State.pipe) (by rw [h, hid]) (by rw [h, hk]), h]

theorem postable_spec {code sub source : Nat} (h : postable code sub source = true) : code ≠ 0x0D := by
  rintro rfl
  exact absurd h (by simp [postable])

theorem Context.postAt_more {c : Context} (he : bit c.errpend 0 = true) (now code sub source : Nat) (v : Word) :
    (c.postAt now code sub source v).errpend = c.errpend ||| 2 ∧ (c.postAt now code sub source v).errTval = c.errTval
      ∧ (c.postAt now code sub source v).errSource = c.errSource := by
  simp only [Context.postAt, Context.post, if_pos he, and_self]

theorem errpend_more_clear (c b : Nat) : bit (word (1 + c % 256 * 256 + b % 256 * 65536)) 1 = false := by
  show (BitVec.ofNat 64 _).toNat.testBit 1 = false
  rw [BitVec.toNat_ofNat, Nat.testBit_eq_decide_div_mod_eq]
  exact decide_eq_false (by omega)

theorem errorsArePosted : Claims.ErrorsArePosted := by
  intro s code sub source at_ tval hcode hsub hnot
  refine ⟨fun hs hst ha hr hw hu hp => ?_, fun hne hpost => ?_, fun hpost => ?_⟩
  · have h := State.within_pipe hst ha hr hw hu hp
    obtain ⟨hepc, htval, hcause, hg, hmem⟩ := State.trapEntry_saves hp hu 0x0D 0 false (word (Memory.getN s.mem (sramKey s.id s.cx.pc.toNat) 4))
    refine ⟨_, (congrArg Host.Outcome.next ?_).trans (congrArg Host.Outcome.next h), hcause, hepc, htval, hg, fun a => by rw [hmem]⟩
    refine congrArg (s.within s.id s.core.k) (funext fun u => if_neg hs)
  · show execErrorPost _ _ _ _ _ _ s = _
    rw [execErrorPost, if_neg hne, if_neg hnot, if_neg (by rw [hpost]; decide)]
  · have hstep : exec (.errorPost s.id s.core.k code sub source ⟨tval, at_⟩) s = .next (s.post s.id s.core.k code sub source tval (some at_)) := by
      show execErrorPost _ _ _ _ _ _ s = _
      rw [execErrorPost, if_neg (postable_spec hpost), if_neg hnot, if_pos hpost]
    have hcore := s.postWith_core s.core.k code sub source tval (some at_) (errUnit code sub) (sitePlace s.id) 0
    refine ⟨_, hstep, (s.posts_postWith ..).still.holds, fun hd => ?_, fun hl he => ?_, fun hl he => ?_, fun hl => ?_, fun hc hl hn he hf => ?_, fun hold => ?_⟩
    · obtain ⟨hlt, hdie⟩ := sitePlace_die s.id hd
      have h := s.postWith_logs s.id s.core.k code sub source tval (some at_) (errUnit code sub) (sitePlace s.id) 0 hlt
      rwa [hdie] at h
    · obtain ⟨h1, h2, h3⟩ := Context.postAt_first he s.cy code sub source tval
      obtain ⟨h4, h5, h6⟩ := errpend_fields code sub
      rw [State.post, State.postWith_cx hl, h1, h2, h3]
      exact ⟨h4, errpend_more_clear code sub, h5.trans (Nat.mod_eq_of_lt hcode), h6.trans (Nat.mod_eq_of_lt hsub), rfl, rfl⟩
    · rw [State.post, State.postWith_cx hl]
      exact Context.postAt_more he ..
    · exact State.postWith_dead (by rwa [State.cxAt_view])
    · refine (congrArg Core.nodeErr hcore).trans (if_pos ⟨by rwa [State.cxAt_view], recordsNode_new hc hn he hf⟩)
    · refine (congrArg Core.nodeErr hcore).trans (if_neg fun h => ?_)
      rw [State.cxAt_view] at h
      rcases hold with hold | hold | hold
      · exact absurd h.2 (by rw [recordsNode_old (.inl hold)]; decide)
      · exact absurd h.2 (by rw [recordsNode_old (.inr hold)]; decide)
      · exact absurd h.1 (by rw [hold]; decide)

/-! ## SCRUB -/

theorem State.poisonWords_spec (s : State) (ws : List Nat) :
    (∀ w, w ∈ (s.poisonWords ws).poison ↔ w ∈ s.poison ∨ w ∈ ws) ∧ s.Still (s.poisonWords ws) := by
  refine ⟨fun w => ?_, .of_cx_eq rfl rfl⟩
  show w ∈ s.poison ++ ws.filter (fun w => !s.poison.contains w) ↔ _
  by_cases h : w ∈ s.poison <;> simp [h]

/-- The storage of the core in view that is poisoned reads so. -/
theorem Core.poisonSlot_slot (c : Core) {k : Nat} (hk : k < 8) : ((c.poisonSlot k).slot (BitVec.ofNat 3 k)).poison = true := by
  have h : (BitVec.ofNat 3 k).toFin = ⟨k, hk⟩ := Fin.ext (Nat.mod_eq_of_lt hk)
  have hs : (c.poisonSlot k).slot (BitVec.ofNat 3 k) = (c.poisonSlot k).o[(⟨k, hk⟩ : Fin 8)] := congrArg (fun i : Fin 8 => (c.poisonSlot k).o[i]) h
  rw [hs, Core.poisonSlot]
  simp

theorem Core.poisonTile_tile (c : Core) {k : Nat} (hk : k < 4) : ((c.poisonTile k).tile k).poison = true := by
  simp [Core.tile, Core.poisonTile, Vector.getD, hk]

theorem State.still_logErr (s : State) (c u code sub p a v x n : Nat) : s.Still (s.logErr c u code sub p a v x n) := (s.posts_logErr ..).still

theorem State.still_modHub (s : State) (f : Hub → Hub) : s.Still (s.modHub f) := .of_cx_eq rfl rfl
theorem State.still_dies (s : State) (l : List Die) : s.Still { s with dies := l } := .of_cx_eq rfl rfl
theorem State.still_tiles (s : State) (l : List (Nat × AccTile)) : s.Still { s with tiles := l } := .of_cx_eq rfl rfl

theorem State.core_modCore_at {s : State} {id : Nat} (h : s.id = id) (f : Core → Core) : (s.modCore id f).core = f s.core := by
  subst h; exact State.core_modCore s f

/-! ## MARGIN_SAMPLE (R357) -/

theorem foldl_min_spec (l : List Nat) (z : Nat) : (l.foldl min z = z ∨ l.foldl min z ∈ l) ∧ l.foldl min z ≤ z ∧ ∀ m ∈ l, l.foldl min z ≤ m := by
  induction l generalizing z with
  | nil => simp
  | cons a l ih =>
    obtain ⟨h1, h2, h3⟩ := ih (min z a)
    rw [List.foldl_cons]
    refine ⟨?_, by omega, ?_⟩
    · rcases h1 with h1 | h1
      · rcases (by omega : min z a = z ∨ min z a = a) with h | h
        · exact .inl (h1.trans h)
        · exact .inr (List.mem_cons.2 (.inl (h1.trans h)))
      · exact .inr (List.mem_cons_of_mem _ h1)
    · intro m hm
      rcases List.mem_cons.1 hm with rfl | hm
      · omega
      · exact h3 m hm

theorem leastOf_spec {l : List Nat} (h : l ≠ []) : leastOf l ∈ l ∧ ∀ m ∈ l, leastOf l ≤ m := by
  cases l with
  | nil => exact absurd rfl h
  | cons a l =>
    obtain ⟨h1, h2, h3⟩ := foldl_min_spec l a
    refine ⟨?_, fun m hm => ?_⟩
    · rcases h1 with h1 | h1
      · exact List.mem_cons.2 (.inl h1)
      · exact List.mem_cons_of_mem _ h1
    · rcases List.mem_cons.1 hm with rfl | hm
      · exact h2
      · exact h3 m hm

theorem dieSlack_spec {slack : List Nat} (hl : slack.length = 4096) {d : Nat} (hd : d < 16) :
    (∃ j, j < 256 ∧ dieSlack slack d = slack.getD (256 * d + j) 0) ∧ ∀ i, i < 256 → dieSlack slack d ≤ slack.getD (256 * d + i) 0 := by
  have hlen : ((slack.drop (256 * d)).take 256).length = 256 := by rw [List.length_take, List.length_drop, hl]; omega
  have hget (i : Nat) (hi : i < 256) : ((slack.drop (256 * d)).take 256)[i]'(by omega) = slack.getD (256 * d + i) 0 := by
    rw [List.getElem_take, List.getElem_drop, List.getD_eq_getElem?_getD, List.getElem?_eq_getElem (by omega), Option.getD_some]
  obtain ⟨hm, hle⟩ := leastOf_spec (l := (slack.drop (256 * d)).take 256) (fun h => by rw [h] at hlen; simp at hlen)
  refine ⟨?_, fun i hi => ?_⟩
  · obtain ⟨j, hj, h⟩ := List.getElem_of_mem hm
    have hj' : j < 256 := by omega
    exact ⟨j, hj', h.symm.trans (hget j hj')⟩
  · exact hget i hi ▸ hle _ (List.getElem_mem _)

/-- A die's monitors sampled: its smallest slack, where the die is not excluded. -/
def Die.sampled (slack : List Nat) (d : Nat) (x : Die) : Die := if x.excluded then x else { x with slack := dieSlack slack d }

/-- One die sampled by MARGIN_SAMPLE. -/
def State.sampleDie (slack : List Nat) (s : State) (d : Nat) : State :=
  if s.excluded d then s
  else
    match s.dies[d]? with
    | some x => { s.logErr 7 0 0 0 (d * 2 ^ 14) (dieSlack slack d) 0 0 0 with dies := s.dies.set d { x with slack := dieSlack slack d } }
    | none => s

theorem State.sampleDie_still (slack : List Nat) (s : State) (d : Nat) : s.Still (s.sampleDie slack d) := by
  unfold State.sampleDie
  split
  · exact .refl s
  · split
    · exact (s.still_logErr 7 0 0 0 (d * 2 ^ 14) (dieSlack slack d) 0 0 0).trans (State.still_dies _ _)
    · exact .refl s

theorem State.sampleDie_dies (slack : List Nat) (s : State) (d i : Nat) :
    (s.sampleDie slack d).dies[i]? = s.dies[i]?.map (if i = d then Die.sampled slack d else fun y => y) := by
  unfold State.sampleDie State.excluded
  by_cases hi : i = d
  · subst hi
    rw [if_pos rfl]
    cases h : s.dies[i]? with
    | none => simp [h]
    | some x =>
      by_cases hx : x.excluded = true
      · simp [hx, h, Die.sampled]
      · have hlt : i < s.dies.length := (List.getElem?_eq_some_iff.1 h).1
        simp [hx, Die.sampled, hlt]
  · rw [if_neg hi]
    cases h : s.dies[d]? with
    | none => simp
    | some x =>
      by_cases hx : x.excluded = true
      · simp [hx]
      · simp [hx, List.getElem?_set_ne (Ne.symm hi)]

theorem Die.sampled_sampled (slack : List Nat) (d : Nat) (x : Die) : Die.sampled slack d (Die.sampled slack d x) = Die.sampled slack d x := by
  unfold Die.sampled
  by_cases h : x.excluded = true
  · simp only [if_pos h]
  · simp only [if_neg h]

theorem State.sampleDies (slack : List Nat) (l : List Nat) (s : State) (i : Nat) :
    s.Still (l.foldl (State.sampleDie slack) s)
      ∧ (l.foldl (State.sampleDie slack) s).dies[i]? = s.dies[i]?.map (if i ∈ l then Die.sampled slack i else fun y => y) := by
  induction l generalizing s with
  | nil => exact ⟨.refl s, by simp⟩
  | cons d l ih =>
    obtain ⟨h1, h2⟩ := ih (s.sampleDie slack d)
    refine ⟨(s.sampleDie_still slack d).trans h1, ?_⟩
    rw [List.foldl_cons, h2, State.sampleDie_dies, Option.map_map]
    congr 1
    by_cases hi : i = d
    · subst hi
      by_cases hl : i ∈ l
      · rw [if_pos hl, if_pos rfl, if_pos (List.mem_cons_self ..)]
        exact funext (Die.sampled_sampled slack i)
      · rw [if_neg hl, if_pos rfl, if_pos (List.mem_cons_self ..)]; rfl
    · by_cases hl : i ∈ l
      · rw [if_pos hl, if_neg hi, if_pos (List.mem_cons_of_mem _ hl)]; rfl
      · rw [if_neg hl, if_neg hi, if_neg (by simp [hi, hl])]; rfl

theorem execMarginSample_eq {s : State} {slack : List Nat} (hl : slack.length = 4096) (ht : s.hub.sampledAt + 10000000000 ≤ s.time) :
    execMarginSample slack s = .next ((List.range 16).foldl (State.sampleDie slack) (s.modHub fun h => { h with sampledAt := s.time })) := by
  unfold execMarginSample
  rw [if_neg (by omega)]
  rfl

theorem scrubAndMargins : Claims.ScrubAndMargins := by
  intro s addr k slack
  refine ⟨?_, ?_, ?_, fun hk => ?_, fun hk => ?_, fun x hx => ?_, fun i c hst ha hr hw hi hc hu hp => ?_, fun hl ht => ?_, fun ht => ?_⟩
  · have hlog := (s.logErr_frame (b2n true) (s.sramUnit addr) 0 0 (keyPlace addr) (keyAddr addr) 0 0 0).2.1
    obtain ⟨hp, hs⟩ := (s.logErr (b2n true) (s.sramUnit addr) 0 0 (keyPlace addr) (keyAddr addr) 0 0 0).poisonWords_spec [addr / 8]
    refine ⟨_, rfl, (hp _).2 (.inr (List.mem_singleton_self _)), fun w hw => (hp w).trans ?_, ((s.still_logErr ..).trans hs).holds⟩
    rw [hlog, List.mem_singleton]
    exact or_iff_left hw
  · refine ⟨_, rfl, (s.logErr_frame ..).2.1, fun hp d _ => ?_, (s.still_logErr ..).holds⟩
    exact s.logErr_size (b2n false) (s.sramUnit addr) 0 0 (keyPlace addr) (keyAddr addr) 0 0 0 d (by decide) hp
  · obtain ⟨hp, hs⟩ := (s.logErr (b2n true) 1 0 0 (keyPlace addr) (keyAddr addr) 0 0 0).poisonWords_spec ((List.range 8).map fun j => addr / 64 * 8 + j)
    exact ⟨_, rfl, fun j hj => (hp _).2 (.inr (List.mem_map_of_mem (List.mem_range.2 hj))), ((s.still_logErr ..).trans hs).holds⟩
  · obtain ⟨-, hid, -⟩ := s.logErr_view (b2n true) 4 0 0 (sitePlace s.id) 0 0 0 0
    have hs := (s.still_logErr (b2n true) 4 0 0 (sitePlace s.id) 0 0 0 0).trans (State.still_modCore _ s.id fun c => c.poisonSlot k)
    refine ⟨_, rfl, ?_, hs.holds⟩
    have hc : ((s.logErr (b2n true) 4 0 0 (sitePlace s.id) 0 0 0 0).modCore s.id fun c => c.poisonSlot k).core = s.core.poisonSlot k := by
      rw [State.core_modCore_at hid, (s.logErr_frame ..).1]
    exact (congrArg (fun c : Core => (c.slot (BitVec.ofNat 3 k)).poison) hc).trans (Core.poisonSlot_slot _ hk)
  · obtain ⟨-, hid, -⟩ := s.logErr_view (b2n true) 5 0 0 (sitePlace s.id) 0 0 0 0
    have hc : ((s.logErr (b2n true) 5 0 0 (sitePlace s.id) 0 0 0 0).modCore s.id fun c => c.poisonTile k).core = s.core.poisonTile k := by
      rw [State.core_modCore_at hid, (s.logErr_frame ..).1]
    have hid' := (State.modCore_onlyCores (s.logErr (b2n true) 5 0 0 (sitePlace s.id) 0 0 0 0) s.id fun c => c.poisonTile k).id_eq.trans hid
    have hs := (s.still_logErr (b2n true) 5 0 0 (sitePlace s.id) 0 0 0 0).trans (State.still_modCore _ s.id fun c => c.poisonTile k)
    refine ⟨_, rfl, ?_, (hs.trans (State.posts_postWith ..).still).holds⟩
    rw [State.post]
    generalize hu : (s.logErr (b2n true) 5 0 0 (sitePlace s.id) 0 0 0 0).modCore s.id (fun c => c.poisonTile k) = u at hc hid' ⊢
    have h := u.postWith_core (((((s.coreAt s.id).mq.find? fun q => q.m == k).map fun q => (q.ctx, q.at_)).map (·.1)).getD 0) 0x12 6 1 (materrTval none (some k))
      (some (((((s.coreAt s.id).mq.find? fun q => q.m == k).map fun q => (q.ctx, q.at_)).map (·.2)).getD 0)) (errUnit 0x12 6) (sitePlace s.id) 0
    rw [hid'] at h
    refine (congrArg (fun c : Core => (c.tile k).poison) h).trans ?_
    show (u.core.tile k).poison = true
    rw [hc]
    exact Core.poisonTile_tile _ hk
  · have hlog := (s.posts_logErr (b2n true) 6 0 0 (keyPlace (sliceKey (addr / 256) 0)) 0 0 0 0).tiles
    have h : exec (.scrub .accTile addr true) s = .next { s.logErr (b2n true) 6 0 0 (keyPlace (sliceKey (addr / 256) 0)) 0 0 0 0 with
        tiles := Table.set (s.logErr (b2n true) 6 0 0 (keyPlace (sliceKey (addr / 256) 0)) 0 0 0 0).tiles addr { x with poison := true } } := by
      show execScrub .accTile addr true s = _
      unfold execScrub
      dsimp only
      rw [if_pos rfl, hlog, hx]
    exact ⟨_, { x with poison := true }, h, Table.find_set_self .., rfl, rfl, ((s.still_logErr ..).trans (State.still_tiles _ _)).holds⟩
  · obtain ⟨hcx, hid, hk⟩ := s.logErr_view 2 3 0 0 (sitePlace s.id) 0 (s.vifOf s.id) s.core.k 0
    have hm := (s.logErr_same 2 3 0 0 (sitePlace s.id) 0 (s.vifOf s.id) s.core.k 0).mem
    have hg := (s.still_logErr 2 3 0 0 (sitePlace s.id) 0 (s.vifOf s.id) s.core.k 0).regs
    have h : exec (.scrub (.cell s.core.k c) s.id true) s = .next ((s.logErr 2 3 0 0 (sitePlace s.id) 0 (s.vifOf s.id) s.core.k 0).within s.id s.core.k State.pipe) := by
      show execScrub (.cell s.core.k c) s.id true s = _
      have hf : s.focus s.id s.core.k = s := by rw [State.focus, State.toCore_self, State.toCtx_self]
      unfold execScrub
      dsimp only
      rw [hf, hi]
      exact if_pos hc
    generalize s.logErr 2 3 0 0 (sitePlace s.id) 0 (s.vifOf s.id) s.core.k 0 = u at hcx hid hk hm hg h
    rw [← hid, ← hk, State.within_pipe (by rw [hcx, hst]) (by rw [hcx, ha]) (by rw [hcx, hr]) (by rw [hcx, hw]) (by rw [hcx, hu]) (by rw [hcx, hp]), hid, hk] at h
    obtain ⟨hepc, -, hcause, hregs, hmem⟩ := State.trapEntry_saves (s := u) (by rw [hcx, hp]) (by rw [hcx, hu]) 0x0D 0 false
      (word (Memory.getN u.mem (sramKey s.id u.cx.pc.toNat) 4))
    exact ⟨_, h, hcause, by rw [hepc, hcx], fun r => (hregs r).trans (State.g_congr hg r), fun a => by rw [hmem, hm]⟩
  · obtain ⟨hs, -⟩ := State.sampleDies slack (List.range 16) (s.modHub fun h => { h with sampledAt := s.time }) 0
    refine ⟨_, execMarginSample_eq hl ht, State.Still.holds (s.still_modHub _ |>.trans hs), fun d x hd hx hex => ?_⟩
    obtain ⟨-, h⟩ := State.sampleDies slack (List.range 16) (s.modHub fun h => { h with sampledAt := s.time }) d
    obtain ⟨⟨j, hj, hjeq⟩, hle⟩ := dieSlack_spec hl hd
    rw [if_pos (List.mem_range.2 hd), show (s.modHub fun h => { h with sampledAt := s.time }).dies[d]? = some x from hx] at h
    refine ⟨_, j, h, hj, ?_, ?_⟩
    all_goals rw [Die.sampled, if_neg (by rw [hex]; decide)]
    · exact hjeq
    · exact hle
  · show execMarginSample slack s = .next s
    rw [execMarginSample, if_pos (.inr ht)]

/-- Settles O50: what a posted error records and leaves, what SCRUB poisons, and the smallest slack of each die by a fold over the dies. -/
theorem errorsAreContained : Obligations.ErrorsAreContained := ⟨errorsArePosted, scrubAndMargins⟩

end Sys2Proof.Machine
end

section
/-! PROOFS. Hardware barriers (O28, O29). -/
namespace Sys2Proof.Machine
open Sys2Proof

/-! ## Barrier state of a context -/

@[simp] theorem Context.bar_setBar (c : Context) {k : Nat} (hk : k < 6) (b : Bar) : (c.setBar k b).bar k = b := by
  simp [Context.bar, Context.setBar, Vector.getD, hk]

/-- A change of barrier state leaves registers, flags and place. -/
theorem State.still_setBar (s : State) (k : Nat) (b : Bar) : s.Still (s.setCx (s.cx.setBar k b)) := ⟨rfl, rfl, rfl, rfl, rfl, fun _ => rfl⟩

theorem Context.bar_arrive (c : Context) {k : Nat} (hk : k < 6) (now n : Nat) (v : Word) :
    (c.arrive k now n v).bar k =
      { (c.bar k) with pend := true, reld := false, tmo := false, missing := none, t0 := now, sent := false, leaving := false, arg := v, from_ := n } :=
  c.bar_setBar hk _

theorem barIdx_lt (k : BitVec 2) : k.toNat < 6 := Nat.lt_trans k.isLt (by decide)

theorem State.waitOn_bar (s : State) (w : Wait) (k : Nat) : (s.waitOn w).cx.bar k = s.cx.bar k := by unfold State.waitOn; split <;> rfl

theorem State.waitOn_arrived (s : State) (w : Wait) : (s.waitOn w).cx.arrived = s.cx.arrived := by unfold State.waitOn; split <;> rfl

/-- An instruction that waits for the release of its arrival. -/
theorem State.waitBar_waits {s u : State} (h : s.Still u) (k : Nat) :
    ∃ t, u.waitBar k = .next t ∧ (∀ n, t.cx.bar n = u.cx.bar n) ∧ t.cx.arrived = u.cx.arrived ∧ t.cx.st = .waiting .barrier ∧ t.core = u.core ∧ s.Holds t :=
  ⟨_, rfl, fun n => u.waitOn_bar .barrier n, u.waitOn_arrived .barrier, by simp, State.waitOn_core .., h.holds_waitFor _ _⟩

/-! ## BSET, BARRIVE, BWAIT, BAR, BSTAT (R145, R146, R148) -/

section
variable {s : State} {k : BitVec 2}

theorem execBset_writes {a : GReg} (h : s.crTrap (0x1C + k.toNat) s.cx.breg[bregIdx k] (s.g a) = none) :
    ∃ t, exec (.bset k a) s = .next t ∧ t.cx.breg[bregIdx k] = (s.g a &&& ~~~2) ||| (s.cx.breg[bregIdx k] &&& 2) ∧ s.Went t (.bset k a) 0 := by
  have hstep : exec (.bset k a) s = (s.putCreg (0x1C + k.toNat) (crForm (0x1C + k.toNat) s.cx.breg[bregIdx k] (s.g a))).done (.bset k a) := by
    show execBset k a s = _
    unfold execBset
    dsimp only
    rw [h]
  rw [crForm_breg h, (bregWrite_masks s k _).2.1] at hstep
  generalize (s.g a &&& ~~~2) ||| (s.cx.breg[bregIdx k] &&& 2) = w at hstep ⊢
  have hput : s.Still (s.setCx (s.cx.putBreg (bregIdx k) w)) := ⟨rfl, rfl, rfl, rfl, rfl, fun _ => rfl⟩
  refine ⟨_, hstep, ?_, (hput.trans (State.still_takeSignals _ _ _)).went_retire _⟩
  show ((s.setCx (s.cx.putBreg (bregIdx k) w)).takeSignals k.toNat w).cx.breg[bregIdx k] = w
  rw [State.takeSignals_cx]
  exact Vector.getElem_set_self _

theorem State.cannotArrive_false (hp : (s.cx.bar k.toNat).pend = false) (hu : bit s.cx.breg[bregIdx k] 0 = true) : s.cannotArrive k = false := by
  rw [State.cannotArrive, hp, hu]; rfl

theorem State.cannotArrive_true (h : (s.cx.bar k.toNat).pend = true ∨ bit s.cx.breg[bregIdx k] 0 = false) : s.cannotArrive k = true := by
  rw [State.cannotArrive]
  rcases h with h | h
  · rw [h]; rfl
  · rw [h, Bool.not_false, Bool.or_true]

variable (ho : (s.cx.bar k.toNat).owed = false)
include ho

theorem execBarrive_owes : exec (.barrive k) s = if s.cannotArrive k then s.illegal (.barrive k) else (s.setCx (s.cx.arrive k.toNat s.cy s.seq 0)).done (.barrive k) :=
  if_neg (by rw [ho]; exact Bool.false_ne_true)
theorem execBwait_owes : exec (.bwait k) s = s.barWait (.bwait k) k.toNat := if_neg (by rw [ho]; exact Bool.false_ne_true)
theorem execBar_owes : exec (.bar k) s = if s.cx.arrived then s.barWait (.bar k) k.toNat else if s.cannotArrive k then s.illegal (.bar k)
    else ({ s with cx := { (s.cx.arrive k.toNat s.cy s.seq 0) with arrived := true } }).waitBar k.toNat :=
  if_neg (by rw [ho]; exact Bool.false_ne_true)
end

/-- The wait of BWAIT and BAR ends when the episode is released. -/
theorem State.barWait_released {s : State} (i : Instr) {k : Nat} (hk : k < 6) (h : (s.cx.bar k).reld = true) :
    ∃ t, s.barWait i k = .next t ∧ (t.cx.bar k).reld = false ∧ t.core = s.core ∧ s.Went t i 0 := by
  have hstep : s.barWait i k = (s.setCx (s.cx.setBar k { (s.cx.bar k) with reld := false })).done i := if_pos h
  refine ⟨_, hstep, ?_, rfl, (s.still_setBar k _).went_retire i⟩
  exact congrArg Bar.reld (s.cx.bar_setBar hk _)

theorem State.barWait_unreleased {s : State} (i : Instr) {k : Nat} (h : (s.cx.bar k).reld = false) :
    s.barWait i k = if (s.cx.bar k).pend then s.waitBar k else s.illegal i := if_neg (by rw [h]; exact Bool.false_ne_true)

/-- The low bits of the word of BSTAT. -/
theorem bstat_bits (a b c d e : Bool) (m n : Nat) :
    let v := word (b2n a + 2 * b2n b + 4 * b2n c + 8 * b2n d + 16 * b2n e + m * 2 ^ 5 + n * 2 ^ 12)
    bit v 0 = a ∧ bit v 1 = b ∧ bit v 2 = c ∧ bit v 3 = d := by
  intro v
  have hv : v.toNat = (b2n a + 2 * b2n b + 4 * b2n c + 8 * b2n d + 16 * b2n e + m * 2 ^ 5 + n * 2 ^ 12) % 2 ^ 64 := BitVec.toNat_ofNat ..
  have hbit (i : Nat) : bit v i = decide (v.toNat / 2 ^ i % 2 = 1) := Nat.testBit_eq_decide_div_mod_eq ..
  have hone (x : Bool) (p : Prop) [Decidable p] (h : p ↔ b2n x = 1) : decide p = x := by cases x <;> simpa [b2n] using h
  have hle (x : Bool) : b2n x ≤ 1 := by cases x <;> decide
  have ha := hle a
  have hb := hle b
  have hc := hle c
  have hd := hle d
  rw [hbit, hbit, hbit, hbit, hv]
  refine ⟨hone _ _ ?_, hone _ _ ?_, hone _ _ ?_, hone _ _ ?_⟩ <;> omega

theorem barrierInstructions : Claims.BarrierInstructions := by
  intro s k a d b old
  have hk := barIdx_lt k
  refine ⟨execBset_writes, fun ho hp hu => ⟨?_, fun ha => ?_⟩, fun ho h => ?_, fun ho hr => ⟨?_, fun ha => ?_⟩, fun ho hr hp => ?_, fun ho hr hp => ?_, ?_⟩
  · have hstep := (execBarrive_owes ho).trans (if_neg (by rw [State.cannotArrive_false hp hu]; exact Bool.false_ne_true))
    have hb : (((s.setCx (s.cx.arrive k.toNat s.cy s.seq 0)).retire (.barrive k)).cx.bar k.toNat) = _ := s.cx.bar_arrive hk s.cy s.seq 0
    refine ⟨_, hstep, ?_, ?_, ?_, ?_, rfl, (s.still_setBar k.toNat _).went_retire _⟩
    all_goals rw [hb]
  · have hstep := ((execBar_owes ho).trans (if_neg (by rw [ha]; exact Bool.false_ne_true))).trans
      (if_neg (by rw [State.cannotArrive_false hp hu]; exact Bool.false_ne_true))
    obtain ⟨t, ht, hbar, harr, hst, -, hh⟩ := State.waitBar_waits (s := s) (u := { s with cx := { (s.cx.arrive k.toNat s.cy s.seq 0) with arrived := true } })
      ⟨rfl, rfl, rfl, rfl, rfl, fun _ => rfl⟩ k.toNat
    exact ⟨t, hstep.trans ht, by rw [hbar]; exact congrArg Bar.pend (s.cx.bar_arrive hk s.cy s.seq 0), harr, hst, hh⟩
  · exact (execBarrive_owes ho).trans (if_pos (State.cannotArrive_true h))
  · obtain ⟨t, ht, h⟩ := State.barWait_released (.bwait k) hk hr
    exact ⟨t, (execBwait_owes ho).trans ht, h⟩
  · obtain ⟨t, ht, h⟩ := State.barWait_released (.bar k) hk hr
    exact ⟨t, ((execBar_owes ho).trans (if_pos ha)).trans ht, h⟩
  · obtain ⟨t, ht, -, -, hst, hcore, hh⟩ := State.waitBar_waits (.refl s) k.toNat
    exact ⟨t, (((execBwait_owes ho).trans (State.barWait_unreleased _ hr)).trans (if_pos hp)).trans ht, hst, hh, hcore⟩
  · exact ((execBwait_owes ho).trans (State.barWait_unreleased _ hr)).trans (if_neg (by rw [hp]; exact Bool.false_ne_true))
  · obtain ⟨h0, h1, h2, h3⟩ := bstat_bits b.pend b.reld (bit old 1) b.tmo b.missing.isSome (b.missing.getD (0, 0)).1 (b.missing.getD (0, 0)).2
    exact ⟨_, completesG_of_doneG _ s d _ rfl, h0, h1, h2, h3⟩

/-! ## BARTIME owed (R147) -/

/-- A trap taken by the context alone leaves its barrier state. -/
theorem State.trapEntry_bars {s : State} (hp : s.cx.inPhlx = false) (hu : s.cx.super = false) (code source : Nat) (imp : Bool) (v : Word) :
    (s.trapEntry code source imp v).cx.bars = s.cx.bars ∧ (s.trapEntry code source imp v).core = s.unbench.core := by
  by_cases h : s.cx.delegates code = true ∧ s.cx.inTrap = false
  · rw [State.trapEntry_user hp code source imp v hu h.1 h.2]; exact ⟨rfl, rfl⟩
  · rw [State.trapEntry_super hp code source imp v hu (by
      cases hd : s.cx.delegates code
      · exact .inl rfl
      · exact .inr (by simpa [hd] using h))]
    exact ⟨rfl, rfl⟩

theorem owedBarrierTimeoutIsTaken : Claims.OwedBarrierTimeoutIsTaken := by
  intro s k ho hu hp takes
  have htake : ∃ t, s.takeOwed k.toNat = .next t ∧ t.cx.epc = zext s.cx.pc ∧ t.cx.cause = 0x0F ∧ t.cx.tval = BitVec.ofNat 64 k.toNat
      ∧ (t.cx.bar k.toNat).owed = false ∧ (t.cx.bar k.toNat).pend = (s.cx.bar k.toNat).pend ∧ (∀ r, t.g r = s.g r)
      ∧ t.core = { s.core with benched := s.core.benched.filter fun b => b.2 != s.core.k }
      ∧ ∀ m, Memory.get t.mem m = Memory.get s.mem m := by
    let u := s.setCx (s.cx.setBar k.toNat { (s.cx.bar k.toNat) with owed := false })
    obtain ⟨hepc, htval, hcause, hg, hmem⟩ := State.trapEntry_saves (s := u) hp hu 0x0F 0 false (word k.toNat)
    obtain ⟨hbars, hcore⟩ := State.trapEntry_bars (s := u) hp hu 0x0F 0 false (word k.toNat)
    have hbar : (u.trapEntry 0x0F 0 false (word k.toNat)).cx.bar k.toNat = { (s.cx.bar k.toNat) with owed := false } :=
      (congrArg (fun l : Vector Bar 6 => l.getD k.toNat Bar.clear) hbars).trans (s.cx.bar_setBar (barIdx_lt k) _)
    exact ⟨_, rfl, hepc, hcause, htval, by rw [hbar], by rw [hbar], hg, hcore, fun m => by rw [hmem]; rfl⟩
  obtain ⟨t, ht, h⟩ := htake
  exact ⟨⟨t, (if_pos ho).trans ht, h⟩, ⟨t, (if_pos ho).trans ht, h⟩, ⟨t, (if_pos ho).trans ht, h⟩⟩

/-- Settles O28: each instruction by the branch its barrier state selects. -/
theorem barriersAreEntered : Obligations.BarriersAreEntered := ⟨barrierInstructions, owedBarrierTimeoutIsTaken⟩

end Sys2Proof.Machine
end

section
/-! PROOFS. The steps of a barrier (O29). -/
namespace Sys2Proof.Machine
open Sys2Proof

/-- A change made from the context in view that comes to `t`, where the same context is in view. -/
theorem State.within_eq {s t : State} {f : State → State} (h : f s = t) (hid : t.id = s.id) (hk : t.core.k = s.core.k) :
    s.within s.id s.core.k f = t := by
  rw [State.within_view (by rw [h, hid]) (by rw [h, hk]), h]

/-! ## Barrier state that an arrival on its way leaves -/

theorem Context.bar_setBar_of_ne (c : Context) {k j : Nat} (h : j ≠ k) (b : Bar) : (c.setBar k b).bar j = c.bar j := by
  simp [Context.bar, Context.setBar, Vector.getD, h.symm]

/-- The context once the arrival of a kind has entered the sweep. -/
def Context.sentBar (c : Context) (k : Nat) : Context := c.setBar k { (c.bar k) with sent := true }

theorem Context.sentBar_bar (c : Context) {k : Nat} (hk : k < 6) (j : Nat) :
    ((c.sentBar k).bar j).arg = (c.bar j).arg ∧ ((c.sentBar k).bar j).pend = (c.bar j).pend := by
  by_cases h : j = k
  · subst h; rw [Context.sentBar, Context.bar_setBar _ hk]; exact ⟨rfl, rfl⟩
  · rw [Context.sentBar, Context.bar_setBar_of_ne _ h]; exact ⟨rfl, rfl⟩

theorem State.still_sentBar (s : State) (k : Nat) : s.Still (s.setCx (s.cx.sentBar k)) := ⟨rfl, rfl, rfl, rfl, rfl, fun _ => rfl⟩

theorem Context.barWord_sentBar (c : Context) {k : Nat} (hk : k < 6) (j : Nat) : (c.sentBar k).barWord j = c.barWord j := by
  unfold Context.barWord
  rw [(c.sentBar_bar hk 5).1]
  rfl

theorem Context.barRect_sentBar (c : Context) {k : Nat} (hk : k < 6) (j : Nat) : (c.sentBar k).barRect j = c.barRect j :=
  congrArg rectOf (c.barWord_sentBar hk j)

/-- A context as another is in view changed. -/
theorem State.cxAt_setCx (s : State) (c : Context) (id k : Nat) : (s.setCx c).cxAt id k = if id = s.id ∧ k = s.core.k then c else s.cxAt id k := by
  rw [← State.modCx_view s fun _ => c, State.cxAt_modCx]

theorem State.hasMember_sentBar (s : State) {k : Nat} (hk : k < 6) (id j : Nat) (r : Rect) :
    (s.setCx (s.cx.sentBar k)).hasMember id j r = s.hasMember id j r := by
  have h (n : Nat) : ((s.setCx (s.cx.sentBar k)).cxAt id n).barWord j = (s.cxAt id n).barWord j
      ∧ (((s.setCx (s.cx.sentBar k)).cxAt id n).bar 5).pend = ((s.cxAt id n).bar 5).pend := by
    rw [State.cxAt_setCx]
    split
    next h => rw [h.1, h.2, State.cxAt_view]; exact ⟨Context.barWord_sentBar _ hk j, (Context.sentBar_bar _ hk 5).2⟩
    next => exact ⟨rfl, rfl⟩
  unfold State.hasMember
  dsimp only
  refine congrArg (List.any (List.range 11)) (funext fun n => ?_)
  rw [(h n).1, (h n).2]

/-- Where an arrival is held does not depend on its having been sent. -/
theorem State.heldAt_sentBar (s : State) {k : Nat} (hk : k < 6) (id j : Nat) (r : Rect) :
    (s.setCx (s.cx.sentBar k)).heldAt id j r = s.heldAt id j r := by
  unfold State.heldAt
  rw [show (s.setCx (s.cx.sentBar k)).nextOnSweep id r = s.nextOnSweep id r from rfl]
  split
  · rw [s.hasMember_sentBar hk]
  · rfl

/-! ## Episodes -/

/-- An arrival that joins its episode stands in one of its kind and rectangle. -/
theorem State.joinEpisode_arrived (s : State) (id ctx which : Nat) (r : Rect) (arg : Word) (clk : Clock) :
    ∃ l, s.joinEpisode id ctx which r arg clk = { s with episodes := l } ∧ ∃ x ∈ l, x.k = which ∧ x.rect = r ∧ (id, ctx, arg) ∈ x.arrived := by
  unfold State.joinEpisode
  split
  next n hn =>
    refine ⟨_, rfl, ?_⟩
    obtain ⟨hlt, hp, -⟩ := List.findIdx?_eq_some_iff_getElem.1 hn
    have hx : (s.episodes[n]).k = which ∧ (s.episodes[n]).rect = r := by
      simp only [Episode.is, Bool.and_eq_true, beq_iff_eq] at hp
      exact ⟨hp.1.1.1.1.1, hp.1.2⟩
    let f : Episode → Episode := fun e => { e with arrived := e.arrived ++ [(id, ctx, arg)], clk := e.clk.join clk, left := e.left.filter (· != id) }
    have hget : (s.episodes.modify n f)[n]? = some (f s.episodes[n]) := by
      rw [List.getElem?_modify_eq, List.getElem?_eq_getElem hlt]; rfl
    exact ⟨f s.episodes[n], List.mem_of_getElem? hget, hx.1, hx.2, List.mem_append_right _ (List.mem_singleton_self _)⟩
  next =>
    exact ⟨_, rfl, _, List.mem_append_right _ (List.mem_singleton_self _), rfl, rfl, List.mem_singleton_self _⟩

section
variable {s : State} {k : Nat} (hk : k < 6) (hpend : (s.cx.bar k).pend = true) (hsent : (s.cx.bar k).sent = false)
  (hperf : s.performedTo 3 (fun m => decide (m < (s.cx.bar k).from_)) = true)
include hpend hsent hperf

theorem sendCondition : ((s.cx.bar k).pend && !(s.cx.bar k).sent && s.performedTo 3 fun m => decide (m < (s.cx.bar k).from_)) = true := by
  rw [hpend, hsent, hperf]; rfl

include hk

/-- An arrival whose way is free enters its episode. -/
theorem barrierArrivalSend_joins (hh : s.heldAt s.id k (s.cx.barRect k) = none) :
    exec (.barrierArrivalSend s.id s.core.k k) s =
      .next ((s.setCx (s.cx.sentBar k)).joinEpisode s.id s.core.k k (s.cx.barRect k) (s.cx.bar k).arg ((s.setCx (s.cx.sentBar k)).releaseClk (s.cx.sentBar k).clk s.id)) := by
  obtain ⟨l, hl, -⟩ := (s.setCx (s.cx.sentBar k)).joinEpisode_arrived s.id s.core.k k (s.cx.barRect k) (s.cx.bar k).arg
    ((s.setCx (s.cx.sentBar k)).releaseClk (s.cx.sentBar k).clk s.id)
  refine congrArg Host.Outcome.next (State.within_eq ?_ (by rw [hl]; rfl) (by rw [hl]; rfl))
  refine (if_pos (sendCondition hpend hsent hperf)).trans ?_
  have hr : (s.setCx (s.cx.sentBar k)).cx.barRect k = s.cx.barRect k := s.cx.barRect_sentBar hk k
  have hheld := (s.heldAt_sentBar hk s.id k (s.cx.barRect k)).trans hh
  show (match (s.setCx (s.cx.sentBar k)).heldAt s.id k ((s.setCx (s.cx.sentBar k)).cx.barRect k) with | some n => _ | none => _) = _
  rw [hr, hheld]
  show (s.setCx (s.cx.sentBar k)).joinEpisode s.id s.core.k k ((s.setCx (s.cx.sentBar k)).cx.barRect k) _ _ = _
  rw [hr]
  rfl

/-- One whose next core has no member is held there. -/
theorem barrierArrivalSend_held {id : Nat} (hh : s.heldAt s.id k (s.cx.barRect k) = some id) (hroom : (s.coreAt id).signals.length < 64) :
    exec (.barrierArrivalSend s.id s.core.k k) s =
      .next ((s.setCx (s.cx.sentBar k)).modCore id fun c => { c with signals := c.signals ++ [⟨k, s.cx.barWord k, s.id, s.core.k, false⟩] }) := by
  have hk' := (s.setCx (s.cx.sentBar k)).modCore_k id (f := fun c => { c with signals := c.signals ++ [⟨k, s.cx.barWord k, s.id, s.core.k, false⟩] }) fun _ => rfl
  refine congrArg Host.Outcome.next (State.within_eq ?_ (State.modCore_onlyCores ..).id_eq hk')
  refine (if_pos (sendCondition hpend hsent hperf)).trans ?_
  have hr : (s.setCx (s.cx.sentBar k)).cx.barRect k = s.cx.barRect k := s.cx.barRect_sentBar hk k
  have hw : (s.setCx (s.cx.sentBar k)).cx.barWord k = s.cx.barWord k := s.cx.barWord_sentBar hk k
  have hheld := (s.heldAt_sentBar hk s.id k (s.cx.barRect k)).trans hh
  show (match (s.setCx (s.cx.sentBar k)).heldAt s.id k ((s.setCx (s.cx.sentBar k)).cx.barRect k) with | some n => _ | none => _) = _
  rw [hr, hheld]
  dsimp only
  refine (if_neg (Nat.not_le.2 hroom)).trans ?_
  show (s.setCx (s.cx.sentBar k)).modCore id (fun c => { c with signals := c.signals ++ [⟨k, (s.setCx (s.cx.sentBar k)).cx.barWord k, s.id, s.core.k, false⟩] }) = _
  rw [hw]
end

/-! ## The release (R146) -/

/-- The context that waited for the release of its arrival, of a BREG barrier. -/
def Context.releasedBar (c : Context) (now k : Nat) (clk : Clock) : Context :=
  let c1 := (c.setBar k { (c.bar k) with pend := false, reld := decide (k < 4), leaving := false }).acquire now clk
  let c2 := if h : k < 4 then { c1 with breg := c1.breg.set k (c1.breg[k] ^^^ 2) } else c1
  (c2.setBar k { (c2.bar k) with reld := false }).retire (c2.next 8)

theorem Context.releasedBar_spec (c : Context) (now : Nat) {k : Nat} (hk : k < 4) (clk : Clock) :
    (c.releasedBar now k clk).st = .ready ∧ (c.releasedBar now k clk).pc = c.pc + 8 ∧ ((c.releasedBar now k clk).bar k).pend = false
      ∧ (c.releasedBar now k clk).breg.getD k 0 = c.breg.getD k 0 ^^^ 2 ∧ (c.releasedBar now k clk).g = c.g := by
  have hk6 : k < 6 := by omega
  let b1 : Bar := { (c.bar k) with pend := false, reld := decide (k < 4), leaving := false }
  have h : c.releasedBar now k clk = (let c1 := (c.setBar k b1).acquire now clk
      let c2 : Context := { c1 with breg := c1.breg.set k (c1.breg[k] ^^^ 2) }
      (c2.setBar k { (c2.bar k) with reld := false }).retire (c2.next 8)) := by
    unfold Context.releasedBar
    dsimp only
    rw [dif_pos hk]
  rw [h]
  refine ⟨rfl, rfl, ?_, ?_, rfl⟩
  · refine (congrArg Bar.pend (Context.bar_setBar _ hk6 _)).trans ?_
    exact congrArg Bar.pend (c.bar_setBar hk6 b1)
  · refine (getD_set_self _ _ _ _ hk).trans ?_
    refine congrArg (· ^^^ 2) ?_
    show c.breg[k] = c.breg.getD k 0
    simp [Vector.getD, hk]

theorem barrierRelease_ends {s : State} {n : Nat} {e : Episode} {arg : Word} (he : s.episodes[n]? = some e) (hc : e.committed = true) (hr : e.released = [])
    (ha : e.arrived = [(s.id, s.core.k, arg)]) (hk : e.k < 4) (hst : s.cx.st = .waiting .barrier) (hw : s.cx.want = 32 + e.k) :
    exec (.barrierRelease n s.id) s = .next { s.setCx (s.cx.releasedBar s.cy e.k e.clk) with episodes := dropAt s.episodes n } := by
  have h4 : (e.k == 4) = false := beq_eq_false_iff_ne.2 (by omega)
  have h5 : (e.k == 5) = false := beq_eq_false_iff_ne.2 (by omega)
  have hmember : s.releaseMember e.k e.clk = s.setCx (s.cx.releasedBar s.cy e.k e.clk) := by
    unfold State.releaseMember
    exact if_pos ⟨hst, hw⟩
  have hrel : s.releaseArrival e (s.id, s.core.k, arg) = s.setCx (s.cx.releasedBar s.cy e.k e.clk) := by
    unfold State.releaseArrival
    dsimp only
    rw [if_neg fun h => absurd h.1 (by omega)]
    exact State.within_eq ((if_neg (by omega)).trans hmember) rfl rfl
  show execBarrierRelease n s.id s = _
  unfold execBarrierRelease
  rw [he]
  dsimp only
  rw [if_neg (by rw [hc, hr, ha]; simp), if_neg (by rw [h5]; simp), h4, ha, hr]
  have hfilter : ([(s.id, s.core.k, arg)].filter fun a => (false && bits (([(s.id, s.core.k, arg)].headD (0, 0, 0)).2.2) 63 62 == 2) || a.1 == s.id) = [(s.id, s.core.k, arg)] := by
    simp
  rw [hfilter, if_neg fun h => absurd h.1 (by omega), List.foldl_cons, List.foldl_nil, hrel, if_pos (by simp)]
  rfl

/-! ## Timeout and withdrawal (R147) -/

theorem Context.withdrawn_bar (c : Context) {k : Nat} (hk : k < 6) (m : Option (Nat × Nat)) :
    ((c.withdrawn k m).bar k).pend = false ∧ ((c.withdrawn k m).bar k).tmo = true ∧ ((c.withdrawn k m).bar k).owed = true := by
  rw [Context.withdrawn, Context.bar_setBar _ hk]; exact ⟨rfl, rfl, rfl⟩

/-- Dropping signals keeps the context in view and its number. -/
theorem State.dropSignal_view (s : State) (core ctx which : Nat) :
    (s.dropSignal core ctx which).id = s.id ∧ (s.dropSignal core ctx which).core.k = s.core.k ∧ (s.dropSignal core ctx which).cx = s.cx := by
  have hid := (s.dropSignal_onlyCores core ctx which).id_eq
  obtain ⟨l, hl⟩ := s.coreAt_dropSignal core ctx which s.id
  have hk : (s.dropSignal core ctx which).core.k = s.core.k := by rw [State.core_of_coreAt hid, hl, State.coreAt_here]
  exact ⟨hid, hk, (State.cx_of_cxAt hid hk).trans ((s.cxAt_dropSignal ..).trans s.cxAt_view)⟩

theorem State.still_dropSignal (s : State) (core ctx which : Nat) : s.Still (s.dropSignal core ctx which) :=
  .of_cx_eq (s.dropSignal_view core ctx which).2.2 (s.dropSignal_onlyCores core ctx which).mem_eq

theorem State.still_withdrawn (s : State) (k : Nat) (m : Option (Nat × Nat)) : s.Still (s.setCx (s.cx.withdrawn k m)) := ⟨rfl, rfl, rfl, rfl, rfl, fun _ => rfl⟩

theorem barrierTimeout_withdraws {s : State} {k : Nat} (hp : (s.cx.bar k).pend = true) (hl : (s.cx.bar k).leaving = false) (hs : s.suspended s.id = false)
    (ht : s.cx.barrierLimit ≤ s.cy - (s.cx.bar k).t0) (hi : s.inEpisode s.id s.core.k k = false) :
    exec (.barrierTimeout s.id s.core.k k) s = .next ((s.setCx (s.cx.withdrawn k (s.missingNow k))).dropSignal s.id s.core.k k) := by
  obtain ⟨hid, hk, -⟩ := (s.setCx (s.cx.withdrawn k (s.missingNow k))).dropSignal_view s.id s.core.k k
  refine congrArg Host.Outcome.next (State.within_eq ?_ hid hk)
  refine (if_pos ?_).trans (if_neg ?_)
  · rw [hp, hl, hs]; exact decide_eq_true ht
  · rw [hi]; exact Bool.false_ne_true

theorem barrierWithdrawAccept_removes {s : State} {n : Nat} {e : Episode} {arg : Word} (he : s.episodes[n]? = some e) (hc : e.committed = false)
    (ha : e.arrived = [(s.id, s.core.k, arg)]) (hl : (s.cx.bar e.k).leaving = true) :
    exec (.barrierWithdrawAccept n s.id) s = .next ((s.setCx (s.cx.withdrawn e.k (s.missingOf e))).removeArrival n e.k s.id s.core.k) := by
  have hfind : (e.arrived.find? fun a => a.1 == s.id && ((s.cxAt a.1 a.2.1).bar e.k).leaving) = some (s.id, s.core.k, arg) := by
    rw [ha, List.find?_cons_of_pos]
    rw [State.cxAt_view, hl, beq_self_eq_true]; rfl
  show execBarrierWithdrawAccept n s.id s = _
  unfold execBarrierWithdrawAccept
  rw [he]
  dsimp only
  rw [hfind]
  dsimp only
  rw [if_neg (by rw [hc]; exact Bool.false_ne_true), State.modCx_view]

theorem barrierSteps : Claims.BarrierSteps := by
  intro s k n e
  refine ⟨fun hk hp hsent hperf hh => ?_, fun id hk hp hsent hperf hh hroom _ => ?_, fun he hc hcomp => ?_, fun arg he hc hr ha hk hst hw => ?_,
    fun hk hp hl hs ht hi => ?_, fun arg he hc hk ha hl => ?_⟩
  · obtain ⟨l, hl, x, hx, hxk, hxr, hxa⟩ := (s.setCx (s.cx.sentBar k)).joinEpisode_arrived s.id s.core.k k (s.cx.barRect k) (s.cx.bar k).arg
      ((s.setCx (s.cx.sentBar k)).releaseClk (s.cx.sentBar k).clk s.id)
    refine ⟨{ s.setCx (s.cx.sentBar k) with episodes := l }, x, (barrierArrivalSend_joins hk hp hsent hperf hh).trans (by rw [hl]), ?_, hx, hxk, hxr, hxa,
      State.Still.holds ((s.still_sentBar k).trans (.of_cx_eq rfl rfl))⟩
    exact congrArg Bar.sent (s.cx.bar_setBar hk _)
  · refine ⟨_, ⟨k, s.cx.barWord k, s.id, s.core.k, false⟩, barrierArrivalSend_held hk hp hsent hperf hh hroom, ?_, ?_, ?_, rfl, rfl, rfl, rfl, ?_⟩
    · rw [State.modCore_cx]
      exact congrArg Bar.sent (s.cx.bar_setBar hk _)
    · exact (State.modCore_onlyCores ..).episodes_eq
    · rw [State.coreAt_modCore, if_pos rfl]; rfl
    · exact ((s.still_sentBar k).trans (State.still_modCore ..)).holds
  · have hstep : exec (.barrierCommit n) s = .next { s with episodes := s.episodes.modify n fun e => { e with committed := true } } := by
      show execBarrierCommit n s = _
      unfold execBarrierCommit
      rw [he]
      dsimp only
      rw [if_pos (by rw [hc, hcomp]; rfl)]
    refine ⟨_, hstep, ?_, State.Still.holds (.of_cx_eq rfl rfl)⟩
    show (s.episodes.modify n _)[n]? = _
    rw [List.getElem?_modify_eq, he]; rfl
  · obtain ⟨h1, h2, h3, h4, h5⟩ := s.cx.releasedBar_spec s.cy hk e.clk
    exact ⟨_, barrierRelease_ends he hc hr ha hk hst hw, h1, h2, h3, h4, rfl, fun r => State.g_congr h5 r, fun _ => rfl⟩
  · obtain ⟨-, -, hcx⟩ := (s.setCx (s.cx.withdrawn k (s.missingNow k))).dropSignal_view s.id s.core.k k
    obtain ⟨h1, h2, h3⟩ := s.cx.withdrawn_bar hk (s.missingNow k)
    refine ⟨_, barrierTimeout_withdraws hp hl hs ht hi, ?_, ?_, ?_, ?_⟩
    · rw [hcx]; exact h1
    · rw [hcx]; exact h2
    · rw [hcx]; exact h3
    · exact ((s.still_withdrawn k _).trans (State.still_dropSignal ..)).holds
  · have hstep := barrierWithdrawAccept_removes he hc ha hl
    unfold State.removeArrival at hstep
    generalize hu : ({ s.setCx (s.cx.withdrawn e.k (s.missingOf e)) with episodes := _ } : State) = u at hstep
    have hucx : u.cx = s.cx.withdrawn e.k (s.missingOf e) := hu ▸ rfl
    have hum : s.Still u := hu ▸ ⟨rfl, rfl, rfl, rfl, rfl, fun _ => rfl⟩
    obtain ⟨-, -, hcx⟩ := u.dropSignal_view s.id s.core.k e.k
    obtain ⟨h1, h2, h3⟩ := s.cx.withdrawn_bar hk (s.missingOf e)
    rw [hucx] at hcx
    refine ⟨_, hstep, ?_, ?_, ?_, (hum.trans (State.still_dropSignal ..)).holds⟩
    · rw [hcx]; exact h1
    · rw [hcx]; exact h2
    · rw [hcx]; exact h3

/-- Settles O29: the arrival that joins its episode or is held, and each later step by the branch its hypotheses select. -/
theorem barriersAreReleased : Obligations.BarriersAreReleased := barrierSteps

end Sys2Proof.Machine
end

section
/-! PROOFS. Phases, phalanxes and the transfer fabric (O30). -/
namespace Sys2Proof.Machine
open Sys2Proof

/-! ## DPHASE, PHLX, SPLIT (R52, R150, R153, R45) -/

/-- The two top bits of DOMAIN with a target phase set there are at least the target. -/
theorem phase_arg (w : Word) (p : BitVec 2) : p.toNat ≤ bits (w ||| word (p.toNat * 2 ^ 62)) 63 62 := by
  have hp := p.isLt
  have h : (word (p.toNat * 2 ^ 62)).toNat = p.toNat * 2 ^ 62 := by
    rw [word, BitVec.toNat_ofNat]; exact Nat.mod_eq_of_lt (by omega)
  have hbits : bits (w ||| word (p.toNat * 2 ^ 62)) 63 62 = (w.toNat ||| p.toNat * 2 ^ 62) / 2 ^ 62 := by
    have hlt := (w ||| word (p.toNat * 2 ^ 62)).isLt
    rw [bits, Nat.shiftRight_eq_div_pow, Nat.mod_eq_of_lt (by omega), BitVec.toNat_or, h]
  rw [hbits, Nat.le_div_iff_mul_le (by decide)]
  exact Nat.right_le_or

/-- An arrival of the context in view at which its instruction waits. -/
theorem State.waitBar_arrived (s : State) {k : Nat} (hk : k < 6) (v : Word) :
    ∃ t, ({ s with cx := { (s.cx.arrive k s.cy s.seq v) with arrived := true } }).waitBar k = .next t ∧ t.cx.st = .waiting .barrier
      ∧ (t.cx.bar k).pend = true ∧ (t.cx.bar k).arg = v ∧ s.Holds t := by
  obtain ⟨t, ht, hbar, -, hst, -, hh⟩ := State.waitBar_waits (s := s) (u := { s with cx := { (s.cx.arrive k s.cy s.seq v) with arrived := true } })
    ⟨rfl, rfl, rfl, rfl, rfl, fun _ => rfl⟩ k
  have hb : t.cx.bar k = _ := (hbar k).trans (s.cx.bar_arrive hk s.cy s.seq v)
  exact ⟨t, ht, hst, by rw [hb], by rw [hb], hh⟩

section
variable {s : State} {ph : BitVec 2}

theorem execDphase_member (hd : 2 ≤ bits s.cx.domain 2 0) (ho : (s.cx.bar 4).owed = false) :
    exec (.dphase ph) s = if s.cx.arrived then (if (s.cx.bar 4).pend then s.waitBar 4 else s.done (.dphase ph))
      else if !phaseStep s.phase ph.toNat ∨ (s.phase = 2 ∧ s.armedLater) then s.illegal (.dphase ph)
      else ({ s with cx := { (s.cx.arrive 4 s.cy s.seq (s.cx.domain ||| word (ph.toNat * 2 ^ 62))) with arrived := true } }).waitBar 4 :=
  (if_neg (Nat.not_lt.2 hd)).trans (if_neg (by rw [ho]; exact Bool.false_ne_true))

theorem execPhlx_owes {a : GReg} (ho : (s.cx.bar 5).owed = false) :
    exec (.phlx a) s = if s.cx.arrived then (if (s.cx.bar 5).pend then s.waitBar 5 else s.done (.phlx a))
      else if s.core.k ≠ 0 ∨ !s.phlxOk (s.g a) ∨ s.cx.inPhlx ∨ ((s.core.ctxs s.cx).tail.any fun c => c.st != .free) then s.illegal (.phlx a)
      else ({ s with cx := { (s.cx.arrive 5 s.cy s.seq (s.g a)) with arrived := true } }).waitBar 5 :=
  if_neg (by rw [ho]; exact Bool.false_ne_true)
end

/-- A status register without INPHLX and LEADER. -/
theorem bit_leavePhlx (c : Context) : c.leavePhlx.inPhlx = false ∧ c.leavePhlx.leader = false := by
  have h (w : Word) : bit (setBit (setBit w 4 false) 5 false) 4 = false ∧ bit (setBit (setBit w 4 false) 5 false) 5 = false := by
    have h4 : (~~~((1 : Word) <<< 4)).getLsbD 4 = false := by decide
    have h5 : (~~~((1 : Word) <<< 5)).getLsbD 5 = false := by decide
    constructor
    · show ((w &&& ~~~((1 : Word) <<< 4)) &&& ~~~((1 : Word) <<< 5)).getLsbD 4 = false
      rw [BitVec.getLsbD_and, BitVec.getLsbD_and, h4, Bool.and_false, Bool.false_and]
    · show ((w &&& ~~~((1 : Word) <<< 4)) &&& ~~~((1 : Word) <<< 5)).getLsbD 5 = false
      rw [BitVec.getLsbD_and, h5, Bool.and_false]
  exact h c.status

theorem phaseAndPhalanxInstructions : Claims.PhaseAndPhalanxInstructions := by
  intro s ph a
  refine ⟨fun hd ho ha hp hl => ?_, fun hd ho ha hp => ?_, fun hd => ?_, fun hd ho ha hp => ?_, fun hk ho ha hi hok hfree => ?_, fun ho ha hp => ?_, fun hi => ?_,
    fun hi hk => ?_⟩
  · have hcond : ¬ ((!phaseStep s.phase ph.toNat) = true ∨ (s.phase = 2 ∧ s.armedLater = true)) := by
      rw [hp]
      rintro (h | ⟨h2, h⟩)
      · cases h
      · rw [hl h2] at h; cases h
    obtain ⟨t, ht, hst, hpend, harg, hh⟩ := s.waitBar_arrived (k := 4) (by decide) (s.cx.domain ||| word (ph.toNat * 2 ^ 62))
    refine ⟨t, (((execDphase_member hd ho).trans (if_neg (by rw [ha]; exact Bool.false_ne_true))).trans (if_neg hcond)).trans ht, hst, hpend, ?_, hh⟩
    rw [harg]
    exact phase_arg _ _
  · exact completesAt_of_jump _ _ _ (((execDphase_member hd ho).trans (if_pos ha)).trans (if_neg (by rw [hp]; exact Bool.false_ne_true)))
  · exact if_pos hd
  · exact ((execDphase_member hd ho).trans (if_neg (by rw [ha]; exact Bool.false_ne_true))).trans (if_pos (.inl (by rw [hp]; rfl)))
  · have hcond : ¬ (s.core.k ≠ 0 ∨ (!s.phlxOk (s.g a)) = true ∨ s.cx.inPhlx = true ∨ ((s.core.ctxs s.cx).tail.any fun c => c.st != .free) = true) := by
      rw [hok, hi, State.helpers_any]
      rintro (h | h | h | ⟨k, h1, h2, h⟩)
      · exact h hk
      · cases h
      · cases h
      · exact h (hfree k h1 h2)
    obtain ⟨t, ht, hst, hpend, harg, hh⟩ := s.waitBar_arrived (k := 5) (by decide) (s.g a)
    exact ⟨t, (((execPhlx_owes ho).trans (if_neg (by rw [ha]; exact Bool.false_ne_true))).trans (if_neg hcond)).trans ht, hst, hpend, harg, hh⟩
  · exact completesAt_of_jump _ _ _ (((execPhlx_owes ho).trans (if_pos ha)).trans (if_neg (by rw [hp]; exact Bool.false_ne_true)))
  · refine completesAt_of_jump _ _ _ ?_
    show (if s.cx.inPhlx then s.depart s.id else s).done .split = _
    rw [if_neg (by rw [hi]; exact Bool.false_ne_true)]; rfl
  · have hstep : exec .split s = (s.depart s.id).done .split := by
      show (if s.cx.inPhlx then s.depart s.id else s).done .split = _
      rw [if_pos hi]
    have hcx : (s.depart s.id).cx = s.cx.leavePhlx := by
      show (s.modCx s.id 0 Context.leavePhlx).cx = _
      rw [State.cx_modCx, if_pos ⟨rfl, hk⟩]
    obtain ⟨h1, h2⟩ := bit_leavePhlx s.cx
    have ht : ((s.depart s.id).retire .split).cx = s.cx.leavePhlx.retire (s.cx.leavePhlx.next 8) := by rw [← hcx]; rfl
    refine ⟨_, hstep, ?_, ?_, ?_, ?_, fun r => ?_, ?_⟩
    · rw [ht]; exact h1
    · rw [ht]; exact h2
    · rw [ht]; rfl
    · rw [ht]; rfl
    · exact State.g_congr (by rw [ht]; rfl) r
    · rw [List.any_eq_false]
      intro p hp
      obtain ⟨q, -, rfl⟩ := List.mem_map.1 ((List.mem_filter.1 hp).1)
      simp

/-! ## XMIT, XMIT.R, XSEL (R152) -/

theorem State.still_arms (s : State) (l : List (Nat × Nat × Option Word)) : s.Still (s.setCx { s.cx with arms := l }) := ⟨rfl, rfl, rfl, rfl, rfl, fun _ => rfl⟩
theorem State.still_selArm (s : State) (x : Option (Nat × Nat × GReg)) : s.Still (s.setCx { s.cx with selArm := x }) := ⟨rfl, rfl, rfl, rfl, rfl, fun _ => rfl⟩


section
variable {s : State} (i : Instr) (w : BitVec 2) (n : BitVec 22) (v : Option Word)

theorem State.armWire_outside (h : s.transferOk = false) : s.armWire i w n v = s.illegal i := if_pos (by rw [h]; rfl)

theorem State.armWire_within (h : s.transferOk = true) : s.armWire i w n v =
    if n.toNat < s.slot then s.trap 0x0E (word n.toNat)
    else if !(bit s.cx.slotmask (n.toNat % 64)) then s.trap 0x0E (word n.toNat)
    else if (s.neighbour s.id w.toNat).isNone then s.trap 0x07 (word w.toNat)
    else if s.cx.arms.any fun a => a.1 == w.toNat then s.illegal i
    else (s.setCx { s.cx with arms := s.cx.arms ++ [(w.toNat, n.toNat, v)] }).done i := if_neg (by rw [h]; decide)

theorem State.armWire_refused (h : s.transferOk = true) (hs : n.toNat < s.slot ∨ bit s.cx.slotmask (n.toNat % 64) = false) :
    s.armWire i w n v = s.trap 0x0E (word n.toNat) := by
  rw [State.armWire_within i w n v h]
  by_cases hlt : n.toNat < s.slot
  · exact if_pos hlt
  · rw [if_neg hlt, if_pos (by rw [hs.resolve_left hlt]; rfl)]

theorem State.armWire_drives (h : s.transferOk = true) (hs : s.slot ≤ n.toNat) (hm : bit s.cx.slotmask (n.toNat % 64) = true) : s.armWire i w n v =
    if (s.neighbour s.id w.toNat).isNone then s.trap 0x07 (word w.toNat)
    else if s.cx.arms.any fun a => a.1 == w.toNat then s.illegal i
    else (s.setCx { s.cx with arms := s.cx.arms ++ [(w.toNat, n.toNat, v)] }).done i := by
  rw [State.armWire_within i w n v h, if_neg (Nat.not_lt.2 hs), if_neg (by rw [hm]; decide)]

theorem State.armWire_arms (h : s.transferOk = true) (hs : s.slot ≤ n.toNat) (hm : bit s.cx.slotmask (n.toNat % 64) = true)
    (hn : (s.neighbour s.id w.toNat).isSome = true) (ha : (s.cx.arms.any fun x => x.1 == w.toNat) = false) :
    ∃ t, s.armWire i w n v = .next t ∧ t.cx.arms = s.cx.arms ++ [(w.toNat, n.toNat, v)] ∧ s.Went t i 0 := by
  have hstep := State.armWire_drives i w n v h hs hm
  rw [if_neg (by rw [Option.isNone_iff_eq_none]; intro hc; rw [hc] at hn; cases hn), if_neg (by rw [ha]; exact Bool.false_ne_true)] at hstep
  refine ⟨_, hstep, rfl, (s.still_arms _).went_retire i⟩
end

theorem transferInstructions : Claims.TransferInstructions := by
  intro s w n a d
  refine ⟨fun h => ⟨?_, ?_, ?_⟩, fun h hs => ⟨?_, ?_⟩, fun h hs hm hn => ?_, fun h hs hm hn ha => ⟨?_, ?_⟩, fun h hs ha => ?_⟩
  · exact State.armWire_outside _ _ _ _ h
  · exact State.armWire_outside _ _ _ _ h
  · exact if_pos (by rw [h]; rfl)
  · exact State.armWire_refused _ _ _ _ h hs
  · exact State.armWire_refused _ _ _ _ h hs
  · exact (State.armWire_drives _ _ _ _ h hs hm).trans (if_pos (by rw [hn]; rfl))
  · exact State.armWire_arms (.xmit w n a) w n _ h hs hm hn ha
  · exact State.armWire_arms (.xmitR w n) w n _ h hs hm hn ha
  · have hstep : exec (.xsel d w n) s = (s.setCx { s.cx with selArm := some (w.toNat, n.toNat, d) }).done (.xsel d w n) := by
      show execXsel d w n s = _
      unfold execXsel
      dsimp only
      rw [if_neg (by rw [h]; decide), if_neg (Nat.not_lt.2 hs), if_neg (by rw [ha]; exact Bool.false_ne_true)]
    refine ⟨_, hstep, rfl, (s.still_selArm _).went_retire _⟩

/-! ## XMIT_DRIVE, XSEL_LATCH (R54, R152) -/

theorem State.domainOf_of_find {s : State} {t : Nat × Nat} {c : Context} {x : Domain} (ht : s.core.tray = some t) (hb : 2 ≤ bits c.domain 2 0)
    (hx : (s.domains.find? fun d => d.vif == t.1 && d.tray == t.2 && d.name == c.domain) = some x) : s.domainOf s.id c = some x := by
  unfold State.domainOf
  rw [State.coreAt_here, ht]
  exact (if_pos hb).trans hx

theorem State.domainOf_some {s : State} {c : Context} {x : Domain} (h : s.domainOf s.id c = some x) :
    ∃ t, s.core.tray = some t ∧ 2 ≤ bits c.domain 2 0 ∧ (s.domains.find? fun d => d.vif == t.1 && d.tray == t.2 && d.name == c.domain) = some x := by
  unfold State.domainOf at h
  rw [State.coreAt_here] at h
  split at h
  next t ht =>
    split at h
    next hb => exact ⟨t, ht, hb, h⟩
    next => cases h
  next => cases h

/-- The domain of a name, after a change of the domains of that name which keeps it. -/
theorem find_mapWhere {l : List Domain} {v t : Nat} {n : Word} {x : Domain} {f : Domain → Domain}
    (hx : (l.find? fun d => d.vif == v && d.tray == t && d.name == n) = some x)
    (hf : ∀ y, ((f y).vif == v && (f y).tray == t && (f y).name == n) = (y.vif == v && y.tray == t && y.name == n)) :
    ((l.map fun y => if y.vif = x.vif ∧ y.tray = x.tray ∧ y.name = x.name then f y else y).find? fun d => d.vif == v && d.tray == t && d.name == n) = some (f x) := by
  rw [List.find?_map]
  have h : (fun d : Domain => d.vif == v && d.tray == t && d.name == n) ∘ (fun y => if y.vif = x.vif ∧ y.tray = x.tray ∧ y.name = x.name then f y else y)
      = fun d => d.vif == v && d.tray == t && d.name == n := by
    funext y
    rw [Function.comp_apply]
    split
    · exact hf y
    · rfl
  rw [h, hx, Option.map_some, if_pos ⟨rfl, rfl, rfl⟩]

/-- The word a wire that is not armed drives: none. -/
theorem State.driveOne_unarmed {s : State} {id : Nat} (h : (s.cxAt id 0).arms = []) (w : Nat) : s.driveOne id w = s := by
  unfold State.driveOne
  dsimp only
  split
  · rfl
  · rw [h]; rfl

theorem State.driveAll_unarmed {s : State} {id : Nat} (h : (s.cxAt id 0).arms = []) (l : List Nat) : l.foldl (fun s w => s.driveOne id w) s = s := by
  induction l with
  | nil => rfl
  | cons w l ih => rw [List.foldl_cons, State.driveOne_unarmed h, ih]

section
variable {s : State} {x : Domain} (hk : s.core.k = 0) (hh : s.halted s.id = false) (hd : s.domainOf s.id s.cx = some x) (hp : x.phase = 2)
include hk

theorem State.cxAt_control : s.cxAt s.id 0 = s.cx := by rw [← hk, State.cxAt_view]

include hh hd hp

/-- A domain whose member drives a wire: the drive stands in it. -/
theorem xmitDrive_drives {w : BitVec 2} {v : Word} {id : Nat} (ha : s.cx.arms = [(w.toNat, x.slotNow s.cy, some v)]) (hn : s.neighbour s.id w.toNat = some id) :
    ∃ t, exec (.xmitDrive s.id w) s = .next t ∧ t.cx.arms = []
      ∧ (∃ y, t.domainOf s.id t.cx = some y ∧ y.drives = x.drives ++ [(id, (w.toNat + 2) % 4, v)]) ∧ s.Holds t := by
  let u := s.setCx { s.cx with arms := [] }
  have hu : s.modCx s.id 0 (fun c => { c with arms := c.arms.filter fun x => x.1 != w.toNat }) = u := by
    rw [← hk, State.modCx_view, ha]
    simp [u]
  have hud : u.domainOf s.id (u.cxAt s.id 0) = some x := by
    have hcx : u.cxAt s.id 0 = { s.cx with arms := [] } := State.cxAt_control (s := u) hk
    rw [hcx]
    exact hd
  have hstep : exec (.xmitDrive s.id w) s = .next (u.modDomain s.id fun d => { d with drives := d.drives ++ [(id, (w.toNat + 2) % 4, v)] }) := by
    show Host.Outcome.next (s.driveOne s.id w.toNat) = _
    unfold State.driveOne
    dsimp only
    rw [State.cxAt_control hk, if_neg (by rw [hh]; exact Bool.false_ne_true), hd]
    dsimp only
    rw [ha, List.find?_cons_of_pos (by simp)]
    dsimp only
    rw [if_neg (by rw [hp]; exact fun h => h rfl), hn, hu]
    rfl
  unfold State.modDomain at hstep
  rw [hud] at hstep
  dsimp only at hstep
  refine ⟨_, hstep, rfl, ?_, State.Still.holds ⟨rfl, rfl, rfl, rfl, rfl, fun _ => rfl⟩⟩
  refine ⟨{ x with drives := x.drives ++ [(id, (w.toNat + 2) % 4, v)] }, ?_, rfl⟩
  obtain ⟨t, ht, hb, hx⟩ := State.domainOf_some hd
  exact State.domainOf_of_find (s := { u with domains := _ }) ht hb (find_mapWhere hx fun y => rfl)

/-- XSEL_LATCH with nothing armed to drive. -/
theorem xselLatch_latches {w : Nat} {d : GReg} (ha : s.cx.arms = []) (hs : s.cx.selArm = some (w, x.slotNow s.cy, d)) (hi : x.issued.contains s.id = true) :
    let v := ((x.wires.find? fun y => y.1 == s.id && y.2.1 == w).map (·.2.2)).getD 0
    exec (.xselLatch s.id) s = .next ((s.setCore { s.core with latch := v }).setCx { (s.cx.putG d v) with selArm := none }) := by
  intro v
  show execXselLatch s.id s = _
  unfold execXselLatch
  rw [State.cxAt_control hk, hd]
  dsimp only
  rw [if_pos hi, State.driveAll_unarmed (by rw [State.cxAt_control hk, ha])]
  unfold State.latchOne
  dsimp only
  rw [State.cxAt_control hk, if_neg (by rw [hh]; exact Bool.false_ne_true), hd, hs]
  dsimp only
  rw [if_pos ⟨hp, rfl⟩, State.modCore_view]
  exact congrArg Host.Outcome.next ((congrArg (fun k => State.modCx (s.setCore { s.core with latch := v }) s.id k _) hk.symm).trans (State.modCx_view _ _))
end

theorem transferSteps : Claims.TransferSteps := by
  intro s x hk hh hd hp
  refine ⟨fun w v id ha hn => xmitDrive_drives hk hh hd hp ha hn, fun w d ha hs hi => ?_, fun hi => ?_⟩
  · intro v
    refine ⟨_, xselLatch_latches hk hh hd hp ha hs hi, rfl, ?_, rfl, fun r hr => ?_, ?_, fun _ => rfl⟩
    · exact State.g_setG_same s d v
    · exact State.g_setG_other s v hr
    · exact Context.putG_pc ..
  · show execXselLatch s.id s = _
    unfold execXselLatch
    rw [State.cxAt_control hk, hd]
    dsimp only
    rw [if_neg (by rw [hi]; exact Bool.false_ne_true)]

/-- Settles O30: each arrival, arm and refusal by the branch its hypotheses select, and the drive as a change of the domain alone. -/
theorem phasesAndTransfers : Obligations.PhasesAndTransfers := ⟨phaseAndPhalanxInstructions, transferInstructions, transferSteps⟩

end Sys2Proof.Machine
end

section
/-! PROOFS. The lane pool (O33). -/
namespace Sys2Proof.Machine
open Sys2Proof

/-! ## What reservations change -/

/-- Only reservations of lanes differ, in the core in view as in the others. -/
structure State.Reserves (s t : State) : Prop where
  cores : s.OnlyCores t
  cx : t.cx = s.cx
  core : t.core = { s.core with reserved := t.core.reserved, reservedAt := t.core.reservedAt }
  unclaimed : s.core.claim = none → t.core.reserved = s.core.reserved

theorem State.Reserves.refl (s : State) : s.Reserves s := ⟨.refl s, rfl, rfl, fun _ => rfl⟩
theorem State.Reserves.claim {s t : State} (h : s.Reserves t) : t.core.claim = s.core.claim := by rw [h.core]
theorem State.Reserves.trans {s t u : State} (h : s.Reserves t) (k : t.Reserves u) : s.Reserves u :=
  ⟨h.cores.trans k.cores, k.cx.trans h.cx, k.core.trans (by rw [h.core]), fun hc => (k.unclaimed (h.claim.trans hc)).trans (h.unclaimed hc)⟩

theorem State.Reserves.still {s t : State} (h : s.Reserves t) : s.Still t := .of_cx_eq h.cx h.cores.mem_eq

/-- A change of the reservation of a core. -/
theorem State.reserves_modCore (s : State) (id : Nat) {f : Core → Core} (hf : ∀ c, f c = { c with reserved := (f c).reserved, reservedAt := (f c).reservedAt })
    (hu : id = s.id → s.core.claim = none → (f s.core).reserved = s.core.reserved) : s.Reserves (s.modCore id f) := by
  by_cases h : id = s.id
  · subst h
    rw [State.modCore_view]
    exact ⟨rfl, rfl, hf _, hu rfl⟩
  · have hc : (s.modCore id f).core = s.core := by
      rw [State.core_of_coreAt (State.modCore_onlyCores s id f).id_eq, State.coreAt_modCore, if_neg (Ne.symm h), State.coreAt_here]
    exact ⟨s.modCore_onlyCores id f, s.modCore_cx id f, by rw [hc], fun _ => by rw [hc]⟩

theorem State.reserveFor_reserves (p : State × Nat) (c : Nat) : p.1.Reserves (State.reserveFor p c).1 := by
  unfold State.reserveFor
  dsimp only
  split
  next => exact .refl _
  next q hq =>
    dsimp only
    refine State.reserves_modCore _ _ ?_ fun hid hn => ?_
    · exact fun _ => rfl
    · rw [hid, State.coreAt_here, hn] at hq
      cases hq

/-- A fold of such changes, with a count beside the state. -/
theorem State.reserves_foldl {f : State × Nat → Nat → State × Nat} (hf : ∀ (p : State × Nat) (c : Nat), p.1.Reserves (f p c).1) (l : List Nat) (p : State × Nat) :
    p.1.Reserves (l.foldl f p).1 := by
  induction l generalizing p with
  | nil => exact .refl _
  | cons c l ih => exact (hf p c).trans (ih _)

theorem State.reserve_reserves (s : State) (id n : Nat) : s.Reserves (s.reserve id n) := State.reserves_foldl State.reserveFor_reserves _ (s, n)

/-- Reservations given up, which a core without a request may have none of. -/
theorem State.unreserve_frame (p : State × Nat) (c : Nat) (hc : c ≠ p.1.id) : p.1.Reserves (State.unreserve p c).1 := by
  unfold State.unreserve
  dsimp only
  split
  · exact .refl _
  · dsimp only
    refine State.reserves_modCore _ _ ?_ fun hid _ => absurd hid hc
    exact fun _ => rfl

theorem State.yieldReserved_reserves (s : State) (n : Nat) : s.Reserves (s.yieldReserved n) := by
  have h : ∀ (l : List Nat) (p : State × Nat), (∀ c ∈ l, c ≠ p.1.id) → p.1.Reserves (l.foldl State.unreserve p).1 := by
    intro l
    induction l with
    | nil => exact fun p _ => .refl _
    | cons c l ih =>
      intro p hl
      have h1 := State.unreserve_frame p c (hl c (List.mem_cons_self ..))
      exact h1.trans (ih _ fun x hx => by rw [h1.cores.id_eq]; exact hl x (List.mem_cons_of_mem _ hx))
  refine h _ (s, n) fun c hc => ?_
  have := (List.mem_filter.1 hc).2
  simp only [Bool.and_eq_true, bne_iff_ne] at this
  exact this.1

/-! ## What a change of the grant leaves -/

theorem Context.cutPend_calm (n : Nat) : Context.Calm fun c => c.cutPend n := ⟨fun _ => rfl, fun _ => rfl, fun _ => rfl, fun _ => rfl, fun _ => rfl⟩

/-- The grant of the core in view changed. -/
theorem State.resizeLanes_view (s : State) (n : Nat) (f : Core → Core) :
    s.Still (s.resizeLanes s.id n f) ∧ (s.resizeLanes s.id n f).id = s.id ∧ ∃ p, (s.resizeLanes s.id n f).core = f { s.core with parked := p } := by
  unfold State.resizeLanes
  split
  next k _ =>
    have hid := (s.modCx_onlyCores s.id k fun c => c.cutPend n).id_eq
    exact ⟨(s.still_modCx s.id k (Context.cutPend_calm n)).trans (State.still_modCore _ _ _), (State.modCore_onlyCores _ _ _).id_eq.trans hid,
      _, (State.core_modCore_at hid f).trans (congrArg f (s.core_modCx s.id k fun c => c.cutPend n))⟩
  next =>
    exact ⟨State.still_modCore _ _ _, (State.modCore_onlyCores _ _ _).id_eq, _, s.core_modCore f⟩

/-- The grant changed, then lanes reserved for others. -/
theorem State.resized_reserved (s : State) (n m : Nat) (f : Core → Core) :
    ∃ t, (s.resizeLanes s.id n f).reserve s.id m = t ∧ s.Still t ∧ t.id = s.id ∧ ∃ p x y, t.core = { f { s.core with parked := p } with reserved := x, reservedAt := y } := by
  obtain ⟨h1, h2, p, h3⟩ := s.resizeLanes_view n f
  have h4 := (s.resizeLanes s.id n f).reserve_reserves s.id m
  exact ⟨_, rfl, h1.trans h4.still, h4.cores.id_eq.trans h2, p, _, _, by rw [h4.core, h3]⟩

/-! ## Re-negotiation -/

theorem State.applyRecall_none {s : State} (h : s.core.recallAt = none) : s.applyRecall s.id = s := by
  unfold State.applyRecall
  dsimp only
  rw [State.coreAt_here, h]
  rfl

theorem State.renegotiate_none {s : State} (h : s.core.recallAt = none) (f : State → Result) : s.renegotiate f = f s := by
  unfold State.renegotiate
  rw [if_neg (by rw [h]; exact Bool.false_ne_true), State.applyRecall_none h]

/-! ## VCLAIM (R184) -/

section
variable {s : State} {tr : Bool} {d a : GReg} {w l : Nat}

theorem State.postRecall_frame (s : State) (id : Nat) :
    s.OnlyCores (s.postRecall id) ∧ (s.postRecall id).cx = s.cx ∧ ∃ x, (s.postRecall id).core = { s.core with recallAt := x } := by
  unfold State.postRecall
  generalize s.laneShare id = n
  generalize s.octetCores (octetOf id) = l
  generalize s.cy = now
  induction l generalizing s with
  | nil => exact ⟨.refl s, rfl, _, rfl⟩
  | cons c l ih =>
    rw [List.foldl_cons]
    split
    next =>
      obtain ⟨h1, h2, x, h3⟩ := ih (s.modCore c fun k => { k with recallAt := some now })
      refine ⟨(s.modCore_onlyCores c _).trans h1, h2.trans (s.modCore_cx c _), x, h3.trans ?_⟩
      rw [State.core_of_coreAt (State.modCore_onlyCores s c _).id_eq, State.coreAt_modCore]
      split
      next hc => rw [← hc, State.coreAt_here]
      next => rw [State.coreAt_here]
    next => exact ih s

/-- A request pending, refused first in cycle `since`. -/
def State.pendClaim (s : State) (w l since : Nat) : State :=
  { s with core := { s.core with claim := some (w, l), claimSeq := s.seq, claimAt := since, reservedAt := none, lastReq := w }, seq := s.seq + 1 }

theorem State.refuseClaim_eq (s : State) (w l : Nat) :
    ∃ since, s.refuseClaim w l = if l ≤ (s.pendClaim w l since).laneShare s.id then (s.pendClaim w l since).postRecall s.id else s.pendClaim w l since := ⟨_, rfl⟩

/-- A request refused: it is pending, and nothing else of the core in view changes but what recalls it. -/
theorem State.refuseClaim_frame (s : State) (w l : Nat) :
    s.Still (s.refuseClaim w l) ∧ (s.refuseClaim w l).core.lanes = s.core.lanes ∧ (s.refuseClaim w l).core.claim = some (w, l)
      ∧ (s.refuseClaim w l).core.lastReq = w := by
  obtain ⟨since, h⟩ := s.refuseClaim_eq w l
  have hs : s.Still (s.pendClaim w l since) := .of_cx_eq rfl rfl
  have hc : (s.pendClaim w l since).core.lanes = s.core.lanes ∧ (s.pendClaim w l since).core.claim = some (w, l) ∧ (s.pendClaim w l since).core.lastReq = w := ⟨rfl, rfl, rfl⟩
  rw [h]
  generalize s.pendClaim w l since = u at hs hc
  split
  · obtain ⟨h1, h2, x, h3⟩ := u.postRecall_frame s.id
    rw [h3]
    exact ⟨hs.trans (.of_cx_eq h2 h1.mem_eq), hc⟩
  · exact ⟨hs, hc⟩

/-- A VCLAIM granted `n` lanes. -/
theorem State.claimGranted_spec (s : State) (i : Instr) (d : GReg) (w n : Nat) :
    ∃ t, s.claimGranted i d w n = .next t ∧ t.core.lanes = n ∧ t.core.holder = some s.core.k ∧ t.core.vsetl = BitVec.ofNat 64 n ∧ t.core.claim = none
      ∧ t.took d (BitVec.ofNat 64 n) ∧ s.Went t i d := by
  obtain ⟨t, ht, hs, -, p, x, y, hc⟩ := (s.setCore { s.core with lastReq := w }).resized_reserved n (s.core.lanes + s.core.reserved - n) fun c =>
    { (c.resize n) with holder := some c.k, vsetl := word n, claim := none, reserved := 0, reservedAt := none,
                        recallAt := (if n > (s.setCore { s.core with lastReq := w }).laneShare s.id then (s.setCore { s.core with lastReq := w }).claimSince s.id else none).or c.recallAt }
  have hgrant : (s.setCore { s.core with lastReq := w }).grantLanes n = t := ht
  have hstep : s.claimGranted i d w n = .next ((t.setG d (word n)).retire i) := by rw [← hgrant]; rfl
  have hcore : ((t.setG d (word n)).retire i).core = t.core := rfl
  refine ⟨_, hstep, ?_, ?_, ?_, ?_, State.took_doneG _ _ _ _, ((s.still_setCore _).trans hs).went i d _⟩
  all_goals rw [hcore, hc]
  all_goals rfl

theorem execVclaim_listed (hargs : claimArgs (s.g a) = some (w, l)) (hh : s.heldByOther = false) (hr : s.core.recallAt = none) :
    exec (.vclaim tr d a) s =
      if s.claimable w ≥ l then s.claimGranted (.vclaim tr d a) d w (s.claimable w)
      else
        let s2 := if s.claimDue w l then s.yieldReserved (l - s.lanesAvailable) else s
        if s2.claimable w ≥ l then s2.claimGranted (.vclaim tr d a) d w (s2.claimable w)
        else if s.claimDue w l && s.recallOpen s.id then s.wait .operand
        else if tr then s.trap 0x16 (word w)
        else (s.refuseClaim w l).doneG (.vclaim tr d a) d 0 := by
  show execVclaim tr d a s = _
  unfold execVclaim
  rw [hargs]
  dsimp only
  rw [if_neg (by rw [hh]; exact Bool.false_ne_true), State.renegotiate_none hr]

/-- A request that is not yet due and finds too few lanes. -/
theorem execVclaim_refused (hargs : claimArgs (s.g a) = some (w, l)) (hh : s.heldByOther = false) (hr : s.core.recallAt = none) (hn : s.claimable w < l)
    (hdue : s.claimDue w l = false) :
    exec (.vclaim tr d a) s = if tr then s.trap 0x16 (word w) else (s.refuseClaim w l).doneG (.vclaim tr d a) d 0 := by
  rw [execVclaim_listed hargs hh hr, if_neg (Nat.not_le.2 hn), hdue]
  dsimp only
  rw [if_neg Bool.false_ne_true, if_neg (Nat.not_le.2 hn), Bool.false_and, if_neg Bool.false_ne_true]

theorem execVclaim_due (hargs : claimArgs (s.g a) = some (w, l)) (hh : s.heldByOther = false) (hr : s.core.recallAt = none) (hn : s.claimable w < l)
    (hdue : s.claimDue w l = true) :
    exec (.vclaim tr d a) s =
      if (s.yieldReserved (l - s.lanesAvailable)).claimable w ≥ l then
        (s.yieldReserved (l - s.lanesAvailable)).claimGranted (.vclaim tr d a) d w ((s.yieldReserved (l - s.lanesAvailable)).claimable w)
      else if s.recallOpen s.id then s.wait .operand
      else if tr then s.trap 0x16 (word w)
      else (s.refuseClaim w l).doneG (.vclaim tr d a) d 0 := by
  rw [execVclaim_listed hargs hh hr, if_neg (Nat.not_le.2 hn), hdue]
  dsimp only
  rw [if_pos rfl, Bool.true_and]
end

/-! ## VYIELD, VSETL (R185) -/

theorem execVyield_keeps {s : State} {d : GReg} (hh : s.heldByOther = false) (hr : s.core.recallAt = none) :
    exec (.vyield d) s =
      if bits (s.g d) 7 0 % 8 ≠ 0 ∨ bits (s.g d) 7 0 > s.core.lanes then s.illegal (.vyield d)
      else ((s.resizeLanes s.id (bits (s.g d) 7 0) fun c =>
          { (c.cut (bits (s.g d) 7 0)) with claim := none, reserved := 0, reservedAt := none, holder := if bits (s.g d) 7 0 = 0 then none else c.holder }).reserve
        (s.resizeLanes s.id (bits (s.g d) 7 0) fun c =>
          { (c.cut (bits (s.g d) 7 0)) with claim := none, reserved := 0, reservedAt := none, holder := if bits (s.g d) 7 0 = 0 then none else c.holder }).id
        (s.core.lanes + s.core.reserved - bits (s.g d) 7 0)).done (.vyield d) := by
  show execVyield d s = _
  unfold execVyield
  dsimp only
  rw [if_neg (by rw [hh]; exact Bool.false_ne_true), State.renegotiate_none hr]

theorem laneInstructions : Claims.LaneInstructions := by
  intro s tr d a
  refine ⟨fun w l hargs hh => ?_, fun hh => ⟨if_pos hh, if_pos hh⟩, fun hargs hh => ?_, fun hh hr => ⟨fun w l hargs => ?_, ?_, fun hbad => ?_, ?_⟩⟩
  · show execVclaim tr d a s = _
    unfold execVclaim
    rw [hargs]
    exact if_pos hh
  · show execVclaim tr d a s = _
    unfold execVclaim
    rw [hargs]
    dsimp only
    by_cases hh' : s.heldByOther = true
    · rw [if_pos hh']; rfl
    · rw [if_neg hh', State.renegotiate_none (hh.resolve_left hh')]; rfl
  · intro n
    refine ⟨fun hle => ?_, fun hlt hdue htr => ?_, fun hlt hdue htr => ?_, fun hlt hdue => ?_⟩
    · obtain ⟨t, ht, h⟩ := s.claimGranted_spec (.vclaim tr d a) d w (s.claimable w)
      exact ⟨t, ((execVclaim_listed hargs hh hr).trans (if_pos hle)).trans ht, h⟩
    · obtain ⟨h1, h2, h3, h4⟩ := s.refuseClaim_frame w l
      exact ⟨_, (execVclaim_refused hargs hh hr hlt hdue).trans (if_neg (by rw [htr]; exact Bool.false_ne_true)), h2, h3, h4, State.took_doneG _ _ _ _, h1.went _ _ _⟩
    · exact (execVclaim_refused hargs hh hr hlt hdue).trans (if_pos htr)
    · intro u
      have hy := s.yieldReserved_reserves (l - s.lanesAvailable)
      refine ⟨fun hle => ?_, fun hlt' hopen => ?_⟩
      · obtain ⟨t, ht, h1, h2, -, -, h3, h4⟩ := u.claimGranted_spec (.vclaim tr d a) d w (u.claimable w)
        have hk : u.core.k = s.core.k := by rw [show u.core = _ from hy.core]
        refine ⟨t, ((execVclaim_due hargs hh hr hlt hdue).trans (if_pos hle)).trans ht, h1, h2.trans (by rw [hk]), h3, ?_⟩
        obtain ⟨hregs, hready, hst, hfl, hmem⟩ := h4
        refine ⟨fun r hr => (hregs r hr).trans (hy.still.g r), ?_, hst.trans hy.still.status, hfl.trans hy.still.flags, fun m => (hmem m).trans (hy.still.memory m)⟩
        have hcx : u.cx = s.cx := hy.cx
        rw [State.readyAt, State.after] at hready ⊢
        rwa [hcx] at hready
      · exact waitsWith_of_wait _ s _ (((execVclaim_due hargs hh hr hlt hdue).trans (if_neg (Nat.not_le.2 hlt'))).trans (if_pos hopen))
  · intro n h8 hle
    have hn : bits (s.g d) 7 0 = n := bits_low _ 7
    obtain ⟨t, ht, hs, -, p, x, y, hc⟩ := s.resized_reserved n (s.core.lanes + s.core.reserved - n) fun c =>
      { (c.cut n) with claim := none, reserved := 0, reservedAt := none, holder := if n = 0 then none else c.holder }
    have hstep := execVyield_keeps (d := d) hh hr
    rw [hn, if_neg (by omega), (s.resizeLanes_view n _).2.1, ht] at hstep
    have hcore : (t.retire (.vyield d)).core = t.core := rfl
    refine ⟨_, hstep, ?_, ?_, fun h0 => ?_, hs.went_retire _⟩
    all_goals rw [hcore, hc]
    · rfl
    · exact if_pos h0
  · have hn : bits (s.g d) 7 0 = (s.g d).toNat % 256 := bits_low _ 7
    refine (execVyield_keeps hh hr).trans (if_pos ?_)
    rw [hn]
    exact hbad
  · have hstep : exec (.vsetl d a) s = (s.setCore { s.core with vsetl := word (min (s.g a).toNat s.core.lanes) }).doneG (.vsetl d a) d (word (min (s.g a).toNat s.core.lanes)) := by
      show execVsetl d a s = _
      unfold execVsetl
      dsimp only
      rw [if_neg (by rw [hh]; exact Bool.false_ne_true), State.renegotiate_none hr]
    exact ⟨_, hstep, rfl, State.took_doneG _ _ _ _, (s.still_setCore _).went _ _ _⟩

/-! ## RECALL_TIMEOUT, RESERVATION_LAPSE (R186) -/

/-- A posted recall applied. -/
theorem State.applyRecall_cuts {s : State} {c : Nat} (h : s.core.recallAt = some c) :
    (s.applyRecall s.id).core.recallAt = none ∧ (s.applyRecall s.id).core.lanes = min s.core.lanes (s.laneShare s.id) ∧ s.Still (s.applyRecall s.id) := by
  unfold State.applyRecall
  dsimp only
  rw [State.coreAt_here, h, if_pos (show (some c).isSome = true from rfl)]
  split
  next hgt =>
    obtain ⟨t, ht, hs, -, p, x, y, hc⟩ := s.resized_reserved (s.laneShare s.id) (s.core.lanes - s.laneShare s.id) fun c => { (c.cut (s.laneShare s.id)) with recallAt := none }
    rw [ht, hc]
    exact ⟨rfl, (Nat.min_eq_right (Nat.le_of_lt hgt)).symm, hs⟩
  next hle =>
    have hc := s.core_modCore fun c => { c with recallAt := none }
    rw [hc]
    exact ⟨rfl, (Nat.min_eq_left (Nat.not_lt.1 hle)).symm, s.still_modCore _ _⟩

theorem laneTimeouts : Claims.LaneTimeouts := by
  intro s c
  refine ⟨fun hr hc hb => ?_, fun hr hc => ?_⟩
  · have hstep : exec (.recallTimeout s.id) s = .next (s.applyRecall s.id) := by
      show execRecallTimeout s.id s = _
      unfold execRecallTimeout
      rw [State.coreAt_here, hr]
      dsimp only
      rw [if_pos ⟨hc, by rw [hb]; rfl⟩]
    obtain ⟨h1, h2, h3⟩ := State.applyRecall_cuts hr
    exact ⟨_, hstep, h1, h2, h3.holds⟩
  · have hstep : exec (.reservationLapse s.id) s =
        .next ((s.modCore s.id fun c => { c with claim := none, reserved := 0, reservedAt := none }).reserve s.id s.core.reserved) := by
      show execReservationLapse s.id s = _
      unfold execReservationLapse
      rw [State.coreAt_here, hr]
      dsimp only
      rw [if_pos hc]
    have hcore := s.core_modCore fun c => { c with claim := none, reserved := 0, reservedAt := none }
    have h := (s.modCore s.id fun c => { c with claim := none, reserved := 0, reservedAt := none }).reserve_reserves s.id s.core.reserved
    have hclaim : (s.modCore s.id fun c => { c with claim := none, reserved := 0, reservedAt := none }).core.claim = none := by rw [hcore]
    refine ⟨_, hstep, h.claim.trans hclaim, (h.unclaimed hclaim).trans (by rw [hcore]), ((s.still_modCore _ _).trans h.still).holds⟩

/-- Settles O33: each answer of VCLAIM by the branch its counts select; what reservations of others change is one frame. -/
theorem lanesAreClaimed : Obligations.LanesAreClaimed := ⟨laneInstructions, laneTimeouts⟩

end Sys2Proof.Machine
end

section
/-! PROOFS. Work queues and nodes (O31, O32). -/
namespace Sys2Proof.Machine
open Sys2Proof

/-! ## Fields of a word -/

/-- A bit of a word after a field has been replaced. -/
theorem getLsbD_setBits (w : Word) {hi lo : Nat} (v : Nat) {j : Nat} (hj : j < 64) :
    (setBits w hi lo v).getLsbD j = if lo ≤ j ∧ j ≤ hi then v.testBit (j - lo) else w.getLsbD j := by
  have hfield (n : Nat) : (BitVec.ofNat 64 (n <<< lo)).getLsbD j = (decide (lo ≤ j) && n.testBit (j - lo)) := by
    rw [BitVec.getLsbD_ofNat, Nat.testBit_shiftLeft, decide_eq_true hj, Bool.true_and]
  simp only [setBits, BitVec.getLsbD_or, BitVec.getLsbD_and, BitVec.getLsbD_not, hfield, Nat.testBit_two_pow_sub_one, Nat.testBit_mod_two_pow, hj, decide_true,
    Bool.true_and]
  by_cases h1 : lo ≤ j
  · by_cases h2 : j ≤ hi
    · simp [h1, h2, show j - lo < hi + 1 - lo by omega]
    · simp [h1, h2, show ¬ j - lo < hi + 1 - lo by omega]
  · simp [h1]

theorem testBit_bits (w : Word) (hi lo i : Nat) : (bits w hi lo).testBit i = (decide (i < hi + 1 - lo) && w.getLsbD (lo + i)) := by
  rw [bits, Nat.testBit_mod_two_pow, Nat.testBit_shiftRight]; rfl

/-- A field after itself has been replaced. -/
theorem bits_setBits_same (w : Word) {hi lo : Nat} (v : Nat) (h : hi < 64) : bits (setBits w hi lo v) hi lo = v % 2 ^ (hi + 1 - lo) := by
  apply Nat.eq_of_testBit_eq
  intro i
  rw [testBit_bits, Nat.testBit_mod_two_pow]
  by_cases hi' : i < hi + 1 - lo
  · rw [getLsbD_setBits w v (by omega), if_pos (by omega), Nat.add_sub_cancel_left]
  · rw [decide_eq_false hi', Bool.false_and, Bool.false_and]

/-- A field that another does not meet. -/
theorem bits_setBits_other (w : Word) {hi lo hi' lo' : Nat} (v : Nat) (h : hi' < 64) (hd : hi < lo' ∨ hi' < lo) :
    bits (setBits w hi lo v) hi' lo' = bits w hi' lo' := by
  apply Nat.eq_of_testBit_eq
  intro i
  rw [testBit_bits, testBit_bits]
  by_cases hi'' : i < hi' + 1 - lo'
  · rw [getLsbD_setBits w v (by omega), if_neg (by omega)]
  · rw [decide_eq_false hi'', Bool.false_and, Bool.false_and]

/-! ## Records and queues -/

/-- What a record's word 0 is after STATE and RETRY have been written, and what memory is outside it. -/
theorem State.putNode_spec (s : State) (key st retry : Nat) :
    bits ((s.putNode key st retry).nodeWord key 0) 2 0 = st % 8 ∧ bits ((s.putNode key st retry).nodeWord key 0) 4 3 = retry % 4
      ∧ (s.putNode key st retry).nodeWq key = s.nodeWq key
      ∧ ∀ m, m < key ∨ key + 8 ≤ m → Memory.get (s.putNode key st retry).mem m = Memory.get s.mem m := by
  have hw : (s.putNode key st retry).nodeWord key 0 = setBits (setBits (s.nodeWord key 0) 2 0 st) 4 3 retry := by
    show word (Memory.getN (Memory.putN s.mem key 8 _) key 8) = _
    rw [Memory.getN_putN, Nat.mod_eq_of_lt (Nat.lt_of_lt_of_le (BitVec.isLt _) (by decide)), word, BitVec.ofNat_toNat, BitVec.setWidth_eq]
    rfl
  refine ⟨?_, ?_, ?_, fun m hm => Memory.get_putN_outside _ _ _ _ _ hm⟩
  · rw [hw, bits_setBits_other _ _ (by decide) (by decide), bits_setBits_same _ _ (by decide)] <;> rfl
  · rw [hw, bits_setBits_same _ _ (by decide)] <;> rfl
  · rw [State.nodeWq, hw, bits_setBits_other _ _ (by decide) (by decide), bits_setBits_other _ _ (by decide) (by decide)] <;> rfl

@[simp] theorem State.wqueue_setWq (s : State) (q : Nat) (w : WorkQueue) : (s.setWq q w).wqueue q = w := by
  show (Table.find (Table.set s.wqueues q w) q).getD _ = w
  rw [Table.find_set_self]; rfl

theorem State.wqueue_enqueue (s : State) (q key : Nat) : ((s.enqueue q key false).wqueue q).items = (s.wqueue q).items ++ [key] := by
  show ((Table.find (Table.set s.wqueues q _) q).getD _).items = _
  rw [Table.find_set_self]; rfl

/-- The address of a record in a core's frame, which its interface alone decides. -/
theorem State.nodeAddr_congr {s t : State} {id : Nat} (hv : t.vifs = s.vifs) (ht : (t.coreAt id).tray = (s.coreAt id).tray) (n : Nat) :
    t.nodeAddr id n = s.nodeAddr id n := by
  have h1 : t.vifOf id = s.vifOf id := by rw [State.vifOf, ht]; rfl
  have h2 (v : Nat) : t.vif v = s.vif v := by rw [State.vif, hv]; rfl
  unfold State.nodeAddr
  dsimp only
  rw [h1, h2]

/-- A node taken: the core owns it, its record is Running, and nothing else of memory or the queues changes. -/
theorem State.takeNode_spec (s : State) (key : Nat) :
    let t := s.takeNode key
    t.id = s.id ∧ t.core.k = s.core.k ∧ (∃ ran, t.core.node = some (key, ran)) ∧ bits (t.nodeWord key 0) 2 0 = 2 ∧ t.wqueues = s.wqueues
      ∧ s.Still { t with mem := s.mem } ∧ t.cx.st = s.cx.st ∧ (∀ n, t.nodeAddr s.id n = s.nodeAddr s.id n)
      ∧ ∀ m, m < key ∨ key + 8 ≤ m → Memory.get t.mem m = Memory.get s.mem m := by
  intro t
  obtain ⟨h1, -, -, h2⟩ := s.putNode_spec key 2 (s.nodeRetry key)
  refine ⟨rfl, rfl, ⟨_, rfl⟩, h1, rfl, ?_, rfl, State.nodeAddr_congr rfl ?_, h2⟩
  · exact ⟨rfl, rfl, rfl, rfl, rfl, fun _ => rfl⟩
  · rw [State.coreAt_here]
    have h : (t.coreAt t.id).tray = t.core.tray := congrArg Core.tray (State.coreAt_here t)
    exact h

/-! ## WPOP (R154, R315) -/

section
variable {s : State} {nb : Bool} {d a : GReg}

/-- A WPOP that may be tried. -/
theorem execWpop_tries (hp : s.cx.popped = none) (hq : (s.g a).toNat < 4096) (hw : s.myVif.wqs.contains (s.g a).toNat = true) (hn : s.core.node = none)
    (hg : s.gate 3 4 = true) :
    (∀ key l, (s.wqueue (s.g a).toNat).items = key :: l → (s.waitersOf (s.g a).toNat).filter (· != (s.id, s.core.k)) = [] →
      exec (.wpop nb d a) s =
        (((s.passGate.setWq (s.g a).toNat { s.wqueue (s.g a).toNat with items := l, waiters := [] })).takeNode key).doneG (.wpop nb d a) d (s.nodeAddr s.id key))
    ∧ ((s.wqueue (s.g a).toNat).items = [] ∨ (s.waitersOf (s.g a).toNat).filter (· != (s.id, s.core.k)) ≠ [] →
      exec (.wpop nb d a) s = if s.drained (s.g a).toNat then s.doneG (.wpop nb d a) d 1
        else if nb then s.doneG (.wpop nb d a) d 0 else s.passGate.waitWork (s.g a).toNat) := by
  have hlow : bits (s.g a) 11 0 = (s.g a).toNat := by rw [bits_low]; exact Nat.mod_eq_of_lt hq
  have hhigh : bits (s.g a) 63 12 = 0 := by rw [bits, Nat.shiftRight_eq_div_pow]; omega
  have hcond : ¬ (bits (s.g a) 63 12 ≠ 0 ∨ (!(s.myVif.wqs.contains (s.g a).toNat)) = true ∨ s.core.node.isSome = true) := by
    rw [hhigh, hw, hn]; decide
  refine ⟨fun key l hi ho => ?_, fun h => ?_⟩
  all_goals
    show execWpop nb d a s = _
    unfold execWpop
    rw [hp]
    dsimp only
    rw [hlow, if_neg hcond, if_neg (by rw [hg]; decide)]
  · rw [hi, ho]
  · cases hi : (s.wqueue (s.g a).toNat).items with
    | nil => rfl
    | cons key l =>
      cases ho : (s.waitersOf (s.g a).toNat).filter (· != (s.id, s.core.k)) with
      | nil => rw [hi, ho] at h; exact absurd h (by simp)
      | cons p ps => rfl

theorem execWpop_refused (hp : s.cx.popped = none)
    (h : ¬ (s.g a).toNat < 4096 ∨ s.myVif.wqs.contains (s.g a).toNat = false ∨ s.core.node.isSome = true) : exec (.wpop nb d a) s = s.illegal (.wpop nb d a) := by
  have hcond : bits (s.g a) 63 12 ≠ 0 ∨ (!(s.myVif.wqs.contains (bits (s.g a) 11 0))) = true ∨ s.core.node.isSome = true := by
    by_cases hq : (s.g a).toNat < 4096
    · have hlow : bits (s.g a) 11 0 = (s.g a).toNat := by rw [bits_low]; exact Nat.mod_eq_of_lt hq
      rw [hlow]
      rcases h with h | h | h
      · exact absurd hq h
      · exact .inr (.inl (by rw [h]; rfl))
      · exact .inr (.inr h)
    · refine .inl ?_
      have := (s.g a).isLt
      rw [bits, Nat.shiftRight_eq_div_pow]
      omega
  show execWpop nb d a s = _
  unfold execWpop
  rw [hp]
  exact if_pos hcond
end

/-- A context that begins to wait on a queue stands in its order. -/
theorem State.waitWork_waits {s : State} (q : Nat) (h : s.cx.st ≠ .waiting .work) :
    ∃ t, s.waitWork q = .next t ∧ t.cx.st = .waiting .work ∧ (s.id, s.core.k) ∈ (t.wqueue q).waiters ∧ s.Holds t := by
  have hw : s.waitsWork q (s.id, s.core.k) = false := by
    rw [State.waitsWork, State.cxAt_view, beq_eq_false_iff_ne.2 h, Bool.false_and]
  unfold State.waitWork
  dsimp only
  rw [hw, if_neg Bool.false_ne_true]
  have hs : s.Still (s.setWq q { s.wqueue q with waiters := (s.waitersOf q).filter (· != (s.id, s.core.k)) ++ [(s.id, s.core.k)] }) := .of_cx_eq rfl rfl
  refine ⟨_, rfl, State.waitOn_cx_st _ .work, ?_, hs.holds_waitFor _ _⟩
  show _ ∈ ((Table.find ((s.setWq q _).waitOn .work).wqueues q).getD _).waiters
  rw [State.waitOn_wqueues]
  exact (congrArg (fun w : WorkQueue => (s.id, s.core.k) ∈ w.waiters) (s.wqueue_setWq q _)).mpr (List.mem_append_right _ (List.mem_singleton_self _))

theorem workQueuePops : Claims.WorkQueuePops := by
  intro s nb d a q i hp
  refine ⟨execWpop_refused hp, fun hq hw hn hg => ?_⟩
  obtain ⟨htake, hnone⟩ := execWpop_tries (nb := nb) (d := d) hp hq hw hn hg
  intro others
  refine ⟨fun key l hi ho => ?_, fun hi hd => ?_, fun h hd hnb => ?_, fun h hd hnb hst => ?_⟩
  · have hnode := (s.passGate.setWq q { s.wqueue q with items := l, waiters := [] }).takeNode_spec key
    generalize hu : (s.passGate.setWq q { s.wqueue q with items := l, waiters := [] }).takeNode key = u at hnode
    obtain ⟨-, -, hown, hbits, hqs, hstill, -, -, hmem⟩ := hnode
    have hstep := htake key l hi ho
    rw [show (s.passGate.setWq (s.g a).toNat { s.wqueue (s.g a).toNat with items := l, waiters := [] }).takeNode key = u from hu] at hstep
    have hs : s.Still { u with mem := s.mem } := State.Still.trans (t := s.passGate.setWq q { s.wqueue q with items := l, waiters := [] }) (s.still_passGate.trans (.of_cx_eq rfl rfl)) hstill
    obtain ⟨hregs, hready, -, -, -⟩ := hs.went i d (s.nodeAddr s.id key)
    refine ⟨_, hstep, State.took_doneG _ _ _ _, hown, ?_, hbits, hregs, hready, hmem⟩
    show ((Table.find u.wqueues q).getD _).items = l
    rw [hqs]
    exact congrArg WorkQueue.items (s.passGate.wqueue_setWq q _)
  · exact completesG_of_doneG _ _ _ _ ((hnone (.inl hi)).trans (if_pos hd))
  · exact completesG_of_doneG _ _ _ _ (((hnone h).trans (if_neg (by rw [hd]; exact Bool.false_ne_true))).trans (if_pos hnb))
  · obtain ⟨t, ht, h1, h2, h3⟩ := State.waitWork_waits (s := s.passGate) q hst
    refine ⟨t, ?_, h1, h2, ⟨fun r => h3.regs r, h3.pc, h3.status, h3.flags, h3.memory⟩⟩
    exact (((hnone h).trans (if_neg (by rw [hd]; exact Bool.false_ne_true))).trans (if_neg (by rw [hnb]; exact Bool.false_ne_true))).trans ht

theorem workQueueWake : Claims.WorkQueueWake := by
  intro s q key l hi hw hn
  let v := s.setWq q { s.wqueue q with items := l, waiters := [] }
  have hnode := v.takeNode_spec key
  generalize hu : v.takeNode key = u at hnode
  obtain ⟨hid, hk, hown, hbits, hqs, hstill, -, haddr, hmem⟩ := hnode
  have hfind : ([(s.id, s.core.k)].find? fun p => (s.coreAt p.1).node.isNone) = some (s.id, s.core.k) := by
    rw [List.find?_cons_of_pos]
    rw [State.coreAt_here, hn]; rfl
  have hstep : exec (.wpopWake q) s = .next (u.setCx { u.cx with popped := some (u.nodeAddr u.id key), st := .ready }) := by
    show execWpopWake q s = _
    unfold execWpopWake
    dsimp only
    rw [hi, hw, hfind]
    dsimp only
    have hfilter : [(s.id, s.core.k)].filter (· != (s.id, s.core.k)) = [] := by simp
    rw [hfilter]
    refine congrArg Host.Outcome.next (State.within_eq (s := v) ?_ ?_ ?_)
    · rw [hu]
    · exact hid
    · exact hk
  obtain ⟨hregs, hpc, -⟩ := State.Still.trans (s := s) (t := v) (.of_cx_eq rfl rfl) hstill
  refine ⟨_, hstep, ?_, rfl, hpc, hown, ?_, ?_, fun r => State.g_congr hregs r, hmem⟩
  · show some (u.nodeAddr u.id key) = _
    rw [hid]
    exact congrArg some (haddr key)
  · show ((Table.find u.wqueues q).getD _).items = l
    rw [hqs]
    exact congrArg WorkQueue.items (s.wqueue_setWq q _)
  · show ((Table.find u.wqueues q).getD _).waiters = []
    rw [hqs]
    exact congrArg WorkQueue.waiters (s.wqueue_setWq q _)

/-- Settles O31: each outcome of WPOP by the head and the waiters of the queue, and the wake of the one waiter in view. -/
theorem workIsTaken : Obligations.WorkIsTaken := ⟨workQueuePops, workQueueWake⟩

end Sys2Proof.Machine
end

section
/-! PROOFS. WPUSH, NDONE and NABORT (O32). -/
namespace Sys2Proof.Machine
open Sys2Proof

/-! ## What a trap leaves of the core -/

theorem State.core_foldl_modCx (l : List Nat) (k : Nat) (f : Context → Context) (s : State) :
    ∃ p, (l.foldl (fun s m => s.modCx m k f) s).core = { s.core with parked := p } := by
  induction l generalizing s with
  | nil => exact ⟨_, rfl⟩
  | cons m l ih =>
    obtain ⟨p, hp⟩ := ih (s.modCx m k f)
    exact ⟨p, hp.trans (by rw [State.core_modCx])⟩

theorem State.core_trapPhlx (s : State) : ∃ p, s.trapPhlx.core = { s.core with parked := p } := by
  unfold State.trapPhlx
  split
  · split
    · unfold State.dissolve
      split
      · exact ⟨_, rfl⟩
      · exact State.core_foldl_modCx _ 0 Context.leavePhlx s
    · exact ⟨_, s.core_modCx s.id 0 Context.leavePhlx⟩
  · exact ⟨_, rfl⟩

theorem State.coreFault_core (s : State) (code : Nat) (v : Word) : ∃ p, (s.coreFault code v).core = { s.core with parked := p, faulted := true, frozen := true } := by
  unfold State.coreFault
  have h := s.core_modAll s.id fun _ c => if c.st.live then { c with st := .halted } else c
  generalize (s.modAll s.id fun _ c => if c.st.live then { c with st := .halted } else c) = t at h
  unfold Core.SameBut at h
  dsimp only
  rw [h]
  exact ⟨_, rfl⟩

/-- Whatever level it is taken at, a trap keeps the core's node and what is staged for it. -/
theorem State.trapEntry_node (s : State) (code source : Nat) (imp : Bool) (v : Word) :
    (s.trapEntry code source imp v).core.node = s.core.node ∧ (s.trapEntry code source imp v).core.staging = s.core.staging := by
  obtain ⟨p, hp⟩ := s.core_trapPhlx
  have hu : s.trapPhlx.unbench.core.node = s.core.node ∧ s.trapPhlx.unbench.core.staging = s.core.staging := by
    show s.trapPhlx.core.node = _ ∧ s.trapPhlx.core.staging = _
    rw [hp]
    exact ⟨rfl, rfl⟩
  rcases s.trapEntry_cases code source imp v with ⟨-, h⟩ | ⟨-, -, h⟩ | ⟨-, -, h⟩
  · rw [h]
    obtain ⟨p, hc⟩ := (s.trapPhlx.unbench.setCx (s.trapPhlx.unbench.cx.saveTrap code source imp v)).coreFault_core code v
    rw [hc]
    exact hu
  · rw [h]; exact hu
  · rw [h]; exact hu

/-! ## WPUSH, WPUSH.CLOSE (R155) -/

theorem State.still_setWq (s : State) (q : Nat) (w : WorkQueue) : s.Still (s.setWq q w) := .of_cx_eq rfl rfl
theorem State.still_asked (s : State) (b : Bool) : s.Still { s with cx := { s.cx with asked := b } } := ⟨rfl, rfl, rfl, rfl, rfl, fun _ => rfl⟩


section
variable {s : State} {a : GReg} {key : Nat}

theorem execWpush_slice (h64 : (s.g a).toNat % 64 = 0) (hr : regionOf (s.g a) = .coord) (hrow : 126 ≤ coordRow (s.g a)) (hk : s.coordKey (s.g a) = some key) :
    exec (.wpush a) s =
      if s.core.node.isSome then
        if s.pushable key then (s.setCore { s.core with pushes := s.core.pushes ++ [(false, key)] }).done (.wpush a) else s.illegal (.wpush a)
      else if !s.gate 4 4 then s.wait .reply
      else if s.pushable key then (s.passGate.sendPush (s.g a) key).done (.wpush a)
      else s.illegal (.wpush a) := by
  show execWpush a s = _
  unfold execWpush
  dsimp only
  rw [if_neg (fun h => h h64), if_neg (by rw [hr]; exact fun h => h.elim (fun h => h rfl) (by omega)), hk]
end

/-- A record written by the application of its push. -/
theorem State.pushNode_spec (s : State) (key wq : Nat) :
    let t := s.pushNode key wq
    bits (t.nodeWord key 0) 2 0 = (if s.nodeDeps key = 0 then 1 else 0)
      ∧ (s.nodeDeps key = 0 → (t.wqueue wq).items = (s.wqueue wq).items ++ [key]) ∧ (s.nodeDeps key ≠ 0 → t.wqueues = s.wqueues)
      ∧ s.Still { t with mem := s.mem } ∧ ∀ n, n < key ∨ key + 48 ≤ n → Memory.get t.mem n = Memory.get s.mem n := by
  let s1 := if s.nodeWord key 5 = 0 then { s.freeWord.2 with mem := Memory.putN s.mem (key + 40) 8 (s.freeWord.1 ||| 1).toNat } else s
  have h1 : s1.cx = s.cx ∧ s1.wqueues = s.wqueues ∧ ∀ n, n < key ∨ key + 48 ≤ n → Memory.get s1.mem n = Memory.get s.mem n := by
    dsimp only [s1]
    split
    · exact ⟨rfl, rfl, fun n hn => Memory.get_putN_outside _ _ _ _ _ (by omega)⟩
    · exact ⟨rfl, rfl, fun _ _ => rfl⟩
  have ht : s.pushNode key wq = (let s2 := s1.putNode key (if s.nodeDeps key = 0 then 1 else 0) (s1.nodeRetry key)
      let s3 := { s2 with nodes := Table.set s2.nodes key { s.nodeMeta key with owner := none, ran := false } }
      if s.nodeDeps key = 0 then s3.enqueue wq key false else s3) := rfl
  intro t
  have ht' : t = _ := ht
  generalize s1 = u at h1 ht'
  obtain ⟨hcx, hq, hm⟩ := h1
  obtain ⟨hb, -, -, hout⟩ := u.putNode_spec key (if s.nodeDeps key = 0 then 1 else 0) (u.nodeRetry key)
  have hmem (n : Nat) (hn : n < key ∨ key + 48 ≤ n) : Memory.get (u.putNode key (if s.nodeDeps key = 0 then 1 else 0) (u.nodeRetry key)).mem n = Memory.get s.mem n :=
    (hout n (by omega)).trans (hm n hn)
  by_cases hd : s.nodeDeps key = 0
  · rw [ht']
    dsimp only
    simp only [if_pos hd] at hb hmem ⊢
    refine ⟨hb, fun _ => ?_, fun h => absurd hd h, .of_cx_eq hcx rfl, hmem⟩
    refine (State.wqueue_enqueue _ wq key).trans ?_
    show ((Table.find u.wqueues wq).getD _).items ++ [key] = _
    rw [hq]; rfl
  · rw [ht']
    dsimp only
    simp only [if_neg hd] at hb hmem ⊢
    exact ⟨hb, fun h => absurd h hd, fun _ => hq, .of_cx_eq hcx rfl, hmem⟩

theorem State.still_modAll (s : State) (id : Nat) {f : Nat → Context → Context} (hf : ∀ k, Context.Calm (f k)) : s.Still (s.modAll id f) := by
  unfold State.modAll
  generalize List.range 11 = l
  induction l generalizing s with
  | nil => exact .refl s
  | cons k l ih => exact (s.still_modCx id k (hf k)).trans (ih _)

/-- A write's stamp and its place in the order leave the context in view and the queues. -/
theorem State.stampWord_frame (s : State) (m : Msg) (w : Nat) : s.Still (s.stampWord m false w) ∧ (s.stampWord m false w).wqueues = s.wqueues := by
  have hcalm (n : Nat) : Context.Calm fun c => c.noteSeen w n := by
    constructor
    all_goals
      intro c
      unfold Context.noteSeen
      split <;> rfl
  have hsaw (n : Nat) : Context.Calm fun c => if c.saw.contains m.id then c.noteSeen w n else c := by
    obtain ⟨h1, h2, h3, h4, h5⟩ := hcalm n
    constructor
    all_goals
      intro c
      by_cases h : c.saw.contains m.id = true
      · simp only [if_pos h, h1, h2, h3, h4, h5]
      · simp only [if_neg h]
  unfold State.stampWord State.placeWrite
  rw [if_neg Bool.false_ne_true]
  dsimp only
  have ht : s.Still ((s.setStamp w m.stamp m.stamp).bumpOrder w) := .of_cx_eq rfl rfl
  have hq : ((s.setStamp w m.stamp m.stamp).bumpOrder w).wqueues = s.wqueues := rfl
  generalize (s.setStamp w m.stamp m.stamp).orderOf w = n
  generalize (s.setStamp w m.stamp m.stamp).bumpOrder w = t at ht hq ⊢
  split
  · exact ⟨ht, hq⟩
  · have hu : t.Still (m.parts.foldl (fun t p => match p.src with | .ctx id k => t.modCx id k fun c => c.noteSeen w (n + 1) | _ => t) t)
        ∧ (m.parts.foldl (fun t p => match p.src with | .ctx id k => t.modCx id k fun c => c.noteSeen w (n + 1) | _ => t) t).wqueues = t.wqueues := by
      generalize m.parts = l
      clear ht hq
      induction l generalizing t with
      | nil => exact ⟨.refl t, rfl⟩
      | cons p l ih =>
        rw [List.foldl_cons]
        split
        next id k _ =>
          obtain ⟨h1, h2⟩ := ih (t.modCx id k fun c => c.noteSeen w (n + 1))
          exact ⟨(t.still_modCx id k (hcalm _)).trans h1, h2.trans (by rw [t.modCx_onlyCores id k fun c => c.noteSeen w (n + 1)])⟩
        next => exact ih t
    obtain ⟨hu, huq⟩ := hu
    generalize m.parts.foldl _ t = u at hu huq ⊢
    have hv := u.modAll_onlyCores m.core fun _ c => if c.saw.contains m.id then c.noteSeen w (n + 1) else c
    refine ⟨((ht.trans hu).trans (u.still_modAll m.core fun _ => hsaw (n + 1))).trans (State.still_modCore _ _ _), ?_⟩
    rw [State.modCore_onlyCores]
    dsimp only
    rw [hv]
    exact huq.trans hq

theorem workQueuePushes : Claims.WorkQueuePushes := by
  intro s a ea q
  refine ⟨fun h => if_pos h, fun h64 hr => ?_, fun key h64 hr hrow hk => ⟨fun hn hg => ⟨fun hp => ?_, fun hp => ?_⟩, fun hn hp => ?_⟩,
    fun item m key wq hm hh hrel hb => ?_, fun hw hc => ⟨fun hn => ?_, fun hn => ?_⟩⟩
  · show execWpush a s = _
    unfold execWpush
    dsimp only
    rw [if_neg (fun h => h h64), if_pos (.inl (by rw [hr]; decide))]
    rfl
  · have hstep := execWpush_slice h64 hr hrow hk
    rw [if_neg (by rw [hn]; decide), if_neg (by rw [hg]; decide), if_pos hp] at hstep
    refine ⟨_, _, hstep, rfl, rfl, rfl, rfl, (s.still_passGate.trans (State.still_enter ..)).went_retire _⟩
  · have hstep := execWpush_slice h64 hr hrow hk
    rwa [if_neg (by rw [hn]; decide), if_neg (by rw [hg]; decide), if_neg (by rw [hp]; decide)] at hstep
  · have hstep := execWpush_slice h64 hr hrow hk
    rw [if_pos hn, if_pos hp] at hstep
    exact ⟨_, hstep, rfl, (s.still_setCore _).went_retire _⟩
  · have hstep : exec (.apply item) s = .next (((s.dropMsg item).pushNode key wq).stampWord m false (key / 8)) := by
      rw [execApply_eq hm hh hrel, hb]
    obtain ⟨h1, h2, h3, h4, h5⟩ := (s.dropMsg item).pushNode_spec key wq
    generalize (s.dropMsg item).pushNode key wq = u at hstep h1 h2 h3 h4 h5
    obtain ⟨k1, k2⟩ := u.stampWord_frame m (key / 8)
    have hmem := (State.stampWord_same u m false (key / 8)).mem
    refine ⟨_, hstep, ?_, fun hd => ?_, fun hd => ?_, fun r => (k1.g r).trans (State.g_congr h4.regs r), k1.pc.trans h4.pc, fun n hn => ?_⟩
    · rw [State.nodeWord, hmem]; exact h1
    · rw [State.wqueue, k2]; exact h2 hd
    · rw [k2]; exact h3 hd
    · rw [hmem]; exact h5 n hn
  · have hq : bits (s.g a) 11 0 = q := bits_low _ 11
    have hstep : exec (.wpushClose a) s = (s.closeQueue q).done (.wpushClose a) := by
      show execWpushClose a s = _
      unfold execWpushClose
      dsimp only
      rw [hq, if_neg (by rw [hw, hc]; decide), if_neg (by rw [hn]; decide)]
    have hclosed : ((s.closeQueue q).retire (.wpushClose a)).wqueue q = { s.wqueue q with closed := true } := s.wqueue_setWq q _
    exact ⟨_, hstep, by rw [hclosed], by rw [hclosed], (s.still_setWq q _).went_retire _⟩
  · have hq : bits (s.g a) 11 0 = q := bits_low _ 11
    have hstep : exec (.wpushClose a) s = (s.setCore { s.core with pushes := s.core.pushes ++ [(true, q)] }).done (.wpushClose a) := by
      show execWpushClose a s = _
      unfold execWpushClose
      dsimp only
      rw [hq, if_neg (by rw [hw, hc]; decide), if_pos hn]
    exact ⟨_, hstep, rfl, (s.still_setCore _).went_retire _⟩

/-! ## NDONE, NABORT (R156, R157) -/

section
variable {s : State} {a : GReg} {key : Nat}

theorem State.myNode_some {ea : Word} (h : s.myNode ea = some key) : ∃ ran, s.core.node = some (key, ran) := by
  unfold State.myNode at h
  split at h
  next k n hk hn =>
    split at h
    next he => cases h; exact ⟨n.2, by rw [hn, he]⟩
    next => cases h
  next => cases h

theorem State.checkPoint_sound (hn : s.core.nodeErr = none) (he : bit s.cx.errpend 0 = false) (f : State → Result) : s.checkPoint f = f s := by
  unfold State.checkPoint
  rw [hn, he, if_neg (by simp), if_neg Bool.false_ne_true]

theorem execNdone_asked (hk : s.myNode (s.g a) = some key) (ha : s.cx.asked = true) :
    exec (.ndone a) s =
      if s.core.nodeErr.isSome then s.rollback.trapPending
      else if s.coreWritesOpen then s.wait .reply
      else if !s.core.staging.isEmpty then s.commitStaged
      else if !s.gate 5 4 then s.wait .reply
      else (s.passGate.finishNode key).done (.ndone a) := by
  show execNdone a s = _
  unfold execNdone
  rw [hk]
  exact if_pos ha

theorem execNdone_first (hk : s.myNode (s.g a) = some key) (ha : s.cx.asked = false) (hc : s.checked = true) (hn : s.core.nodeErr = none)
    (he : bit s.cx.errpend 0 = false) : exec (.ndone a) s = ({ s with cx := { s.cx with asked := true } } : State).wait .reply := by
  show execNdone a s = _
  unfold execNdone
  rw [hk]
  dsimp only
  rw [if_neg (by rw [ha]; exact Bool.false_ne_true), if_neg (by rw [hc]; decide), State.checkPoint_sound hn he]

/-- A node put back at the tail of its queue by NABORT. -/
def State.aborted (s : State) (key : Nat) : State :=
  let s1 := s.putNode key 1 (s.nodeRetry key)
  let s2 := { s1 with nodes := Table.set s1.nodes key { s1.nodeMeta key with owner := none, ran := true } }
  let s3 := s2.setCore { s2.core.cancelHeld with node := none, nodeErr := none, staging := [], pushes := [] }
  s3.enqueue (s3.nodeWq key) key false

theorem execNabort_eq (hk : s.myNode (s.g a) = some key) (hc : s.checked = true) (hn : s.core.nodeErr = none) (he : bit s.cx.errpend 0 = false) :
    exec (.nabort a) s = (s.aborted key).done (.nabort a) := by
  show execNabort a s = _
  unfold execNabort
  rw [hk]
  dsimp only
  rw [if_neg (by rw [hc]; decide), State.checkPoint_sound hn he]
  rfl

theorem State.aborted_spec (s : State) (key : Nat) :
    let t := s.aborted key
    t.core.node = none ∧ t.core.staging = [] ∧ t.core.sbuf = s.core.sbuf ∧ t.core.pushes = [] ∧ bits (t.nodeWord key 0) 2 0 = 1
      ∧ bits (t.nodeWord key 0) 4 3 = bits (s.nodeWord key 0) 4 3 ∧ (t.wqueue (s.nodeWq key)).items = (s.wqueue (s.nodeWq key)).items ++ [key]
      ∧ s.Still { t with mem := s.mem } := by
  intro t
  obtain ⟨h1, h2, h3, -⟩ := s.putNode_spec key 1 (s.nodeRetry key)
  have hretry : s.nodeRetry key < 4 := Nat.mod_lt _ (by decide)
  refine ⟨rfl, rfl, rfl, rfl, h1, h2.trans (Nat.mod_eq_of_lt hretry), ?_, ⟨rfl, rfl, rfl, rfl, rfl, fun _ => rfl⟩⟩
  have hq : t = ({ s.putNode key 1 (s.nodeRetry key) with
      nodes := Table.set (s.putNode key 1 (s.nodeRetry key)).nodes key { (s.putNode key 1 (s.nodeRetry key)).nodeMeta key with owner := none, ran := true },
      core := { s.core.cancelHeld with node := none, nodeErr := none, staging := [], pushes := [] } } : State).enqueue (s.nodeWq key) key false := by
    rw [← h3]; rfl
  rw [hq, State.wqueue_enqueue]
  rfl

/-- The record and the queue of a node rolled back below its last try. -/
def State.backInQueue (s : State) (key : Nat) : State :=
  let s1 := s.setCore { s.core.cancelHeld with staging := [], pushes := [], node := none, nodeErr := none }
  let s2 := { s1 with nodes := Table.set s1.nodes key { s1.nodeMeta key with owner := none, ran := true } }
  (s2.putNode key 1 (bits (s.nodeWord key 0) 4 3 + 1)).enqueue (bits (s.nodeWord key 0) 19 8) key true

/-- What else a rollback does goes to the log and to the contexts of the core. -/
theorem State.rollback_eq {ran : Bool} {e : Nat × Nat × Nat × Word} (hn : s.core.node = some (key, ran)) (he : s.core.nodeErr = some e)
    (hr : bits (s.nodeWord key 0) 4 3 < 3) :
    ∃ c u code sub p x f, s.rollback = ((s.backInQueue key).logErr c u code sub p 0 x s.core.k ((s.backInQueue key).nodeAddr s.id key).toNat).modAll
      ((s.backInQueue key).logErr c u code sub p 0 x s.core.k ((s.backInQueue key).nodeAddr s.id key).toNat).id f := by
  unfold State.rollback
  rw [hn, he]
  dsimp only
  rw [if_pos hr, if_pos hr]
  exact ⟨_, _, _, _, _, _, _, rfl⟩

/-- A node rolled back below its last try. -/
theorem State.rollback_spec {ran : Bool} {e : Nat × Nat × Nat × Word} (hn : s.core.node = some (key, ran)) (he : s.core.nodeErr = some e)
    (hr : bits (s.nodeWord key 0) 4 3 < 3) :
    s.rollback.core.node = none ∧ s.rollback.core.staging = [] ∧ bits (s.rollback.nodeWord key 0) 2 0 = 1
      ∧ bits (s.rollback.nodeWord key 0) 4 3 = bits (s.nodeWord key 0) 4 3 + 1 := by
  obtain ⟨c, u, code, sub, p, x, f, h⟩ := s.rollback_eq hn he hr
  obtain ⟨h1, h2, -⟩ := s.putNode_spec key 1 (bits (s.nodeWord key 0) 4 3 + 1)
  obtain ⟨hcore, -⟩ := (s.backInQueue key).logErr_frame c u code sub p 0 x s.core.k ((s.backInQueue key).nodeAddr s.id key).toNat
  have hmem := ((s.backInQueue key).logErr_same c u code sub p 0 x s.core.k ((s.backInQueue key).nodeAddr s.id key).toNat).mem
  generalize (s.backInQueue key).logErr c u code sub p 0 x s.core.k ((s.backInQueue key).nodeAddr s.id key).toNat = v at h hcore hmem
  have hall : v.core.SameBut s.rollback.core := h ▸ v.core_modAll v.id f
  have hallm : s.rollback.mem = (s.putNode key 1 (bits (s.nodeWord key 0) 4 3 + 1)).mem := by rw [h, (v.modAll_same v.id f).mem, hmem]; rfl
  have hw : s.rollback.nodeWord key 0 = (s.putNode key 1 (bits (s.nodeWord key 0) 4 3 + 1)).nodeWord key 0 := by rw [State.nodeWord, hallm]; rfl
  rw [hall, hcore, hw]
  exact ⟨rfl, rfl, h1, h2.trans (Nat.mod_eq_of_lt (by omega))⟩

section
variable {t : State} (hv : t.vifs = s.vifs) (hf : t.fused = s.fused) (ht : t.core.tray = s.core.tray)
include hv ht

theorem State.myVif_congr : t.myVif = s.myVif := by unfold State.myVif State.vif; rw [ht, hv]
theorem State.myTray_congr : t.myTray = s.myTray := by unfold State.myTray State.vif; rw [ht, hv]

include hf

/-- What an address in coordinates names. -/
theorem State.coordKey_congr (ea : Word) : t.coordKey ea = s.coordKey ea := by
  have h1 := State.myVif_congr hv ht
  have h2 := State.myTray_congr hv ht
  have hsite (vd row col : Nat) : t.siteAt vd row col = s.siteAt vd row col := by
    unfold State.siteAt State.enabled State.vdCount
    rw [h1, h2, hf]
  have hslice (vd row col : Nat) : t.sliceAt vd row col = s.sliceAt vd row col := by
    unfold State.sliceAt State.vdCount
    rw [h1, h2]
  unfold State.coordKey
  dsimp only
  rw [hsite, hslice]

/-- The successors a record names. -/
theorem State.successors_congr (hm : t.mem = s.mem) (key : Nat) : t.successors key = s.successors key := by
  have hw (j : Nat) : t.nodeWord key j = s.nodeWord key j := by rw [State.nodeWord, hm]; rfl
  unfold State.successors
  dsimp only
  rw [hw, hw, State.coordKey_congr hv hf ht, hm]
end

/-- The held commands of the core queued, and a record written at the end of its node. -/
def State.queuedHeld (s : State) : State := s.setCore { s.core with cmds := s.core.cmds.map fun c => if c.st = .held then { c with st := .queued } else c }
def State.recordDone (s : State) (key : Nat) : State :=
  let s4 := s.putNode key 3 (s.nodeRetry key)
  let s5 := { s4 with nodes := Table.set s4.nodes key { s4.nodeMeta key with owner := none, ran := false } }
  s5.setCore { s5.core with node := none, nodeErr := none, staging := [], pushes := [] }

theorem State.finishNode_steps (s : State) (key : Nat) : s.finishNode key =
    let s2 := s.queuedHeld.core.pushes.foldl State.heldPush s.queuedHeld
    ((s2.successors key).foldl State.releaseSucc s2).recordDone key := by
  unfold State.finishNode State.recordDone State.queuedHeld
  with_reducible rfl

theorem State.finishNode_eq (hp : s.core.pushes = []) (hs : s.queuedHeld.successors key = []) : s.finishNode key = s.queuedHeld.recordDone key := by
  rw [State.finishNode_steps, show s.queuedHeld.core.pushes = [] from hp, List.foldl_nil]
  dsimp only
  rw [hs, List.foldl_nil]

/-- The end of a node with nothing held and no successor. -/
theorem State.finishNode_spec (hp : s.core.pushes = []) (hs : s.successors key = []) :
    let t := s.finishNode key
    t.core.node = none ∧ bits (t.nodeWord key 0) 2 0 = 3 ∧ s.Still { t with mem := s.mem } ∧ ∀ m, m < key ∨ key + 8 ≤ m → Memory.get t.mem m = Memory.get s.mem m := by
  rw [State.finishNode_eq hp ((State.successors_congr (s := s) (t := s.queuedHeld) rfl rfl rfl rfl key).trans hs)]
  obtain ⟨h1, -, -, h2⟩ := s.queuedHeld.putNode_spec key 3 (s.queuedHeld.nodeRetry key)
  exact ⟨rfl, h1, ⟨rfl, rfl, rfl, rfl, rfl, fun _ => rfl⟩, h2⟩

end

theorem nodeEndings : Claims.NodeEndings := by
  intro s a
  refine ⟨fun h => ⟨?_, ?_⟩, fun key hk ha hc hn he => ⟨?_, ?_⟩, fun key hk ha => ⟨fun e he hr => ?_, fun hn ho => ?_, fun x l hn ho hst hd => ?_, fun x l d pa hn ho hst hd hpa => ?_⟩,
    fun key hk ha hn hst ho hg hp hs => ?_⟩
  · show execNdone a s = _
    unfold execNdone
    rw [h]; rfl
  · show execNabort a s = _
    unfold execNabort
    rw [h]; rfl
  · refine ⟨_, execNdone_first hk ha hc hn he, State.waitOn_cx_st _ .reply, ?_, State.waitOn_core _ .reply, (s.still_asked true).holds_waitOn _⟩
    unfold State.waitOn; split <;> rfl
  · obtain ⟨h1, h2, h3, h4, h5, h6, h7, h8⟩ := s.aborted_spec key
    obtain ⟨hregs, hready, -⟩ := h8.went_retire (.nabort a)
    refine ⟨_, execNabort_eq hk hc hn he, h1, h2, h3, h4, h5, h6, h7, fun r => ?_, hready⟩
    exact State.g_congr h8.regs r
  · obtain ⟨ran, hnode⟩ := State.myNode_some hk
    obtain ⟨h1, h2, h3, h4⟩ := State.rollback_spec hnode he hr
    have hstep := (execNdone_asked hk ha).trans (if_pos (by rw [he]; rfl))
    generalize s.rollback = u at hstep h1 h2 h3 h4
    obtain ⟨k1, k2⟩ := (u.setCx { u.cx with trapNext := false }).trapEntry_node (bits u.cx.errpend 15 8) u.cx.errSource true u.cx.errTval
    have hmem := ((u.setCx { u.cx with trapNext := false }).trapEntry_same (bits u.cx.errpend 15 8) u.cx.errSource true u.cx.errTval).mem
    refine ⟨_, hstep, k1.trans h1, k2.trans h2, ?_, ?_⟩
    · rw [State.nodeWord, hmem]; exact h3
    · rw [State.nodeWord, hmem]; exact h4
  · refine waitsWith_of_wait _ s _ ?_
    rw [execNdone_asked hk ha, if_neg (by rw [hn]; decide), if_pos ho]
  · have hstep : exec (.ndone a) s = (s.commitOne x l).wait .reply := by
      rw [execNdone_asked hk ha, if_neg (by rw [hn]; decide), if_neg (by rw [ho]; exact Bool.false_ne_true), if_pos (by rw [hst]; rfl)]
      unfold State.commitStaged
      rw [hst]
      dsimp only
      cases hx : x.e.dest with
      | die d => exact absurd hx (hd d)
      | _ => rfl
    refine ⟨_, hstep, ?_, ?_, State.waitOn_cx_st _ .reply, State.Still.holds_waitOn (s.still_setCore _) _⟩
    · rw [State.waitOn_core]; rfl
    · rw [State.waitOn_core]; rfl
  · have hstep : exec (.ndone a) s =
        (((s.touchTlb x.e.va).setCx { s.cx with walk := none }).commitOne { x with e := { x.e with body := x.e.body.atKey pa, dest := homeOf pa } } l).wait .reply := by
      rw [execNdone_asked hk ha, if_neg (by rw [hn]; decide), if_neg (by rw [ho]; exact Bool.false_ne_true), if_pos (by rw [hst]; rfl)]
      unfold State.commitStaged
      rw [hst]
      dsimp only
      rw [hd]
      dsimp only
      rw [hpa]
    have htouch := s.still_touchTlb x.e.va
    obtain ⟨hid, hsb, -⟩ := s.passed_view x.e.va
    have hs : s.Still ((s.touchTlb x.e.va).setCx { s.cx with walk := none }) := ⟨rfl, rfl, rfl, rfl, rfl, htouch.memory⟩
    refine ⟨_, { x.e with body := x.e.body.atKey pa, dest := homeOf pa, src := .ctx (s.touchTlb x.e.va).id x.ctx }, hstep, ?_, rfl, rfl, ?_, ?_,
      State.waitOn_cx_st _ .reply, (hs.trans (State.still_setCore _ _)).holds_waitOn _⟩
    · rw [State.waitOn_core]
      show (s.touchTlb x.e.va).core.sbuf ++ _ = _
      rw [show (s.touchTlb x.e.va).core.sbuf = s.core.sbuf from hsb]
      rfl
    · exact congrArg (fun id => Src.ctx id x.ctx) hid
    · rw [State.waitOn_core]; rfl
  · have hstep : exec (.ndone a) s = (s.passGate.finishNode key).done (.ndone a) := by
      rw [execNdone_asked hk ha, if_neg (by rw [hn]; decide), if_neg (by rw [ho]; exact Bool.false_ne_true), if_neg (by rw [hst]; decide), if_neg (by rw [hg]; decide)]
    obtain ⟨h1, h2, h3, h4⟩ := State.finishNode_spec (s := s.passGate) (key := key) hp ((State.successors_congr (s := s) (t := s.passGate) rfl rfl rfl rfl key).trans hs)
    generalize s.passGate.finishNode key = u at hstep h1 h2 h3 h4
    obtain ⟨hregs, hready, -⟩ := (s.still_passGate.trans h3).went_retire (.ndone a)
    refine ⟨_, hstep, h1, h2, fun r => ?_, hready, h4⟩
    exact State.g_congr h3.regs r

/-- Settles O32: the push as one REL write and what applying it does; the ends of a node by the branch NDONE or NABORT takes. -/
theorem workIsGivenAndEnded : Obligations.WorkIsGivenAndEnded := ⟨workQueuePushes, nodeEndings⟩

end Sys2Proof.Machine
end

section
/-! PROOFS. Fabric operations (O27). -/
namespace Sys2Proof.Machine
open Sys2Proof

/-! ## Checks of a fabric access (R132, R140) -/

/-- The state after an access found its translation: the TLB of the core alone may differ. -/
def State.withTlb (s : State) (l : List Tlb) : State := s.setCore { s.core with tlb := l }

theorem State.still_withTlb (s : State) (l : List Tlb) : s.Still (s.withTlb l) := s.still_setCore _

theorem State.touchTlb_eq (s : State) (ea : Word) : ∃ l, s.touchTlb ea = s.withTlb l := by
  unfold State.touchTlb
  dsimp only
  split
  · exact ⟨s.core.tlb, rfl⟩
  · split
    · exact ⟨_, rfl⟩
    · exact ⟨s.core.tlb, rfl⟩

section
variable {s : State} {k : AccKind} {ea : Word} {size key : Nat} {f : State → Home → Nat → Result}

theorem State.check_space {space : Nat} (hr : regionOf ea = .main ∨ regionOf ea = .coord) (hc : s.check k space ea size = .ok key) : spaceOk space (regionOf ea) = true := by
  unfold State.check at hc
  dsimp only at hc
  rw [if_neg (by rcases hr with h | h <;> rw [h] <;> decide), if_neg (by rcases hr with h | h <;> rw [h] <;> decide)] at hc
  refine Classical.byContradiction fun h => ?_
  rw [if_pos (by rw [Bool.not_eq_true] at h; rw [h]; rfl)] at hc
  cases hc

/-- An access to a place of this module that passes the checks. -/
theorem State.fabric_here (hr : regionOf ea = .main ∨ regionOf ea = .coord) (hc : s.check k (bits s.cx.memdef 7 6) ea size = .ok key) :
    ∃ l, s.fabric k ea size f = f (s.withTlb l) (homeOf key) key := by
  obtain ⟨l, hl⟩ := s.touchTlb_eq ea
  refine ⟨l, ?_⟩
  have hsp := State.check_space hr hc
  unfold State.fabric
  dsimp only
  rw [if_neg (by rw [hsp]; rcases hr with h | h <;> rw [h] <;> decide), if_neg (by rcases hr with h | h <;> rw [h] <;> decide), hc, ← hl]

/-- One to a peer's window. -/
theorem State.fabric_peer (hr : regionOf ea = .peer) (hm : bits s.cx.memdef 7 6 = 0) (ha : ea.toNat % size = 0) (hp : s.peerOk (peerOf ea) = true) :
    s.fabric k ea size f = f s (.peer (peerOf ea)) (peerOff ea) := by
  unfold State.fabric
  dsimp only
  rw [if_neg (by rw [hr, hm]; decide), if_pos hr, if_neg (fun h => h ha), if_neg (by rw [hp]; decide)]

theorem State.fabric_loc (hr : regionOf ea = .loc) : s.fabric k ea size f = s.trap 0x07 ea := if_pos (.inr (.inl hr))
end

/-! ## FLD, FWAIT (R141) -/

section
variable {s : State} {acq : Bool} {d a : GReg} {disp : BitVec 24} {n : Nat}

/-- The read of an FLD put into the injection queue of the core. -/
def State.sendRead (u : State) (p n key : Nat) : State :=
  { u with torus := { u.torus with inject := u.torus.inject ++ [(u.id, u.flitOf (u.peerModule p) .r .read n key 0 0)] } }

theorem State.still_sendRead (u : State) (p n key : Nat) : u.Still (u.sendRead p n key) := .of_cx_eq rfl rfl

theorem State.tickets_doneG (u : State) (i : Instr) (d : GReg) (v : Word) : ((u.setG d v).retire i).cx.tickets = u.cx.tickets := by
  show (u.cx.putG d v).tickets = _
  unfold Context.putG
  split <;> rfl

/-- The step of FLD once its address has been checked. -/
def State.fldTo (s : State) (acq : Bool) (d a : GReg) (disp : BitVec 24) (s0 : State) (home : Home) (key : Nat) : Result :=
  match s0.cx.freeTicket with
  | none => s0.wait .reply
  | some n =>
    if !s0.gate 1 4 then s0.wait .reply
    else
      let t := s0.passGate
      match home with
      | .peer p =>
        if s0.peerOpen p (addressX s a disp) || t.injectFull 1 || t.recvFull 1 then t.wait .reply
        else
          let u := t.takeTicket n acq false (some p) 0 (addressX s a disp) none
          ({ u with torus := { u.torus with inject := u.torus.inject ++ [(u.id, u.flitOf (u.peerModule p) .r .read n key 0 0)] } }).doneG (.fld acq d a disp) d (word n)
      | _ => (t.takeTicket n acq false none key (addressX s a disp) none).doneG (.fld acq d a disp) d (word n)

/-- The receive queue depends on the tickets of the core's contexts alone. -/
theorem State.recvUsed_setCx (s : State) {c : Context} (h : c.tickets = s.cx.tickets) : (s.setCx c).recvUsed = s.recvUsed := by
  have hm : ((s.core.ctxs c).map fun c => (c.tickets.filter fun t => t.peer.isSome || t.multi).length)
      = (s.core.ctxs s.cx).map fun c => (c.tickets.filter fun t => t.peer.isSome || t.multi).length := by
    unfold Core.ctxs
    rw [List.map_map, List.map_map]
    refine List.map_congr_left fun k _ => ?_
    rw [Function.comp_apply, Function.comp_apply, Core.ctx, Core.ctx]
    split
    · rw [h]
    · rfl
  unfold State.recvUsed
  exact congrArg (fun l : List Nat => l.foldl (· + ·) 0 + _) hm

theorem exec_fld : exec (.fld acq d a disp) s = s.fabric .load (addressX s a disp) 8 (s.fldTo acq d a disp) := by
  rw [← State.eaX_eq]
  unfold State.fldTo
  rw [← State.eaX_eq]
  rfl

theorem State.still_takeTicket (s : State) (n : Nat) (acq multi : Bool) (p : Option Nat) (key : Nat) (v : Word) (x : Option Word) :
    s.Still (s.takeTicket n acq multi p key v x) := ⟨rfl, rfl, rfl, rfl, rfl, fun _ => rfl⟩

theorem State.fldTo_waits {s0 : State} {home : Home} {key : Nat} (h : s0.cx.freeTicket = none) : s.fldTo acq d a disp s0 home key = s0.wait .reply := by
  unfold State.fldTo; rw [h]

theorem State.fldTo_here {s0 : State} {home : Home} {key : Nat} (h : s0.cx.freeTicket = some n) (hg : s0.gate 1 4 = true) (hh : home.isPeer = false) :
    s.fldTo acq d a disp s0 home key = (s0.passGate.takeTicket n acq false none key (addressX s a disp) none).doneG (.fld acq d a disp) d (word n) := by
  unfold State.fldTo
  rw [h]
  dsimp only
  rw [if_neg (by rw [hg]; decide)]
  cases home with
  | peer p => cases hh
  | _ => rfl

theorem State.fldTo_peer {p key : Nat} (h : s.cx.freeTicket = some n) (hg : s.gate 1 4 = true) (ho : s.peerOpen p (addressX s a disp) = false)
    (hi : s.injectFull 1 = false) (hr : s.recvFull 1 = false) :
    s.fldTo acq d a disp s (.peer p) key =
      ((s.passGate.takeTicket n acq false (some p) 0 (addressX s a disp) none).sendRead p n key).doneG (.fld acq d a disp) d (word n) := by
  have hi' : s.passGate.injectFull 1 = false := hi
  have hr' : s.passGate.recvFull 1 = false := by rw [State.recvFull, show s.passGate.recvUsed = s.recvUsed from s.recvUsed_setCx rfl]; exact hr
  unfold State.fldTo
  rw [h]
  dsimp only
  rw [if_neg (by rw [hg]; decide), if_neg (by rw [ho, hi', hr']; decide)]
  rfl
end

theorem remoteLoadsUseTickets : Claims.RemoteLoadsUseTickets := by
  intro s acq d a disp ea
  refine ⟨fun n key hn hr hc hp hg => ?_, fun n hn hr hm ha hp hg ho hi hq => ?_, fun hn key hr hc => ?_, fun x v hx hv => ?_, fun x hx hv => ?_, fun hx => ?_⟩
  · obtain ⟨l, hl⟩ := State.fabric_here (f := s.fldTo acq d a disp) hr hc
    have hstep := (exec_fld.trans hl).trans (State.fldTo_here (s0 := s.withTlb l) hn hg hp)
    refine ⟨_, ⟨n, s.cy, acq, false, none, key, ea, none, s.seq⟩, hstep, State.tickets_doneG _ _ _ _, rfl, rfl, rfl, rfl, State.took_doneG _ _ _ _, ?_⟩
    exact (((s.still_withTlb l).trans (State.still_passGate _)).trans (State.still_takeTicket ..)).went _ _ _
  · have hstep := (exec_fld.trans (State.fabric_peer (f := s.fldTo acq d a disp) hr hm ha hp)).trans (State.fldTo_peer hn hg ho hi hq)
    refine ⟨_, ⟨n, s.cy, acq, false, some (peerOf ea), 0, ea, none, s.seq⟩,
      (s.passGate.takeTicket n acq false (some (peerOf ea)) 0 ea none).flitOf (s.peerModule (peerOf ea)) .r .read n (peerOff ea) 0 0, hstep, State.tickets_doneG _ _ _ _, rfl, rfl, rfl, rfl, rfl, rfl, rfl, rfl, rfl,
      State.took_doneG _ _ _ _, ?_⟩
    exact ((s.still_passGate.trans (State.still_takeTicket ..)).trans (State.still_sendRead ..)).went _ _ _
  · obtain ⟨l, hl⟩ := State.fabric_here (f := s.fldTo acq d a disp) hr hc
    exact ⟨_, (exec_fld.trans hl).trans (State.fldTo_waits (s0 := s.withTlb l) hn), State.waitOn_cx_st _ .reply, (s.still_withTlb l).holds_waitOn _⟩
  · have hstep : exec (.fwait d a) s = (s.setCx (if x.acq then Context.acquire { s.cx with tickets := s.cx.tickets.filter fun y => y.num != x.num } s.cy []
        else { s.cx with tickets := s.cx.tickets.filter fun y => y.num != x.num })).doneG (.fwait d a) d v := by
      show execFwait d a s = _
      unfold execFwait
      rw [hx]
      dsimp only
      rw [hv]
    refine ⟨_, hstep, State.took_doneG _ _ _ _, ?_, State.Still.went ?_ _ _ _⟩
    · rw [State.tickets_doneG]
      cases x.acq <;> rfl
    · cases x.acq <;> exact ⟨rfl, rfl, rfl, rfl, rfl, fun _ => rfl⟩
  · refine waitsWith_of_wait _ s _ ?_
    show execFwait d a s = _
    unfold execFwait
    rw [hx]
    dsimp only
    rw [hv]
  · show execFwait d a s = _
    unfold execFwait
    rw [hx]
    rfl

/-! ## FST, FAMO (R142) -/

/-- A send that no tempo register binds. -/
theorem State.send_unbound {s : State} {dests : List (Home × Nat)} (h : ∀ x ∈ dests, s.matching x.1 = []) (f : State → Result) : s.send dests f = f s.unbench := by
  have hls : (dests.flatMap fun d => (s.matching d.1).map fun l => (l, d.2)) = [] := by
    rw [List.flatMap_eq_nil_iff]
    intro x hx
    rw [h x hx]; rfl
  unfold State.send
  dsimp only
  rw [hls]
  exact if_neg Bool.false_ne_true

theorem State.still_payFor (s : State) (n : Nat) : s.Still (s.payFor n) ∧ (s.payFor n).core.sbuf = s.core.sbuf := by
  unfold State.payFor
  split
  · exact ⟨.refl s, rfl⟩
  · exact ⟨.of_cx_eq rfl rfl, rfl⟩

theorem State.putFabric_cx {s : State} (home : Home) (key : Nat) (e : Eff) (ea : Word) (b : Body) : (s.putFabric home key e ea b).cx = s.cx := by
  unfold State.putFabric State.payFor
  dsimp only
  split <;> split <;> rfl

/-- A class P packet enters the buffer of a core with no Running node. -/
theorem State.putFabric_buffers {s : State} (hn : s.core.node = none) (home : Home) (key : Nat) (e : Eff) (ea : Word) (b : Body) :
    s.Still (s.putFabric home key e ea b)
      ∧ (s.putFabric home key e ea b).core.sbuf = s.core.sbuf ++ [⟨s.seq, s.mine, home, .p, !s.cx.super, e.ord, e.scope, ea, b, false⟩] := by
  obtain ⟨h1, h2⟩ := s.still_payFor s.seq
  unfold State.putFabric
  rw [hn]
  dsimp only
  rw [Option.isSome_none, Bool.false_and, if_neg Bool.false_ne_true, if_neg Bool.false_ne_true]
  exact ⟨h1.trans (.of_cx_eq rfl rfl), congrArg (· ++ _) h2⟩

section
variable {s : State} {i : Instr} {home : Home} {key : Nat} {e : Eff} {ea : Word} {body : State → Body}

theorem State.fabricStore_sends (hn : s.core.node = none) (hm : s.matching home = []) (hg : s.gate e.ord e.scope = true) (hrel : e.ord = 4 → s.performed 5 = true)
    (hi : home.isPeer = true → s.injectFull 1 = false) :
    ∃ t, ∃ x : Entry, s.fabricStore i home key e ea body = .next t ∧ t.core.sbuf = s.core.sbuf ++ [x] ∧ x.body = body s.unbench ∧ x.cls = .p ∧ x.dest = home
      ∧ x.ord = e.ord ∧ x.scope = e.scope ∧ s.Went t i 0 := by
  have hstep : s.fabricStore i home key e ea body = (s.unbench.passGate.putFabric home key e ea (body s.unbench)).done i := by
    unfold State.fabricStore
    rw [if_neg (by rw [hn]; simp), if_neg ?_, State.send_unbound (by simpa using hm)]
    rintro (h | ⟨h4, -, h⟩ | ⟨hp, h⟩)
    · rw [hg] at h; cases h
    · rw [hrel h4] at h; cases h
    · rw [hi hp] at h; cases h
  obtain ⟨h1, h2⟩ := State.putFabric_buffers (s := s.unbench.passGate) hn home key e ea (body s.unbench)
  refine ⟨_, _, hstep, h2, rfl, rfl, rfl, rfl, rfl, ?_⟩
  exact (((s.still_setCore _).trans (State.still_passGate _)).trans h1).went_retire i
end

theorem exec_fst (rel : Bool) (d a : GReg) (disp : BitVec 24) (s : State) : exec (.fst rel d a disp) s =
    s.fabric .store (addressX s a disp) 8 fun s0 home key =>
      s0.fabricStore (.fst rel d a disp) home key ⟨if rel then 4 else 1, if rel then 5 else 4, 0, 1, false⟩ (addressX s a disp) fun s0 =>
        match home with
        | .peer p => .flit (s0.flitOf (s0.peerModule p) .p .store 0 key (s0.g d) 0)
        | _ => .store key 8 (s0.g d).toNat := by
  rw [← State.eaX_eq]; rfl

theorem exec_famo (op : FamoOp) (d a : GReg) (disp : BitVec 24) (s : State) : exec (.famo op d a disp) s =
    s.fabric .amo (addressX s a disp) (if op = .fadd then 4 else 8) fun s0 home key =>
      s0.fabricStore (.famo op d a disp) home key ⟨1, 4, 0, 1, false⟩ (addressX s a disp) fun s0 =>
        match home with
        | .peer p => .flit (s0.flitOf (s0.peerModule p) .p (.amo op) 0 key (s0.g d) 0)
        | _ => .amo (famoAmo op) key (if op = .fadd then 4 else 8) ((s0.g d).toNat % 256 ^ (if op = .fadd then 4 else 8)) 0 [] false s0.cx.detred := by
  rw [← State.eaX_eq]; rfl

/-- A home of this module is no peer. -/
theorem Home.not_peer {α : Type} (x : Nat → α) (y : α) (h : Home) : h.isPeer = false → (match h with | .peer p => x p | _ => y) = y := by
  intro hp
  cases h with
  | peer p => cases hp
  | _ => rfl

theorem State.Went.of_still {s u t : State} {i : Instr} {d : GReg} (h : s.Still u) (k : u.Went t i d) : s.Went t i d where
  regs r hr := (k.regs r hr).trans (h.g r)
  ready := by
    have hx : u.cx.inPhlx = s.cx.inPhlx := h.inPhlx
    have := k.ready
    rwa [State.readyAt, State.after, hx, h.pc, h.pos] at this
  status := k.status.trans h.status
  flags := k.flags.trans h.flags
  memory m := (k.memory m).trans (h.memory m)

theorem remoteStoresCompleteAtIssue : Claims.RemoteStoresCompleteAtIssue := by
  intro s rel op d a disp ea size
  refine ⟨fun key hr hc hp hn hm hg hrel => ?_, fun key hr hc hp hn hm hg => ?_, fun hr hsp ha hp hn hm hi => ⟨fun hg hrel => ?_, fun hg => ?_⟩, fun hr => ⟨?_, ?_, ?_⟩⟩
  · obtain ⟨l, hl⟩ := State.fabric_here (f := fun s0 home key => s0.fabricStore (.fst rel d a disp) home key ⟨if rel then 4 else 1, if rel then 5 else 4, 0, 1, false⟩ ea
      fun s0 => match home with | .peer p => .flit (s0.flitOf (s0.peerModule p) .p .store 0 key (s0.g d) 0) | _ => .store key 8 (s0.g d).toNat) hr hc
    obtain ⟨t, x, ht, hb, hbody, hcls, -, hord, hsc, hw⟩ := State.fabricStore_sends (s := s.withTlb l) (i := .fst rel d a disp) (home := homeOf key) (key := key)
      (e := ⟨if rel then 4 else 1, if rel then 5 else 4, 0, 1, false⟩) (ea := ea)
      (body := fun s0 => match homeOf key with | .peer p => .flit (s0.flitOf (s0.peerModule p) .p .store 0 key (s0.g d) 0) | _ => .store key 8 (s0.g d).toNat)
      hn hm hg (fun h4 => hrel (by cases rel; cases h4; rfl)) (fun h => by rw [hp] at h; cases h)
    refine ⟨t, x, ((exec_fst ..).trans hl).trans ht, hb, hbody.trans (Home.not_peer _ _ _ hp), hcls, hord, hsc, .of_still (s.still_withTlb l) hw⟩
  · obtain ⟨l, hl⟩ := State.fabric_here (f := fun s0 home key => s0.fabricStore (.famo op d a disp) home key ⟨1, 4, 0, 1, false⟩ ea
      fun s0 => match home with
        | .peer p => .flit (s0.flitOf (s0.peerModule p) .p (.amo op) 0 key (s0.g d) 0)
        | _ => .amo (famoAmo op) key size ((s0.g d).toNat % 256 ^ size) 0 [] false s0.cx.detred) hr hc
    obtain ⟨t, x, ht, hb, hbody, hcls, -, -, -, hw⟩ := State.fabricStore_sends (s := s.withTlb l) (i := .famo op d a disp) (home := homeOf key) (key := key)
      (e := ⟨1, 4, 0, 1, false⟩) (ea := ea)
      (body := fun s0 => match homeOf key with
        | .peer p => .flit (s0.flitOf (s0.peerModule p) .p (.amo op) 0 key (s0.g d) 0)
        | _ => .amo (famoAmo op) key size ((s0.g d).toNat % 256 ^ size) 0 [] false s0.cx.detred)
      hn hm hg (fun h4 => absurd h4 (by decide)) (fun h => by rw [hp] at h; cases h)
    exact ⟨t, x, _, ((exec_famo ..).trans hl).trans ht, hb, hcls, hbody.trans (Home.not_peer _ _ _ hp), rfl, .of_still (s.still_withTlb l) hw⟩
  · obtain ⟨t, x, ht, hb, hbody, hcls, hdest, -, -, hw⟩ := State.fabricStore_sends (s := s) (i := .fst rel d a disp) (home := .peer (peerOf ea)) (key := peerOff ea)
      (e := ⟨if rel then 4 else 1, if rel then 5 else 4, 0, 1, false⟩) (ea := ea)
      (body := fun s0 => .flit (s0.flitOf (s0.peerModule (peerOf ea)) .p .store 0 (peerOff ea) (s0.g d) 0))
      hn hm hg (fun h4 => hrel (by cases rel; cases h4; rfl)) (fun _ => hi)
    exact ⟨t, x, _, ((exec_fst ..).trans (State.fabric_peer hr hsp ha hp)).trans ht, hb, hbody, hcls, hdest, rfl, rfl, rfl, rfl, hw⟩
  · obtain ⟨t, x, ht, hb, hbody, hcls, hdest, -, -, hw⟩ := State.fabricStore_sends (s := s) (i := .famo op d a disp) (home := .peer (peerOf ea)) (key := peerOff ea)
      (e := ⟨1, 4, 0, 1, false⟩) (ea := ea)
      (body := fun s0 => .flit (s0.flitOf (s0.peerModule (peerOf ea)) .p (.amo op) 0 (peerOff ea) (s0.g d) 0))
      hn hm hg (fun h4 => absurd h4 (by decide)) (fun _ => hi)
    have ha' : ea.toNat % (if op = .fadd then 4 else 8) = 0 := by split <;> omega
    exact ⟨t, x, _, ((exec_famo ..).trans (State.fabric_peer hr hsp ha' hp)).trans ht, hb, hbody, hcls, hdest, rfl, rfl, rfl, rfl, hw⟩
  · exact (exec_fst ..).trans (State.fabric_loc hr)
  · exact (exec_famo ..).trans (State.fabric_loc hr)
  · exact exec_fld.trans (State.fabric_loc hr)

/-! ## FMCAST, FFENCE (R143, R144) -/

/-- The packet of an FMCAST, put behind the core's earlier ones under ticket `n`. -/
def State.multicast (s : State) (b c : GReg) (ea : Word) (n m : Nat) : State :=
  let u := s.passGate.takeTicket n false true none 0 ea none
  u.putFabric (.peer 0) 0 ⟨1, 4, 0, 1, false⟩ ea (.flit (u.flitOf (s.g c).toNat .p .mcast n (peerOff ea) (s.g b) (lowBits m)))

/-- The store of an FFENCE, and the context that forgets the peers it has counted. -/
def State.fencePut (s : State) (e : Eff) (ea : Word) (key : Nat) : State := s.putStore { e with chk := false } ea 64 key (peerBits s.cx.failedPeers)
def State.forgetPeers (s : State) : State := s.setCx { (s.cx.acquire s.cy []) with failedPeers := [] }
def State.fenceTo (s : State) (e : Eff) (ea : Word) (key : Nat) : State := (s.fencePut e ea key).forgetPeers

theorem State.still_forgetPeers (s : State) : s.Still s.forgetPeers := ⟨rfl, rfl, rfl, rfl, rfl, fun _ => rfl⟩

theorem eraseDups_length_ne_zero {l : List Nat} (h : l ≠ []) : l.eraseDups.length ≠ 0 := by
  cases l with
  | nil => exact absurd rfl h
  | cons x xs => rw [List.eraseDups_cons]; exact Nat.succ_ne_zero _

theorem multicastAndFabricFence : Claims.MulticastAndFabricFence := by
  intro s d b c a disp ea
  refine ⟨fun ms n hn hg hgr hne hr hsp ha hp ht hgate hi hq hall => ?_, fun e key he hr hc hgate hn hopen hf => ?_⟩
  · have hstep : exec (.fmcast d b c a disp) s = (s.unbench.multicast b c ea n ms.length).doneG (.fmcast d b c a disp) d (word n) := by
      have hlow : bits (s.g c) 63 9 = 0 := by rw [bits, Nat.shiftRight_eq_div_pow]; omega
      have hemp : ms.isEmpty = false := by cases ms with | nil => exact absurd rfl hne | cons _ _ => rfl
      have hmatch : ∀ x ∈ ms.map fun m => (Home.peer m, 2), s.matching x.1 = [] := by
        intro x hx
        obtain ⟨m, hm, rfl⟩ := List.mem_map.1 hx
        exact List.isEmpty_iff.1 (List.all_eq_true.1 hall m hm)
      show execFmcast d b c a disp s = _
      unfold execFmcast
      rw [State.eaX_eq]
      dsimp only
      rw [if_neg (by rw [hn, hlow]; decide), hgr]
      dsimp only
      rw [if_neg (by rw [show regionOf (addressX s a disp) = .peer from hr, hsp]; decide), if_neg (fun h => h ha), if_neg (fun h => h hp), ht]
      dsimp only
      rw [if_neg (by rw [hgate, hi, hq]; decide), State.send_unbound hmatch, hemp]
      rfl
    have hput := State.putFabric_buffers (s := s.unbench.passGate.takeTicket n false true none 0 ea none) hn (.peer 0) 0 ⟨1, 4, 0, 1, false⟩ ea
      (.flit ((s.unbench.passGate.takeTicket n false true none 0 ea none).flitOf (s.g c).toNat .p .mcast n (peerOff ea) (s.g b) (lowBits ms.length)))
    have hs : s.Still (s.unbench.multicast b c ea n ms.length) :=
      (((s.still_setCore _).trans (State.still_passGate _)).trans (State.still_takeTicket ..)).trans hput.1
    have htick : (s.unbench.multicast b c ea n ms.length).cx.tickets = s.cx.tickets ++ [⟨n, s.cy, false, true, none, 0, ea, none, s.seq⟩] :=
      congrArg Context.tickets (State.putFabric_cx (s := s.unbench.passGate.takeTicket n false true none 0 ea none) (.peer 0) 0 ⟨1, 4, 0, 1, false⟩ ea _)
    refine ⟨_, _, _, _, hstep, (State.tickets_doneG _ _ _ _).trans htick, rfl, rfl, hput.2, rfl, rfl, rfl, rfl, rfl, rfl, rfl, rfl, State.took_doneG _ _ _ _, hs.went _ _ _⟩
  · obtain ⟨l, hl⟩ := s.touchTlb_eq ea
    have hstep : exec (.ffence d a disp) s = ((s.withTlb l).passGate.fenceTo e ea key).doneG (.ffence d a disp) d (word s.cx.failedPeers.eraseDups.length) := by
      show execFfence d a disp s = _
      unfold execFfence
      rw [State.eaX_eq]
      dsimp only
      rw [if_neg (by rcases hr with h | h <;> rw [h] <;> decide),
        State.accessAll_ok he (State.checkFrom_one hc (State.stageFull_unstaged (State.staged_none hn key) _)) hgate,
        show (([(addressX s a disp, 64)].map (·.1)).foldl State.touchTlb s).passGate = (s.withTlb l).passGate from congrArg State.passGate hl,
        show (s.withTlb l).passGate.peersOpen = false from hopen, if_neg Bool.false_ne_true,
        show (s.withTlb l).passGate.cx.failedPeers = s.cx.failedPeers from rfl, if_neg (eraseDups_length_ne_zero hf)]
      rfl
    have hput : (s.withTlb l).passGate.fencePut e ea key = (s.withTlb l).passGate.enter s.mine key .w e ea (.store key 64 (peerBits s.cx.failedPeers)) false :=
      if_neg (by rw [State.staged_none (s := (s.withTlb l).passGate) hn key]; decide)
    have hs : s.Still ((s.withTlb l).passGate.fenceTo e ea key) := by
      refine (((s.still_withTlb l).trans (State.still_passGate _)).trans ?_).trans (State.still_forgetPeers _)
      rw [hput]
      exact State.still_enter ..
    refine ⟨_, ⟨s.seq, s.mine, homeOf key, .w, !s.cx.super, e.ord, e.scope, ea, .store key 64 (peerBits s.cx.failedPeers), false⟩, hstep, ?_, ?_, rfl,
      State.took_doneG _ _ _ _, hs.went _ _ _⟩
    · show (((s.withTlb l).passGate.fenceTo e ea key).cx.putG d _).failedPeers = []
      rw [Context.putG_failedPeers]
      rfl
    · exact congrArg (fun u : State => u.core.sbuf) hput

/-- Settles O27: a fabric access by its checks, then as a read under a ticket or a class P packet of the buffer. -/
theorem fabricOperations : Obligations.FabricOperations := ⟨remoteLoadsUseTickets, remoteStoresCompleteAtIssue, multicastAndFabricFence⟩

end Sys2Proof.Machine
end

section
/-!
PROOFS. Refutation of O40. Its statement on the engine has an abandoned pass always count for the Running node that took the instruction; the model
records an error against the node only with the posting to a context that is live, and a helper may have ended with its instructions still in the queue.
-/
namespace Sys2Proof.Machine
open Sys2Proof

/-- The executing product of helper 1, of no positions. -/
def helperProduct : MCmd := ⟨1, 0, 0, 1, 0, 0, 1, 1, false, 1, true, 0, false, 5⟩

/-- The core owns a Running node since before its acceptance, and helper 1 is Free again. -/
def helperGone : State :=
  { State.reset with core := { State.reset.core with mq := [helperProduct], node := some (0, false) } }

/-- Whether an error is recorded against the core's node after a step. -/
def nodeErrAfter (r : Result) : Bool :=
  match r with
  | .next t => t.core.nodeErr.isSome
  | _ => false

theorem nodeErrAfter_next (t : State) : nodeErrAfter (.next t) = t.core.nodeErr.isSome := rfl

/-- Refutes O40: a checksum that fails twice in a pass of an ended helper records nothing against the node. -/
theorem not_matrixEngineWorks : ¬ Obligations.MatrixEngineWorks := by
  rintro ⟨-, -, h⟩
  obtain ⟨-, hpass, -⟩ := h helperGone helperProduct [] .ok rfl
  obtain ⟨-, hfail⟩ := hpass (by decide +kernel) rfl rfl (by decide +kernel) (by decide +kernel)
  obtain ⟨t, ht, -, -, hnode, -⟩ := hfail false (by decide +kernel) (by decide +kernel) (.checksumTwice false) (List.mem_cons_self ..)
  have herr : t.core.nodeErr.isSome = true := (hnode rfl rfl).2 (Nat.zero_le _)
  have hnone : nodeErrAfter (exec (.matrixPass helperGone.id (.checksumTwice false)) helperGone) = false := by decide +kernel
  rw [ht, nodeErrAfter_next, herr] at hnone
  exact absurd hnone (by decide)

end Sys2Proof.Machine
end

section
/-! PROOFS. Torus traffic (O54). -/
namespace Sys2Proof.Machine
open Sys2Proof

/-! ## Flits placed and injected (R339) -/

/-- A flit that acknowledges a write without an error. -/
def plainAck (f : Flit) : Prop := f.cls = .ack ∧ f.op = .store ∧ f.failed = 0

/-- Memory and the numbers in sequence are as given, and the module has nothing to inject but such acknowledgements. -/
structure State.AcksOnly (s : State) (m : List Host.Cell) (q : List (Nat × Nat × Nat)) : Prop where
  mem : s.mem = m
  seqs : s.torus.nextSeq = q
  inject : ∀ p ∈ s.torus.inject, plainAck p.2

theorem foldl_option_mem {α : Type} (f : Option α → α → Option α) (hf : ∀ r p x, f r p = some x → x = p ∨ r = some x) (l : List α) (r : Option α) {x : α}
    (h : l.foldl f r = some x) : x ∈ l ∨ r = some x := by
  induction l generalizing r with
  | nil => exact .inr h
  | cons y l ih =>
    rcases ih _ h with h | h
    · exact .inl (List.mem_cons_of_mem _ h)
    · rcases hf _ _ _ h with rfl | h
      · exact .inl (List.mem_cons_self ..)
      · exact .inr h

theorem nextInjector_mem {turn : Nat} {l : List (Nat × Flit)} {p : Nat × Flit} (h : nextInjector turn l = some p) : p ∈ l := by
  have low : ∀ m : List (Nat × Flit), m.foldl (fun r p => match r with | some q => if p.1 < q.1 then some p else r | none => some p) none = some p → p ∈ m := by
    intro m hm
    refine (foldl_option_mem _ (fun r p x hx => ?_) m none hm).resolve_right (by simp)
    split at hx
    · split at hx
      · exact .inl (Option.some.inj hx).symm
      · exact .inr hx
    · exact .inl (Option.some.inj hx).symm
  unfold nextInjector at h
  dsimp only at h
  split at h
  next q hq => exact (List.mem_filter.1 (low _ (hq.trans h))).1
  · exact low _ h

theorem queueHeads_mem {l : List (Nat × Flit)} {p : Nat × Flit} (h : p ∈ queueHeads l) : p ∈ l := by
  have key : ∀ (l r : List (Nat × Flit)), p ∈ l.foldl (fun r p => if r.any fun q => q.1 == p.1 then r else r ++ [p]) r → p ∈ l ∨ p ∈ r := by
    intro l
    induction l with
    | nil => exact fun r h => .inr h
    | cons y l ih =>
      intro r h
      rcases ih _ h with h | h
      · exact .inl (List.mem_cons_of_mem _ h)
      · dsimp only at h
        split at h
        · exact .inr h
        · rcases List.mem_append.1 h with h | h
          · exact .inr h
          · exact .inl (List.mem_cons.2 (.inl (List.mem_singleton.1 h)))
  exact (key l [] h).resolve_right (by simp)

section
variable {s : State} {m : List Host.Cell} {q : List (Nat × Nat × Nat)} {f : Flit}

theorem State.AcksOnly.sendAnswer (h : s.AcksOnly m q) (hf : plainAck f) : (s.sendAnswer f).AcksOnly m q where
  mem := h.mem
  seqs := h.seqs
  inject p hp := by
    rcases List.mem_append.1 hp with hp | hp
    · exact h.inject p hp
    · rw [List.mem_singleton.1 hp]; exact hf

theorem State.AcksOnly.takeAck (h : s.AcksOnly m q) (hf : plainAck f) : (s.eject f).AcksOnly m q := by
  obtain ⟨hc, ho, h0⟩ := hf
  have he : s.eject f = { s with torus := { s.torus with owedAcks := dropOwed s.torus.owedAcks f.core f.ctx (s.peerIndex f.vif f.src) f.ticket } } := by
    unfold State.eject
    rw [hc]
    dsimp only
    unfold State.takeAck
    rw [ho]
    dsimp only
    rw [if_pos (.inl h0)]
  rw [he]
  exact ⟨h.mem, h.seqs, h.inject⟩

theorem State.AcksOnly.placeOne (h : s.AcksOnly m q) (hf : plainAck f) (x : Hop) : (s.placeOne x f).1.AcksOnly m q := by
  have hm : ¬ (f.op = .mcast ∧ f.cls = .p) := fun k => by rw [hf.2.1] at k; cases k.1
  unfold State.placeOne
  dsimp only
  rw [if_neg hm, if_neg hm]
  split
  · exact h
  · split
    · exact h.takeAck hf
    · split
      · exact h
      · unfold State.deflect
        split
        · exact h
        · exact h.sendAnswer hf

theorem mem_of_mem_dropAt {α : Type} {l : List α} {i : Nat} {x : α} (h : x ∈ dropAt l i) : x ∈ l := by
  rcases List.mem_append.1 h with h | h
  · exact List.mem_of_mem_take h
  · exact List.mem_of_mem_drop h

theorem State.AcksOnly.injectFlits (n : Nat) : ∀ {s : State} (_ : s.AcksOnly m q) (x : Hop), (s.injectFlits x n).1.AcksOnly m q := by
  induction n with
  | zero => exact fun h x => h
  | succ n ih =>
    intro s h x
    unfold State.injectFlits
    split
    · exact h
    next p hp =>
      have hack := h.inject p (queueHeads_mem (List.mem_filter.1 (nextInjector_mem hp)).1)
      refine ih (State.AcksOnly.placeOne ?_ hack x) _
      exact ⟨h.mem, h.seqs, fun r hr => h.inject r (mem_of_mem_dropAt hr)⟩

/-- Nothing is injected from empty queues. -/
theorem State.injectFlits_nil (h : s.torus.inject = []) (x : Hop) (n : Nat) : s.injectFlits x n = (s, x) := by
  cases n with
  | zero => rfl
  | succ n =>
    unfold State.injectFlits
    rw [h]
    rfl

end

/-! ## One hop-time (R339, R341) -/

theorem onePerPort_one {port : Nat} (f : Flit) (h : port % 6 ∈ livePorts) : onePerPort [(port, f)] = [(port % 6, f)] := by
  have : livePorts.contains (port % 6) = true := by simpa using h
  unfold onePerPort
  simp only [List.foldl_cons, List.foldl_nil, List.any_nil, Bool.false_or, this]
  rfl

theorem onePerPort_dead {port : Nat} (f : Flit) (h : port % 6 ∉ livePorts) : onePerPort [(port, f)] = [] := by
  have : livePorts.contains (port % 6) = false := by simpa using h
  unfold onePerPort
  simp only [List.foldl_cons, List.foldl_nil, List.any_nil, Bool.false_or, this]
  rfl

/-- The flits that leave in a hop-time. -/
def State.leaves (s : State) (l : List (Nat × Flit)) : State := { s with torus := { s.torus with leaving := l } }

/-- A flit arriving by a port in use is placed; then the queues inject. -/
theorem torusHop_one {s : State} {f : Flit} {port : Nat} (h : port % 6 ∈ livePorts) :
    exec (.torusHop [(port, f)]) s =
      let r := s.placeOne ⟨livePorts, 2, []⟩ (agedFlit f)
      let q := r.1.injectFlits r.2 8
      Host.Outcome.next (q.1.leaves q.2.out) := by
  show execTorusHop _ s = _
  unfold execTorusHop
  rw [onePerPort_one f h]
  rfl

theorem State.holds_leaving (s : State) (l : List (Nat × Flit)) : s.Holds (s.leaves l) :=
  ⟨fun _ => rfl, rfl, rfl, rfl, fun _ => rfl⟩

section
variable {s : State} {f : Flit}

theorem State.placeOne_away (ho : f.op ≠ .mcast) (hd : f.dest ≠ Config.torusSelf) (hp : f.dest ∉ s.torus.downPeers) (x : Hop) :
    s.placeOne x f = match (productive f.dest).find? x.free.contains with
      | some p => (s, x.leave p f)
      | none => s.deflect x f := by
  have hm : ¬ (f.op = .mcast ∧ f.cls = .p) := fun k => ho k.1
  unfold State.placeOne
  dsimp only
  rw [if_neg hm, if_neg hm]
  exact (if_neg (by simpa using hp)).trans (if_neg fun k => hd k.1)

theorem State.placeOne_here (ho : f.op ≠ .mcast) (hd : f.dest = Config.torusSelf) (hp : f.dest ∉ s.torus.downPeers) (ht : s.takes f = true) (x : Hop) (hx : 0 < x.places) :
    s.placeOne x f = (s.eject f, { x with places := x.places - 1 }) := by
  have hm : ¬ (f.op = .mcast ∧ f.cls = .p) := fun k => ho k.1
  unfold State.placeOne
  dsimp only
  rw [if_neg hm, if_neg hm, if_neg (by simpa using hp), if_pos ⟨hd, hx, ht⟩]

end

theorem seqOf_seqSet (l : List (Nat × Nat × Nat)) (a b n : Nat) : seqOf (seqSet l a b n) a b = n := by
  have h : (l.filter fun p => !(p.1 == a && p.2.1 == b)).find? (fun p => p.1 == a && p.2.1 == b) = none := by
    rw [List.find?_eq_none]
    intro p hp
    have := (List.mem_filter.1 hp).2
    exact Bool.not_eq_true _ ▸ Bool.not_eq_true' _ ▸ this
  unfold seqOf seqSet
  rw [List.find?_append, h]
  simp

/-- What the stamps and the order of the words written leave. -/
theorem State.foldl_stamps (ws : List Nat) (s : State) :
    let t := ws.foldl (fun t w => (t.setStamp w [] []).bumpOrder w) s
    t.mem = s.mem ∧ t.torus = s.torus := by
  induction ws generalizing s with
  | nil => exact ⟨rfl, rfl⟩
  | cons w ws ih =>
    obtain ⟨h1, h2⟩ := ih ((s.setStamp w [] []).bumpOrder w)
    exact ⟨h1, h2⟩

theorem State.peerWrite_store (s : State) (key size val : Nat) :
    (s.peerWrite false key size val).mem = Memory.putN s.mem key size val ∧ (s.peerWrite false key size val).torus = s.torus :=
  State.foldl_stamps _ _

section
variable {s : State} {f : Flit}

/-- The FST that is next in sequence is applied at once. -/
theorem State.eject_store (hc : f.cls = .p) (ho : f.op = .store) (hr : s.torus.reorder = []) (hn : f.ticket = seqOf s.torus.nextSeq f.src (sourceNo f))
    (hw : s.inWindow f 8 = true) :
    ∃ u : State, s.eject f = (u.peerWrite false (exportKey f f.offset) 8 f.data.toNat).sendAnswer (answerFlit f .store 0 0)
      ∧ u.mem = s.mem ∧ u.torus.inject = s.torus.inject ∧ u.torus.nextSeq = seqSet s.torus.nextSeq f.src (sourceNo f) (f.ticket + 1) := by
  have hnum : flitNumber f = f.ticket := if_neg (by rw [ho]; decide)
  refine ⟨{ s with torus := { s.torus with reorder := [f].filter (fun x => x != f), nextSeq := seqSet s.torus.nextSeq f.src (sourceNo f) (f.ticket + 1) } }, ?_, rfl, rfl, rfl⟩
  unfold State.eject
  rw [hc]
  dsimp only
  rw [if_neg (by rw [hnum, hn]; exact Nat.lt_irrefl _), hr]
  show State.applyInOrder _ f.src (sourceNo f) 1 = _
  unfold State.applyInOrder
  have hf : ([] ++ [f]).find? (fun g => g.src == f.src && sourceNo g == sourceNo f && flitNumber g == seqOf s.torus.nextSeq f.src (sourceNo f)) = some f := by
    simp [hnum, hn]
  dsimp only
  rw [hf]
  dsimp only
  unfold State.applyInOrder State.applyFlit
  rw [hnum, ho]
  dsimp only
  rw [if_neg ?_]
  · rfl
  · intro h
    rw [Bool.not_eq_true'] at h
    have h' : s.inWindow f 8 = false := h
    rw [hw] at h'
    cases h'

end

theorem torusHops : Claims.TorusHops := by
  intro s f port hinj
  refine ⟨?_, ?_, fun ho hd hp => ?_, fun hc ho hd hp hr hn hw => ?_⟩
  · have h : exec (.torusHop []) s = .next (s.leaves []) := by
      have hrun : exec (.torusHop []) s = .next ((s.injectFlits ⟨livePorts, 2, []⟩ 8).1.leaves (s.injectFlits ⟨livePorts, 2, []⟩ 8).2.out) := rfl
      rw [hrun, State.injectFlits_nil hinj]
    exact ⟨_, h, rfl, s.holds_leaving []⟩
  · by_cases h : port % 6 ∈ livePorts
    · exact .inl h
    · right
      show execTorusHop _ s = execTorusHop _ s
      unfold execTorusHop
      rw [onePerPort_dead f h]
      rfl
  · by_cases h : port % 6 ∈ livePorts
    · right
      rw [torusHop_one h]
      dsimp only
      rw [State.placeOne_away (f := agedFlit f) ho hd hp]
      dsimp only
      rw [show (agedFlit f).dest = f.dest from rfl]
      cases hprod : (productive f.dest).find? livePorts.contains with
      | some p =>
        dsimp only
        rw [State.injectFlits_nil hinj]
        exact ⟨_, rfl, s.holds_leaving _, rfl⟩
      | none =>
        obtain ⟨p, l, hl⟩ := List.exists_cons_of_ne_nil (List.ne_nil_of_mem h)
        rw [show s.deflect ⟨livePorts, 2, []⟩ (agedFlit f) = (s, Hop.leave ⟨livePorts, 2, []⟩ p (agedFlit f)) by unfold State.deflect; rw [hl]]
        dsimp only
        rw [State.injectFlits_nil hinj, hl]
        exact ⟨_, rfl, s.holds_leaving _, rfl⟩
    · exact .inl h
  · by_cases h : port % 6 ∈ livePorts
    · right
      obtain ⟨u, he, hmem, huinj, hseq⟩ := State.eject_store (s := s) (f := agedFlit f) hc ho hr hn hw
      have htakes : s.takes (agedFlit f) = true := by
        have hnum : flitNumber (agedFlit f) = f.ticket := if_neg (by rw [show (agedFlit f).op = .store from ho]; decide)
        unfold State.takes
        rw [show (agedFlit f).cls = .p from hc, show (agedFlit f).op = .store from ho, hnum]
        have hle : decide (f.ticket ≤ seqOf s.torus.nextSeq f.src (sourceNo f)) = true := decide_eq_true (Nat.le_of_eq hn)
        exact Bool.or_eq_true_iff.2 (.inl hle)
      obtain ⟨hwm, hwt⟩ := u.peerWrite_store (exportKey f f.offset) 8 f.data.toNat
      have hacks : (s.eject (agedFlit f)).AcksOnly (Memory.putN s.mem (exportKey f f.offset) 8 f.data.toNat) (seqSet s.torus.nextSeq f.src (sourceNo f) (f.ticket + 1)) := by
        rw [he]
        refine State.AcksOnly.sendAnswer ⟨by rw [← hmem]; exact hwm, ?_, ?_⟩ ⟨rfl, rfl, rfl⟩
        · exact (congrArg Torus.nextSeq hwt).trans hseq
        · intro p hp
          rw [show (u.peerWrite false (exportKey (agedFlit f) (agedFlit f).offset) 8 (agedFlit f).data.toNat).torus = u.torus from hwt, huinj, hinj] at hp
          cases hp
      have hend := hacks.injectFlits 8 ⟨livePorts, 1, []⟩
      rw [torusHop_one h]
      dsimp only
      rw [State.placeOne_here (f := agedFlit f) (by rw [show (agedFlit f).op = .store from ho]; decide) hd hp htakes _ (by decide)]
      obtain ⟨hget, hout⟩ := Memory.putN_spec s.mem (exportKey f f.offset) 8 f.data.toNat
      refine ⟨_, rfl, ?_, ?_, fun a ha => ?_⟩
      · exact (congrArg (fun m => Memory.getN m _ 8) hend.mem).trans (hget.trans (Nat.mod_eq_of_lt f.data.isLt))
      · exact (congrArg (fun q => seqOf q f.src (sourceNo f)) hend.seqs).trans (seqOf_seqSet ..)
      · exact (congrArg (fun m => Memory.get m a) hend.mem).trans (hout a ha)
    · exact .inl h

/-! ## Errors posted to other contexts -/

/-- The context in view, the torus and memory are as before. -/
structure State.Aside (s u : State) : Prop where
  cx : u.cx = s.cx
  id : u.id = s.id
  k : u.core.k = s.core.k
  torus : u.torus = s.torus
  mem : u.mem = s.mem

theorem State.Aside.refl (s : State) : s.Aside s := ⟨rfl, rfl, rfl, rfl, rfl⟩
theorem State.Aside.trans {s t u : State} (h : s.Aside t) (h' : t.Aside u) : s.Aside u :=
  ⟨h'.cx.trans h.cx, h'.id.trans h.id, h'.k.trans h.k, h'.torus.trans h.torus, h'.mem.trans h.mem⟩
theorem State.Aside.still {s u : State} (h : s.Aside u) : s.Still u := .of_cx_eq h.cx h.mem

theorem State.aside_foldl {α : Type} {f : State → α → State} (l : List α) (s : State) (hf : ∀ u, s.Aside u → ∀ x, u.Aside (f u x)) : s.Aside (l.foldl f s) := by
  have key : ∀ u, s.Aside u → s.Aside (l.foldl f u) := by
    induction l with
    | nil => exact fun u h => h
    | cons x l ih => exact fun u h => ih _ (h.trans (hf u h x))
  exact key s (.refl s)

theorem State.OnlyCores.torus_eq {s t : State} (h : s.OnlyCores t) : t.torus = s.torus := by rw [h]

section
variable {s : State} {id k : Nat}

theorem State.aside_modCx (h : ¬ (s.id = id ∧ s.core.k = k)) (f : Context → Context) : s.Aside (s.modCx id k f) where
  cx := by rw [State.cx_modCx, if_neg h]
  id := (s.modCx_onlyCores id k f).id_eq
  k := by rw [State.core_modCx]
  torus := (s.modCx_onlyCores id k f).torus_eq
  mem := (s.modCx_onlyCores id k f).mem_eq

theorem State.torus_postWith (code sub source : Nat) (v : Word) (n : Option Nat) (u p a : Nat) :
    (s.postWith id k code sub source v n u p a).torus = s.torus ∧ (s.postWith id k code sub source v n u p a).mem = s.mem := by
  unfold State.postWith
  dsimp only
  generalize hlog : s.logErr _ _ _ _ _ _ _ _ _ = s1
  have h1 : s1.torus = s.torus ∧ s1.mem = s.mem := by
    obtain ⟨l, m, k, h⟩ := s.logErr_eq _ _ _ _ _ _ _ _ _
    rw [← hlog, h]
    exact ⟨rfl, rfl⟩
  split
  · rw [(State.modCx_onlyCores ..).torus_eq, (State.modCx_onlyCores ..).mem_eq]
    split
    · rw [(State.modCore_onlyCores ..).torus_eq, (State.modCore_onlyCores ..).mem_eq]
      exact h1
    · exact h1
  · exact h1

theorem State.aside_postWith (h : ¬ (s.id = id ∧ s.core.k = k)) (code sub source : Nat) (v : Word) (n : Option Nat) (u p a : Nat) :
    s.Aside (s.postWith id k code sub source v n u p a) := by
  obtain ⟨ht, hm⟩ := State.torus_postWith (s := s) (id := id) (k := k) code sub source v n u p a
  cases hl : (s.cxAt id k).st.live with
  | true =>
    obtain ⟨t, hx, hcx, hid, hk⟩ := State.postWith_live (s := s) (code := code) (sub := sub) (source := source) (v := v) (n := n) (u := u) (p := p) (a := a) hl
    rw [hx] at ht hm ⊢
    have hside := t.aside_modCx (by rwa [hid, hk]) (fun x => x.postAt s.cy code sub source v)
    exact ⟨hside.cx.trans hcx, hside.id.trans hid, hside.k.trans hk, ht, hm⟩
  | false =>
    have hx : s.postWith id k code sub source v n u p a = s.logErr (errClass code sub) u code sub p a (s.vifOf id) k _ := if_neg (by rw [hl]; decide)
    obtain ⟨h1, h2, h3⟩ := s.logErr_view (errClass code sub) u code sub p a (s.vifOf id) k
      (match (s.coreAt id).node with | some n => (s.nodeAddr id n.1).toNat | none => 0)
    exact ⟨State.postWith_dead hl, hx ▸ h2, hx ▸ h3, ht, hm⟩

/-- Tickets that time out are those of other contexts when the one in view has none. -/
theorem State.aside_failTickets (ht : s.cx.tickets = []) (peer : Nat) : s.Aside (s.failTickets id k peer) := by
  by_cases h : s.id = id ∧ s.core.k = k
  · obtain ⟨rfl, rfl⟩ := h
    unfold State.failTickets
    dsimp only
    rw [State.cxAt_view, ht]
    exact .refl s
  · unfold State.failTickets
    dsimp only
    refine State.aside_foldl _ s fun u hu x => ?_
    have h' : ¬ (u.id = id ∧ u.core.k = k) := by rwa [hu.id, hu.k]
    have hmod := u.aside_modCx h' fun c => { c with tickets := c.tickets.map fun y => if y.num = x.num then { y with answer := some 0 } else y }
    exact hmod.trans (State.aside_postWith (by rwa [hmod.id, hmod.k]) ..)

end

/-! ## Acknowledgements and time limits (R342–R344) -/

section
variable {s : State} {e : McastEntry} {w : Word}

/-- The bitmap reaches the ticket of the context in view. -/
theorem State.closeMcast_spec (hid : e.core = s.id) (hk : e.ctx = s.core.k) :
    let t := s.closeMcast e w
    s.Still t ∧ t.cx.tickets = (s.cx.tickets.map fun k => if k.num == e.ticket && k.multi && k.answer.isNone then { k with answer := some w } else k)
      ∧ t.torus.mcast = s.torus.mcast.filter (fun x => x != e) ∧ t.id = s.id ∧ t.core.k = s.core.k := by
  unfold State.closeMcast
  rw [hid, hk, State.modCx_view]
  exact ⟨⟨rfl, rfl, rfl, rfl, rfl, fun _ => rfl⟩, rfl, rfl, rfl, rfl⟩

end

/-- A context counts a failed peer. -/
def Context.countPeers (l : List Nat) (c : Context) : Context := { c with failedPeers := c.failedPeers ++ l }

theorem Context.countPeers_calm (l : List Nat) : Context.Calm (Context.countPeers l) := ⟨fun _ => rfl, fun _ => rfl, fun _ => rfl, fun _ => rfl, fun _ => rfl⟩

/-- No operation is owed. -/
def State.owedNone (s : State) : State := { s with torus := { s.torus with owedAcks := [] } }

theorem Context.postAt_tickets (c : Context) (now code sub source : Nat) (v : Word) : (c.postAt now code sub source v).tickets = c.tickets := by
  unfold Context.postAt Context.post
  dsimp only
  split <;> rfl

theorem Context.postAt_failedPeers (c : Context) (now code sub source : Nat) (v : Word) : (c.postAt now code sub source v).failedPeers = c.failedPeers := by
  unfold Context.postAt Context.post
  dsimp only
  split <;> rfl

theorem acknowledgementsAndTimeLimits : Claims.AcknowledgementsAndTimeLimits := by
  intro s n peer e k
  refine ⟨fun he ho => ?_, fun he ho hs => ?_, fun he ho hs hid hk htick hnum hm ha => ?_, fun hone hs hid hk htick hnum hm ha ht => ?_,
    fun a hk11 howed hid hk hpeer hm htick ht hl hpend => ?_, ?_, ?_⟩
  · show execMulticastAck n s = _
    unfold execMulticastAck
    rw [he]
    exact if_pos ho
  · have hstep : exec (.multicastAck n) s = .next (({ s with torus := { s.torus with mcast := dropAt s.torus.mcast n } } : State).sendAnswer
        ⟨e.src, Config.torusSelf, e.core, e.ctx, 0, .ack, .mcast, e.ticket, 0, 0, e.failed, 0, e.members, [], e.origin⟩) := by
      show execMulticastAck n s = _
      unfold execMulticastAck
      rw [he]
      dsimp only
      rw [if_neg (fun k => k ho), if_neg hs]
    exact ⟨_, _, hstep, rfl, rfl, rfl, rfl, rfl, ⟨fun _ => rfl, rfl, rfl, rfl, fun _ => rfl⟩⟩
  · obtain ⟨hstill, hticks, -⟩ := State.closeMcast_spec (w := e.failed) hid hk
    refine ⟨s.closeMcast e e.failed, ?_, ?_, hstill.holds⟩
    · show execMulticastAck n s = _
      unfold execMulticastAck
      rw [he]
      dsimp only
      rw [if_neg (fun k => k ho), if_pos hs]
    · rw [hticks, htick]
      simp [hnum, hm, ha]
  · obtain ⟨hstill, hticks, hmcast, hid', hk'⟩ := State.closeMcast_spec (s := s) (w := e.failed ||| e.owed) hid hk
    have hfind : s.torus.mcast.find? (fun x => x.src == Config.torusSelf && x.core == s.id && x.ctx == s.core.k && x.ticket == e.ticket) = some e := by
      rw [hone]
      simp [hs, hid, hk]
    have hfk : (s.cxAt s.id s.core.k).tickets.find? (fun x => x.num == e.ticket && x.multi) = some k := by
      rw [State.cxAt_view, htick]
      simp [hnum, hm]
    have hstep : exec (.multicastTimeout s.id s.core.k e.ticket) s = .next ((s.closeMcast e (e.failed ||| e.owed)).modCx s.id s.core.k
        (Context.countPeers ((owedMembers e.owed).map fun n => (s.mcastPeers s.id s.core.k e.ticket).getD n 0))) := by
      show execMulticastTimeout _ _ _ s = _
      unfold execMulticastTimeout
      rw [hfind, hfk]
      exact if_neg (Nat.not_lt.2 ht)
    refine ⟨_, hstep, ?_, ?_, (hstill.trans (State.still_modCx _ _ _ (Context.countPeers_calm _))).holds⟩
    · rw [State.cx_modCx, if_pos ⟨hid', hk'⟩]
      show (s.closeMcast e _).cx.tickets = _
      rw [hticks, htick]
      simp [hnum, hm, ha]
    · rw [(State.modCx_onlyCores ..).torus_eq, hmcast, hone]
      simp
  · have hexp : s.expired a = true := by
      unfold State.expired
      rw [hid, hm]
      exact Bool.and_eq_true_iff.2 ⟨decide_eq_true ht, rfl⟩
    have hdue : s.torus.owedAcks.filter (fun a => a.peer == peer && s.expired a) = [a] := by
      rw [howed]
      simp [hpeer, hexp]
    have hrest : s.torus.owedAcks.filter (fun x => !([a] : List Owed).contains x) = [] := by
      rw [howed]
      simp
    let u := (s.owedNone.modCx s.id s.core.k (Context.countPeers [peer])).post s.id s.core.k 0x11 1 3 a.va (some a.at_)
    have hu : s.owedNone.peerFailed a = u := by
      unfold State.peerFailed
      rw [if_neg (by omega), hid, hk, hpeer]
      rfl
    have hstep : exec (.peerTimeout peer) s = .next (u.sites.foldl (fun u id => (List.range 11).foldl (fun u k => u.failTickets id k peer) u) u) := by
      show execPeerTimeout peer s = _
      unfold execPeerTimeout
      rw [hdue]
      dsimp only
      rw [hrest]
      show Host.Outcome.next ((s.owedNone.peerFailed a).sites.foldl _ (s.owedNone.peerFailed a)) = _
      rw [hu]
    have hview : s.owedNone.modCx s.id s.core.k (Context.countPeers [peer]) = s.owedNone.setCx (s.cx.countPeers [peer]) := s.owedNone.modCx_view _
    have hcx : u.cx = (s.cx.countPeers [peer]).postAt s.cy 0x11 1 3 a.va := by
      show (State.post _ _ _ _ _ _ _ _).cx = _
      rw [hview]
      exact State.postWith_cx (s := s.owedNone.setCx (s.cx.countPeers [peer])) hl
    have hu' : s.Still u ∧ u.torus = s.owedNone.torus := by
      show s.Still (State.post _ _ _ _ _ _ _ _) ∧ (State.post _ _ _ _ _ _ _ _).torus = _
      rw [hview]
      refine ⟨State.Still.trans ?_ (State.posts_postWith ..).still, (State.torus_postWith ..).1⟩
      exact ⟨rfl, rfl, rfl, rfl, rfl, fun _ => rfl⟩
    have htu : u.cx.tickets = [] := by rw [hcx]; exact (Context.postAt_tickets ..).trans htick
    have hside : u.Aside (u.sites.foldl (fun u id => (List.range 11).foldl (fun u k => u.failTickets id k peer) u) u) :=
      State.aside_foldl _ u fun v hv id => State.aside_foldl _ v fun x hx k => State.aside_failTickets (by rw [hx.cx, hv.cx, htu]) peer
    obtain ⟨hpend', htval, hsrc⟩ := Context.postAt_first (c := s.cx.countPeers [peer]) hpend s.cy 0x11 1 3 a.va
    obtain ⟨-, hcode, hsub⟩ := errpend_fields 0x11 1
    refine ⟨_, hstep, ?_, ?_, ?_, ?_, ?_, ?_, (hu'.1.trans hside.still).holds⟩
    · rw [hside.torus, hu'.2]; rfl
    · rw [hside.cx, hcx, Context.postAt_failedPeers]; rfl
    · rw [hside.cx, hcx, hpend']; exact hcode
    · rw [hside.cx, hcx, hpend']; exact hsub
    · rw [hside.cx, hcx, hsrc]
    · rw [hside.cx, hcx, htval]
  · refine ⟨_, rfl, ?_, ⟨fun _ => rfl, rfl, rfl, rfl, fun _ => rfl⟩⟩
    dsimp only
    split
    next h => simpa using h
    · simp
  · refine ⟨_, rfl, ?_, ⟨fun _ => rfl, rfl, rfl, rfl, fun _ => rfl⟩⟩
    simp

/-- Settles O54: a hop-time flit by flit; the time limits, as the context in view is the only one owed an answer. -/
theorem torusTraffic : Obligations.TorusTraffic := ⟨torusHops, acknowledgementsAndTimeLimits⟩

end Sys2Proof.Machine
end

section
/-! PROOFS. The mailbox, the configuration of interfaces and host accesses (O53). -/
namespace Sys2Proof.Machine
open Sys2Proof

/-! ## Commands of the mailbox (R364–R366) -/

theorem State.reply_answered (s : State) (a b c : Nat) : answered (s.reply a b c) a b c := ⟨rfl, rfl, rfl, rfl⟩

theorem State.still_modMail (s : State) (f : Mailbox → Mailbox) : s.Still (s.modMail f) := s.still_modHub _
theorem State.still_reply (s : State) (a b c : Nat) : s.Still (s.reply a b c) := s.still_modMail _
theorem State.still_putQueue (s : State) (u : Nat) (q : UserQueue) : s.Still (s.putQueue u q) := s.still_modHub _

theorem State.holds_reply {s t : State} (h : s.Still t) (a b c : Nat) : s.Holds (t.reply a b c) := (h.trans (t.still_reply a b c)).holds

theorem State.queue_putQueue (s : State) (u : Nat) (q : UserQueue) : (s.putQueue u q).queue? u = some q := Table.find_set_self _ u q

/-- The block of a RESYNC: words written one after another. -/
def putWords (m : List Host.Cell) (base : Nat) (l : List Nat) (n : Nat) : List Host.Cell :=
  (List.range n).foldl (fun m j => Memory.putN m (base + 8 * j) 8 (l.getD j 0 % 2 ^ 64)) m

theorem putWords_succ (m : List Host.Cell) (base : Nat) (l : List Nat) (n : Nat) :
    putWords m base l (n + 1) = Memory.putN (putWords m base l n) (base + 8 * n) 8 (l.getD n 0 % 2 ^ 64) := by
  unfold putWords
  rw [List.range_succ, List.foldl_append]
  rfl

theorem putWords_spec (m : List Host.Cell) (base : Nat) (l : List Nat) (n : Nat) :
    (∀ j, j < n → Memory.getN (putWords m base l n) (base + 8 * j) 8 = l.getD j 0 % 2 ^ 64)
      ∧ ∀ a, a < base ∨ base + 8 * n ≤ a → Memory.get (putWords m base l n) a = Memory.get m a := by
  induction n with
  | zero => exact ⟨fun j hj => absurd hj (Nat.not_lt_zero j), fun _ _ => rfl⟩
  | succ n ih =>
    obtain ⟨hin, hout⟩ := ih
    rw [putWords_succ]
    obtain ⟨hget, hrest⟩ := Memory.putN_spec (putWords m base l n) (base + 8 * n) 8 (l.getD n 0 % 2 ^ 64)
    refine ⟨fun j hj => ?_, fun a ha => ?_⟩
    · rcases Nat.lt_succ_iff_lt_or_eq.1 hj with hj | rfl
      · rw [Memory.getN_putN_disjoint _ _ _ _ _ _ (by omega), hin j hj]
      · rw [hget]
        exact Nat.mod_eq_of_lt (Nat.mod_lt _ (by decide))
    · rw [hrest a (by omega), hout a (by omega)]

/-- The command that GO stands for runs. -/
theorem not_asks {s : State} {op : Nat} {b : Option Nat} (h : s.asks op b = true) : ¬ (!s.asks op b) = true := by rw [h]; decide

/-- A queue's block is refused when one of the five conditions it has to meet fails. -/
theorem refusesQueue_iff {ring size asid n : Nat} {p : Prop} :
    (ring % 4096 ≠ 0 ∨ size < 4 ∨ size > 16 ∨ p ∨ n ≤ asid) ↔ ¬ (ring % 4096 = 0 ∧ 4 ≤ size ∧ size ≤ 16 ∧ ¬ p ∧ asid < n) := by
  by_cases hp : p
  · exact ⟨fun _ h => h.2.2.2.1 hp, fun _ => .inr (.inr (.inr (.inl hp)))⟩
  · simp only [hp, not_false_eq_true, true_and, false_or]
    omega

/-- The words of a summary in the host's buffer. -/
def State.buffered (s : State) (base : Nat) (l : List Nat) : State :=
  { s with fresh := s.fresh + 1, hub := { s.hub with hostMem := putWords s.hub.hostMem base l l.length } }

theorem State.still_buffered (s : State) (base : Nat) (l : List Nat) : s.Still (s.buffered base l) := .of_cx_eq rfl rfl

/-- The Header section stands first. -/
theorem State.summary_take (s : State) (c : Nat) : (s.summary c).take 2 = [32, c] := by
  unfold State.summary
  simp only [section_, List.append_assoc, List.cons_append, List.take_succ_cons, List.take_zero, List.length_cons, List.length_nil]

/-- The answer of a RESYNC whose summary fits the buffer. -/
theorem State.buffered_answers (s : State) (base : Nat) (l : List Nat) :
    let t := (s.buffered base l).reply 0 (8 * l.length) 0
    answered t 0 (8 * l.length) 0 ∧ (∀ j, j < l.length → Memory.getN t.hub.hostMem (base + 8 * j) 8 = l.getD j 0 % 2 ^ 64)
      ∧ (∀ a, a < base ∨ base + 8 * l.length ≤ a → Memory.get t.hub.hostMem a = Memory.get s.hub.hostMem a) ∧ s.Holds t := by
  obtain ⟨hin, hout⟩ := putWords_spec s.hub.hostMem base l l.length
  exact ⟨State.reply_answered .., hin, hout, State.holds_reply (s.still_buffered _ _) ..⟩

/-- RESYNC_SAMPLE once its TIME has come. -/
theorem execResyncSample_run {s : State} {c : Nat} (hc : s.hub.mailbox.sampling = some c) (ht : c ≤ s.time) :
    exec .resyncSample s = if s.hub.mailbox.arg 0x48 4 < 8 * (s.summary c).length then .next (s.reply 3 (8 * (s.summary c).length) 0)
      else .next ((s.buffered (s.hub.mailbox.arg 0x40 8) (s.summary c)).reply 0 (8 * (s.summary c).length) 0) := by
  show execResyncSample s = _
  unfold execResyncSample
  rw [hc]
  dsimp only
  rw [if_neg (Nat.not_lt.2 ht)]
  generalize s.summary c = l
  rfl

theorem mailboxCommands : Claims.MailboxCommands := by
  intro s m ring w v good
  refine ⟨fun u ha hg hu => ?_, fun ha hg => ?_, fun q ha hq hv => ⟨fun hc => ?_, fun hc => ?_⟩, fun ha hs => ⟨fun hal => ?_, fun hal => ?_⟩, fun c hc => ⟨fun ht => ?_, fun ht => ?_⟩,
    fun ha => ⟨fun hd => ?_, fun hd => ?_⟩⟩
  · obtain ⟨h1, h2, h3, h4, h5⟩ := hg
    let q : UserQueue := ⟨m.vif, ring, w % 32, w / 2 ^ 8 % 8, v.asids.getD (w / 2 ^ 16 % 16) 0, 0, 0, 0, 0, none, none, false⟩
    have hstep : exec .qcreate s = .next ((s.putQueue u q).reply 0 u 0) := by
      show execQcreate s = _
      unfold execQcreate
      rw [if_neg (not_asks ha)]
      dsimp only
      rw [if_neg (fun k => refusesQueue_iff.1 k ⟨h1, h2, h3, h4, h5⟩), hu]
    exact ⟨_, q, hstep, s.queue_putQueue u q, rfl, rfl, rfl, rfl, rfl, rfl, State.reply_answered .., State.holds_reply (s.still_putQueue u q) ..⟩
  · have hstep : exec .qcreate s = .next (s.reply 3 0 0) := by
      show execQcreate s = _
      unfold execQcreate
      rw [if_neg (not_asks ha)]
      dsimp only
      rw [if_pos (refusesQueue_iff.2 hg)]
    exact ⟨_, hstep, rfl, State.reply_answered .., State.holds_reply (.refl s) ..⟩
  · have hstep : exec .qdestroy s = .next ((s.modHub fun h =>
        { h with queues := Table.del h.queues (m.arg 0x58 2), slots := h.slots.filter fun x => x.2.queue != m.arg 0x58 2 }).reply 0 0 0) := by
      show execQdestroy s = _
      unfold execQdestroy
      rw [if_neg (not_asks ha)]
      dsimp only
      rw [show s.queue? (s.hub.mailbox.arg 0x58 2) = some q from hq]
      dsimp only
      rw [if_neg (fun k => k hv), if_neg (fun k => k hc)]
    exact ⟨_, hstep, rfl, State.reply_answered .., State.holds_reply (s.still_modHub _) ..⟩
  · have hstep : exec .qdestroy s = .next (s.reply 1 0 0) := by
      show execQdestroy s = _
      unfold execQdestroy
      rw [if_neg (not_asks ha)]
      dsimp only
      rw [show s.queue? (s.hub.mailbox.arg 0x58 2) = some q from hq]
      dsimp only
      rw [if_neg (fun k => k hv), if_pos hc]
    exact ⟨_, hstep, rfl, State.reply_answered .., State.holds_reply (.refl s) ..⟩
  · have hgo : m.go = true := by
      have h := ha
      unfold State.asks at h
      rw [Bool.and_eq_true, Bool.and_eq_true] at h
      exact h.1.1
    have hstep : exec .resync s = .next (s.modMail fun m => { m with sampling := some ((s.time + 1023) / 1024 * 1024) }) := by
      show execResync s = _
      unfold execResync
      rw [if_neg (by rw [ha, hs]; decide), if_neg (fun k => k hal)]
    exact ⟨_, (s.time + 1023) / 1024 * 1024, hstep, rfl, Nat.mul_mod_left .., by omega, by omega, hgo, (s.still_modMail _).holds⟩
  · have hstep : exec .resync s = .next (s.reply 3 0 0) := by
      show execResync s = _
      unfold execResync
      rw [if_neg (by rw [ha, hs]; decide), if_pos hal]
    exact ⟨_, hstep, State.reply_answered .., State.holds_reply (.refl s) ..⟩
  · show execResyncSample s = _
    unfold execResyncSample
    rw [hc]
    exact if_pos ht
  · have hrun := execResyncSample_run hc ht
    exact ⟨s.summary_take c, fun hn => ⟨_, hrun.trans (if_neg (Nat.not_lt.2 hn)), s.buffered_answers _ _⟩,
      fun hn => ⟨_, hrun.trans (if_pos hn), State.reply_answered .., rfl, State.holds_reply (.refl s) ..⟩⟩
  · have hstep : exec .window s = .next ((s.modHub fun h => { h with windowAt := some (m.arg 0x40 8, m.arg 0x48 2) }).reply 0 0 0) := by
      show execWindow s = _
      unfold execWindow
      rw [if_neg (not_asks ha)]
      dsimp only
      rw [if_neg (by rw [hd]; decide)]
    exact ⟨_, hstep, rfl, State.reply_answered .., State.holds_reply (s.still_modHub _) ..⟩
  · have hstep : exec .window s = .next (s.reply 2 0 4) := by
      show execWindow s = _
      unfold execWindow
      rw [if_neg (not_asks ha)]
      dsimp only
      rw [if_pos hd]
    exact ⟨_, hstep, rfl, State.reply_answered .., State.holds_reply (.refl s) ..⟩

/-! ## VIFCFG (R365, R367) -/

theorem foldl_keeps {α β : Type} (p : State → β) {f : State → α → State} (h : ∀ s x, p (f s x) = p s) (l : List α) (s : State) : p (l.foldl f s) = p s := by
  induction l generalizing s with
  | nil => rfl
  | cons x l ih => exact (ih _).trans (h s x)

theorem State.still_foldl {α : Type} {f : State → α → State} (h : ∀ (s : State) x, s.Still (f s x)) (l : List α) (s : State) : s.Still (l.foldl f s) := by
  induction l generalizing s with
  | nil => exact .refl s
  | cons x l ih => exact (h s x).trans (ih _)

theorem State.OnlyCores.asids_eq {s t : State} (h : s.OnlyCores t) : t.asids = s.asids := by rw [h]

/-- A core granted changes no interface. -/
theorem State.grantCore_vifs (s : State) (v t asid : Nat) (before : List Nat) (id : Nat) : (s.grantCore v t asid before id).vifs = s.vifs := by
  unfold State.grantCore
  dsimp only
  rw [(State.modCore_onlyCores ..).vifs_eq, (State.modAll_onlyCores ..).vifs_eq]
  split
  · rfl
  · rw [(State.modCore_onlyCores ..).vifs_eq, (State.modAll_onlyCores ..).vifs_eq]
    rfl

/-- The configuration that an accepted block becomes. -/
theorem State.configure_vif (s : State) (v : Nat) (f : Vif) :
    ∃ r, Table.find (s.configure v f).vifs v = some { f with regions := r } := by
  unfold State.configure
  dsimp only
  rw [foldl_keeps State.vifs fun s t => foldl_keeps State.vifs (fun s id => State.grantCore_vifs s ..) _ s]
  exact ⟨_, Table.find_set_self ..⟩

theorem State.still_ungrant (s : State) (v : Nat) : s.Still (s.ungrant v) := State.still_foldl (fun s _ => s.still_modCore _ _) _ s

theorem State.ungrant_vifs (s : State) (v : Nat) : (s.ungrant v).vifs = s.vifs :=
  foldl_keeps State.vifs (fun s _ => (s.modCore_onlyCores _ _).vifs_eq) _ s

theorem State.still_retireVif (s : State) (v : Nat) : s.Still (s.retireVif v) :=
  (s.still_ungrant v).trans (.of_cx_eq rfl rfl)

theorem State.retireVif_vifs (s : State) (v : Nat) : (s.retireVif v).vifs = Table.del s.vifs v := rfl

/-- The address spaces after one was raised. -/
def raisedAsids (s : State) (asid : Nat) : List (Nat × Nat × Nat) := (s.asids.filter fun a => a.1 != asid) ++ [(asid, s.rootOf asid, (s.genOf asid + 1) % 2 ^ 20)]

/-- A generation raised (R300) changes cores and the table of address spaces. -/
theorem State.raiseGen_spec (s : State) (asid : Nat) :
    s.Still (s.raiseGen asid) ∧ (s.raiseGen asid).vifs = s.vifs ∧ (s.raiseGen asid).hub = s.hub ∧ (s.raiseGen asid).asids = raisedAsids s asid := by
  refine ⟨State.Still.trans ?_ (State.still_foldl (fun s _ => s.still_modCore _ _) _ _), ?_, ?_, ?_⟩
  · exact .of_cx_eq rfl rfl
  · exact foldl_keeps State.vifs (fun s _ => (s.modCore_onlyCores _ _).vifs_eq) _ _
  · exact foldl_keeps State.hub (fun s _ => (s.modCore_onlyCores _ _).hub_eq) _ _
  · exact foldl_keeps State.asids (fun s _ => (s.modCore_onlyCores _ _).asids_eq) _ _

/-- A root of the block under a raised generation. -/
def State.setRoot (t : State) (a : Nat × Nat) : State :=
  { t.raiseGen a.1 with asids := (t.raiseGen a.1).asids.map fun x => if x.1 = a.1 then (x.1, a.2, x.2.2) else x }

theorem State.setRoots_eq (s : State) : s.setRoots = s.blkAsids.foldl State.setRoot s := rfl

theorem State.setRoot_spec (t : State) (a : Nat × Nat) : t.Still (t.setRoot a) ∧ (t.setRoot a).vifs = t.vifs ∧ (t.setRoot a).hub = t.hub := by
  obtain ⟨h1, h2, h3, -⟩ := t.raiseGen_spec a.1
  exact ⟨h1.trans (.of_cx_eq rfl rfl), h2, h3⟩

theorem State.setRoot_root (t : State) (a g : Nat) : (t.setRoot (a, g)).rootOf a = g ∧ (t.setRoot (a, g)).genOf a = (t.genOf a + 1) % 2 ^ 20 := by
  have hasids : (t.setRoot (a, g)).asids = (raisedAsids t a).map fun x => if x.1 = a then (x.1, g, x.2.2) else x :=
    congrArg (List.map _) (t.raiseGen_spec a).2.2.2
  have hfind : ((t.setRoot (a, g)).asids.find? fun x => x.1 == a) = some (a, g, (t.genOf a + 1) % 2 ^ 20) := by
    have hother : ((t.asids.filter fun x => x.1 != a).map fun x => if x.1 = a then (x.1, g, x.2.2) else x).find? (fun x => x.1 == a) = none := by
      rw [List.find?_eq_none]
      intro x hx
      obtain ⟨y, hy, rfl⟩ := List.mem_map.1 hx
      have hne : y.1 ≠ a := by simpa using (List.mem_filter.1 hy).2
      rw [if_neg hne]
      simpa using hne
    rw [hasids, raisedAsids, List.map_append, List.find?_append, hother]
    simp
  unfold State.rootOf State.genOf
  rw [hfind]
  exact ⟨rfl, rfl⟩

/-- The block's roots stand under raised generations. -/
theorem State.setRoots_spec (s : State) : s.Still s.setRoots ∧ s.setRoots.vifs = s.vifs ∧ s.setRoots.hub = s.hub :=
  ⟨State.still_foldl (fun t a => (t.setRoot_spec a).1) _ s, foldl_keeps State.vifs (fun t a => (t.setRoot_spec a).2.1) _ s,
    foldl_keeps State.hub (fun t a => (t.setRoot_spec a).2.2) _ s⟩

theorem interfaceConfiguration : Claims.InterfaceConfiguration := by
  intro s ha m there checked
  have hgo : m.go = true := by
    have h := ha
    unfold State.asks at h
    rw [Bool.and_eq_true, Bool.and_eq_true] at h
    exact h.1.1
  have hrun : exec .vifcfg s = match m.config with
      | none => .next s.acceptBlock
      | some f => .next (if f.asids.any s.genOpen then s else (s.configure m.vif f).reply 0 0 0) := if_neg (not_asks ha)
  have hnone (hc : m.config = none) : exec .vifcfg s = .next s.acceptBlock := by rw [hrun, hc]
  have hthere (h : there) : ¬ (m.arg 0x40 8 % 4096 ≠ 0 ∨ m.arg 0x48 4 < 0x16220) := by
    rintro (k | k)
    · exact k h.1
    · exact absurd h.2 (Nat.not_le.2 k)
  refine ⟨fun f hf => ⟨fun ho => ?_, fun ho => ?_⟩, fun hc h => ?_, fun hc h hd hi => ?_, fun hc h hd hi => ?_, fun hc h hd hb => ?_, fun hc h hd hb hi => ?_,
    fun hc h hd hb hi hx ht => ?_⟩
  · rw [hrun, hf]
    dsimp only
    rw [if_pos ho]
  · obtain ⟨r, hr⟩ := s.configure_vif m.vif f
    refine ⟨_, _, ?_, State.reply_answered (s.configure m.vif f) 0 0 0, hr, rfl⟩
    rw [hrun, hf]
    dsimp only
    rw [if_neg (by rw [ho]; decide)]
  · have hacc : s.acceptBlock = s.reply 3 0 0 := by
      unfold State.acceptBlock
      dsimp only
      rw [if_pos ?_]
      refine Classical.byContradiction fun hno => ?_
      simp only [not_or, Classical.not_not, Nat.not_lt] at hno
      exact h hno
    exact ⟨_, (hnone hc).trans (congrArg _ hacc), State.reply_answered .., rfl, State.holds_reply (.refl s) ..⟩
  · have hacc : s.acceptBlock = s.reply 2 0 1 := by
      unfold State.acceptBlock
      dsimp only
      rw [if_neg (hthere h), if_pos hd, if_neg (by rw [hi]; decide)]
    exact ⟨_, (hnone hc).trans (congrArg _ hacc), State.reply_answered .., rfl, State.holds_reply (.refl s) ..⟩
  · have hacc : s.acceptBlock = (s.retireVif m.vif).reply 0 0 0 := by
      unfold State.acceptBlock
      dsimp only
      rw [if_neg (hthere h), if_pos hd, if_pos hi]
    exact ⟨_, (hnone hc).trans (congrArg _ hacc), State.reply_answered .., rfl, State.holds_reply (s.still_retireVif _) ..⟩
  · have hacc : s.acceptBlock = s.reply 3 0 0 := by
      unfold State.acceptBlock
      dsimp only
      rw [if_neg (hthere h), if_neg hd, if_pos hb]
    exact ⟨_, (hnone hc).trans (congrArg _ hacc), State.reply_answered .., rfl, State.holds_reply (.refl s) ..⟩
  · have hacc : s.acceptBlock = s.reply 2 0 1 := by
      unfold State.acceptBlock
      dsimp only
      rw [if_neg (hthere h), if_neg hd, if_neg (by rw [hb]; decide), if_pos (by rw [hi]; rfl)]
    exact ⟨_, (hnone hc).trans (congrArg _ hacc), State.reply_answered .., rfl, State.holds_reply (.refl s) ..⟩
  · have hacc : s.acceptBlock = s.setRoots.modMail fun m => { m with config := some s.blkVif } := by
      unfold State.acceptBlock
      dsimp only
      rw [if_neg (hthere h), if_neg hd, if_neg (by rw [hb]; decide), if_neg (by rw [hi]; decide), if_neg (by rw [hx]; decide), if_neg (by rw [ht]; decide)]
    obtain ⟨hstill, hvifs, hhub⟩ := s.setRoots_spec
    refine ⟨_, (hnone hc).trans (congrArg _ hacc), ?_, rfl, hvifs, fun a g hag => ?_, (hstill.trans (State.still_modMail _ _)).holds⟩
    · show s.setRoots.hub.mailbox.go = true
      rw [hhub]
      exact hgo
    · have hone : s.setRoots = s.setRoot (a, g) := by rw [State.setRoots_eq, hag]; rfl
      show s.setRoots.rootOf a = g ∧ s.setRoots.genOf a = _
      rw [hone]
      exact s.setRoot_root a g

/-! ## Host accesses (R359, R360, R364) -/

/-- What the host has read stands in the hub. -/
def State.read (s : State) (v : Word) : State := s.modHub fun h => { h with hostSeen := v }

theorem State.holds_read {s t : State} (h : s.Still t) (v : Word) : s.Holds (t.read v) := (h.trans (t.still_modHub _)).holds

theorem State.read_seen (s : State) (v : Word) : (s.read v).hub.hostSeen = v := rfl
theorem State.read_log (s : State) (v : Word) (d : Nat) : logSize (s.read v) d = logSize s d := rfl

theorem State.still_logHost (s : State) (a : Nat) : s.Still (s.logHost a) := s.still_logErr ..

theorem State.logHost_size (s : State) (a : Nat) : logSize (s.logHost a) 0 = min 4096 (logSize s 0 + 1) := by
  show logSize (s.logErr 2 0 0 0 0 a 0 0 0) 0 = _
  rw [logSize, s.logErr_size 2 0 0 0 0 a 0 0 0 0 (by decide) (by decide)]
  rfl

theorem State.logHost_queues (s : State) (a : Nat) : (s.logHost a).hub.queues = s.hub.queues := by
  obtain ⟨l, m, k, h⟩ := s.logErr_eq 2 0 0 0 0 a 0 0 0
  exact (congrArg (fun t : State => t.hub.queues) h).trans rfl

/-- Marking a leaf writes its own 8 bytes only. -/
theorem State.markLeaf_mem (s : State) (leaf k a : Nat) (h : a < leaf ∨ leaf + 8 ≤ a) : Memory.get (s.markLeaf leaf k).mem a = Memory.get s.mem a :=
  Memory.get_putN_outside _ _ _ _ a h

/-- The fields of the mailbox's first word. -/
theorem mailbox_word {op vif st : Nat} {go : Bool} (h1 : op < 256) (h2 : vif < 256) (h3 : st < 256) :
    let w := word (op + vif * 2 ^ 8 + b2n go * 2 ^ 16 + st * 2 ^ 24)
    bits w 7 0 = op ∧ bits w 15 8 = vif ∧ bit w 16 = go ∧ bits w 31 24 = st := by
  intro w
  have hb : b2n go ≤ 1 := by cases go <;> decide
  have hw : w.toNat = op + vif * 2 ^ 8 + b2n go * 2 ^ 16 + st * 2 ^ 24 := by
    show (BitVec.ofNat 64 _).toNat = _
    rw [BitVec.toNat_ofNat, Nat.mod_eq_of_lt]
    omega
  refine ⟨?_, ?_, ?_, ?_⟩
  · rw [bits, hw, Nat.shiftRight_eq_div_pow]; omega
  · rw [bits, hw, Nat.shiftRight_eq_div_pow]; omega
  · rw [bit, BitVec.getLsbD, hw, Nat.testBit_eq_decide_div_mod_eq]
    cases go
    · exact decide_eq_false (by show ¬ (_ + 0 * 2 ^ 16 + _) / 2 ^ 16 % 2 = 1; omega)
    · exact decide_eq_true (by show (_ + 1 * 2 ^ 16 + _) / 2 ^ 16 % 2 = 1; omega)
  · rw [bits, hw, Nat.shiftRight_eq_div_pow]; omega

section
variable {s : State} {v : Word}

theorem not_linkUp (h : s.linkUp = true) : ¬ (!s.linkUp) = true := by rw [h]; decide

theorem execHostWrite_mgmt (h : s.linkUp = true) (off : Nat) : exec (.hostWrite (.mgmt off) v) s = .next (s.mailWrite off v) := if_neg (not_linkUp h)

theorem execHostWrite_mem (h : s.linkUp = true) (i va : Nat) : exec (.hostWrite (.mem i va) v) s = match s.hostWalk i va 1 with
    | .move => .next s
    | .fail => .next (s.logHost va)
    | .outside => .next (s.logHost va)
    | .ok pa leaf => .next ((s.markLeaf leaf 1).hostStore pa v) := if_neg (not_linkUp h)

/-- A word of the argument area, or word 0, is one the host may write. -/
theorem mailWrite_word {off : Nat} (h : off = 0 ∨ (0x40 ≤ off ∧ off ≤ 0xF8 ∧ off % 8 = 0)) :
    s.mailWrite off v = if s.hub.mailbox.go = true then s
      else if off = 0 then
        let t := s.modMail fun m => { m with op := bits v 7 0, vif := bits v 15 8, go := bit v 16, status := if bit v 16 then 1 else m.status }
        if bit v 16 && !knownOp (bits v 7 0) then t.reply 3 0 0 else if bit v 16 && decide (bits v 15 8 ≥ 64) then t.reply 3 0 0 else t
      else s.modMail fun m => { m with args := Memory.putN m.args off 8 v.toNat } := by
  unfold State.mailWrite
  rw [if_neg]
  rintro ⟨h0, h1⟩
  omega

theorem knownOp_eq {n : Nat} : knownOp n = true ↔ 1 ≤ n ∧ n ≤ 5 := by simp [knownOp]

end

section
variable {s : State} {v : Word}

/-- Writes of the mailbox. -/
theorem mailboxWrites (hl : s.linkUp = true) :
    (s.hub.mailbox.go = true → ∀ off, off = 0 ∨ (0x40 ≤ off ∧ off ≤ 0xF8 ∧ off % 8 = 0) → exec (.hostWrite (.mgmt off) v) s = .next s)
    ∧ (s.hub.mailbox.go = false → bit v 16 = true → 1 ≤ bits v 7 0 → bits v 7 0 ≤ 5 → bits v 15 8 < 64 →
        ∃ t, exec (.hostWrite (.mgmt 0) v) s = .next t ∧ t.hub.mailbox.go = true ∧ t.hub.mailbox.op = bits v 7 0 ∧ t.hub.mailbox.vif = bits v 15 8 ∧ s.Holds t)
    ∧ (s.hub.mailbox.go = false → bit v 16 = true → (bits v 7 0 = 0 ∨ 5 < bits v 7 0) → ∃ t, exec (.hostWrite (.mgmt 0) v) s = .next t ∧ answered t 3 0 0 ∧ s.Holds t)
    ∧ (∀ off, s.hub.mailbox.go = false → 0x40 ≤ off → off ≤ 0xF8 → off % 8 = 0 →
        ∃ t, exec (.hostWrite (.mgmt off) v) s = .next t ∧ t.hub.mailbox.arg off 8 = v.toNat ∧ s.Holds t) := by
  have hfree (hg : s.hub.mailbox.go = false) : ¬ s.hub.mailbox.go = true := by rw [hg]; decide
  refine ⟨fun hg off ho => ?_, fun hg hb h1 h5 hv => ?_, fun hg hb hop => ?_, fun off hg h1 h2 h3 => ?_⟩
  · rw [execHostWrite_mgmt hl, mailWrite_word ho, if_pos hg]
  · have hk : knownOp (bits v 7 0) = true := knownOp_eq.2 ⟨h1, h5⟩
    have hstep : s.mailWrite 0 v = s.modMail fun m => { m with op := bits v 7 0, vif := bits v 15 8, go := bit v 16, status := if bit v 16 then 1 else m.status } := by
      rw [mailWrite_word (.inl rfl), if_neg (hfree hg), if_pos rfl]
      dsimp only
      rw [if_neg (by rw [hb, hk]; decide), if_neg (by rw [hb, decide_eq_false (Nat.not_le.2 hv)]; decide)]
    exact ⟨_, (execHostWrite_mgmt hl 0).trans (congrArg _ hstep), hb, rfl, rfl, (s.still_modMail _).holds⟩
  · have hk : knownOp (bits v 7 0) = false := by
      rw [← Bool.not_eq_true, knownOp_eq]
      omega
    have hstep : s.mailWrite 0 v = (s.modMail fun m => { m with op := bits v 7 0, vif := bits v 15 8, go := bit v 16, status := if bit v 16 then 1 else m.status }).reply 3 0 0 := by
      rw [mailWrite_word (.inl rfl), if_neg (hfree hg), if_pos rfl]
      dsimp only
      rw [if_pos (by rw [hb, hk]; rfl)]
    exact ⟨_, (execHostWrite_mgmt hl 0).trans (congrArg _ hstep), State.reply_answered .., State.holds_reply (s.still_modMail _) ..⟩
  · have hstep : s.mailWrite off v = s.modMail fun m => { m with args := Memory.putN m.args off 8 v.toNat } := by
      rw [mailWrite_word (.inr ⟨h1, h2, h3⟩), if_neg (hfree hg), if_neg (by omega)]
    refine ⟨_, (execHostWrite_mgmt hl off).trans (congrArg _ hstep), ?_, (s.still_modMail _).holds⟩
    exact (Memory.getN_putN s.hub.mailbox.args off 8 v.toNat).trans (Nat.mod_eq_of_lt v.isLt)

end

theorem hostAccesses : Claims.HostAccesses := by
  intro s v hl m
  obtain ⟨hw1, hw2, hw3, hw4⟩ := mailboxWrites (v := v) hl
  have hbell {u : Nat} {q : UserQueue} (hq : s.queue? u = some q) : (if s.linkUp = true then s.queue? u else none) = some q := (if_pos hl).trans hq
  refine ⟨hw1, hw2, hw3, hw4, fun u q hq => ?_, fun i va pa leaf hw => ?_, ?_, fun u q w hq hw => ⟨?_, ?_⟩, fun i va ho => ?_, fun u q hq => ?_, fun i va pa leaf hw hp => ?_⟩
  · refine (if_neg (not_linkUp hl)).trans ((if_neg ?_).trans rfl)
    rintro (h | h)
    · rw [hq] at h; cases h
    · omega
  · refine ⟨(s.markLeaf leaf 1).hostStore pa v, ?_, ?_, fun a ha hb => ?_⟩
    · rw [execHostWrite_mem hl, hw]
    · exact (Memory.getN_putN _ pa 8 v.toNat).trans (Nat.mod_eq_of_lt v.isLt)
    · exact (Memory.get_putN_outside _ _ _ _ a ha).trans (s.markLeaf_mem leaf 1 a hb)
  · have hstep : exec (.hostRead (.mgmt 0)) s = .next (s.read (word (m.op + m.vif * 2 ^ 8 + b2n m.go * 2 ^ 16 + m.status * 2 ^ 24))) := if_neg (not_linkUp hl)
    exact ⟨_, hstep, State.holds_read (.refl s) _, fun h1 h2 h3 => mailbox_word h1 h2 h3⟩
  · have hstep : exec (.hostRead (.bell u w)) s = .next ((s.logHost (u * 4096 + 8 * w)).read 0) := by
      show execHostRead (.bell u w) s = _
      unfold execHostRead
      dsimp only
      rw [hbell hq]
      dsimp only
      rw [if_pos hw]
      rfl
    exact ⟨_, hstep, State.read_seen .., (State.read_log ..).trans (s.logHost_size _), State.holds_read (s.still_logHost _) _⟩
  · exact ⟨_, (if_neg (not_linkUp hl)).trans (if_pos (.inr hw)), s.logHost_queues _, s.logHost_size _, (s.still_logHost _).holds⟩
  · have hout (k : Nat) : s.hostWalk i va k = .outside := if_pos ho
    have hstep : exec (.hostRead (.mem i va)) s = .next ((s.logHost va).read 0) := by
      refine (if_neg (not_linkUp hl)).trans ?_
      rw [hout]
      rfl
    refine ⟨⟨_, hstep, State.read_seen .., State.holds_read (s.still_logHost _) _⟩, ⟨s.logHost va, ?_, (s.still_logHost _).holds⟩⟩
    rw [execHostWrite_mem hl, hout]
  · have hstep : exec (.hostRead (.bell u 1)) s = .next (s.read (word q.head)) := by
      show execHostRead (.bell u 1) s = _
      unfold execHostRead
      dsimp only
      rw [hbell hq]
      rfl
    exact ⟨_, hstep, State.read_seen .., State.holds_read (.refl s) _⟩
  · have hstep : exec (.hostRead (.mem i va)) s = .next ((s.markLeaf leaf 0).read (word (Memory.getN (s.markLeaf leaf 0).mem pa 8))) := by
      refine (if_neg (not_linkUp hl)).trans ?_
      rw [hw]
      refine if_neg ?_
      rw [show (s.markLeaf leaf 0).poison = s.poison from rfl]
      simpa using hp
    exact ⟨_, hstep, rfl, fun a ha => s.markLeaf_mem leaf 0 a ha⟩

/-- Settles O53: commands by the conditions they test in order, the configuration by its folds over cores, accesses by the window they name. -/
theorem hostAndMailbox : Obligations.HostAndMailbox := ⟨mailboxCommands, interfaceConfiguration, hostAccesses⟩

end Sys2Proof.Machine
end

section
/-!
PROOFS. Refutation of O52. Its statement has RESUME release every saved tray whose sites no running tray uses; the model, as R256 has it, waits while the
engines of a site still work on what another tray, itself idle, had accepted there.
-/
namespace Sys2Proof.Machine
open Sys2Proof

/-- Tray 0, saved from core 0. -/
def savedTray : Tray := { Tray.empty with st := .saved false, image := [(0, Core.reset, Context.reset 0, [])] }

/-- RESUME of tray 0 stands in the mailbox, and core 0, now of the idle tray 1, has a matrix instruction in its queue. -/
def resumeBusy : State :=
  { State.reset with
    core := { State.reset.core with tray := some (0, 1), mq := [helperProduct] }
    vifs := [(0, { Vif.empty with trays := [savedTray, Tray.empty] })]
    hub := { State.reset.hub with mailbox := { State.reset.hub.mailbox with op := 4, vif := 0, go := true, args := [(0x40, 1)] } } }

/-- The state of a tray after a step. -/
def trayAfter (v n : Nat) (r : Result) : Option TraySt :=
  match r with
  | .next t => (t.tray? v n).map (·.st)
  | _ => none

theorem trayAfter_next (v n : Nat) (t : State) : trayAfter v n (.next t) = (t.tray? v n).map (·.st) := rfl

/-- Refutes O52: RESUME waits for the engines of core 0, and tray 0 stays saved. -/
theorem not_traysAreHaltedAndResumed : ¬ Obligations.TraysAreHaltedAndResumed := by
  rintro ⟨-, h⟩
  obtain ⟨-, hresume, -⟩ := h resumeBusy
  obtain ⟨hgo, -⟩ := hresume savedTray false (by decide +kernel) (by decide +kernel)
  obtain ⟨t, y, ht, htray, hst, -⟩ := hgo rfl (by decide +kernel) (by decide +kernel) (by decide +kernel)
  have hsaved : trayAfter 0 0 (exec .resume resumeBusy) = some (.saved false) := by decide +kernel
  have hrun : (t.tray? 0 0).map (·.st) = some .running := (congrArg (Option.map (·.st)) htray).trans (congrArg some hst)
  rw [ht, trayAfter_next, hrun] at hsaved
  exact absurd hsaved (by decide)

end Sys2Proof.Machine
end

section
/-! PROOFS. Remote starts, page walks, page moves, generations and shipping (O46). -/
namespace Sys2Proof.Machine
open Sys2Proof

/-! ## What a start does to the cores (R185, R259) -/

/-- A core that differs in its grant of lanes alone, with results due to them in its parked contexts. -/
def Core.Regranted (c d : Core) : Prop :=
  d = { c with
    parked := d.parked, lanes := d.lanes, v := d.v, w := d.w, vsetl := d.vsetl, holder := d.holder, claim := d.claim,
    reserved := d.reserved, reservedAt := d.reservedAt, recallAt := d.recallAt }

theorem Core.Regranted.refl (c : Core) : c.Regranted c := rfl
theorem Core.Regranted.trans {c d e : Core} (h : c.Regranted d) (k : d.Regranted e) : c.Regranted e := by
  unfold Core.Regranted at *
  rw [k, h]

/-- Cores regranted: of their contexts only results still due differ. -/
structure State.Regrants (s t : State) : Prop where
  cores : s.OnlyCores t
  core : ∀ x, (s.coreAt x).Regranted (t.coreAt x)
  cx : ∀ x k, t.cxAt x k = { s.cxAt x k with pend := (t.cxAt x k).pend }

theorem State.Regrants.refl (s : State) : s.Regrants s := ⟨.refl s, fun _ => .refl _, fun _ _ => rfl⟩
theorem State.Regrants.trans {s t u : State} (h : s.Regrants t) (k : t.Regrants u) : s.Regrants u :=
  ⟨h.cores.trans k.cores, fun x => (h.core x).trans (k.core x), fun x j => by rw [k.cx x j, h.cx x j]⟩

theorem State.regrants_modCore (s : State) (id : Nat) {f : Core → Core} (hf : ∀ c : Core, c.Regranted (f c)) (hp : ∀ c : Core, (f c).parked = c.parked) : s.Regrants (s.modCore id f) where
  cores := s.modCore_onlyCores id f
  core x := by
    rw [State.coreAt_modCore]
    split
    next h => rw [h]; exact hf _
    · exact .refl _
  cx x k := by
    rw [State.cxAt_modCore _ _ _ _ _ (fun c => by rw [hf c]) hp]

theorem State.regrants_modCx (s : State) (id k : Nat) {f : Context → Context} (hf : ∀ c, f c = { c with pend := (f c).pend }) : s.Regrants (s.modCx id k f) where
  cores := s.modCx_onlyCores id k f
  core x := by
    have h := s.coreAt_modCx id k x f
    unfold Core.Regranted
    rw [h]
  cx x j := by
    rw [State.cxAt_modCx]
    split
    next h => rw [h.1, h.2]; exact hf _
    · rfl

/-- Freed lanes reserved for others: every core keeps its own. -/
theorem State.regrants_reserve (s : State) (id n : Nat) : s.Regrants (s.reserve id n) ∧ ∀ x, ((s.reserve id n).coreAt x).lanes = (s.coreAt x).lanes := by
  have h : ∀ (l : List Nat) (p : State × Nat), p.1.Regrants (l.foldl State.reserveFor p).1
      ∧ ∀ x, ((l.foldl State.reserveFor p).1.coreAt x).lanes = (p.1.coreAt x).lanes := by
    intro l
    induction l with
    | nil => exact fun p => ⟨.refl _, fun _ => rfl⟩
    | cons c l ih =>
      intro p
      have hone : p.1.Regrants (State.reserveFor p c).1 ∧ ∀ x, ((State.reserveFor p c).1.coreAt x).lanes = (p.1.coreAt x).lanes := by
        unfold State.reserveFor
        dsimp only
        split
        · exact ⟨.refl _, fun _ => rfl⟩
        next q _ =>
          dsimp only
          refine ⟨State.regrants_modCore _ _ ?_ ?_, fun x => ?_⟩
          · exact fun _ => rfl
          · exact fun _ => rfl
          · rw [State.coreAt_modCore]
            split
            next h => rw [h]
            · rfl
      exact ⟨hone.1.trans (ih _).1, fun x => ((ih _).2 x).trans (hone.2 x)⟩
  exact h _ (s, n)

theorem State.regrants_resizeLanes (s : State) (id n : Nat) {f : Core → Core} (hf : ∀ c : Core, c.Regranted (f c)) (hp : ∀ c : Core, (f c).parked = c.parked) :
    s.Regrants (s.resizeLanes id n f) := by
  unfold State.resizeLanes
  split
  · exact (s.regrants_modCx _ _ fun _ => rfl).trans (State.regrants_modCore _ _ hf hp)
  · exact s.regrants_modCore _ hf hp

/-- The core's grant without lanes. -/
def Core.ungranted (c : Core) : Core := { (c.cut 0) with holder := none, claim := none, reserved := 0, reservedAt := none, recallAt := none }

theorem Core.regranted_ungranted (c : Core) : c.Regranted c.ungranted := rfl

/-- The grant given back (R185). -/
theorem State.dropLanes_spec (s : State) (id : Nat) : s.Regrants (s.dropLanes id) ∧ ((s.dropLanes id).coreAt id).lanes = 0 := by
  have hz : ((s.resizeLanes id 0 Core.ungranted).coreAt id).lanes = 0 := by
    unfold State.resizeLanes
    rw [State.coreAt_modCore, if_pos rfl]
    rfl
  obtain ⟨h, hl⟩ := (s.resizeLanes id 0 Core.ungranted).regrants_reserve id ((s.coreAt id).lanes + (s.coreAt id).reserved)
  exact ⟨(s.regrants_resizeLanes id 0 Core.regranted_ungranted fun _ => rfl).trans h, (hl id).trans hz⟩

/-- A core started at a PC (R259). -/
structure State.Starts (s : State) (id : Nat) (pc : Pc) (g3 : Word) (clk : Clock) (t : State) : Prop where
  cx : t.cxAt id 0 = (s.cxAt id 0).started ((Table.find (s.coreAt id).limits 0).getD 0) pc g3 clk s.cy
  core : ∃ c, (s.coreAt id).Regranted c ∧ c.lanes = 0 ∧ t.coreAt id = c.started
  others : ∀ x, x ≠ id → (s.coreAt x).Regranted (t.coreAt x)
  mem : t.mem = s.mem
  flight : t.flight = s.flight
  hub : t.hub = s.hub
  vifs : t.vifs = s.vifs

theorem State.startCore_starts (s : State) (id : Nat) (pc : Pc) (g3 : Word) (clk : Clock) : s.Starts id pc g3 clk (s.startCore id pc g3 clk) := by
  let s1 := (s.keepClock id).leaveDomains id
  obtain ⟨hd, hl⟩ := s1.dropLanes_spec id
  let f (k : Nat) (c : Context) : Context := if k = 0 then c.started ((Table.find ((s1.dropLanes id).coreAt id).limits 0).getD 0) pc g3 clk (s1.dropLanes id).cy else Context.reset k
  have hlim : ((s1.dropLanes id).coreAt id).limits = (s.coreAt id).limits := by rw [hd.core id]; rfl
  have hcy : (s1.dropLanes id).cy = s.cy := hd.cores.cy_eq
  have hall := (s1.dropLanes id).modAll_onlyCores id f
  have honly := ((s1.dropLanes id).modAll id f).modCore_onlyCores id Core.started
  have hkeep : s1.OnlyCores (s.startCore id pc g3 clk) := (hd.cores.trans hall).trans honly
  have hcore (x : Nat) : (s.coreAt x).Regranted (((s1.dropLanes id).modAll id f).coreAt x) := by
    refine (hd.core x).trans ?_
    have h := (s1.dropLanes id).coreAt_modAll id f x
    unfold Core.Regranted
    rw [h]
  refine ⟨?_, ⟨((s1.dropLanes id).modAll id f).coreAt id, hcore id, ?_, ?_⟩, fun x hx => ?_, hkeep.mem_eq, hkeep.flight_eq, hkeep.hub_eq, hkeep.vifs_eq⟩
  · show (((s1.dropLanes id).modAll id f).modCore id Core.started).cxAt id 0 = _
    rw [State.cxAt_modCore _ id id 0 Core.started (fun _ => rfl) (fun _ => rfl), State.cxAt_modAll, if_pos ⟨rfl, by decide⟩]
    show ((s1.dropLanes id).cxAt id 0).started ((Table.find ((s1.dropLanes id).coreAt id).limits 0).getD 0) pc g3 clk (s1.dropLanes id).cy = _
    rw [hlim, hcy, hd.cx id 0]
    rfl
  · have h := (s1.dropLanes id).coreAt_modAll id f id
    rw [show (((s1.dropLanes id).modAll id f).coreAt id).lanes = ((s1.dropLanes id).coreAt id).lanes by rw [h]]
    exact hl
  · show (((s1.dropLanes id).modAll id f).modCore id Core.started).coreAt id = _
    rw [State.coreAt_modCore, if_pos rfl]
  · show (s.coreAt x).Regranted ((((s1.dropLanes id).modAll id f).modCore id Core.started).coreAt x)
    rw [State.coreAt_modCore, if_neg hx]
    exact hcore x

/-! ## XBSET_APPLY, START (R259) -/

section
variable {s : State} {item : Nat} {m : Msg}

theorem State.msg_id (h : s.msg item = some m) : m.id = item := by simpa using List.find?_some h

theorem not_atHead (h : s.atHead m = true) : ¬ (!s.atHead m) = true := by rw [h]; decide

theorem State.still_dropMsg (s : State) (n : Nat) : s.Still (s.dropMsg n) := .of_cx_eq rfl rfl

theorem State.postWith_xbound (s : State) (id k code sub source : Nat) (v : Word) (n : Option Nat) (u p a x : Nat) :
    ((s.postWith id k code sub source v n u p a).coreAt x).xbound = (s.coreAt x).xbound := by
  unfold State.postWith
  dsimp only
  generalize hlog : s.logErr _ _ _ _ _ _ _ _ _ = s1
  have h1 : s1.coreAt x = s.coreAt x := by
    obtain ⟨l, m, k, h⟩ := s.logErr_eq _ _ _ _ _ _ _ _ _
    rw [← hlog, h]
    rfl
  split
  · rw [State.coreAt_modCx]
    dsimp only
    split
    · rw [State.coreAt_modCore]
      split
      next h => rw [← h, h1]
      · rw [h1]
    · rw [h1]
  · rw [h1]

/-- An error posted to a source leaves every core's XBOUND and what is on its way. -/
theorem State.postSrc_spec (s : State) (src : Src) (code sub source : Nat) (v : Word) (n : Option Nat) (key x : Nat) :
    s.Posts (s.postSrc src code sub source v n key) ∧ ((s.postSrc src code sub source v n key).coreAt x).xbound = (s.coreAt x).xbound := by
  unfold State.postSrc
  split
  · exact ⟨s.posts_postWith .., s.postWith_xbound ..⟩
  · split
    · exact ⟨s.posts_postWith .., s.postWith_xbound ..⟩
    · exact ⟨.refl s, rfl⟩
  · exact ⟨s.posts_postWith .., s.postWith_xbound ..⟩
  · exact ⟨.refl s, rfl⟩

end

theorem remoteStartSteps : Claims.RemoteStartSteps := by
  intro s item id m hm hh
  have hid := State.msg_id hm
  refine ⟨fun v ea hb => ?_, fun pc v ea hb hs he hc => ?_⟩
  · have hrun : exec (.xbsetApply item) s = if !s.startable id then .next (s.refuseStart m ea) else if !s.enginesIdle id then .next s
        else .next ((s.dropMsg item).modCore id fun c => { c with xbound := v }) := by
      show execXbsetApply item s = _
      unfold execXbsetApply
      rw [hm]
      dsimp only
      rw [hb]
      exact if_neg (not_atHead hh)
    refine ⟨fun hs he => ?_, fun hs => ?_, fun hs he => ?_⟩
    · refine ⟨_, hrun.trans ((if_neg (by rw [hs]; decide)).trans (if_neg (by rw [he]; decide))), ?_, (State.modCore_onlyCores ..).flight_eq,
        ((s.still_dropMsg item).trans (State.still_modCore ..)).holds⟩
      rw [State.coreAt_modCore, if_pos rfl]
    · obtain ⟨hp, hx⟩ := (s.dropMsg m.id).postSrc_spec m.src 0x07 0 3 ea (some m.id) (match m.dest with | .core id => sramKey id 0 | _ => 0) id
      refine ⟨_, hrun.trans (if_pos (by rw [hs]; rfl)), hx, hp.flight.trans (by rw [hid]; rfl), fun hsrc hl he => ?_, ((s.still_dropMsg m.id).trans hp.still).holds⟩
      have hcx : (s.refuseStart m ea).cx = s.cx.postAt s.cy 0x07 0 3 ea := by
        unfold State.refuseStart
        rw [hsrc]
        exact State.postWith_cx (s := s.dropMsg m.id) hl
      obtain ⟨hpend, htval, -⟩ := Context.postAt_first he s.cy 0x07 0 3 ea
      obtain ⟨-, hcode, -⟩ := errpend_fields 0x07 0
      rw [hcx, hpend, htval]
      exact ⟨hcode, rfl⟩
    · exact hrun.trans ((if_neg (by rw [hs]; decide)).trans (if_pos (by rw [he]; rfl)))
  · have hstep : exec (.start item) s = .next ((s.dropMsg item).startCore id pc v m.stamp.clock) := by
      show execStart item s = _
      unfold execStart
      rw [hm]
      dsimp only
      rw [hb]
      dsimp only
      rw [if_neg (not_atHead hh), if_neg (by rw [hs]; decide), if_neg (by rw [he, hc]; decide)]
    have hst := (s.dropMsg item).startCore_starts id pc v m.stamp.clock
    obtain ⟨c, hc1, hc2, hc3⟩ := hst.core
    refine ⟨_, hstep, ?_⟩
    rw [hst.cx, hc3]
    refine ⟨rfl, rfl, rfl, rfl, rfl, rfl, rfl, rfl, rfl, rfl, hc2, ?_, fun a => by rw [hst.mem]; rfl⟩
    show c.xbound = _
    rw [hc1]
    rfl

/-! ## TLBGEN_ACK (R300–R302) -/

/-- A command under the new generation of its address space. -/
def newGenCmd (asid g : Nat) (m : Cmd) : Cmd := if m.asid = asid ∧ m.active then { m with gen := g } else m

/-- The commands of the core, and what it has staged, under the new generation. -/
def Core.newGen (asid g : Nat) (stg : Staged → Staged) (c : Core) : Core := { c with cmds := c.cmds.map (newGenCmd asid g), staging := c.staging.map stg }

/-- The acknowledgement noted, and entries of the address space swept. -/
def Core.acked (asid : Nat) (sweep : Bool) (c : Core) : Core :=
  { c with
    genDue := c.genDue.filter (· != asid)
    sweepDue := c.sweepDue.filter (· != asid)
    tlb := if sweep then c.tlb.filter fun x => x.asid != asid else c.tlb }

/-- A core and its contexts after the acknowledgement. -/
def State.acked (s : State) (asid core : Nat) (sweep : Bool) (stg : Staged → Staged) : State :=
  ((s.modAll core fun _ c => c.newGen asid (s.genOf asid)).modCore core (Core.newGen asid (s.genOf asid) stg)).modCore core (Core.acked asid sweep)

theorem Context.newGen_calm (asid g : Nat) : Context.Calm fun c => c.newGen asid g := by
  constructor
  all_goals
    intro c
    unfold Context.newGen
    split <;> rfl

theorem newGenCmd_gen {asid g : Nat} {m : Cmd} (ha : (newGenCmd asid g m).asid = asid) (hx : (newGenCmd asid g m).active = true) : (newGenCmd asid g m).gen = g := by
  unfold newGenCmd at *
  by_cases h : m.asid = asid ∧ m.active = true
  · rw [if_pos h]
  · rw [if_neg h] at ha hx
    exact absurd ⟨ha, hx⟩ h

theorem execTlbgenAck_acks {s : State} {asid core : Nat} (hd : asid ∈ (s.coreAt core).genDue) (ho : s.oldAccess core = false ∨ (s.coreAt core).gated = true) :
    ∃ stg l, exec (.tlbgenAck asid core) s = .next { s.acked asid core ((s.coreAt core).sweepDue.contains asid) stg with tlb2 := l } := by
  have hc : ¬ (!((s.coreAt core).genDue.contains asid) || (s.oldAccess core && !(s.coreAt core).gated)) = true := by
    have hd' : (s.coreAt core).genDue.contains asid = true := by simpa using hd
    rcases ho with ho | ho <;> rw [hd', ho] <;> simp
  show ∃ stg l, execTlbgenAck asid core s = _
  unfold execTlbgenAck
  rw [if_neg hc]
  dsimp only
  split
  next h => exact ⟨_, _, by rw [h]; rfl⟩
  next h => exact ⟨_, _, by rw [Bool.not_eq_true] at h; rw [h]; rfl⟩

theorem State.acked_core (s : State) (asid core : Nat) (sweep : Bool) (stg : Staged → Staged) :
    ((s.acked asid core sweep stg).coreAt core) =
      Core.acked asid sweep (Core.newGen asid (s.genOf asid) stg ((s.modAll core fun _ c => c.newGen asid (s.genOf asid)).coreAt core)) := by
  unfold State.acked
  rw [State.coreAt_modCore, if_pos rfl, State.coreAt_modCore, if_pos rfl]

theorem State.acked_cx (s : State) (asid core : Nat) (sweep : Bool) (stg : Staged → Staged) {k : Nat} (hk : k < 11) :
    (s.acked asid core sweep stg).cxAt core k = (s.cxAt core k).newGen asid (s.genOf asid) := by
  unfold State.acked
  rw [State.cxAt_modCore _ core core k (Core.acked asid sweep) (fun _ => rfl) (fun _ => rfl),
    State.cxAt_modCore _ core core k (Core.newGen asid (s.genOf asid) stg) (fun _ => rfl) (fun _ => rfl), State.cxAt_modAll, if_pos ⟨rfl, hk⟩]

theorem generationAcknowledge : Claims.GenerationAcknowledge := by
  intro s asid core hd
  refine ⟨fun ho => ?_, fun ho hg => ?_⟩
  · obtain ⟨stg, l, hstep⟩ := execTlbgenAck_acks hd ho
    have hcore := s.acked_core asid core ((s.coreAt core).sweepDue.contains asid) stg
    have hs : s.Still (s.acked asid core ((s.coreAt core).sweepDue.contains asid) stg) :=
      ((s.still_modAll core fun _ => Context.newGen_calm asid _).trans (State.still_modCore ..)).trans (State.still_modCore ..)
    refine ⟨_, hstep, ?_, fun m hm ha hx => ?_, fun k hk ha => ?_, fun hsw e he => ?_, State.Still.holds ⟨hs.regs, hs.pc, hs.status, hs.flags, hs.pos, hs.memory⟩⟩
    · show asid ∉ ((s.acked asid core _ stg).coreAt core).genDue
      rw [hcore]
      show asid ∉ List.filter (· != asid) _
      simp
    · have hm' : m ∈ ((s.acked asid core ((s.coreAt core).sweepDue.contains asid) stg).coreAt core).cmds := hm
      rw [hcore] at hm'
      obtain ⟨y, -, rfl⟩ := List.mem_map.1 hm'
      exact newGenCmd_gen ha hx
    · show ((s.acked asid core _ stg).cxAt core k).gen = _
      rw [State.acked_cx _ _ _ _ _ hk]
      unfold Context.newGen
      rw [if_pos ha]
      rfl
    · have he' : e ∈ ((s.acked asid core ((s.coreAt core).sweepDue.contains asid) stg).coreAt core).tlb := he
      have hsw' : (s.coreAt core).sweepDue.contains asid = true := by simpa using hsw
      rw [hcore, hsw'] at he'
      simpa using (List.mem_filter.1 (show e ∈ List.filter (fun x : Tlb => x.asid != asid) _ from he')).2
  · show execTlbgenAck asid core s = _
    unfold execTlbgenAck
    exact if_pos (by rw [ho, hg]; simp)

/-! ## PAGE_WALK (R297, R298) -/

section
variable {s : State} {w : Walk}

theorem Walk.ended_calm (f : Option Walk → Option Walk) : Context.Calm fun c => { c with walk := f c.walk } :=
  ⟨fun _ => rfl, fun _ => rfl, fun _ => rfl, fun _ => rfl, fun _ => rfl⟩

theorem State.walkAt_view (hk : s.core.k < 11) : s.walkAt s.id s.core.k = s.cx.walk := by
  unfold State.walkAt
  rw [if_pos (by omega), State.cxAt_view]

/-- What the walk of the context in view becomes. -/
def endedWalk (fault : Option Nat) (w : Option Walk) : Option Walk := match fault with | none => none | some c => w.map fun x => { x with fault := some c }

theorem State.walkDone_eq {k : Nat} (hk : k < 16) (s : State) (id : Nat) (fault : Option Nat) :
    s.walkDone id k fault = s.modCx id k fun c => { c with walk := endedWalk fault c.walk } := if_pos hk

theorem State.walkDone_view (hk : s.core.k < 11) (fault : Option Nat) : s.walkDone s.id s.core.k fault = s.setCx { s.cx with walk := endedWalk fault s.cx.walk } := by
  rw [State.walkDone_eq (by omega), State.modCx_view]

theorem State.walkAgain_view (hk : s.core.k < 11) :
    s.walkAgain s.id s.core.k = { s.setCx { s.cx with walk := s.cx.walk.map fun x => { x with at_ := s.seq } } with seq := s.seq + 1 } := by
  unfold State.walkAgain
  dsimp only
  rw [if_pos (by omega), State.modCx_view]

/-- A walk of the four its octet's walkers have taken goes by the entry it ends at. -/
theorem execPageWalk_walks (hk : s.core.k < 11) (hw : s.cx.walk = some w) (hf : w.fault = none) (ht : s.walking s.id w = true) :
    exec (.pageWalk s.id s.core.k) s =
      match s.walkOf w.asid w.va.toNat with
      | .page => .next (s.walkDone s.id s.core.k (some 0x06))
      | .leaf pa level e =>
        if bit e 6 then .next (s.walkAgain s.id s.core.k)
        else if bit e 7 then .next (s.walkDone s.id s.core.k (some 0x06))
        else if !leafPermits e w.kind then .next (s.walkDone s.id s.core.k (some 0x07))
        else .next (((s.markLeaf pa w.kind).installTlb s.id (tlbOf w level e)).walkDone s.id s.core.k none) := by
  show execPageWalk s.id s.core.k s = _
  unfold execPageWalk
  rw [State.walkAt_view hk, hw]
  exact if_neg (by rw [hf, ht]; decide)

theorem State.markLeaf_entry (s : State) (pa kind : Nat) :
    Memory.getN (s.markLeaf pa kind).mem pa 8 = Memory.getN s.mem pa 8 ||| (if kind = 0 then 0x10 else 0x30) := by
  have h : Memory.getN s.mem pa 8 ||| (if kind = 0 then 0x10 else 0x30) < 2 ^ 64 :=
    Nat.or_lt_two_pow (Memory.getN_lt s.mem pa 8) (by split <;> decide)
  exact (Memory.getN_putN s.mem pa 8 _).trans (Nat.mod_eq_of_lt h)

/-- The translation stands first in the core's own level. -/
theorem State.installTlb_spec (s : State) (t : Tlb) :
    ∃ l l2, s.installTlb s.id t = { s with core := { s.core with tlb := t :: l }, tlb2 := l2 } := by
  unfold State.installTlb
  rw [State.modCore_view]
  exact ⟨(s.core.tlb.filter fun x => !x.same t).take 383, _, rfl⟩

end

theorem pageWalks : Claims.PageWalks := by
  intro s w hk hw hf
  refine ⟨fun ht => ?_, fun ht => ?_⟩
  · show execPageWalk s.id s.core.k s = _
    unfold execPageWalk
    rw [State.walkAt_view hk, hw]
    exact if_pos (by rw [ht]; simp)
  have hrun := execPageWalk_walks hk hw hf ht
  have hholds : ∀ u : Option Walk, s.Holds (s.setCx { s.cx with walk := u }) := fun _ => State.Still.holds ⟨rfl, rfl, rfl, rfl, rfl, fun _ => rfl⟩
  have hended (c : Nat) : ∃ t, (.next (s.walkDone s.id s.core.k (some c)) : Result) = .next t ∧ t.cx.walk = some { w with fault := some c } ∧ s.Holds t := by
    refine ⟨_, rfl, ?_⟩
    rw [State.walkDone_view hk, hw]
    exact ⟨rfl, hholds _⟩
  refine ⟨fun hp => ?_, fun pa level e hl => ⟨fun h6 => ?_, fun h7 h6 => ?_, fun h7 h6 hp => ?_, fun h7 h6 hp => ?_⟩⟩
  · rw [hrun, hp]
    exact hended 0x06
  all_goals
    rw [hrun, hl]
    dsimp only
    rw [h6]
  · refine ⟨_, rfl, ?_⟩
    rw [State.walkAgain_view hk, hw]
    exact ⟨rfl, State.Still.holds ⟨rfl, rfl, rfl, rfl, rfl, fun _ => rfl⟩⟩
  all_goals rw [h7]
  · exact hended 0x06
  all_goals rw [hp]
  · exact hended 0x07
  · obtain ⟨l, l2, hi⟩ := (s.markLeaf pa w.kind).installTlb_spec (tlbOf w level e)
    refine ⟨_, rfl, ?_⟩
    have hdone := State.walkDone_view (s := (s.markLeaf pa w.kind).installTlb (s.markLeaf pa w.kind).id (tlbOf w level e)) (by rw [hi]; exact hk) none
    rw [hi] at hdone
    rw [show (s.markLeaf pa w.kind).installTlb s.id (tlbOf w level e) = _ from hi, show State.walkDone _ s.id s.core.k none = _ from hdone]
    exact ⟨rfl, rfl, fun _ => rfl, s.markLeaf_entry pa w.kind, fun a ha => s.markLeaf_mem pa w.kind a ha⟩

/-! ## PAGE_MOVE (R303–R305) -/

/-- Where a byte of the memory after a write of a list of bytes comes from. -/
theorem Memory.get_putBytes (m : List Host.Cell) (a b : Nat) (l : List Byte) :
    Memory.get (Memory.putBytes m a l) b = if a ≤ b then (l[b - a]?).getD (Memory.get m b) else Memory.get m b := by
  induction l generalizing m a with
  | nil => simp [Memory.putBytes]
  | cons x l ih =>
    rw [Memory.putBytes, ih, Memory.get_put]
    rcases Nat.lt_trichotomy a b with h | rfl | h
    · rw [if_pos (by omega), if_neg (by omega), if_pos (by omega), show b - a = (b - (a + 1)) + 1 by omega, List.getElem?_cons_succ]
    · rw [if_neg (by omega), if_pos rfl, if_pos (Nat.le_refl a), Nat.sub_self]
      rfl
    · rw [if_neg (by omega), if_neg (by omega), if_neg (by omega)]

theorem Memory.getBytes_getElem? (m : List Host.Cell) (a n j : Nat) : (Memory.getBytes m a n)[j]? = if j < n then some (Memory.get m (a + j)) else none := by
  induction n generalizing a j with
  | zero => simp [Memory.getBytes]
  | succ n ih =>
    cases j with
    | zero => simp [Memory.getBytes]
    | succ j =>
      rw [Memory.getBytes, List.getElem?_cons_succ, ih, show a + 1 + j = a + (j + 1) by omega]
      simp

/-- Bytes copied from one place to another. -/
theorem Memory.get_copied (m : List Host.Cell) (new old n : Nat) :
    (∀ j, j < n → Memory.get (Memory.putBytes m new (Memory.getBytes m old n)) (new + j) = Memory.get m (old + j))
      ∧ ∀ a, a < new ∨ new + n ≤ a → Memory.get (Memory.putBytes m new (Memory.getBytes m old n)) a = Memory.get m a := by
  refine ⟨fun j hj => ?_, fun a ha => ?_⟩
  · rw [Memory.get_putBytes, if_pos (by omega), Memory.getBytes_getElem?, if_pos (by omega), Nat.add_sub_cancel_left]
    rfl
  · rw [Memory.get_putBytes, Memory.getBytes_getElem?]
    rcases ha with ha | ha
    · rw [if_neg (by omega)]
    · rw [if_pos (by omega), if_neg (by omega)]
      rfl

theorem State.OnlyCores.moves_eq {s t : State} (h : s.OnlyCores t) : t.moves = s.moves := by rw [h]

/-- A generation raised leaves memory and the moves that are open; the address space has the next one. -/
theorem State.raiseGen_frame (s : State) (asid : Nat) :
    (s.raiseGen asid).mem = s.mem ∧ (s.raiseGen asid).moves = s.moves ∧ (s.raiseGen asid).id = s.id ∧ (s.raiseGen asid).core.k = s.core.k
      ∧ (s.raiseGen asid).genOf asid = (s.genOf asid + 1) % 2 ^ 20 := by
  refine ⟨foldl_keeps State.mem (fun s _ => (s.modCore_onlyCores _ _).mem_eq) _ _, foldl_keeps State.moves (fun s _ => (s.modCore_onlyCores _ _).moves_eq) _ _,
    foldl_keeps State.id (fun s _ => (s.modCore_onlyCores _ _).id_eq) _ _, foldl_keeps (fun s => s.core.k) (fun s x => ?_) _ _, ?_⟩
  · unfold State.modCore
    split <;> rfl
  · have hold : (s.asids.filter fun a => a.1 != asid).find? (fun a => a.1 == asid) = none := by
      rw [List.find?_eq_none]
      intro x hx
      simpa using (List.mem_filter.1 hx).2
    unfold State.genOf
    rw [(s.raiseGen_spec asid).2.2.2, raisedAsids, List.find?_append, hold]
    simp
    rfl

theorem State.putEntry_mem (s : State) (pa : Nat) (v : Word) :
    Memory.getN (s.putEntry pa v).mem pa 8 = v.toNat ∧ ∀ a, a < pa ∨ pa + 8 ≤ a → Memory.get (s.putEntry pa v).mem a = Memory.get s.mem a := by
  obtain ⟨h, h'⟩ := Memory.putN_spec s.mem pa 8 v.toNat
  exact ⟨h.trans (Nat.mod_eq_of_lt v.isLt), h'⟩

/-- A failed walk of a page forgotten at one site. -/
def State.retryAt (asid page : Nat) (s : State) (id : Nat) : State :=
  (s.modAll id fun _ c => { c with walk := Walk.retry c.walk asid page }).modCore id fun c =>
    { c with cmds := c.cmds.map fun m => { m with walk := Walk.retry m.walk asid page } }

theorem State.retryWalks_eq (s : State) (asid page : Nat) : s.retryWalks asid page = s.sites.foldl (State.retryAt asid page) s := rfl

theorem State.retryAt_onlyCores (asid page : Nat) (s : State) (id : Nat) : s.OnlyCores (s.retryAt asid page id) := (s.modAll_onlyCores _ _).trans (State.modCore_onlyCores ..)

theorem State.still_retryAt (asid page : Nat) (s : State) (id : Nat) : s.Still (s.retryAt asid page id) :=
  (s.still_modAll id fun _ => Walk.ended_calm fun w => Walk.retry w asid page).trans (State.still_modCore ..)

theorem State.retryWalks_onlyCores (s : State) (asid page : Nat) : s.OnlyCores (s.retryWalks asid page) := .foldl (State.retryAt_onlyCores asid page) _ _

theorem State.still_retryWalks (s : State) (asid page : Nat) : s.Still (s.retryWalks asid page) := State.still_foldl (State.still_retryAt asid page) _ _

/-- A page copied (R303). -/
theorem State.copyPage_frame (s : State) (old new : Nat) :
    (s.copyPage old new).mem = Memory.putBytes s.mem new (Memory.getBytes s.mem old 65536) ∧ (s.copyPage old new).moves = s.moves
      ∧ (s.copyPage old new).asids = s.asids := by
  unfold State.copyPage
  generalize (65536 : Nat) = n
  exact ⟨rfl, rfl, rfl⟩

/-- Lines of two frames invalidated and watches moved at one site. -/
theorem State.leaveFrame_onlyCores (s : State) (old new : Nat) : s.OnlyCores (s.leaveFrame old new) :=
  .foldl (fun s _ => (s.modCore_onlyCores _ _).trans (State.modAll_onlyCores ..)) _ _

theorem State.answerMove_onlyCores (s : State) (m : Move) (v : Nat) : s.OnlyCores (s.answerMove m v) := by
  unfold State.answerMove
  split
  · exact s.modCx_onlyCores _ _ _
  · exact .refl s

/-- The MIGR in view that asked for a move has its answer. -/
theorem State.answerMove_view {s : State} {m : Move} (hc : m.core = s.id) (hid : s.id < 102400) (hk : m.ctx = s.core.k) (ha : s.cx.asked = true) (v : Nat) :
    s.answerMove m v = s.setCx { s.cx with reply := some (word v) } := by
  unfold State.answerMove
  rw [hc, if_pos hid, hk, State.modCx_view, if_pos ha]

/-- The state without a move. -/
def State.closeMove (s : State) (m : Move) : State := { s with moves := s.moves.filter fun x => x != m }

/-- A move answered to the MIGR in view. -/
theorem State.closeMove_answered {s : State} {m : Move} (hc : m.core = s.id) (hid : s.id < 102400) (hk : m.ctx = s.core.k) (ha : s.cx.asked = true) (v : Nat) :
    ((s.closeMove m).answerMove m v).cx.reply = some (word v) ∧ ((s.closeMove m).answerMove m v).moves = s.moves.filter (fun x => x != m)
      ∧ s.Holds ((s.closeMove m).answerMove m v) := by
  rw [State.answerMove_view (s := s.closeMove m) hc hid hk ha]
  exact ⟨rfl, rfl, State.Still.holds ⟨rfl, rfl, rfl, rfl, rfl, fun _ => rfl⟩⟩

section
variable {s : State} {m : Move} {va newPa : Nat}

/-- A move that has not begun takes its first step. -/
theorem execPageMove_starts (hm : (s.moves.find? fun x => x.asid == m.asid && x.va == va / 65536 * 65536 && x.step == m.step) = some m) (h : m.step = 0) :
    exec (.pageMove m.asid va newPa) s = .next (s.startMove m newPa) := by
  rw [h] at hm
  show execPageMove m.asid va newPa s = _
  unfold execPageMove
  dsimp only
  rw [hm]

/-- One whose first step is done, when none of its page waits for it, takes its last. -/
theorem execPageMove_ends (hm : (s.moves.find? fun x => x.asid == m.asid && x.va == va / 65536 * 65536 && x.step == m.step) = some m) (h : m.step = 1)
    (hone : ∀ x ∈ s.moves, x.asid = m.asid → x.va = m.va → x.step = 1) : exec (.pageMove m.asid va newPa) s = .next (s.endMove m) := by
  have hva : m.va = va / 65536 * 65536 := by
    have h := List.find?_some hm
    simp only [Bool.and_eq_true, beq_iff_eq] at h
    exact h.1.2
  have hnone : (s.moves.find? fun x => x.asid == m.asid && x.va == va / 65536 * 65536 && x.step == 0) = none := by
    rw [List.find?_eq_none]
    intro x hx hc
    simp only [Bool.and_eq_true, beq_iff_eq] at hc
    obtain ⟨⟨h1, h2⟩, h3⟩ := hc
    exact absurd (hone x hx h1 (h2.trans hva.symm)) (by omega)
  rw [h] at hm
  show execPageMove m.asid va newPa s = _
  unfold execPageMove
  dsimp only
  rw [hnone, hm]

end

theorem pageMoves : Claims.PageMoves := by
  intro s m va newPa hm
  refine ⟨fun pa e h hw h6 hn hf hg => ?_, fun pa e h hw h6 hc hid hk ha => ?_, fun pa e h hw h6 hc hid hk ha => ?_, fun h hone ho => ?_, fun h hone ho hb hd => ?_⟩
  · have hstart : s.startMove m newPa =
        (State.putEntry { s with moves := (s.moves.filter fun x => x != m) ++ [{ m with newPa := newPa, leaf := pa, step := 1 }] } pa (setBit e 6 true)).raiseGen m.asid := by
      unfold State.startMove
      dsimp only
      rw [hw]
      dsimp only
      rw [if_neg (by decide), if_neg (by rw [h6]; decide), if_neg hn, if_neg (by rw [hf, hg]; decide)]
    refine ⟨_, (execPageMove_starts hm h).trans (congrArg Host.Outcome.next hstart), ?_⟩
    generalize hs1 : ({ s with moves := (s.moves.filter fun x => x != m) ++ [{ m with newPa := newPa, leaf := pa, step := 1 }] } : State) = s1
    obtain ⟨hmem, hmoves, -, -, hgen⟩ := (s1.putEntry pa (setBit e 6 true)).raiseGen_frame m.asid
    obtain ⟨hget, hout⟩ := s1.putEntry_mem pa (setBit e 6 true)
    have hstill := ((s1.putEntry pa (setBit e 6 true)).raiseGen_spec m.asid).1
    rw [hmem, hmoves, hgen]
    refine ⟨hget, ?_, ?_, fun r => hstill.g r |>.trans ?_, fun a ha => (hout a ha).trans ?_⟩
    all_goals rw [← hs1]
    · rfl
    · exact List.mem_append_right _ (List.mem_singleton_self _)
    all_goals rfl
  · have hstart : s.startMove m 0 = (s.closeMove m).answerMove m 1 := by
      unfold State.startMove
      dsimp only
      rw [hw]
      dsimp only
      rw [if_neg (by decide), if_neg (by rw [h6]; decide), if_pos rfl]
      rfl
    exact ⟨_, (execPageMove_starts hm h).trans (congrArg Host.Outcome.next hstart), State.closeMove_answered hc hid hk ha 1⟩
  · have hstart : s.startMove m newPa = (s.closeMove m).answerMove m 2 := by
      unfold State.startMove
      dsimp only
      rw [hw]
      dsimp only
      rw [if_neg (by decide), if_pos h6]
      rfl
    exact ⟨_, (execPageMove_starts hm h).trans (congrArg Host.Outcome.next hstart), State.closeMove_answered hc hid hk ha 2⟩
  · refine (execPageMove_ends hm h hone).trans ?_
    exact congrArg Host.Outcome.next (if_pos (show (s.genOpen m.asid || s.frameBusy (pteAddr (s.pte m.leaf))) = true by rw [ho]; rfl))
  · have hcond : ¬ (s.genOpen m.asid || s.frameBusy (pteAddr (s.pte m.leaf))) = true := by
      rw [ho, hb]
      decide
    refine ⟨_, (execPageMove_ends hm h hone).trans (congrArg Host.Outcome.next (if_neg hcond)), ?_⟩
    generalize s.pte m.leaf = e
    generalize pteAddr e = old
    obtain ⟨hcmem, hcmoves, hcasids⟩ := s.copyPage_frame old m.newPa
    have hleave := (s.copyPage old m.newPa).leaveFrame_onlyCores old m.newPa
    generalize hu : ({ (s.copyPage old m.newPa).leaveFrame old m.newPa with
      moves := ((s.copyPage old m.newPa).leaveFrame old m.newPa).moves.filter fun x => x != m } : State) = u
    have humem : u.mem = Memory.putBytes s.mem m.newPa (Memory.getBytes s.mem old 65536) := by rw [← hu]; exact hleave.mem_eq.trans hcmem
    have humoves : u.moves = s.moves.filter fun x => x != m := by
      rw [← hu]
      show List.filter _ ((s.copyPage old m.newPa).leaveFrame old m.newPa).moves = _
      rw [hleave.moves_eq, hcmoves]
    have huasids : u.asids = s.asids := by rw [← hu]; exact hleave.asids_eq.trans hcasids
    have hugen : u.genOf m.asid = s.genOf m.asid := by
      unfold State.genOf
      rw [huasids]
    have hv : ∀ v : Word, (u.putEntry m.leaf v).genOf m.asid = u.genOf m.asid := fun _ => rfl
    generalize setBits (setBit (setBit e 6 false) 7 false) 43 16 (m.newPa / 65536) = v
    have honly := (((u.putEntry m.leaf v).raiseGen m.asid).retryWalks_onlyCores m.asid m.va).trans (State.answerMove_onlyCores _ m 0)
    obtain ⟨hmem, hmoves, -, -, hgen⟩ := (u.putEntry m.leaf v).raiseGen_frame m.asid
    obtain ⟨hget, hout⟩ := u.putEntry_mem m.leaf v
    obtain ⟨hcopy, hrest⟩ := Memory.get_copied s.mem m.newPa old 65536
    have hfin : ((((u.putEntry m.leaf v).raiseGen m.asid).retryWalks m.asid m.va).answerMove m 0).mem = (u.putEntry m.leaf v).mem := honly.mem_eq.trans hmem
    rw [hfin]
    refine ⟨fun j hj => ?_, hget, ?_, honly.moves_eq.trans (hmoves.trans humoves), fun a ha hl => ?_⟩
    · rw [hout _ (by omega), humem, hcopy j hj]
    · rw [hv, hugen] at hgen
      rw [← hgen]
      unfold State.genOf
      rw [honly.asids_eq]
    · rw [hout a hl, humem, hrest a ha]

/-! ## A mapping completed (R305) -/

/-- The walk of the context in view stays forgotten, and is forgotten at its own site. -/
theorem State.retryAt_cx (asid page : Nat) (s : State) (id : Nat) (hk : s.core.k < 11) :
    (s.retryAt asid page id).core.k = s.core.k ∧ (s.retryAt asid page id).id = s.id
      ∧ (s.retryAt asid page id).cx.walk = if id = s.id then Walk.retry s.cx.walk asid page else s.cx.walk := by
  let f (_ : Nat) (c : Context) : Context := { c with walk := Walk.retry c.walk asid page }
  have hs := s.modAll_onlyCores id f
  have hcore := s.core_modAll id f
  have hkk : (s.modAll id f).core.k = s.core.k := by rw [hcore]
  have hcx : ∀ g : Core → Core, ((s.modAll id f).modCore id g).cx = (s.modAll id f).cx := fun g => by
    unfold State.modCore
    split <;> rfl
  refine ⟨?_, (s.retryAt_onlyCores asid page id).id_eq, ?_⟩
  · refine Eq.trans ?_ hkk
    show ((s.modAll id f).modCore id _).core.k = _
    unfold State.modCore
    split <;> rfl
  · show ((s.modAll id f).modCore id _).cx.walk = _
    rw [hcx, State.cx_of_cxAt hs.id_eq hkk, State.cxAt_modAll]
    by_cases h : id = s.id
    · rw [if_pos ⟨h.symm, hk⟩, if_pos h, h, State.cxAt_view]
    · rw [if_neg fun c => h c.1.symm, if_neg h, State.cxAt_view]

theorem State.retryWalks_view (s : State) (asid page : Nat) (hk : s.core.k < 11) (hw : Walk.retry s.cx.walk asid page = none) : (s.retryWalks asid page).cx.walk = none := by
  have hrest : ∀ (l : List Nat) (u : State), u.core.k < 11 → u.cx.walk = none → (l.foldl (State.retryAt asid page) u).cx.walk = none := by
    intro l
    induction l with
    | nil => exact fun u _ h => h
    | cons id l ih =>
      intro u hku h
      obtain ⟨h1, -, h3⟩ := State.retryAt_cx asid page u id hku
      refine ih _ (by omega) (h3.trans ?_)
      rw [h]
      split <;> rfl
  obtain ⟨h1, -, h3⟩ := State.retryAt_cx asid page s s.id hk
  exact hrest _ (s.retryAt asid page s.id) (by omega) (by rw [h3, if_pos rfl, hw])

theorem mappingsAreCompleted : Claims.MappingsAreCompleted := by
  intro s asid va newPa pa page hall hw hslot hb hfree hg
  have hnone (step : Nat) : (s.moves.find? fun x => x.asid == asid && x.va == page && x.step == step) = none := by
    rw [List.find?_eq_none]
    intro x hx hc
    have h := List.all_eq_true.1 hall x hx
    rw [Bool.and_eq_true] at hc
    rw [hc.1] at h
    exact absurd h (by decide)
  have hstep : exec (.pageMove asid va newPa) s = .next ((s.putEntry pa (word (0xF + newPa))).retryWalks asid page) := by
    show execPageMove asid va newPa s = _
    unfold execPageMove
    dsimp only
    rw [hnone 0]
    dsimp only
    rw [hnone 1, hw]
    refine congrArg Host.Outcome.next ?_
    unfold State.completeMap
    rw [hw, hslot]
    refine if_neg ?_
    rw [hb, hfree, hg]
    decide
  obtain ⟨hget, hout⟩ := s.putEntry_mem pa (word (0xF + newPa))
  have honly := (s.putEntry pa (word (0xF + newPa))).retryWalks_onlyCores asid page
  have hstill := (s.putEntry pa (word (0xF + newPa))).still_retryWalks asid page
  refine ⟨_, hstep, ?_, fun a ha => ?_, fun r => hstill.g r, hstill.pc, hstill.status, fun w c _ hk hcw hc ha hv => ?_⟩
  · rw [honly.mem_eq, hget]
    have hlt : newPa < 2 ^ 44 := by
      unfold frameFree at hfree
      simp only [Bool.and_eq_true, decide_eq_true_eq] at hfree
      omega
    exact Nat.mod_eq_of_lt (by omega)
  · rw [honly.mem_eq, hout a ha]
  · refine State.retryWalks_view _ asid page hk ?_
    show Walk.retry s.cx.walk asid page = none
    rw [hcw, Walk.retry, Option.filter_some]
    refine if_neg ?_
    rw [hc, ha, hv]
    simp

/-! ## Shipping (R305–R307) -/

/-- The context in view stopped, and its registers on their way to the landing core. -/
def State.shipped (s : State) (landing : Nat) : State :=
  let t := s.inject s.mine (.core landing) .m 0 (.ship landing { s.cx with walk := none })
  t.setCx { t.cx with st := .stopped, walk := none }

theorem State.payFor_frame (s : State) (n : Nat) : (s.payFor n).cx = s.cx ∧ (s.payFor n).mem = s.mem ∧ (s.payFor n).id = s.id ∧ (s.payFor n).core.k = s.core.k := by
  unfold State.payFor
  split <;> exact ⟨rfl, rfl, rfl, rfl⟩

theorem State.shipped_spec (s : State) (landing : Nat) :
    (s.shipped landing).id = s.id ∧ (s.shipped landing).core.k = s.core.k ∧ (s.shipped landing).cx.st = .stopped ∧ s.Holds (s.shipped landing)
      ∧ ∃ x : Msg, (s.shipped landing).flight = s.flight ++ [x] ∧ x.dest = .core landing ∧ x.body = .ship landing { s.cx with walk := none } := by
  obtain ⟨hcx, hmem, hid, hk⟩ := s.payFor_frame s.seq
  refine ⟨hid, hk, rfl, State.Still.holds ⟨?_, ?_, ?_, ?_, ?_, fun a => congrArg (Memory.get · a) hmem⟩, _, rfl, rfl, rfl⟩
  · show (s.payFor s.seq).cx.g = _
    rw [hcx]
  · show (s.payFor s.seq).cx.pc = _
    rw [hcx]
  · show (s.payFor s.seq).cx.status = _
    rw [hcx]
  · show (s.payFor s.seq).cx.fflags = _
    rw [hcx]
  · show (s.payFor s.seq).cx.pos = _
    rw [hcx]

theorem State.within_control {s t : State} {f : State → State} (hk : s.core.k = 0) (h : f s = t) (hid : t.id = s.id) (hkt : t.core.k = s.core.k) : s.within s.id 0 f = t := by
  rw [← State.within_eq h hid hkt, hk]

theorem contextShipping : Claims.ContextShipping := by
  intro s
  refine ⟨fun w pa landing hw hf hp hst hsh hpend hperf hb hd => ?_, fun item m id c hm hb hh hs => ?_⟩
  · have hk : s.core.k = 0 := by
      unfold State.shippable at hsh
      simp only [Bool.and_eq_true, beq_iff_eq] at hsh
      omega
    obtain ⟨hid, hkt, hstop, hholds, x, hx, hdest, hbody⟩ := s.shipped_spec landing
    have hstep : exec (.contextShip s.id landing) s = .next (s.shipped landing) := by
      refine congrArg Host.Outcome.next (State.within_control hk ?_ hid hkt)
      dsimp only
      rw [hw]
      dsimp only
      rw [hp]
      refine if_pos ?_
      rw [hf, hst, hsh, hpend, hperf, hb]
      simpa using hd
    exact ⟨_, x, _, hstep, hstop, hx, hdest, hbody, rfl, rfl, rfl, rfl, hholds⟩
  · have hstep : exec (.shipLanding item) s = .next (((s.dropMsg item).startCore id c.pc 0 c.clk).modCx id 0 fun base =>
        base.landed c ((s.dropMsg item).startCore id c.pc 0 c.clk).cy) := by
      show execShipLanding item s = _
      unfold execShipLanding
      rw [hm]
      dsimp only
      rw [hb]
      exact if_neg (by rw [hh, hs]; decide)
    have hstarts := (s.dropMsg item).startCore_starts id c.pc 0 c.clk
    generalize (s.dropMsg item).startCore id c.pc 0 c.clk = t at hstep hstarts
    refine ⟨_, hstep, ?_⟩
    have honly := t.modCx_onlyCores id 0 fun base => base.landed c t.cy
    rw [State.cxAt_modCx, if_pos ⟨rfl, rfl⟩, hstarts.cx]
    exact ⟨rfl, rfl, rfl, rfl, rfl, rfl, honly.flight_eq.trans hstarts.flight, fun a => by rw [honly.mem_eq, hstarts.mem]; rfl⟩

/-- Settles O46: starts and landings by the core that starts, walks by the entry they end at, moves by what each step writes, none of which is a register. -/
theorem startsWalksMovesAndShipping : Obligations.StartsWalksMovesAndShipping :=
  ⟨remoteStartSteps, generationAcknowledge, pageWalks, pageMoves, mappingsAreCompleted, contextShipping⟩

end Sys2Proof.Machine
end

section
/-! PROOFS. The debugger, bring-up and power (O55). -/
namespace Sys2Proof.Machine
open Sys2Proof

/-! ## Halts (R35, R46, R83) -/

/-- `jdb` attached changes an interface and no more. -/
theorem State.attach_eq (s : State) (v : Nat) : ∃ l, s.attach v = { s with vifs := l } := by
  unfold State.attach
  split
  · exact ⟨_, rfl⟩
  · exact ⟨s.vifs, rfl⟩

theorem Context.resumed_calm : Context.Calm Context.resumed := by
  constructor
  all_goals
    intro c
    unfold Context.resumed
    split <;> rfl

/-- The state a halted context goes on in. -/
theorem Context.resumed_st (c : Context) :
    c.resumed.st = if c.st = .halted then (if c.await.isSome then .waiting .reply else if c.pauseEnd ≠ 0 then .waiting .operand else .ready) else c.st := by
  unfold Context.resumed
  split <;> rfl

theorem Context.resumed_not_halted (c : Context) : c.resumed.st ≠ .halted := by
  rw [Context.resumed_st]
  split
  · split
    · exact Run.noConfusion
    · split <;> exact Run.noConfusion
  · assumption

/-- A later step of a resume: at a core, a context that is not halted stays as it is, and the core stays resumed. -/
structure State.GoesOn (id : Nat) (u v : State) : Prop where
  st : ∀ k, (u.cxAt id k).st ≠ .halted → (v.cxAt id k).st = (u.cxAt id k).st
  debugged : (u.coreAt id).debugged = false → (v.coreAt id).debugged = false
  frozen : (u.coreAt id).frozen = false → (v.coreAt id).frozen = false
  still : u.Still v
  view : v.id = u.id

theorem State.GoesOn.refl (id : Nat) (u : State) : State.GoesOn id u u := ⟨fun _ _ => rfl, fun h => h, fun h => h, .refl u, rfl⟩
theorem State.GoesOn.trans {id : Nat} {u v w : State} (h : State.GoesOn id u v) (k : State.GoesOn id v w) : State.GoesOn id u w where
  st j hj := (k.st j (by rw [h.st j hj]; exact hj)).trans (h.st j hj)
  debugged hd := k.debugged (h.debugged hd)
  frozen hf := k.frozen (h.frozen hf)
  still := h.still.trans k.still
  view := k.view.trans h.view

theorem State.goesOn_foldl {α : Type} {id : Nat} {f : State → α → State} (h : ∀ (s : State) x, State.GoesOn id s (f s x)) (l : List α) (s : State) :
    State.GoesOn id s (l.foldl f s) := by
  induction l generalizing s with
  | nil => exact .refl id s
  | cons x l ih => exact (h s x).trans (ih _)

theorem State.goesOn_modCore (id : Nat) (s : State) (m : Nat) {f : Core → Core} (hk : ∀ c : Core, (f c).k = c.k) (hp : ∀ c : Core, (f c).parked = c.parked)
    (hd : ∀ c : Core, c.debugged = false → (f c).debugged = false) (hf : ∀ c : Core, c.frozen = false → (f c).frozen = false) : State.GoesOn id s (s.modCore m f) where
  st k _ := by rw [State.cxAt_modCore _ _ _ _ _ hk hp]
  debugged h := by
    rw [State.coreAt_modCore]
    split
    next e => subst e; exact hd _ h
    · exact h
  frozen h := by
    rw [State.coreAt_modCore]
    split
    next e => subst e; exact hf _ h
    · exact h
  still := s.still_modCore m f
  view := (s.modCore_onlyCores m f).id_eq

theorem State.goesOn_modAll (id : Nat) (s : State) (m : Nat) {f : Nat → Context → Context} (hc : ∀ k, Context.Calm (f k))
    (hf : ∀ k c, c.st ≠ .halted → (f k c).st = c.st) : State.GoesOn id s (s.modAll m f) where
  st k h := by
    rw [State.cxAt_modAll]
    split
    next e =>
      obtain ⟨rfl, -⟩ := e
      exact hf k _ h
    · rfl
  debugged h := by
    have hs := s.coreAt_modAll m f id
    rw [hs]
    exact h
  frozen h := by
    have hs := s.coreAt_modAll m f id
    rw [hs]
    exact h
  still := s.still_modAll m hc
  view := (s.modAll_onlyCores m f).id_eq

/-- Cycle counts of a context and of its core that go on n cycles later. -/
def Context.shifted (n : Nat) (c : Context) : Context := { c with bars := mapVec (fun b => { b with t0 := b.t0 + n }) c.bars, waitAt := c.waitAt + n }
def Core.shifted (n : Nat) (c : Core) : Core := { c with vnred := c.vnred.map fun v => { v with t0 := v.t0 + n }, liveAt := c.liveAt + n }

theorem State.shiftTimes_eq (s : State) (m n : Nat) : s.shiftTimes m n = (s.modAll m fun _ => Context.shifted n).modCore m (Core.shifted n) := rfl

theorem State.goesOn_shiftTimes (id : Nat) (s : State) (m n : Nat) : State.GoesOn id s (s.shiftTimes m n) :=
  State.GoesOn.trans
    (State.goesOn_modAll id s m (f := fun _ => Context.shifted n) (fun _ => ⟨fun _ => rfl, fun _ => rfl, fun _ => rfl, fun _ => rfl, fun _ => rfl⟩) fun _ _ _ => rfl)
    (State.goesOn_modCore id _ m (f := Core.shifted n) (fun _ => rfl) (fun _ => rfl) (fun _ h => h) fun _ h => h)

theorem State.goesOn_shiftMates (id : Nat) (s : State) (m n : Nat) : State.GoesOn id s (s.shiftMates m n) := by
  unfold State.shiftMates
  split
  · refine State.goesOn_foldl (fun s x => ?_) _ s
    split
    · exact .refl id s
    · exact State.goesOn_shiftTimes id s x n
  · exact .refl id s

theorem State.goesOn_resumeCore (id : Nat) (s : State) (m : Nat) : State.GoesOn id s (s.resumeCore m) := by
  unfold State.resumeCore
  split
  · exact State.goesOn_modCore id s m (fun _ => rfl) (fun _ => rfl) (fun _ h => h) (fun _ h => h)
  · refine State.GoesOn.trans (State.goesOn_modAll id s m (fun _ => Context.resumed_calm) fun _ c h => ?_)
      (State.goesOn_modCore id _ m (fun _ => rfl) (fun _ => rfl) (fun _ _ => rfl) (fun _ _ => rfl))
    rw [Context.resumed_st, if_neg h]

theorem State.goesOn_debugGo (id : Nat) (s : State) (m : Nat) : State.GoesOn id s (s.debugGo m) := by
  unfold State.debugGo
  split
  · exact (State.goesOn_shiftMates id s m _).trans (State.goesOn_resumeCore id _ m)
  · exact State.goesOn_modCore id s m (fun _ => rfl) (fun _ => rfl) (fun _ _ => rfl) (fun _ h => h)

/-- A core and its contexts, which a change of other cores leaves. -/
structure State.Apart (id : Nat) (u v : State) : Prop where
  core : (u.coreAt id).SameBut (v.coreAt id)
  cx : ∀ k, v.cxAt id k = u.cxAt id k

theorem State.apart_shiftMates (s : State) (id n : Nat) : State.Apart id s (s.shiftMates id n) := by
  have hone : ∀ (u : State) (m : Nat), m ≠ id → State.Apart id u (u.shiftTimes m n) := by
    intro u m hm
    rw [State.shiftTimes_eq]
    refine ⟨?_, fun k => ?_⟩
    · rw [State.coreAt_modCore, if_neg fun e => hm e.symm]
      exact State.coreAt_modAll ..
    · rw [State.cxAt_modCore _ _ _ _ (Core.shifted n) (fun _ => rfl) (fun _ => rfl), State.cxAt_modAll, if_neg fun e => hm e.1.symm]
  have hall : ∀ (l : List Nat) (u : State), (∀ m ∈ l, m ≠ id) → State.Apart id u (l.foldl (fun s m => if s.halted m then s else s.shiftTimes m n) u) := by
    intro l
    induction l with
    | nil => exact fun u _ => ⟨.refl _, fun _ => rfl⟩
    | cons m l ih =>
      intro u hl
      have h1 : State.Apart id u (if u.halted m then u else u.shiftTimes m n) := by
        split
        · exact ⟨.refl _, fun _ => rfl⟩
        · exact hone u m (hl m (List.mem_cons_self ..))
      have h2 := ih (if u.halted m then u else u.shiftTimes m n) fun x hx => hl x (List.mem_cons_of_mem _ hx)
      exact ⟨h1.core.trans h2.core, fun k => (h2.cx k).trans (h1.cx k)⟩
  unfold State.shiftMates
  split
  · refine hall _ s fun m hm => ?_
    simpa using (List.mem_filter.1 hm).2
  · exact ⟨.refl _, fun _ => rfl⟩

theorem State.still_shiftMates (s : State) (m n : Nat) : s.Still (s.shiftMates m n) := (State.goesOn_shiftMates 0 s m n).still

/-- The core in view resumed: its contexts, its engines, and no `jdb` halt (R83). -/
theorem State.debugGo_view {s : State} (ht : s.trayRuns s.id = true) (hf : s.core.faulted = false) :
    s.Still (s.debugGo s.id) ∧ (s.debugGo s.id).id = s.id ∧ ((s.debugGo s.id).coreAt s.id).debugged = false ∧ ((s.debugGo s.id).coreAt s.id).frozen = false
      ∧ ∀ k, k < 11 → ((s.debugGo s.id).cxAt s.id k).st = (s.cxAt s.id k).resumed.st := by
  have hon := State.goesOn_debugGo s.id s s.id
  have hap := s.apart_shiftMates s.id (s.cy - (s.coreAt s.id).haltCy)
  have hgo : s.debugGo s.id = ((s.shiftMates s.id (s.cy - (s.coreAt s.id).haltCy)).modAll s.id fun _ x => x.resumed).modCore s.id
      fun c => { c with frozen := false, debugged := false, resumeAt := none } := by
    unfold State.debugGo
    rw [if_pos ht]
    refine if_neg ?_
    rw [hap.core, State.coreAt_here]
    exact fun h => Bool.false_ne_true (hf.symm.trans h)
  refine ⟨hon.still, hon.view, ?_, ?_, fun k hk => ?_⟩
  · rw [hgo, State.coreAt_modCore, if_pos rfl]
  · rw [hgo, State.coreAt_modCore, if_pos rfl]
  · rw [hgo, State.cxAt_modCore _ s.id s.id k (fun c => { c with frozen := false, debugged := false, resumeAt := none }) (fun _ => rfl) (fun _ => rfl),
      State.cxAt_modAll, if_pos ⟨rfl, hk⟩, hap.cx k]

/-- Slot 0 of transfer phases moved leaves cores and contexts. -/
theorem State.shiftDomains_fold (l : List (Nat × Nat × Nat × Nat)) (s : State) :
    ∃ ds, l.foldl (fun s d => s.shiftDomains d.1 d.2.1 d.2.2.1 d.2.2.2) s = { s with domains := ds } := by
  induction l generalizing s with
  | nil => exact ⟨s.domains, rfl⟩
  | cons d l ih =>
    obtain ⟨ds, h⟩ := ih (s.shiftDomains d.1 d.2.1 d.2.2.1 d.2.2.2)
    exact ⟨ds, h⟩

theorem debuggerResume {s : State} (hd : s.core.debugged = true) (ht : s.trayRuns s.id = true) (hf : s.core.faulted = false) :
    ∃ t, exec .debugResume s = .next t ∧ t.core.debugged = false ∧ t.core.frozen = false ∧ (∀ k, k < 11 → (t.cxAt s.id k).st = (s.cxAt s.id k).resumed.st) ∧ s.Holds t := by
  have hids : (s.sites.filter fun id => (s.coreAt id).debugged) = s.id :: (s.others.map (·.1)).filter fun id => (s.coreAt id).debugged :=
    List.filter_cons_of_pos (by rw [State.coreAt_here]; exact hd)
  have hstep : ∃ ds, exec .debugResume s = .next (((s.others.map (·.1)).filter fun id => (s.coreAt id).debugged).foldl State.debugGo
      (State.debugGo { s with domains := ds } s.id)) := by
    show ∃ ds, execDebugResume s = _
    unfold execDebugResume
    rw [hids]
    dsimp only
    rw [List.foldl_cons]
    generalize (List.eraseDups (α := Nat × Nat × Nat × Nat) _) = l
    obtain ⟨ds, h⟩ := State.shiftDomains_fold l s
    exact ⟨ds, by rw [h]⟩
  obtain ⟨ds, hstep⟩ := hstep
  obtain ⟨hs, hid, h1, h2, h3⟩ := State.debugGo_view (s := { s with domains := ds }) ht hf
  generalize State.debugGo { s with domains := ds } s.id = u at hstep hs hid h1 h2 h3
  have h0 : s.Still { s with domains := ds } := .of_cx_eq rfl rfl
  have hon := State.goesOn_foldl (State.goesOn_debugGo s.id) ((s.others.map (·.1)).filter fun id => (s.coreAt id).debugged) u
  refine ⟨_, hstep, ?_, ?_, fun k hk => ?_, (h0.trans (hs.trans hon.still)).holds⟩
  · rw [State.core_of_coreAt (hon.view.trans hid)]
    exact hon.debugged h1
  · rw [State.core_of_coreAt (hon.view.trans hid)]
    exact hon.frozen h2
  · have hk' := h3 k hk
    refine (hon.st k ?_).trans hk'
    rw [show (u.cxAt s.id k).st = _ from hk']
    exact Context.resumed_not_halted _

/-- The context a step lets issue. -/
def Context.stepped (n : Nat) (c : Context) : Context := { c.resumed with budget := some n }

theorem Context.stepped_calm (n : Nat) : Context.Calm (Context.stepped n) := by
  obtain ⟨h1, h2, h3, h4, h5⟩ := Context.resumed_calm
  exact ⟨h1, h2, h3, h4, h5⟩

theorem debuggerStep {s : State} {n : Nat} (hsel : s.hub.selected = (s.id, s.core.k)) (hd : s.core.debugged = true) (hn : n ≠ 0) (hst : s.cx.st = .halted)
    (ht : s.trayRuns s.id = true) :
    ∃ t, exec (.debugStep n) s = .next t ∧ t.cx.budget = some n ∧ t.cx.st = (s.cxAt s.id s.core.k).resumed.st ∧ t.core.frozen = false
      ∧ (∀ k, k < 11 → k ≠ s.core.k → (t.cxAt s.id k).st = (s.cxAt s.id k).st) ∧ s.Holds t := by
  let f (c : Core) : Core := { c with frozen := false, haltCy := s.cy }
  let u := s.shiftMates s.id (s.cy - (s.coreAt s.id).haltCy)
  let t := (u.modCx s.id s.core.k (Context.stepped n)).modCore s.id f
  have hap : State.Apart s.id s u := s.apart_shiftMates s.id _
  have huid : u.id = s.id := (State.goesOn_shiftMates 0 s s.id _).view
  have hcond : ¬ ((!(s.coreAt s.id).debugged) = true ∨ n = 0 ∨ (s.cxAt s.id s.core.k).st ≠ .halted ∨ (!s.trayRuns s.id) = true) := by
    rw [State.coreAt_here, hd, State.cxAt_view, hst, ht]
    simpa using hn
  have hstep : exec (.debugStep n) s = .next t := by
    show execDebugStep n s = _
    unfold execDebugStep
    rw [hsel]
    dsimp only
    rw [if_neg hcond]
    rfl
  have hcx (k : Nat) : t.cxAt s.id k = if s.id = s.id ∧ k = s.core.k then (s.cxAt s.id s.core.k).stepped n else s.cxAt s.id k := by
    show ((u.modCx s.id s.core.k (Context.stepped n)).modCore s.id f).cxAt s.id k = _
    rw [State.cxAt_modCore _ s.id s.id k f (fun _ => rfl) (fun _ => rfl), State.cxAt_modCx, hap.cx, hap.cx]
  have hcore : t.coreAt s.id = f { s.core with parked := ((u.modCx s.id s.core.k (Context.stepped n)).coreAt s.id).parked } := by
    have h := u.coreAt_modCx s.id s.core.k s.id (Context.stepped n)
    have hc : (s.coreAt s.id).SameBut (u.coreAt s.id) := hap.core
    show ((u.modCx s.id s.core.k (Context.stepped n)).modCore s.id f).coreAt s.id = _
    rw [State.coreAt_modCore, if_pos rfl, h, hc, State.coreAt_here]
  have htid : t.id = s.id := ((State.modCx_onlyCores ..).trans (State.modCore_onlyCores ..)).id_eq.trans huid
  have htc : t.core = t.coreAt s.id := State.core_of_coreAt htid
  have htk : t.core.k = s.core.k := by rw [htc, hcore]
  have htx : t.cx = (s.cxAt s.id s.core.k).stepped n := by rw [State.cx_of_cxAt htid htk, hcx, if_pos ⟨rfl, rfl⟩]
  refine ⟨t, hstep, by rw [htx]; rfl, by rw [htx]; rfl, by rw [htc, hcore], fun k _ hk => by rw [hcx, if_neg fun h => hk h.2], ?_⟩
  exact (((s.still_shiftMates s.id _).trans (State.still_modCx _ _ _ (Context.stepped_calm n))).trans (State.still_modCore ..)).holds

/-- The context in view keeps its registers and its PC when its core halts. -/
theorem State.debugged_view (s : State) : (s.debugged s.id).cx.g = s.cx.g ∧ (s.debugged s.id).cx.pc = s.cx.pc := by
  obtain ⟨eps, hfr⟩ := s.debugged_frame s.id
  obtain ⟨sg, pk, hcore⟩ := s.coreAt_debugged s.id
  have hid : (s.debugged s.id).id = s.id := hfr.id_eq
  have hk : (s.debugged s.id).core.k = s.core.k := by rw [State.core_of_coreAt hid, hcore, State.coreAt_here]
  rw [State.cx_of_cxAt hid hk]
  unfold State.debugged
  rw [State.cxAt_modCore _ s.id s.id s.core.k (fun c => { c with debugged := true }) (fun _ => rfl) (fun _ => rfl), State.cxAt_modAll, State.cxAt_haltCore]
  by_cases h : s.core.k < 11
  · rw [if_pos ⟨rfl, h⟩, if_pos ⟨rfl, h⟩, State.cxAt_view]
    exact ⟨State.haltOf_g .., State.haltOf_pc ..⟩
  · rw [if_neg fun k => h k.2, if_neg fun k => h k.2, State.cxAt_view]
    exact ⟨rfl, rfl⟩

theorem debuggerHalts : Claims.DebuggerHalts := by
  intro s n
  have hback (k : Nat) := (s.cxAt s.id k).resumed_st
  refine ⟨fun h => ?_, fun h hdom _ => ?_, fun hd ht hf => ?_, fun hsel hd hn hst ht => ?_⟩
  · exact if_pos (by rw [h]; rfl)
  · obtain ⟨l, hl⟩ := s.attach_eq (s.vifOf s.id)
    have hstep : exec (.debugHalt s.id) s = .next ((State.debugged { s with vifs := l } s.id).modHub fun h => { h with selected := (s.id, 0) }) := by
      refine (if_neg (by rw [h]; decide)).trans ?_
      rw [hl, State.debugHalt_alone (s := { s with vifs := l }) hdom]
    obtain ⟨eps, hfr⟩ := State.debugged_frame { s with vifs := l } s.id
    obtain ⟨sg, pk, hcore⟩ := State.coreAt_debugged { s with vifs := l } s.id
    have hc : (State.debugged { s with vifs := l } s.id).core = _ := (State.core_of_coreAt (show (State.debugged { s with vifs := l } s.id).id = s.id from hfr.id_eq)).trans hcore
    obtain ⟨hg, hpc⟩ := State.debugged_view { s with vifs := l }
    refine ⟨_, hstep, congrArg Core.debugged hc, congrArg Core.frozen hc, fun k hk hlive => ?_, rfl, ?_, hpc, fun a => congrArg (Memory.get · a) hfr.mem_eq⟩
    · show ((State.debugged { s with vifs := l } s.id).cxAt s.id k).st = _
      rw [State.cxAt_debugged _ s.id k hk]
      exact (State.haltOf_st _ s.id _).trans (if_pos hlive)
    · exact State.g_congr (s := (State.debugged { s with vifs := l } s.id).modHub _) (t := s) hg
  · obtain ⟨t, hstep, h1, h2, h3, h4⟩ := debuggerResume hd ht hf
    exact ⟨t, hstep, h1, h2, fun k hk => (h3 k hk).trans (hback k), h4⟩
  · obtain ⟨t, hstep, h1, h2, h3, h4, h5⟩ := debuggerStep hsel hd hn hst ht
    exact ⟨t, hstep, h1, h2.trans (hback s.core.k), h3, h4, h5⟩

/-! ## Held links (R83, R277, R335) -/

/-- Steps of the applied vectors change these and no more. -/
theorem State.broadcasts_eq (l : List Nat) (s : State) : ∃ v, l.foldl (fun t d => Result.state t (execAppliedVectorBroadcast d t)) s = { s with dieV := v } := by
  induction l generalizing s with
  | nil => exact ⟨s.dieV, rfl⟩
  | cons d l ih =>
    obtain ⟨v, h⟩ := ih (Result.state s (execAppliedVectorBroadcast d s))
    exact ⟨v, h⟩

theorem State.applyAll_none {s : State} {f : Msg → Bool} (h : s.flight.filter f = []) (n : Nat) : ∃ v, s.applyAll f n = { s with dieV := v } := by
  cases n with
  | zero => exact ⟨s.dieV, rfl⟩
  | succ n =>
    obtain ⟨v, hv⟩ := State.broadcasts_eq (List.range 16) s
    refine ⟨v, ?_⟩
    unfold State.applyAll
    rw [hv]
    dsimp only
    rw [h]
    exact if_pos rfl

/-- What is on its way, the hub and the held links stay. -/
structure State.Settles (s t : State) : Prop where
  flight : t.flight = s.flight
  hub : t.hub = s.hub
  holds : t.holds = s.holds

theorem State.Settles.refl (s : State) : s.Settles s := ⟨rfl, rfl, rfl⟩
theorem State.Settles.trans {s t u : State} (h : s.Settles t) (k : t.Settles u) : s.Settles u :=
  ⟨k.flight.trans h.flight, k.hub.trans h.hub, k.holds.trans h.holds⟩

theorem State.OnlyCores.settles {s t : State} (h : s.OnlyCores t) : s.Settles t := ⟨h.flight_eq, h.hub_eq, by rw [h]⟩

theorem State.settles_foldl {α : Type} {f : State → α → State} (h : ∀ (s : State) x, s.Settles (f s x)) (l : List α) (s : State) : s.Settles (l.foldl f s) := by
  induction l generalizing s with
  | nil => exact .refl s
  | cons x l ih => exact (h s x).trans (ih _)

theorem State.settles_placeWrite (s : State) (m : Msg) (w : Nat) : s.Settles (s.placeWrite m w) := by
  have h0 : s.Settles (s.bumpOrder w) := ⟨rfl, rfl, rfl⟩
  unfold State.placeWrite
  dsimp only
  split
  · exact h0
  · refine h0.trans (State.OnlyCores.settles ?_)
    refine State.OnlyCores.trans (State.OnlyCores.trans (State.OnlyCores.foldl (fun t p => ?_) m.parts _) (State.modAll_onlyCores ..)) (State.modCore_onlyCores ..)
    split
    · exact State.modCx_onlyCores ..
    · exact .refl _

theorem State.settles_answerTo (s : State) (m : Msg) (p : Part) (size key : Nat) (v : Nat) (ws ls : Stamp) : s.Settles (s.answerTo m p size key false v ws ls false) := by
  unfold State.answerTo
  split
  · split
    · exact (State.modCx_onlyCores ..).settles
    · exact .refl s
  · exact .refl s

/-- A store's bytes at its home, and the poison of the words it fills. -/
def State.storeBytes (s : State) (m : Msg) (key size val : Nat) : State :=
  { s with
    mem := Memory.putN s.mem key size val
    poison := s.poison.filter fun w => !((wordsOf key size).contains w && m.body.fills w) }

theorem State.storeAt_eq (s : State) (m : Msg) (key size val : Nat) :
    s.storeAt m key size val = ((wordsOf key size).foldl (fun t w => t.stampWord m false w) (s.storeBytes m key size val)).forget m := rfl

theorem State.settles_stampWord (s : State) (m : Msg) (w : Nat) : s.Settles (s.stampWord m false w) := by
  have h1 : s.Settles (s.setStamp w m.stamp m.stamp) := ⟨rfl, rfl, rfl⟩
  exact h1.trans (State.settles_placeWrite ..)

/-- A store written at its home, and its acknowledgement. -/
theorem State.settles_stored (s : State) (m : Msg) (key size val : Nat) :
    s.Settles ((s.storeAt m key size val).answerAll m size key false 0 [] [] false) := by
  have hput : s.Settles (s.storeBytes m key size val) := ⟨rfl, rfl, rfl⟩
  have hstore : s.Settles (s.storeAt m key size val) := by
    rw [State.storeAt_eq]
    exact (hput.trans (State.settles_foldl (fun t w => t.settles_stampWord m w) _ _)).trans (State.modAll_onlyCores ..).settles
  exact hstore.trans (State.settles_foldl (fun t p => t.settles_answerTo m p size key 0 [] []) m.parts _)

theorem State.stored_mem (s : State) (m : Msg) (key size val : Nat) :
    ((s.storeAt m key size val).answerAll m size key false 0 [] [] false).mem = Memory.putN s.mem key size val := by
  rw [(State.answerAll_same _ m _ _ _ _ _ _ _).mem, State.storeAt_mem]


/-- A write at the head of its route, in the apply queue that is released. -/
theorem State.released_head {s : State} {m : Msg} {p : Nat × Nat} (hq : m.inQueue p = true) (hp : s.holds.contains p = false) (hs : m.stamp = [])
    (hx : ∀ x ∈ s.spots, x.queue = m.applyQueue → x.item = m.id) : s.released m = true := by
  unfold Msg.inQueue at hq
  simp only [Bool.and_eq_true, beq_iff_eq] at hq
  obtain ⟨⟨hst, h1⟩, h2⟩ := hq
  have hp' : (pdieOf m.core, m.dest.pdie) = p := by rw [h1, h2]
  unfold State.released
  rw [hst]
  dsimp only
  rw [hp', hp, hs]
  cases hf : s.spots.find? fun x => x.queue == m.applyQueue with
  | none => rfl
  | some x =>
    have := hx x (List.mem_of_find?_eq_some hf) (by simpa using List.find?_some hf)
    simp [this]

/-- Held links and applied vectors bear neither on a write's place on its route nor on what its target refuses. -/
def State.informed (s : State) (h : List (Nat × Nat)) (v : List Clock) : State := { s with holds := h, dieV := v }

theorem State.atHead_informed (s : State) (h : List (Nat × Nat)) (v : List Clock) (m : Msg) : (s.informed h v).atHead m = s.atHead m := by
  have hsame : (s.informed h v).sameLender = s.sameLender := rfl
  have howes : (s.informed h v).owes = s.owes := rfl
  have hplaces : (s.informed h v).placesOf = s.placesOf := rfl
  have hcore : (s.informed h v).coreAt = s.coreAt := rfl
  have hpaid (l : Lender) : (s.informed h v).paidFor m l = s.paidFor m l := by
    unfold State.paidFor
    rw [hsame]
    rfl
  have hroom (l : Lender) : (s.informed h v).roomOf m.core l = s.roomOf m.core l := by
    unfold State.roomOf State.lentBy State.usedOf
    rw [hsame, howes, hplaces, hcore]
    rfl
  have hahead : (s.informed h v).aheadOf m m.dest = s.aheadOf m m.dest := rfl
  unfold State.atHead State.entersSlice State.admits
  simp only [hpaid, hroom, hahead]

theorem State.dropCode_informed (s : State) (h : List (Nat × Nat)) (v : List Clock) (m : Msg) (key size : Nat) :
    ((s.informed h v).dropMsg m.id).dropCode m key size = (s.dropMsg m.id).dropCode m key size := by
  have hcore (id : Nat) : ((s.informed h v).dropMsg m.id).coreAt id = (s.dropMsg m.id).coreAt id := rfl
  have hcx (id k : Nat) : ((s.informed h v).dropMsg m.id).cxAt id k = (s.dropMsg m.id).cxAt id k := rfl
  have hall (id : Nat) : ((s.informed h v).dropMsg m.id).ctxsAt id = (s.dropMsg m.id).ctxsAt id := rfl
  unfold State.dropCode
  simp only [hcore, hcx, hall]

/-- The state after a store is applied that its target does not refuse. -/
def State.storedBy (s : State) (m : Msg) (key size val : Nat) : State :=
  ((s.dropMsg m.id).storeAt m key size val).answerAll m size key false 0 [] [] false

theorem execApply_store {s : State} {m : Msg} {key size val : Nat} (hm : s.msg m.id = some m) (hh : s.atHead m = true) (hr : s.released m = true)
    (hb : m.body = .store key size val) (hd : (s.dropMsg m.id).dropCode m key size = none) : execApply m.id s = .next (s.storedBy m key size val) := by
  have he := execApply_eq hm hh hr
  rw [hb] at he
  refine he.trans ?_
  dsimp only
  rw [hd]
  rfl

/-- The queue's one write applied (R266, R335). -/
theorem State.applyAll_one {s : State} {m : Msg} {p : Nat × Nat} {key size val : Nat} (hf : s.flight = [m]) (hq : m.inQueue p = true) (hp : s.holds.contains p = false)
    (hh : s.atHead m = true) (hb : m.body = .store key size val) (hs : m.stamp = []) (hx : ∀ x ∈ s.spots, x.queue = m.applyQueue → x.item = m.id)
    (hd : (s.dropMsg m.id).dropCode m key size = none) :
    (s.applyAll (Msg.inQueue p) 1).flight = [] ∧ (s.applyAll (Msg.inQueue p) 1).hub = s.hub ∧ (s.applyAll (Msg.inQueue p) 1).holds = s.holds
      ∧ (s.applyAll (Msg.inQueue p) 1).mem = Memory.putN s.mem key size val := by
  obtain ⟨v, hv⟩ := State.broadcasts_eq (List.range 16) s
  have hv' : (List.range 16).foldl (fun t d => Result.state t (execAppliedVectorBroadcast d t)) s = s.informed s.holds v := hv
  have htf : (s.informed s.holds v).flight = [m] := hf
  have hth : (s.informed s.holds v).hub = s.hub ∧ (s.informed s.holds v).holds = s.holds ∧ (s.informed s.holds v).mem = s.mem := ⟨rfl, rfl, rfl⟩
  have hm : (s.informed s.holds v).msg m.id = some m := by
    unfold State.msg
    rw [htf]
    simp
  have happly := execApply_store hm ((s.atHead_informed s.holds v m).trans hh) (State.released_head (s := s.informed s.holds v) hq hp hs hx) hb ((s.dropCode_informed s.holds v m key size).trans hd)
  have hset := ((s.informed s.holds v).dropMsg m.id).settles_stored m key size val
  have hmem := ((s.informed s.holds v).dropMsg m.id).stored_mem m key size val
  have hflight : ((s.informed s.holds v).dropMsg m.id).flight = [] := by
    show (s.informed s.holds v).flight.filter _ = []
    rw [htf]
    simp
  change ((s.informed s.holds v).dropMsg m.id).Settles ((s.informed s.holds v).storedBy m key size val) at hset
  change ((s.informed s.holds v).storedBy m key size val).mem = _ at hmem
  generalize (s.informed s.holds v).storedBy m key size val = u at happly hset hmem
  have hall : s.applyAll (Msg.inQueue p) 1 = u := by
    unfold State.applyAll
    rw [hv']
    dsimp only
    rw [htf, List.filter_cons_of_pos hq, List.filter_nil, List.foldl_cons, List.foldl_nil, happly]
    have hl : u.flight.length ≠ s.flight.length := by
      rw [hset.flight, hflight, hf]
      exact Nat.zero_ne_one
    exact if_neg hl
  rw [hall]
  exact ⟨hset.flight.trans hflight, hset.hub, hset.holds, hmem⟩

theorem not_held (l : List (Nat × Nat)) (p : Nat × Nat) : p ∉ l.filter (· != p) := fun h => by simpa using (List.mem_filter.1 h).2

theorem State.still_report (s : State) (core code : Nat) (v : Word) : s.Still (s.report core code v) := s.still_modHub _

theorem debuggerLinks {s : State} {a b : Nat} {p : Nat × Nat} (hp : s.debugDies a b = some p) :
    (∃ t, exec (.holdLink a b) s = .next t ∧ p ∈ t.holds ∧ t.hub.reports = s.hub.reports ++ [(0, 0x103, BitVec.ofNat 64 (writeCount (s.flight.filter (Msg.inQueue p))))] ∧ s.Holds t)
    ∧ (s.flight.filter (Msg.inQueue p) = [] → ∃ t, exec (.releaseLink a b) s = .next t ∧ p ∉ t.holds ∧ t.flight = s.flight
        ∧ t.hub.reports = s.hub.reports ++ [(0, 0x104, 0)] ∧ s.Holds t)
    ∧ (∀ m key size val, s.flight = [m] → m.inQueue p = true → s.atHead m = true → m.body = .store key size val → m.stamp = [] → (∀ x ∈ s.spots, x.queue = m.applyQueue → x.item = m.id) →
        (s.dropMsg m.id).dropCode m key size = none →
        ∃ t, exec (.releaseLink a b) s = .next t ∧ p ∉ t.holds ∧ t.flight = [] ∧ Memory.getN t.mem key size = val % 256 ^ size
          ∧ (∀ k, k < key ∨ key + size ≤ k → Memory.get t.mem k = Memory.get s.mem k) ∧ t.hub.reports = s.hub.reports ++ [(0, 0x104, BitVec.ofNat 64 (max 1 m.ident.length))]) := by
  have hrelease : exec (.releaseLink a b) s = .next ((State.applyAll (s.informed (s.holds.filter (· != p)) s.dieV) (Msg.inQueue p) s.flight.length).report 0 0x104
      (word (writeCount (s.flight.filter (Msg.inQueue p))
        - writeCount ((State.applyAll (s.informed (s.holds.filter (· != p)) s.dieV) (Msg.inQueue p) s.flight.length).flight.filter (Msg.inQueue p))))) := by
    show execReleaseLink a b s = _
    unfold execReleaseLink
    rw [hp]
    rfl
  refine ⟨?_, fun hq => ?_, fun m key size val hf hq hh hb hs hx hd => ?_⟩
  · have h0 : s.Still { s with holds := if s.holds.contains p then s.holds else s.holds ++ [p] } := .of_cx_eq rfl rfl
    refine ⟨State.report { s with holds := if s.holds.contains p then s.holds else s.holds ++ [p] } 0 0x103 (word (writeCount (s.flight.filter (Msg.inQueue p)))), ?_, ?_, rfl,
      (h0.trans (State.still_report ..)).holds⟩
    · show execHoldLink a b s = _
      unfold execHoldLink
      rw [hp]
    · show p ∈ if s.holds.contains p then s.holds else s.holds ++ [p]
      split
      next h => simpa using h
      · simp
  · obtain ⟨v, hv⟩ := State.applyAll_none (s := s.informed (s.holds.filter (· != p)) s.dieV) hq s.flight.length
    rw [hv] at hrelease
    refine ⟨_, hrelease, not_held _ _, rfl, ?_, State.Still.holds ⟨rfl, rfl, rfl, rfl, rfl, fun _ => rfl⟩⟩
    show s.hub.reports ++ [(0, 0x104, word (writeCount (s.flight.filter (Msg.inQueue p)) - writeCount (s.flight.filter (Msg.inQueue p))))] = _
    rw [Nat.sub_self]
    rfl
  · have hlen : s.flight.length = 1 := by rw [hf]; rfl
    have hfree : (s.holds.filter (· != p)).contains p = false := by simp
    obtain ⟨hflight, hhub, hholds, hmem⟩ := State.applyAll_one (s := s.informed (s.holds.filter (· != p)) s.dieV) hf hq hfree
      ((s.atHead_informed _ _ m).trans hh) hb hs hx ((s.dropCode_informed _ _ m key size).trans hd)
    rw [hlen] at hrelease
    generalize State.applyAll (s.informed (s.holds.filter (· != p)) s.dieV) (Msg.inQueue p) 1 = u at *
    obtain ⟨hget, hrest⟩ := Memory.putN_spec s.mem key size val
    refine ⟨_, hrelease, ?_, hflight, ?_, fun k hk => ?_, ?_⟩
    · show p ∉ u.holds
      rw [hholds]
      exact not_held _ _
    · show Memory.getN u.mem key size = _
      rw [hmem]
      exact hget
    · show Memory.get u.mem k = _
      rw [hmem]
      exact hrest k hk
    · show u.hub.reports ++ [(0, 0x104, word (writeCount (s.flight.filter (Msg.inQueue p)) - writeCount (u.flight.filter (Msg.inQueue p))))] = _
      rw [show u.hub = s.hub from hhub, hflight, hf, List.filter_cons_of_pos hq]
      simp [writeCount]
      rfl

/-! ## Breakpoints (R83, R286) -/

/-- The same interfaces let `jdb` act, and no core loses a breakpoint. -/
structure State.Debugs (s t : State) : Prop where
  debuggable : ∀ id, t.debuggable id = s.debuggable id
  breakpoints : ∀ id loc, loc ∈ (s.coreAt id).breakpoints → loc ∈ (t.coreAt id).breakpoints
  still : s.Still t

theorem State.Debugs.refl (s : State) : s.Debugs s := ⟨fun _ => rfl, fun _ _ h => h, .refl s⟩
theorem State.Debugs.trans {s t u : State} (h : s.Debugs t) (k : t.Debugs u) : s.Debugs u :=
  ⟨fun id => (k.debuggable id).trans (h.debuggable id), fun id l m => k.breakpoints id l (h.breakpoints id l m), h.still.trans k.still⟩

theorem State.attach_debug (s : State) (v w : Nat) : ((s.attach v).vif w).debug = (s.vif w).debug := by
  unfold State.attach
  split
  · unfold State.vif
    rw [Table.find_set]
    split
    next h => subst h; rfl
    · rfl
  · rfl

/-- A breakpoint set at a core (R83). -/
def State.breakAt (loc : Nat) (s : State) (id : Nat) : State :=
  if s.debuggable id then
    (s.attach (s.vifOf id)).modCore id fun c => { c with breakpoints := if c.breakpoints.contains loc then c.breakpoints else c.breakpoints ++ [loc] }
  else s

theorem mem_addBreak (l : List Nat) (x : Nat) : x ∈ (if l.contains x then l else l ++ [x]) := by
  split
  next h => simpa using h
  · simp

theorem State.breakAt_debugs (loc : Nat) (s : State) (id : Nat) :
    s.Debugs (s.breakAt loc id) ∧ (s.debuggable id = true → loc ∈ ((s.breakAt loc id).coreAt id).breakpoints) := by
  unfold State.breakAt
  split
  next h =>
    obtain ⟨l, hl⟩ := s.attach_eq (s.vifOf id)
    have hdebug (w : Nat) := s.attach_debug (s.vifOf id) w
    rw [hl] at hdebug ⊢
    have hcore (x : Nat) : State.coreAt { s with vifs := l } x = s.coreAt x := rfl
    refine ⟨⟨fun x => ?_, fun x y hy => ?_, ?_⟩, fun _ => ?_⟩
    · unfold State.debuggable
      rw [State.coreAt_modCore]
      have htray : (if x = id then { State.coreAt { s with vifs := l } id with
          breakpoints := if (State.coreAt { s with vifs := l } id).breakpoints.contains loc then (State.coreAt { s with vifs := l } id).breakpoints
            else (State.coreAt { s with vifs := l } id).breakpoints ++ [loc] } else State.coreAt { s with vifs := l } x).tray = (s.coreAt x).tray := by
        split
        next e => rw [e]; rfl
        · rfl
      rw [htray]
      cases (s.coreAt x).tray with
      | none => rfl
      | some p =>
        refine Eq.trans ?_ (hdebug p.1)
        unfold State.vif
        dsimp only
        rw [(State.modCore_onlyCores ..).vifs_eq]
    · rw [State.coreAt_modCore]
      split
      next e =>
        subst e
        show y ∈ if (s.coreAt x).breakpoints.contains loc then (s.coreAt x).breakpoints else (s.coreAt x).breakpoints ++ [loc]
        split
        · exact hy
        · exact List.mem_append_left _ hy
      · exact hy
    · exact State.Still.trans (t := { s with vifs := l }) (.of_cx_eq rfl rfl) (State.still_modCore ..)
    · rw [State.coreAt_modCore, if_pos rfl]
      exact mem_addBreak _ loc
  next h => exact ⟨.refl s, fun k => absurd k h⟩

theorem debuggerSetsBreakpoints (s : State) (loc : Nat) (cores : List Nat) :
    s.Debugs (cores.foldl (State.breakAt loc) s)
      ∧ ∀ id ∈ cores, s.debuggable id = true → loc ∈ ((cores.foldl (State.breakAt loc) s).coreAt id).breakpoints := by
  induction cores generalizing s with
  | nil => exact ⟨.refl s, fun _ h => absurd h List.not_mem_nil⟩
  | cons c cores ih =>
    obtain ⟨h1, h2⟩ := s.breakAt_debugs loc c
    obtain ⟨h3, h4⟩ := ih (s.breakAt loc c)
    refine ⟨h1.trans h3, fun id hid hd => ?_⟩
    rcases List.mem_cons.1 hid with rfl | hid
    · exact h3.breakpoints id loc (h2 hd)
    · exact h4 id hid ((h1.debuggable id).trans hd)

theorem debuggerDeletesBreakpoint (loc : Nat) (l : List Nat) (s : State) :
    let t := l.foldl (fun (s : State) id => s.modCore id fun c => { c with breakpoints := c.breakpoints.filter (· != loc) }) s
    s.Still t ∧ (∀ id, loc ∉ (s.coreAt id).breakpoints → loc ∉ (t.coreAt id).breakpoints) ∧ ∀ id ∈ l, loc ∉ (t.coreAt id).breakpoints := by
  induction l generalizing s with
  | nil => exact ⟨.refl s, fun _ h => h, fun _ h => absurd h List.not_mem_nil⟩
  | cons x l ih =>
    let f (c : Core) : Core := { c with breakpoints := c.breakpoints.filter (· != loc) }
    obtain ⟨h1, h2, h3⟩ := ih (s.modCore x f)
    have hx : loc ∉ ((s.modCore x f).coreAt x).breakpoints := by
      rw [State.coreAt_modCore, if_pos rfl]
      exact fun h => by simpa using (List.mem_filter.1 h).2
    refine ⟨(s.still_modCore x f).trans h1, fun id hid => h2 id ?_, fun id hid => ?_⟩
    · rw [State.coreAt_modCore]
      split
      next e =>
        subst e
        exact fun h => hid ((List.mem_filter.1 h).1)
      · exact hid
    · rcases List.mem_cons.1 hid with rfl | hid
      · exact h2 _ hx
      · exact h3 id hid

/-! ## The start of an image (R80, R259, R277) -/

/-- An image's bytes and sections reach memory; of a core its XBOUND and the limits of its shadow stacks. -/
structure State.Loads (s t : State) : Prop where
  cx : ∀ id k, t.cxAt id k = s.cxAt id k
  core : ∀ id, ∃ x l, t.coreAt id = { s.coreAt id with xbound := x, limits := l }
  flight : t.flight = s.flight
  torus : t.torus = s.torus

theorem State.Loads.refl (s : State) : s.Loads s := ⟨fun _ _ => rfl, fun id => ⟨(s.coreAt id).xbound, (s.coreAt id).limits, rfl⟩, rfl, rfl⟩
theorem State.Loads.trans {s t u : State} (h : s.Loads t) (k : t.Loads u) : s.Loads u where
  cx id j := (k.cx id j).trans (h.cx id j)
  core id := by
    obtain ⟨x, l, hx⟩ := h.core id
    obtain ⟨y, m, hy⟩ := k.core id
    exact ⟨y, m, by rw [hy, hx]⟩
  flight := k.flight.trans h.flight
  torus := k.torus.trans h.torus

/-- Bytes that a loader writes, before their words' places in the order. -/
def State.bytesLoaded (s : State) (l : List (Nat × Byte)) : State :=
  { s with
    mem := l.foldl (fun (m : List Host.Cell) (p : Nat × Byte) => Memory.put m p.1 p.2) s.mem
    poison := s.poison.filter fun w => !((l.map fun p => p.1 / 8).eraseDups.contains w && decide (8 ≤ (l.filter fun p => p.1 / 8 == w).length))
    stamps := s.stamps.filter fun p => !((l.map fun p => p.1 / 8).eraseDups.contains p.1) }

theorem State.loadBytes_eq (s : State) (l : List (Nat × Byte)) : s.loadBytes l = (l.map fun p => p.1 / 8).eraseDups.foldl State.bumpOrder (s.bytesLoaded l) := rfl

theorem State.loads_loadBytes (s : State) (l : List (Nat × Byte)) : s.Loads (s.loadBytes l) ∧ ∀ id, (s.loadBytes l).coreAt id = s.coreAt id := by
  have h : ∀ (ws : List Nat) (u : State), u.Loads (ws.foldl State.bumpOrder u) ∧ ∀ id, (ws.foldl State.bumpOrder u).coreAt id = u.coreAt id := by
    intro ws
    induction ws with
    | nil => exact fun u => ⟨.refl u, fun _ => rfl⟩
    | cons w ws ih =>
      intro u
      obtain ⟨h1, h2⟩ := ih (u.bumpOrder w)
      have h0 : u.Loads (u.bumpOrder w) := ⟨fun _ _ => rfl, fun id => ⟨(u.coreAt id).xbound, (u.coreAt id).limits, rfl⟩, rfl, rfl⟩
      exact ⟨h0.trans h1, h2⟩
  obtain ⟨h1, h2⟩ := h (l.map fun p => p.1 / 8).eraseDups (s.bytesLoaded l)
  have h0 : s.Loads (s.bytesLoaded l) := ⟨fun _ _ => rfl, fun id => ⟨(s.coreAt id).xbound, (s.coreAt id).limits, rfl⟩, rfl, rfl⟩
  rw [State.loadBytes_eq]
  exact ⟨h0.trans h1, h2⟩

/-- The core as a loader leaves it. -/
def Core.loaded (img : Image) (c : Core) : Core := { c with xbound := img.xbound, limits := img.limits }

theorem State.loads_loadImage (img : Image) (s : State) (id : Nat) :
    s.Loads (s.loadImage img id) ∧ ∀ x, ((s.loadImage img id).coreAt x).xbound = if x = id then img.xbound else (s.coreAt x).xbound := by
  obtain ⟨h1, h2⟩ := s.loads_loadBytes (img.bytes.map fun p => (sramKey id (p.1 % 32768), p.2))
  have hload : s.loadImage img id = (s.loadBytes (img.bytes.map fun p => (sramKey id (p.1 % 32768), p.2))).modCore id (Core.loaded img) := rfl
  rw [hload]
  generalize s.loadBytes _ = u at *
  have honly := u.modCore_onlyCores id (Core.loaded img)
  refine ⟨h1.trans ⟨fun x k => State.cxAt_modCore _ _ _ _ _ (fun _ => rfl) (fun _ => rfl), fun x => ?_, honly.flight_eq, honly.torus_eq⟩, fun x => ?_⟩
  · rw [State.coreAt_modCore]
    split
    next e => subst e; exact ⟨img.xbound, img.limits, rfl⟩
    · exact ⟨(u.coreAt x).xbound, (u.coreAt x).limits, rfl⟩
  · rw [State.coreAt_modCore]
    split
    · rfl
    · rw [h2]

theorem State.loads_images (img : Image) (l : List Nat) (s : State) :
    s.Loads (l.foldl (fun t id => t.loadImage img id) s) ∧ (∀ x, (s.coreAt x).xbound = img.xbound → ((l.foldl (fun t id => t.loadImage img id) s).coreAt x).xbound = img.xbound)
      ∧ ∀ x ∈ l, ((l.foldl (fun t id => t.loadImage img id) s).coreAt x).xbound = img.xbound := by
  induction l generalizing s with
  | nil => exact ⟨.refl s, fun _ h => h, fun _ h => absurd h List.not_mem_nil⟩
  | cons id l ih =>
    obtain ⟨h1, h2⟩ := s.loads_loadImage img id
    obtain ⟨h3, h4, h5⟩ := ih (s.loadImage img id)
    refine ⟨h1.trans h3, fun x hx => h4 x ?_, fun x hx => ?_⟩
    · rw [h2, hx, ite_self]
    · rcases List.mem_cons.1 hx with rfl | hx
      · exact h4 _ (by rw [h2, if_pos rfl])
      · exact h5 x hx

section
variable {s t : State} {id : Nat}

theorem State.Loads.startable (h : s.Loads t) : t.startable id = s.startable id := by
  unfold State.startable State.ctxsAt
  rw [h.cx id 0, show t.cxAt id = s.cxAt id from funext (h.cx id)]

theorem State.Loads.enginesIdle (h : s.Loads t) : t.enginesIdle id = s.enginesIdle id := by
  obtain ⟨x, l, hc⟩ := h.core id
  unfold State.enginesIdle State.threadOpen
  rw [hc, h.flight, h.torus]

end

/-- A start of the core in view, its engines idle (R259). -/
theorem debuggerRuns {s : State} {p : Nat × Nat} (arg : Word) (hp : s.core.tray = some p) (hd : (s.vif p.1).debug = true) (hm : s.meetsNeed p.1 p.2 s.hub.image = true)
    (hs : s.startable s.id = true) (he : s.enginesIdle s.id = true) :
    ∃ t, exec (.jdbRun arg [s.id]) s = .next t ∧ (t.cxAt s.id 0).st = .ready ∧ (t.cxAt s.id 0).pc = s.hub.image.entry ∧ (t.cxAt s.id 0).g = (Vector.replicate 32 0).set 3 arg
      ∧ ∀ id ∈ s.coresOf p.1 p.2, (t.coreAt id).xbound = s.hub.image.xbound := by
  let img := s.hub.image
  let a := (s.attach p.1).modTray p.1 p.2 fun x => { x with program := img }
  let u := (s.coresOf p.1 p.2).foldl (fun t id => t.loadImage img id) a
  let v := u.loadSections img s.id
  have hsa : s.Loads a := by
    obtain ⟨l, hl⟩ := s.attach_eq p.1
    show s.Loads ((s.attach p.1).modTray _ _ _)
    rw [hl]
    exact ⟨fun _ _ => rfl, fun id => ⟨(s.coreAt id).xbound, (s.coreAt id).limits, rfl⟩, rfl, rfl⟩
  obtain ⟨hau, -, hxu⟩ := a.loads_images img (s.coresOf p.1 p.2)
  obtain ⟨huv, hcv⟩ := u.loads_loadBytes (img.sections.filterMap fun q => (u.sectionKey s.id q.1).map fun k => (k, q.2))
  have hload : s.Loads v := hsa.trans (hau.trans huv)
  have hrun : exec (.jdbRun arg [s.id]) s = .next (v.startCore s.id img.entry arg []) := by
    show execJdbRun arg [s.id] s = _
    unfold execJdbRun
    rw [show (s.coreAt ([s.id].headD 0)).tray = some p from (congrArg Core.tray s.coreAt_here).trans hp]
    dsimp only
    rw [if_neg (by
      rw [hd, hm]
      simpa using hp)]
    refine congrArg Host.Outcome.next ?_
    show v.debugStart p.1 s.id img.entry arg = _
    unfold State.debugStart State.hostStart
    rw [if_pos (hload.startable.trans hs), if_pos (hload.enginesIdle.trans he)]
  have hst := v.startCore_starts s.id img.entry arg []
  generalize v.startCore s.id img.entry arg [] = t at hrun hst
  refine ⟨t, hrun, ?_, ?_, ?_, fun id hid => ?_⟩
  · rw [hst.cx]; rfl
  · rw [hst.cx]; rfl
  · rw [hst.cx]; rfl
  · have hv : (v.coreAt id).xbound = img.xbound := (congrArg Core.xbound (hcv id)).trans (hxu id hid)
    refine Eq.trans ?_ hv
    by_cases h : id = s.id
    · subst h
      obtain ⟨c, hc, -, hd⟩ := hst.core
      rw [hd]
      show c.xbound = _
      rw [hc]
    · have ho : (v.coreAt id).Regranted (t.coreAt id) := hst.others id h
      rw [ho]

theorem debuggerTools : Claims.DebuggerTools := by
  intro s a b loc cores arg
  refine ⟨fun p hp => debuggerLinks hp, ?_, ?_, fun p hp hd hm hs he => debuggerRuns arg hp hd hm hs he, fun p hp hm => ?_⟩
  · obtain ⟨h1, h2⟩ := debuggerSetsBreakpoints s loc cores
    exact ⟨_, rfl, h2, h1.still.holds⟩
  · obtain ⟨h1, -, h3⟩ := debuggerDeletesBreakpoint loc s.sites s
    exact ⟨_, rfl, h3, h1.holds⟩
  · show execJdbRun arg [s.id] s = _
    unfold execJdbRun
    rw [show (s.coreAt ([s.id].headD 0)).tray = some p from (congrArg Core.tray s.coreAt_here).trans hp]
    exact if_pos (.inr (.inr (by rw [hm]; rfl)))

/-! ## Bring-up, brown-out, gating (R355, R356, R368, R370) -/

/-- The cells at keys that a predicate keeps. -/
theorem Memory.get_filterKeys (m : List Host.Cell) (p : Nat → Bool) (a : Nat) : Memory.get (m.filter fun c => p c.1) a = if p a then Memory.get m a else 0 := by
  induction m with
  | nil => simp [Memory.get]
  | cons c m ih =>
    obtain ⟨k, b⟩ := c
    by_cases hk : p k = true
    · rw [List.filter_cons_of_pos (p := fun c : Host.Cell => p c.1) hk, Memory.get, Memory.get, ih]
      by_cases ha : a = k
      · rw [if_pos ha, if_pos ha, ha, if_pos hk]
      · rw [if_neg ha, if_neg ha]
    · rw [List.filter_cons_of_neg (p := fun c : Host.Cell => p c.1) hk, Memory.get, ih]
      by_cases ha : a = k
      · rw [ha, if_neg hk, if_neg hk]
      · rw [if_neg ha]

/-- A die after bring-up: excluded when it or its stack is not authentic. -/
def bootDie (dies ids : List Bool) (d : Nat) : Die :=
  ⟨!(dies.getD d false && ids.getD d false), 700, 0, 0, if !(dies.getD d false) then 1 else if !(ids.getD d false) then 2 else 0, false⟩

/-- The module after bring-up. -/
def State.broughtUp (s : State) (ok : Bool) (dies ids : List Bool) (fused : List Nat) : State :=
  let r := State.reset
  { r with
    sched := s.sched
    cy := s.cy
    fresh := s.fresh
    seq := s.seq
    cycleBase := s.cycleBase
    mem := s.mem.filter fun c => decide (c.1 < 2 ^ 52)
    fused := fused
    disabled := s.disabled
    dies := (List.range 16).map (bootDie dies ids)
    hub := { r.hub with
      power := .run
      hostMem := s.hub.hostMem
      reports := if ok then s.hub.reports else s.hub.reports ++ [(0, 0x100, 0)]
      image := s.hub.image
      errlog := s.hub.errlog
      logLost := s.hub.logLost
      logCount := s.hub.logCount
      accepted := true
      booted := if ok then 1 else 2
      imageFailed := !ok || s.hub.imageFailed
      brownout := s.hub.brownout } }

theorem execBringUp_boots {s : State} {sg : Signed} (hb : s.hub.power = .boot) (ha : (sg.ecdsa && sg.lms) = true ∨ s.hub.accepted = true) (dies ids : List Bool) (fused : List Nat) :
    exec (.bringUp sg dies ids fused) s = .next (s.broughtUp (sg.ecdsa && sg.lms) dies ids fused) := by
  show execBringUp sg dies ids fused s = _
  unfold execBringUp
  dsimp only
  rw [if_neg (fun h => h hb), if_neg (by rcases ha with h | h <;> rw [h] <;> simp)]
  rfl

theorem State.broughtUp_excluded (s : State) (ok : Bool) (dies ids : List Bool) (fused : List Nat) {d : Nat} (hd : d < 16) :
    (s.broughtUp ok dies ids fused).excluded d = !(dies.getD d false && ids.getD d false) := by
  have hdies : (s.broughtUp ok dies ids fused).dies = (List.range 16).map (bootDie dies ids) := rfl
  unfold State.excluded
  rw [hdies, List.getElem?_map, List.getElem?_range hd]
  rfl

theorem State.broughtUp_mem (s : State) (ok : Bool) (dies ids : List Bool) (fused : List Nat) (a : Nat) :
    Memory.get (s.broughtUp ok dies ids fused).mem a = if a < 2 ^ 52 then Memory.get s.mem a else 0 := by
  refine (Memory.get_filterKeys s.mem (fun k => decide (k < 2 ^ 52)) a).trans ?_
  simp

theorem bringUp_spec {s : State} (hb : s.hub.power = .boot) (dies ids : List Bool) (fused : List Nat) :
    ∃ t, exec (.bringUp ⟨true, true⟩ dies ids fused) s = .next t ∧ t.hub.power = .run ∧ t.hub.booted = 1 ∧ (∀ r, t.g r = 0) ∧ t.core = State.reset.core ∧ t.others = [] ∧ t.tiles = []
      ∧ t.fused = fused ∧ (∀ a, a < 2 ^ 52 → Memory.get t.mem a = Memory.get s.mem a) ∧ (∀ a, 2 ^ 52 ≤ a → Memory.get t.mem a = 0)
      ∧ (∀ d, d < 16 → t.excluded d = !(dies.getD d false && ids.getD d false)) := by
  refine ⟨_, execBringUp_boots hb (.inl rfl) dies ids fused, rfl, rfl, fun r => ?_, rfl, rfl, rfl, rfl, fun a ha => ?_, fun a ha => ?_, fun d hd => s.broughtUp_excluded _ _ _ _ hd⟩
  · show State.reset.g r = 0
    simp [State.g, State.reset, Context.reset]
  · rw [State.broughtUp_mem, if_pos ha]
  · rw [State.broughtUp_mem, if_neg (by omega)]

/-! ## A context ended by firmware (R37, R354) -/

/-- What a context that ends may change: itself, results due to lanes of others, its core but for its node, and other cores. -/
structure State.EndsOf (s t : State) : Prop where
  id : t.id = s.id
  k : t.core.k = s.core.k
  mem : t.mem = s.mem
  node : t.core.node = s.core.node
  others : ∀ x j, ¬ (x = s.id ∧ j = s.core.k) → ∃ p, t.cxAt x j = { s.cxAt x j with pend := p }

theorem State.EndsOf.refl (s : State) : s.EndsOf s := ⟨rfl, rfl, rfl, rfl, fun x j _ => ⟨(s.cxAt x j).pend, rfl⟩⟩
theorem State.EndsOf.trans {s t u : State} (h : s.EndsOf t) (k : t.EndsOf u) : s.EndsOf u where
  id := k.id.trans h.id
  k := k.k.trans h.k
  mem := k.mem.trans h.mem
  node := k.node.trans h.node
  others x j hx := by
    obtain ⟨p, hp⟩ := h.others x j hx
    obtain ⟨q, hq⟩ := k.others x j (by rw [h.id, h.k]; exact hx)
    exact ⟨q, by rw [hq, hp]⟩

theorem State.cxAt_setCx_other (s : State) (c : Context) {x j : Nat} (h : ¬ (x = s.id ∧ j = s.core.k)) : (s.setCx c).cxAt x j = s.cxAt x j := by
  rw [← State.modCx_view s fun _ => c, State.cxAt_modCx, if_neg h]

theorem State.endsOf_setCx (s : State) (c : Context) : s.EndsOf (s.setCx c) :=
  ⟨rfl, rfl, rfl, rfl, fun x j h => ⟨(s.cxAt x j).pend, by rw [s.cxAt_setCx_other c h]⟩⟩

theorem State.endsOf_setCore (s : State) {c : Core} (hk : c.k = s.core.k) (hp : c.parked = s.core.parked) (hn : c.node = s.core.node) : s.EndsOf (s.setCore c) where
  id := rfl
  k := hk
  mem := rfl
  node := hn
  others x j _ := by
    refine ⟨(s.cxAt x j).pend, ?_⟩
    show State.cxAt { s with core := c } x j = s.cxAt x j
    unfold State.cxAt Core.ctx
    dsimp only
    rw [hk, hp]

/-- The context in view after what it gives back. -/
structure State.GivesBack (s t : State) : Prop where
  ends : s.EndsOf t
  cx : ∃ p, t.cx = { s.cx with pend := p, ta := Vector.replicate 16 0 }

theorem State.EndsOf.view {s t : State} (h : s.Regrants t) : s.EndsOf t ∧ ∃ p, t.cx = { s.cx with pend := p } := by
  have hid := h.cores.id_eq
  have hcore : t.core = t.coreAt s.id := State.core_of_coreAt hid
  have hr := h.core s.id
  have hk : t.core.k = s.core.k := by rw [hcore, hr, State.coreAt_here]
  refine ⟨⟨hid, hk, h.cores.mem_eq, by rw [hcore, hr, State.coreAt_here], fun x j _ => ⟨_, h.cx x j⟩⟩, ?_⟩
  have hv := h.cx s.id s.core.k
  rw [State.cxAt_view, ← State.cx_of_cxAt hid hk] at hv
  exact ⟨_, hv⟩

theorem State.unbind_givesBack (s : State) : s.GivesBack s.unbind := by
  have h1 : s.EndsOf s.unbench := s.endsOf_setCore rfl rfl rfl
  have h2 : s.unbench.EndsOf (s.unbench.setCore { (s.unbench.core.releaseSlots s.unbench.core.k) with liveAt := s.unbench.cy }) := State.endsOf_setCore _ rfl rfl rfl
  generalize hu : s.unbench.setCore { (s.unbench.core.releaseSlots s.unbench.core.k) with liveAt := s.unbench.cy } = u at h2
  have hucx : u.cx = s.cx := by rw [← hu]; rfl
  have h3 := u.endsOf_setCx { u.cx with ta := Vector.replicate 16 0 }
  have h4 : (u.setCx { u.cx with ta := Vector.replicate 16 0 }).EndsOf (u.setCx { u.cx with ta := Vector.replicate 16 0 }).returnCredits :=
    State.endsOf_setCore _ rfl rfl rfl
  have hs : s.unbind = (u.setCx { u.cx with ta := Vector.replicate 16 0 }).returnCredits := by rw [← hu]; rfl
  rw [hs]
  refine ⟨h1.trans (h2.trans (h3.trans h4)), s.cx.pend, ?_⟩
  show ({ u.cx with ta := _ } : Context) = _
  rw [hucx]

theorem State.giveBack_givesBack (s : State) : s.GivesBack s.giveBack := by
  rw [State.giveBack_eq]
  split
  · obtain ⟨h1, p, hp⟩ := State.EndsOf.view (s.dropLanes_spec s.id).1
    obtain ⟨h2, q, hq⟩ := (s.dropLanes s.id).unbind_givesBack
    exact ⟨h1.trans h2, q, by rw [hq, hp]⟩
  · exact s.unbind_givesBack

/-- The end of a helper (R36). -/
theorem State.endHelper_spec (s : State) (v : Word) :
    s.EndsOf (s.endHelper v) ∧ (s.endHelper v).cx.st = .exited ∧ (s.endHelper v).cx.exitValue = v ∧ (s.endHelper v).cx.g = s.cx.g ∧ (s.endHelper v).cx.pc = s.cx.pc
      ∧ (s.endHelper v).cx.status = s.cx.status ∧ (s.endHelper v).cx.fflags = s.cx.fflags := by
  obtain ⟨h, p, hp⟩ := s.giveBack_givesBack
  refine ⟨h.trans (State.endsOf_setCx ..), rfl, rfl, ?_, ?_, ?_, ?_⟩
  · show s.giveBack.cx.g = _
    rw [hp]
  · show s.giveBack.cx.pc = _
    rw [hp]
  · show s.giveBack.cx.status = _
    rw [hp]
  · show s.giveBack.cx.fflags = _
    rw [hp]

/-- Firmware's report, and the record of a site whose checker repeated, change the hub and the sites that trays may take. -/
def State.said (s : State) (h : Hub) (l : List Nat) : State := { s with hub := h, disabled := l }

theorem State.said_report {t u : State} (hu : ∃ h, u = { t with hub := h }) (core code ctx v : Nat) (r : Nat × Nat × Word) :
    ∃ h l, (.next (if code = 0x0D then
        { (u.modHub fun h => { h with reports := h.reports ++ [r] }).logErr 4 0 0x0D 0 (sitePlace core) 0 v ctx 0 with
          disabled := if (u.modHub fun h => { h with reports := h.reports ++ [r] }).disabled.contains core then (u.modHub fun h => { h with reports := h.reports ++ [r] }).disabled
            else (u.modHub fun h => { h with reports := h.reports ++ [r] }).disabled ++ [core] }
      else u.modHub fun h => { h with reports := h.reports ++ [r] }) : Result) = .next (t.said h l) := by
  obtain ⟨h, rfl⟩ := hu
  split
  · obtain ⟨l, m, n, hlog⟩ := (State.modHub { t with hub := h } fun h => { h with reports := h.reports ++ [r] }).logErr_eq 4 0 0x0D 0 (sitePlace core) 0 v ctx 0
    rw [hlog]
    exact ⟨_, _, rfl⟩
  · exact ⟨_, t.disabled, rfl⟩

theorem execContextEnd_ends {s t : State} {k : Nat} (hl : (s.cxAt s.id k).st.live = true) (hs : (s.cxAt s.id k).super = true)
    (hf : s.core.faulted = true ∨ (s.cxAt s.id k).reflects = false)
    (ht : (s.within s.id k fun s => if k = 0 then s.endControl else (s.setCx s.cx.abandon).endHelper (BitVec.allOnes 64)) = t) :
    ∃ h l, exec (.contextEndByFirmware s.id k) s = .next (t.said h l) := by
  have hlive : ¬ ((!(s.cxAt s.id k).st.live) = true ∨ (!((s.cxAt s.id k).super || (s.coreAt s.id).faulted)) = true) := by
    rw [hl, hs]
    simp
  have hrefl : ¬ (!(s.coreAt s.id).faulted && (s.cxAt s.id k).reflects) = true := by
    rw [State.coreAt_here]
    rcases hf with h | h <;> rw [h] <;> simp
  show ∃ h l, execContextEndByFirmware s.id k s = _
  unfold execContextEndByFirmware
  dsimp only
  rw [if_neg hlive, if_neg hrefl, ht]
  by_cases hk : k = 0
  · rw [if_pos hk]
    exact State.said_report (u := t) ⟨t.hub, rfl⟩ s.id (bits (s.cxAt s.id k).cause 7 0) ..
  · rw [if_neg hk]
    cases (t.coreAt s.id).tray with
    | none => exact State.said_report (u := t) ⟨t.hub, rfl⟩ s.id (bits (s.cxAt s.id k).cause 7 0) ..
    | some p => exact State.said_report (t := t) (u := t.failLaunch p.1 p.2) ⟨_, rfl⟩ s.id (bits (s.cxAt s.id k).cause 7 0) ..

/-- A helper that firmware ends (R37). -/
theorem firmwareEndsHelper {s : State} (hl : s.cx.st.live = true) (hs : s.cx.super = true) (hf : s.core.faulted = true ∨ s.cx.reflects = false) (hk : s.core.k ≠ 0) :
    ∃ t, exec (.contextEndByFirmware s.id s.core.k) s = .next t ∧ t.cx.st = .exited ∧ t.cx.exitValue = BitVec.allOnes 64 ∧ s.Holds t := by
  obtain ⟨hends, hst, hval, hg, hpc, hstat, hfl⟩ := (s.setCx s.cx.abandon).endHelper_spec (BitVec.allOnes 64)
  have hwithin : (s.within s.id s.core.k fun u => if s.core.k = 0 then u.endControl else (u.setCx u.cx.abandon).endHelper (BitVec.allOnes 64))
      = (s.setCx s.cx.abandon).endHelper (BitVec.allOnes 64) := State.within_eq (if_neg hk) hends.id hends.k
  obtain ⟨h, l, hstep⟩ := execContextEnd_ends (by rwa [State.cxAt_view]) (by rwa [State.cxAt_view]) (by rwa [State.cxAt_view]) hwithin
  exact ⟨_, hstep, hst, hval, State.g_congr (t := s) hg, hpc, hstat, hfl, fun a => congrArg (Memory.get · a) hends.mem⟩

/-- What the control context in view keeps while firmware ends what belongs to it. -/
structure State.Lasts (s t : State) : Prop where
  id : t.id = s.id
  k : t.core.k = s.core.k
  mem : t.mem = s.mem
  node : t.core.node = s.core.node
  regs : t.cx.g = s.cx.g

theorem State.Lasts.refl (s : State) : s.Lasts s := ⟨rfl, rfl, rfl, rfl, rfl⟩
theorem State.Lasts.trans {s t u : State} (h : s.Lasts t) (k : t.Lasts u) : s.Lasts u :=
  ⟨k.id.trans h.id, k.k.trans h.k, k.mem.trans h.mem, k.node.trans h.node, k.regs.trans h.regs⟩

theorem State.lasts_modCore (s : State) (x : Nat) {f : Core → Core} (hk : ∀ c : Core, (f c).k = c.k) (hn : ∀ c : Core, (f c).node = c.node) : s.Lasts (s.modCore x f) := by
  have hid := (s.modCore_onlyCores x f).id_eq
  have hmem := (s.modCore_onlyCores x f).mem_eq
  unfold State.modCore at *
  split
  next h => exact ⟨rfl, hk _, rfl, hn _, rfl⟩
  · exact ⟨rfl, rfl, rfl, rfl, rfl⟩

theorem State.core_toCtx_node (s : State) (k : Nat) : (s.toCtx k).core.node = s.core.node := by
  unfold State.toCtx
  split <;> rfl

/-- Another context of the core in view ends. -/
theorem State.lasts_within {s : State} {k : Nat} {f : State → State} (hk : k ≠ s.core.k) (hf : (s.toCtx k).EndsOf (f (s.toCtx k))) : s.Lasts (s.within s.id k f) := by
  have hid : (f (s.toCtx k)).id = s.id := hf.id.trans (State.toCtx_same s k).place
  have hkk : (f (s.toCtx k)).core.k = k := hf.k.trans (s.toCtx_k k)
  obtain ⟨p, hp⟩ := hf.others s.id s.core.k (fun h => hk ((s.toCtx_k k).symm.trans h.2.symm))
  rw [State.cxAt_toCtx, State.cxAt_view] at hp
  rw [State.within_here hid hkk]
  refine ⟨((State.toCtx_same _ _).place).trans hid, State.toCtx_k _ _, ?_, ?_, ?_⟩
  · rw [(State.toCtx_same _ _).mem, hf.mem, (State.toCtx_same _ _).mem]
  · rw [State.core_toCtx_node, hf.node, State.core_toCtx_node]
  · rw [State.toCtx_cx, hid, hp]

/-- A helper of the core in view ended by firmware (R37). -/
def State.stopHelper (s : State) (k : Nat) : State :=
  if (s.cxAt s.id k).st = .free then s
  else ((s.keepClock s.id).within s.id k fun s => if s.cx.st = .exited then s else s.endHelper (BitVec.allOnes 64)).modCx s.id k fun _ => Context.reset k

theorem State.lasts_stopHelper (s : State) {k : Nat} (hk : k ≠ s.core.k) : s.Lasts (s.stopHelper k) := by
  unfold State.stopHelper
  split
  · exact .refl s
  · have h0 : s.Lasts (s.keepClock s.id) := ⟨rfl, rfl, rfl, rfl, rfl⟩
    have h1 : (s.keepClock s.id).Lasts ((s.keepClock s.id).within s.id k fun s => if s.cx.st = .exited then s else s.endHelper (BitVec.allOnes 64)) := by
      refine State.lasts_within (s := s.keepClock s.id) hk ?_
      split
      · exact .refl _
      · exact (State.endHelper_spec _ _).1
    generalize (s.keepClock s.id).within s.id k _ = u at h1
    refine (h0.trans h1).trans ?_
    have hne : ¬ (u.id = s.id ∧ u.core.k = k) := fun h => hk (h.2.symm.trans h1.k)
    have honly := u.modCx_onlyCores s.id k fun _ => Context.reset k
    refine ⟨honly.id_eq, ?_, honly.mem_eq, ?_, ?_⟩
    · rw [State.core_modCx]
    · rw [State.core_modCx]
    · rw [State.cx_modCx, if_neg hne]

theorem State.lasts_foldl {α : Type} {f : State → α → State} (l : List α) (s : State) (h : ∀ (u : State) x, x ∈ l → s.Lasts u → u.Lasts (f u x)) : s.Lasts (l.foldl f s) := by
  have hgo : ∀ (l : List α) (u : State), (∀ (u : State) x, x ∈ l → s.Lasts u → u.Lasts (f u x)) → s.Lasts u → s.Lasts (l.foldl f u) := by
    intro l
    induction l with
    | nil => exact fun u _ hu => hu
    | cons x l ih => exact fun u hl hu => ih _ (fun v y hy => hl v y (List.mem_cons_of_mem _ hy)) (hu.trans (hl u x (List.mem_cons_self ..) hu))
  exact hgo l s h (.refl s)

theorem State.lasts_dropSignal (s : State) (core ctx which : Nat) : s.Lasts (s.dropSignal core ctx which) :=
  State.lasts_foldl _ s fun u x _ _ => u.lasts_modCore x (fun _ => rfl) fun _ => rfl

theorem State.lasts_removeArrival (s : State) (n which core ctx : Nat) : s.Lasts (s.removeArrival n which core ctx) :=
  have h (l : List Episode) : s.Lasts { s with episodes := l } := ⟨rfl, rfl, rfl, rfl, rfl⟩
  (h _).trans (State.lasts_dropSignal _ core ctx which)

/-- Arrivals of a control context withdrawn (R37). -/
theorem State.lasts_leaveBarriers (s : State) : s.Lasts s.leaveBarriers := by
  unfold State.leaveBarriers
  dsimp only
  have h : s.Lasts ((List.range 4).foldl (fun s which =>
      match s.episodes.findIdx? fun e => e.k == which && !e.committed && e.arrived.any fun a => a.1 == s.id && a.2.1 == s.core.k with
      | some n => s.removeArrival n which s.id s.core.k
      | none => s.dropSignal s.id s.core.k which) s) := by
    refine State.lasts_foldl _ s fun u x _ _ => ?_
    split
    · exact State.lasts_removeArrival ..
    · exact State.lasts_dropSignal ..
  exact h.trans ⟨rfl, rfl, rfl, rfl, rfl⟩

/-- The control context in view stopped, once all that belongs to it has ended. -/
def State.controlStopped (s : State) : State :=
  let t := s.setCx { s.cx.abandon with st := .stopped }
  t.setCore { t.core with faulted := false, frozen := false }

theorem State.stopControl_eq (s : State) : s.stopControl = ((List.range 11).tail.foldl State.stopHelper s).dropNode.leaveBarriers.giveBack.controlStopped := by
  unfold State.stopControl State.stopHelper State.controlStopped
  rfl

/-- The control context in view ended from outside, with no node (R37). -/
theorem State.stopControl_spec {s : State} (hk : s.core.k = 0) (hn : s.core.node = none) :
    s.Lasts s.stopControl ∧ s.stopControl.cx.st = .stopped ∧ s.stopControl.core.faulted = false := by
  have h1 : s.Lasts ((List.range 11).tail.foldl State.stopHelper s) := by
    refine State.lasts_foldl _ s fun u x hx hu => u.lasts_stopHelper ?_
    rw [hu.k, hk]
    have hpos : ∀ y ∈ (List.range 11).tail, y ≠ 0 := by decide
    exact hpos x hx
  rw [State.stopControl_eq]
  generalize (List.range 11).tail.foldl State.stopHelper s = u at h1
  have hdrop : u.dropNode = u := by
    unfold State.dropNode
    rw [h1.node, hn]
  rw [hdrop]
  have h2 := h1.trans u.lasts_leaveBarriers
  generalize u.leaveBarriers = v at h2
  obtain ⟨hends, p, hp⟩ := v.giveBack_givesBack
  have h3 : v.Lasts v.giveBack := ⟨hends.id, hends.k, hends.mem, hends.node, by rw [hp]⟩
  generalize v.giveBack = w at h3
  exact ⟨(h2.trans h3).trans ⟨rfl, rfl, rfl, rfl, rfl⟩, rfl, rfl⟩

theorem firmwareEndsControl {s : State} (hl : s.cx.st.live = true) (hs : s.cx.super = true) (hf : s.core.faulted = true ∨ s.cx.reflects = false) (hk : s.core.k = 0)
    (hn : s.core.node = none) :
    ∃ t, exec (.contextEndByFirmware s.id 0) s = .next t ∧ t.cx.st = .stopped ∧ t.core.faulted = false ∧ (∀ r, t.g r = s.g r) ∧ ∀ a, Memory.get t.mem a = Memory.get s.mem a := by
  obtain ⟨hlast, hst, hfault⟩ := State.stopControl_spec hk hn
  have hend : ∃ h, s.endControl = { s.stopControl with hub := h } := by
    unfold State.endControl
    generalize s.stopControl = t
    dsimp only
    split
    · exact ⟨_, rfl⟩
    · exact ⟨t.hub, rfl⟩
  obtain ⟨h, hend⟩ := hend
  generalize s.stopControl = w at hlast hst hfault hend
  have hcx : s.cxAt s.id 0 = s.cx := by
    have hv := s.cxAt_view
    rwa [hk] at hv
  have hwithin : s.within s.id 0 (fun u => if (0 : Nat) = 0 then u.endControl else (u.setCx u.cx.abandon).endHelper (BitVec.allOnes 64)) = { w with hub := h } := by
    refine State.within_control hk ?_ hlast.id hlast.k
    rw [if_pos rfl, hend]
  obtain ⟨h', l, hstep⟩ := execContextEnd_ends (s := s) (k := 0) (by rw [hcx]; exact hl) (by rw [hcx]; exact hs) (by rw [hcx]; exact hf) hwithin
  exact ⟨_, hstep, hst, hfault, State.g_congr (t := s) hlast.regs, fun a => congrArg (Memory.get · a) hlast.mem⟩

/-- A trap that the supervisor handler reflects (R354). -/
theorem firmwareReflects {s : State} (hl : s.cx.st.live = true) (hf : s.core.faulted = false) (hr : s.cx.reflects = true) :
    ∃ t, exec (.contextEndByFirmware s.id s.core.k) s = .next t ∧ t.cx.pc = BitVec.ofNat 15 (bits s.cx.trapvec 14 2 * 4) ∧ t.cx.super = false ∧ t.cx.inTrap = true ∧ t.cx.st = .ready
      ∧ (∀ r, t.g r = s.g r) ∧ ∀ a, Memory.get t.mem a = Memory.get s.mem a := by
  have hsuper : s.cx.super = true := by
    unfold Context.reflects at hr
    simp only [Bool.and_eq_true] at hr
    obtain ⟨⟨⟨⟨⟨⟨h, -⟩, -⟩, -⟩, -⟩, -⟩, -⟩ := hr
    exact h
  have hstep : exec (.contextEndByFirmware s.id s.core.k) s = .next (s.setCx s.cx.reflect) := by
    show execContextEndByFirmware s.id s.core.k s = _
    unfold execContextEndByFirmware
    dsimp only
    rw [State.cxAt_view, State.coreAt_here, if_neg (by rw [hl, hsuper]; simp), if_pos (by rw [hf, hr]; rfl), State.modCx_view]
  refine ⟨_, hstep, rfl, ?_, ?_, rfl, fun _ => rfl, fun _ => rfl⟩
  · show bit (setBit (setBit (setBit s.cx.status 0 false) 1 false) 2 true) 0 = false
    simp [bit, setBit]
  · show bit (setBit (setBit (setBit s.cx.status 0 false) 1 false) 2 true) 2 = true
    simp [bit, setBit]

theorem bringUpAndPower : Claims.BringUpAndPower := by
  intro s dies ids fused core ecdsa lms on
  refine ⟨fun hb => ⟨bringUp_spec hb dies ids fused, fun hk ha => ?_, fun hk ha => ?_⟩, fun hb => if_pos hb, ⟨_, rfl, rfl, rfl, rfl, rfl, rfl, rfl⟩,
    firmwareEndsHelper, firmwareReflects, firmwareEndsControl, fun hs hf => ?_, fun hs he hb ho => ?_, _, rfl, rfl, (s.still_modHub _).holds⟩
  · have hstep : exec (.bringUp ⟨ecdsa, lms⟩ dies ids fused) s = .next (s.modHub fun h => { h with reports := s.hub.reports ++ [(0, 0x100, 0)], imageFailed := true }) := by
      show execBringUp ⟨ecdsa, lms⟩ dies ids fused s = _
      unfold execBringUp
      dsimp only
      rw [if_neg (fun h => h hb), hk, if_pos (by rw [ha]; rfl)]
      rfl
    exact ⟨_, hstep, hb, rfl, rfl, (s.still_modHub _).holds⟩
  · refine ⟨_, execBringUp_boots (sg := ⟨ecdsa, lms⟩) hb (.inr ha) dies ids fused, ?_⟩
    show (s.broughtUp (ecdsa && lms) dies ids fused).hub.power = _ ∧ _
    rw [hk]
    exact ⟨rfl, rfl, rfl, rfl⟩
  · show execContextEndByFirmware s.id s.core.k s = _
    unfold execContextEndByFirmware
    dsimp only
    rw [State.cxAt_view, State.coreAt_here]
    exact if_pos (.inr (by rw [hs, hf]; rfl))
  · let f (c : Core) : Core := { c with gated := on, tlb := if on then [] else c.tlb }
    have hcond : ¬ ((!((s.ctxsAt core).all fun c => c.st == .stopped || c.st == .free)) = true ∨ (!s.enginesIdle core) = true
        ∨ (!(s.coreAt core).sbuf.isEmpty) = true ∨ s.oldAccess core = true) := by
      rw [hs, he, hb, ho]
      simp
    refine ⟨s.modCore core f, if_neg hcond, ?_, fun h => ?_, (s.still_modCore core f).holds⟩
    · rw [State.coreAt_modCore, if_pos rfl]
    · rw [State.coreAt_modCore, if_pos rfl]
      exact if_pos h

/-- Settles O55: a resume by what each of its steps leaves at a core resumed before, a release by the one write it applies, the end of a context by what its core and others keep. -/
theorem debuggerAndBringUp : Obligations.DebuggerAndBringUp := ⟨debuggerHalts, debuggerTools, bringUpAndPower⟩

end Sys2Proof.Machine
end

section
/-!
PROOFS. Refutation of O57. Its statement keeps the site in view below 102,400 from every canonical state. A RESUME that exchanges the dies of two
virtual dies first sets each apart, under a die number that no physical die has, and takes the view along; what brings the view back is the
second move, of the sites the interface then has on that number. In a state whose tray has a rectangle on a virtual die that its interface does not bind,
that second move finds no site, and the view stays on a site the module does not have.
-/
namespace Sys2Proof.Machine
open Sys2Proof

/-- A saved tray of one site, on virtual die 2. -/
def strayTray : Tray := { Tray.empty with st := .saved false, rects := [none, none, some ⟨0, 0, 1, 1⟩] }

/-- RESUME of tray 0 stands in the mailbox, to exchange the dies of virtual dies 0 and 1, the only ones the interface binds. -/
def exchangeAsked : State :=
  { State.reset with
    sched := [⟨0, .event .resume⟩]
    vifs := [(0, { Vif.empty with dies := [(0, 0), (1, 0)], trays := [strayTray] })]
    hub := { State.reset.hub with mailbox := { State.reset.hub.mailbox with op := 4, vif := 0, go := true, args := [(0x40, 1), (0x50, 1)] } } }

/-- The site in view after a step. -/
def viewAfter (r : Result) : Option Nat :=
  match r with
  | .next t => some t.id
  | _ => none

theorem exchangeAsked_canonical : exchangeAsked.canonical := ⟨rfl, rfl, rfl⟩

/-- The view goes to site 0, moves with it to die 17, and stays there. -/
theorem exchangeAsked_view : viewAfter (step exchangeAsked) = some (17 * 6400) := by decide +kernel

/-- Refutes O57: from `exchangeAsked` the view comes to site 108,800, beyond the 102,400 of the module. -/
theorem not_stepsKeepTheFormOfTheState : ¬ Obligations.StepsKeepTheFormOfTheState := by
  intro h
  cases ht : step exchangeAsked with
  | next t =>
    have hid : some t.id = some (17 * 6400) := by
      rw [← exchangeAsked_view, ht]
      rfl
    obtain ⟨-, hlt⟩ := h exchangeAsked t exchangeAsked_canonical (by decide) ht
    rw [Option.some.inj hid] at hlt
    exact absurd hlt (by decide)
  | fault f => exact absurd (exchangeAsked_view.symm.trans (congrArg viewAfter ht)) (by simp [viewAfter])
  | refused r => exact absurd (exchangeAsked_view.symm.trans (congrArg viewAfter ht)) (by simp [viewAfter])

end Sys2Proof.Machine
end
